-- ==== Sys2Proof/Word.lean ====
section
/-! DEFINITION. The word types of the part and the names its commands use for slices, lanes, blocks and requesters. -/

namespace Sys2Proof

/-- A register (spec 00, "Registers and fields"). -/
abbrev Word := BitVec 32
/-- A Twill register, a record word, a program table word (R251, R285). -/
abbrev Dword := BitVec 64
abbrev Byte := BitVec 8
abbrev Bytes := List Byte

/-- S0 to S7 (R6). -/
abbrev SliceId := Fin 8
/-- L0 to L15; a port or group is named by its first lane (R9, R137). -/
abbrev Lane := Fin 16
/-- Ingress or egress pipeline (R138). -/
abbrev Pipe := Fin 2
/-- Time base 0 to 3 (R367). -/
abbrev BaseId := Fin 4
/-- Tracker 0 or 1 of a base (R370). -/
abbrev TrkId := Fin 2
/-- Logical CPU C0 to C3 (R409). -/
abbrev Cpu := Fin 4
/-- Muslin buffer 0 or 1 (R114). -/
abbrev Buf := Fin 2
/-- Block index 0 to 21 (R488). -/
abbrev Block := Fin 22
/-- Damask thread: 4 × engine + t, engines 0 to 67 (R282). -/
abbrev Thread := Fin 272

/-- The twin of slice n is slice n XOR 1 (R10). -/
def twin (n : SliceId) : SliceId :=
  if n.val % 2 = 0 then ⟨(n.val + 1) % 8, by omega⟩ else ⟨(n.val - 1) % 8, by omega⟩

/-- The requesters of 64-bit accesses and of staging (R108, R115). -/
inductive Requester where
  | cpu (c : Cpu)
  | hra
  deriving DecidableEq, Repr

/-- The privilege mode a core access carries (R411). -/
inductive Priv where
  | m | s | u
  deriving DecidableEq, Repr

end Sys2Proof
end

