-- ==== Sys2Proof/Syntax.lean ====
section
/-! DEFINITION. The commands of the part: one constructor per row of the opcode table, with the row's operands.
An operand is what the step takes from outside the model: what a lane, a land, a requester or a device delivers, or
what a check of stored bits finds (parity, ECC, a sensor). -/

namespace Sys2Proof

/-- Fields of one Twill instruction word below the opcode (R289). -/
structure TwFields where
  pe : Bool
  pn : BitVec 3
  ps : Bool
  d : BitVec 5
  a : BitVec 5
  b : BitVec 5
  mod : BitVec 4
  imm : Word
  deriving DecidableEq, Repr

/-- Who uses the hub window: slice software or a host session of slice `sl`, or a hub session (R490). -/
inductive HubUser where
  | slice (sl : SliceId)
  | hub
  deriving DecidableEq, Repr

/-- Who issued a muslin command: a register write, or the operation of an HRA session (R89, R118). -/
inductive MusBy where
  | reg
  | session (ses : Nat)
  deriving DecidableEq, Repr

/-- Causes that wake a slice, as SLC_PWR.LAST_WAKE encodes them. -/
inductive WakeCause where
  | laneTraffic | feltAlarm | hostCommand | signalDetect | feltLoss | coreRequest | scheduled
  deriving DecidableEq, Repr

/-- Test port instructions (R54). -/
inductive TapInstr where
  | bypass | idcode | samplePreload | extest | clamp | highz
  | debug
  deriving DecidableEq, Repr

/-- CSRs of a logical CPU that the spec names (R409, R414), and the two that permit reads of the counters. -/
inductive CoreCsr where
  | cycle | time | instret
  | hpmcounter (n : Fin 29)      -- hpmcounter3 to hpmcounter31
  | mcounteren | scounteren | mhartid
  deriving DecidableEq, Repr

/-- What a register access names: an address, or a CSR of the CPU. -/
inductive RegPlace where
  | mem (addr : Word)
  | csr (r : CoreCsr)
  deriving DecidableEq, Repr

/-- The unit that holds a mismatching copy of an RW register (R104). -/
inductive ParityUnit where
  | block
  | engine (e : Fin 68)
  | bank (b : Fin 33)
  | ingress (p : Pipe)
  | egress (p : Pipe)
  deriving DecidableEq, Repr

/-- A mismatch found by a parity check: the register (offset from 0x4000_0000), the unit whose copy it is, and whether
the committed image has an uncorrectable error (R103, R104). -/
structure ParityHit where
  addr : BitVec 28
  unit : ParityUnit
  imageBad : Bool
  deriving DecidableEq, Repr

/-- A 66-bit block (R154): whether its sync header is 0b10, and its 64-bit contents. -/
structure Line where
  ctl : Bool
  w : Dword
  deriving DecidableEq, Repr

/-- What a member lane delivers at a frame's overhead (R155 to R161): whether the FAP stands at the position, the four
overhead blocks, and the payload blocks received since the overhead before, as transmitted. -/
structure Overhead where
  fap : Bool
  oh0 : Dword
  oh1 : Dword
  oh2 : Dword
  oh3 : Dword
  payload : List Line
  deriving DecidableEq, Repr

/-- Table names of FWD that age and lock (R235, R440). -/
inductive FwdTable where
  | l2 | endpoint
  deriving DecidableEq, Repr

/-- What an attempt of network boot brings (R73): nothing, or the data blocks of the TFTP transfer. -/
inductive NetBoot where
  | noAnswer
  | file (blocks : List Bytes)
  deriving DecidableEq, Repr

/-- What an SRAM patrol finds (R442, R470). -/
inductive SramFinding where
  | corrected (blk : Block) (word : Word)
  | uncorrectable (blk : Block) (word : Word)
  deriving DecidableEq, Repr

/-- Reason a twin link goes down: LAST_DOWN of TWN_LINK. -/
inductive DownCause where
  | localDisable | peerDisable | lanes | resends | helloMismatch | peerSleep | localSleep
  deriving DecidableEq, Repr

/-- The commands. Each constructor is one row of the opcode table; the rule after the name governs it. -/
inductive Instr where
  -- supply, clocks and the felt domain
  | powerUp (mv : BitVec 16)              -- R40
  | supplyWarning (mv : BitVec 16)        -- R38
  | supplyWarningEnd (mv : BitVec 16)     -- R39
  | supplyFailure (mv : BitVec 16)        -- R41
  | packageReset (mv : BitVec 16)         -- R38
  | overvoltage (mv : BitVec 16)          -- R38
  | overvoltageRestart (mv : BitVec 16)   -- R38
  | hubStart                              -- R68
  | hubWatchdogExpiry                     -- R61
  | hubRestart (ses : Nat)                -- R16
  | hubStatusRefresh                      -- R13
  | feltClockLoss                         -- R15
  | feltWakeAlarm (sl : SliceId)          -- R97
  -- slice start and boot
  | sliceStart (sl : SliceId) (spared : List Word)     -- R70
  | dramTrainingDone (sl : SliceId) (pass : Word)   -- R391
  | imageChecked (sl : SliceId)                     -- R66
  | networkBoot (sl : SliceId) (r : NetBoot)        -- R73
  | bootConfirm (sl : SliceId)                      -- R71
  | confirmTimeout (sl : SliceId)                   -- R71
  | sliceSelfReset (sl : SliceId) (key : Word)      -- R61
  | reqNap (sl : SliceId)                           -- R44
  | reqOff (sl : SliceId)                           -- R44
  | napEntryDone (sl : SliceId)                     -- R45
  | dozeEntry (sl : SliceId)                        -- R44
  | dozeWake (sl : SliceId) (c : WakeCause)         -- R44
  | napWake (sl : SliceId) (c : WakeCause)          -- R44
  | wakeDone (sl : SliceId)                         -- R56
  | thermalRead (sl : SliceId) (t0 t1 t2 t3 h0 h1 : BitVec 16)  -- R55
  | pllUnlock (sl : SliceId) (dom : Fin 12)         -- R48
  | mgtMediumSwitch (present : Bool)                -- R36
  | f10mLoss                                        -- R50
  | ppsEdge                                         -- R375
  | tapReset (low sel : Bool)                       -- R61
  | tapInstruction (irs : List TapInstr) (cells : List Bool)    -- R54
  -- charters, the management port and HRA
  | claim (frame : Bytes)                           -- R78
  | charterApply (ses : Nat)                        -- R79
  | ownerZeroingDone (sl : SliceId)                 -- R79
  | mgtFrameReceive (frame : Bytes)                 -- R80
  | mgtFrameTransmit (sl : SliceId) (frame : Bytes) -- R81
  | hraOpen (frame : Bytes)                         -- R84
  | hraClose (frame : Bytes)                        -- R88
  | request (frame : Bytes)                         -- R94
  | sessionTimeout (ses : Nat)                      -- R86
  | eventAck (frame : Bytes)                        -- R95
  | eventResend (ses : Nat) (seq : Word)            -- R95
  | hraRead32 (ses : Nat)                           -- R89
  | hraWrite32 (ses : Nat)                          -- R89
  | hraRead64 (ses : Nat)                           -- R111
  | hraWrite64 (ses : Nat)                          -- R111
  | hraWait (ses : Nat)                             -- R89
  | waitTimeout (ses : Nat)                         -- R90
  | muslinStage (ses : Nat)                         -- R114
  | dmaKick (ses : Nat)                             -- R430
  | hraWake (ses : Nat)                             -- R93
  | hraRestart (ses : Nat)                          -- R61
  | nvmDataWrite (u : HubUser) (w : Word)           -- R491
  | nvmProgram (u : HubUser)                        -- R491
  | nvmRead (u : HubUser)                           -- R491
  | nvmCommandDone (u : HubUser)                    -- R42
  | timeOutputSelect (u : HubUser) (v : Word)       -- R376
  -- registers and block states
  | registerWrite (sl : SliceId) (req : Requester) (mode : Priv) (p : RegPlace) (v : Word)  -- R101, R414
  | ctlWrite (sl : SliceId) (blk : Block) (v : Word)     -- R99
  | blockDrained (sl : SliceId) (blk : Block)            -- R99
  | parityScan (sl : SliceId) (hit : Option ParityHit)   -- R103
  | reloadDone (sl : SliceId) (blk : Block)              -- R103
  | slowWriteLand (sl : SliceId) (blk : Block)           -- R105
  | lowWordRead (sl : SliceId) (req : Requester) (mode : Priv) (addr : Word) (wide : Bool) -- R109, R111
  | highWordWrite (sl : SliceId) (req : Requester) (mode : Priv) (addr : Word) (v : Word)  -- R110
  | lowWordWrite (sl : SliceId) (req : Requester) (mode : Priv) (addr : Word) (v : Word) (hi : Option Word)   -- R110, R111
  -- muslins
  | muslinStageWord (sl : SliceId) (req : Requester) (buf : Buf) (w : Word)  -- R115
  | muslinClear (sl : SliceId) (buf : Buf) (by' : MusBy)   -- R118
  | muslinCheck (sl : SliceId) (buf : Buf) (by' : MusBy)   -- R119
  | checkDone (sl : SliceId) (buf : Buf)                   -- R497
  | muslinArm (sl : SliceId) (buf : Buf) (by' : MusBy)     -- R123
  | muslinCancel (sl : SliceId) (buf : Buf) (by' : MusBy)  -- R118
  | preloadDone (sl : SliceId) (blk : Block)               -- R125
  | readinessPoll (sl : SliceId)                           -- R126
  | readinessAnswer (sl : SliceId) (blk : Block)           -- R126
  | twinReady (sl : SliceId)                               -- R133
  | twinReadyAck (sl : SliceId)                            -- R134
  | commitInstant (sl : SliceId)                           -- R127
  | heldCtlApply (sl : SliceId)                            -- R126
  | oldEpochDrained (sl : SliceId)                         -- R128
  -- ingress and classification
  | frameReceive (sl : SliceId) (lane : Lane) (frame : Bytes) (fcsOk : Bool)  -- R143
  | treeNodeReadDone (sl : SliceId) (pkt : Nat) (err : Bool)   -- R209
  | camSearchSlot (sl : SliceId) (pipe : Pipe)             -- R215
  | recircPass (sl : SliceId) (pipe : Pipe)                -- R197
  -- flow engine and forwarding
  | flowLookup (sl : SliceId) (pipe : Pipe)                -- R257
  | flowFetchReadDone (sl : SliceId) (trk : Nat) (err : Bool)  -- R258
  | kickReadDone (sl : SliceId) (trk : Nat)                -- R263
  | bucketWriteAck (sl : SliceId) (bucket : Nat)           -- R264
  | victimWritebackDone (sl : SliceId) (rec' : Nat)        -- R255
  | resolve (sl : SliceId) (trk : Nat) (err : Bool)        -- R219
  | provTokenRefill (sl : SliceId)                         -- R222
  -- Damask engines
  | dispatch (sl : SliceId) (pipe : Pipe)                  -- R283
  | rerunDispatch (sl : SliceId)                           -- R305
  | twNop (sl : SliceId) (th : Thread) (f : TwFields)      -- R294
  | twAdd (sl : SliceId) (th : Thread) (f : TwFields)
  | twSub (sl : SliceId) (th : Thread) (f : TwFields)
  | twAnd (sl : SliceId) (th : Thread) (f : TwFields)
  | twOr (sl : SliceId) (th : Thread) (f : TwFields)
  | twXor (sl : SliceId) (th : Thread) (f : TwFields)
  | twShl (sl : SliceId) (th : Thread) (f : TwFields)
  | twShr (sl : SliceId) (th : Thread) (f : TwFields)
  | twSar (sl : SliceId) (th : Thread) (f : TwFields)
  | twMul (sl : SliceId) (th : Thread) (f : TwFields)
  | twMinu (sl : SliceId) (th : Thread) (f : TwFields)
  | twMaxu (sl : SliceId) (th : Thread) (f : TwFields)
  | twMovi (sl : SliceId) (th : Thread) (f : TwFields)
  | twMovhi (sl : SliceId) (th : Thread) (f : TwFields)
  | twBext (sl : SliceId) (th : Thread) (f : TwFields)
  | twBins (sl : SliceId) (th : Thread) (f : TwFields)
  | twCmp (sl : SliceId) (th : Thread) (f : TwFields)      -- R288
  | twCmpi (sl : SliceId) (th : Thread) (f : TwFields)
  | twPop (sl : SliceId) (th : Thread) (f : TwFields)
  | twMrd (sl : SliceId) (th : Thread) (f : TwFields)
  | twTime (sl : SliceId) (th : Thread) (f : TwFields)     -- R295
  | twHld (sl : SliceId) (th : Thread) (f : TwFields)      -- R286
  | twHst (sl : SliceId) (th : Thread) (f : TwFields)
  | twCsum (sl : SliceId) (th : Thread) (f : TwFields)     -- R296
  | twTld (sl : SliceId) (th : Thread) (f : TwFields)      -- R297
  | twTst (sl : SliceId) (th : Thread) (f : TwFields)
  | twTadd (sl : SliceId) (th : Thread) (f : TwFields)
  | twWsel (sl : SliceId) (th : Thread) (f : TwFields)     -- R298
  | twPol (sl : SliceId) (th : Thread) (f : TwFields)      -- R299
  | twEmit (sl : SliceId) (th : Thread) (f : TwFields)     -- R302
  | twCrc (sl : SliceId) (th : Thread) (f : TwFields)      -- R294
  | twChash (sl : SliceId) (th : Thread) (f : TwFields)
  | fctlDset (sl : SliceId) (th : Thread) (f : TwFields)   -- R300
  | fctlDclr (sl : SliceId) (th : Thread) (f : TwFields)
  | fctlState (sl : SliceId) (th : Thread) (f : TwFields)
  | fctlTsel (sl : SliceId) (th : Thread) (f : TwFields)
  | fctlSync (sl : SliceId) (th : Thread) (f : TwFields)
  | twFwd (sl : SliceId) (th : Thread) (f : TwFields)      -- R301
  | twDrop (sl : SliceId) (th : Thread) (f : TwFields)
  | twPunt (sl : SliceId) (th : Thread) (f : TwFields)
  | twMirror (sl : SliceId) (th : Thread) (f : TwFields)
  | twRecirc (sl : SliceId) (th : Thread) (f : TwFields)
  | twBr (sl : SliceId) (th : Thread) (f : TwFields)       -- R306
  | twEnd (sl : SliceId) (th : Thread) (f : TwFields)      -- R303
  | commit (sl : SliceId) (th : Thread)                    -- R303
  | cellRequest (sl : SliceId) (slots : BitVec 4)          -- R328, R331: the slots that ask in one clock
  -- state sync, shadow, remote fetch
  | syncAck (sl : SliceId)                                 -- R275
  | syncTimeout (sl : SliceId) (pkt : Nat)                 -- R275
  | logEntrySend (sl : SliceId)                            -- R273
  | logEntryApply (sl : SliceId) (err : Bool)              -- R276
  | promotionComplete (sl : SliceId)                       -- R278
  | remoteFetchRequest (sl : SliceId)                      -- R280
  | remoteFetchReply (sl : SliceId)                        -- R280
  | remoteFetchTimeout (sl : SliceId) (trk : Nat)          -- R280
  | flowSweepVisit (sl : SliceId) (rec' : BitVec 24)       -- R267
  | flowRemove (sl : SliceId) (trk : Nat)                  -- R268
  | lookup (sl : SliceId) (v : Word)                       -- R281
  | delete (sl : SliceId) (v : Word)                       -- R281
  | softCommandDone (sl : SliceId)                         -- R281
  | telemetryWriteAck (sl : SliceId) (ring : Fin 16)       -- R465
  -- learning and ageing
  | noticeFilterExpiry (sl : SliceId)                      -- R231
  | lfifoPop (sl : SliceId)                                -- R232
  | lockTimeout (sl : SliceId) (t : FwdTable) (bucket : Nat)    -- R234
  | ageingVisit (sl : SliceId) (t : FwdTable) (entry : Nat)     -- R235
  | bump (sl : SliceId) (v : Word)                         -- R241
  | routeEpochBump (sl : SliceId)                          -- R241
  | handleWrite (sl : SliceId) (v : Word)                  -- R224
  | camSearch (sl : SliceId) (v : Word)                    -- R214
  | camSearchNext (sl : SliceId) (v : Word)                -- R214
  | camSearchDone (sl : SliceId)                           -- R214
  -- ports and the twin link
  | portLinkUp (sl : SliceId) (lane : Lane) (fec : BitVec 2) (offered eee : Bool)   -- R139
  | portLinkDown (sl : SliceId) (lane : Lane)              -- R347
  | lpiEnter (sl : SliceId) (lane : Lane)                  -- R142
  | lpiExit (sl : SliceId) (lane : Lane)                   -- R142
  | twinLinkTrainingDone (sl : SliceId)                    -- R151
  | hello (sl : SliceId)                                   -- R151
  | helloRetry (sl : SliceId)                              -- R151
  | transferAck (sl : SliceId) (seq : Nat)                 -- R149
  | transferResend (sl : SliceId) (seq : Nat)              -- R149
  | twinLaneLock (sl : SliceId) (k : Fin 4) (locked : Bool)    -- R150
  | twinLinkDown (sl : SliceId) (c : DownCause)            -- R12
  | peerDownNotice (sl : SliceId)                          -- R152
  | heartbeatSend (sl : SliceId)                           -- R153
  | heartbeatReceive (sl : SliceId)                        -- R153
  | heartbeatInterval (sl : SliceId)                       -- R153
  | hubFaultReport (sl : SliceId)                          -- R471
  | declared (sl : SliceId)                                -- R479
  | shadowClearDone (sl : SliceId)                         -- R483
  | cleared (sl : SliceId)                                 -- R483
  | resyncWalk (sl : SliceId)                              -- R483
  | endOfResync (sl : SliceId)                             -- R483
  | release (sl : SliceId) (v : Word)                      -- R485
  -- Serge
  | sergeBlockLock (sl : SliceId) (lane : Lane) (gained : Bool)  -- R163
  | lossOfSignal (sl : SliceId) (lane : Lane)              -- R163
  | fapSighting (sl : SliceId) (lane : Lane) (pos : BitVec 14) (crcOk : Bool)  -- R163
  | overheadReceive (sl : SliceId) (lane : Lane) (pos : BitVec 14) (oh : Overhead)  -- R163
  | frameBoundary (sl : SliceId) (grp : Lane)              -- R177
  | multiframeBoundary (sl : SliceId) (grp : Lane)         -- R174
  | targetWrite (sl : SliceId) (grp : Lane) (v : Word)     -- R173
  | sergeCounterLatch (sl : SliceId)                       -- R172
  | protSfReceive (sl : SliceId)                           -- R184
  | select (sl : SliceId) (grp : Lane) (v : Word)          -- R185
  | messageSend (sl : SliceId) (v : Word)                  -- R186
  | messageReceive (sl : SliceId) (lane : Lane)            -- R186
  | messageRead (sl : SliceId)                             -- R186
  -- buffers and egress
  | spillPageWriteDone (sl : SliceId)                      -- R334
  | pageReadDone (sl : SliceId)                            -- R335
  | auditPass (sl : SliceId)                               -- R342
  | cutThroughBad (sl : SliceId) (frm : Nat)               -- R337
  | transmitStart (sl : SliceId) (lane : Lane)             -- R348
  | shaperRefill (sl : SliceId)                            -- R351
  | aqWrite (sl : SliceId) (v : Word)                      -- R354
  | aqRead (sl : SliceId) (v : Word)                       -- R353
  | policerWrite (sl : SliceId) (v : Word)                 -- R358
  | policerRead (sl : SliceId) (v : Word)                  -- R358
  | gateListWrite (sl : SliceId) (v : Word)                -- R362
  | gateListRead (sl : SliceId)                            -- R362
  | config (sl : SliceId) (lane : Lane)                    -- R363
  | gateCancel (sl : SliceId) (lane : Lane)                -- R364
  | gateConfigChange (sl : SliceId) (lane : Lane)          -- R363
  | gateEntryAdvance (sl : SliceId) (lane : Lane)          -- R362
  -- time
  | capture (sl : SliceId) (b : BaseId)                    -- R369
  | step (sl : SliceId) (b : BaseId)                       -- R372
  | set (sl : SliceId) (b : BaseId) (k : TrkId)            -- R371
  | phaseWrite (sl : SliceId) (b : BaseId) (k : TrkId) (v : Word)   -- R371
  | fadjWrite (sl : SliceId) (b : BaseId) (k : TrkId) (v : Word)    -- R371
  | aselSwitch (sl : SliceId) (b : BaseId) (v : Word)      -- R371
  | residualZero (sl : SliceId) (b : BaseId)               -- R370
  | trackerHoldover (sl : SliceId) (b : BaseId) (k : TrkId)     -- R373
  | twinTimeMessage (sl : SliceId) (b : BaseId) (k : TrkId)     -- R374
  | f10mMeasure                                            -- R375
  | feltRatioMeasure (sl : SliceId)                        -- R377
  | sceneArm (sl : SliceId) (v : Word)                     -- R385
  | sceneCancel (sl : SliceId) (v : Word)                  -- R385
  | sceneRead (sl : SliceId) (v : Word)                    -- R384
  | sceneFetch (sl : SliceId) (n : BitVec 12)              -- R386
  | sceneFramePlace (sl : SliceId) (n : BitVec 12)         -- R386
  | puntDeliver (sl : SliceId) (ring : Fin 8)              -- R381
  | ringConfigWrite (sl : SliceId) (addr : BitVec 28) (v : Word)    -- R389
  | txRingKick (sl : SliceId) (t : Fin 2) (v : Word)       -- R382
  | txDescriptor (sl : SliceId) (t : Fin 2)                -- R382
  -- DRAM
  | refreshDue (sl : SliceId) (pc : Fin 32) (rank : Fin 3) (waiting : Option (BitVec 3))  -- R398
  | retrain (sl : SliceId) (pc : Fin 32)                   -- R402
  | retrainAttemptDone (sl : SliceId) (pc : Fin 32) (ok : Bool)     -- R403
  | rebuildBlock (sl : SliceId)                            -- R406
  | rebuildDone (sl : SliceId)                             -- R408
  | holdExpiry (sl : SliceId) (l : Fin 30)                 -- R407
  | uncorrectableRead (sl : SliceId) (addr : BitVec 40) (port : BitVec 3)  -- R401
  | scrubPass (sl : SliceId) (corrected : List (BitVec 40))         -- R401
  | rankPowerDown (sl : SliceId) (pc : Fin 32) (rank : Fin 3)       -- R400
  -- cores
  | lockstepMismatch (sl : SliceId) (c : Cpu)              -- R415
  | lostCpuAffClear (sl : SliceId)                         -- R425
  | msipWrite (sl : SliceId) (c : Cpu) (v : Word)          -- R413
  | interruptRaise (sl : SliceId) (src : BitVec 9)         -- R416
  | hwSignalIssue (sl : SliceId) (src : BitVec 9)          -- R418
  | interruptClaim (sl : SliceId) (req : Requester) (c : Cpu) (sup : Bool)            -- R417
  | interruptComplete (sl : SliceId) (req : Requester) (c : Cpu) (sup : Bool) (v : Word)  -- R417
  | mtimeCompare (sl : SliceId) (c : Cpu)                  -- R419
  | nextReady (sl : SliceId) (c : Cpu)                     -- R422
  | nextDelay (sl : SliceId) (c : Cpu)                     -- R422
  | nextWait (sl : SliceId) (c : Cpu)                      -- R426
  | nextStop (sl : SliceId) (c : Cpu)                      -- R422
  | taskWake (sl : SliceId) (c : Cpu) (mode : Priv)        -- R422
  | signal (sl : SliceId) (c : Cpu)                        -- R426
  | setPrio (sl : SliceId) (c : Cpu) (mode : Priv)         -- R422
  | taskWrite (sl : SliceId) (c : Cpu) (mode : Priv)       -- R421
  | taskRead (sl : SliceId) (c : Cpu)                      -- R422
  | taskTick (sl : SliceId)                                -- R427
  -- DMA
  | dmaTailWrite (sl : SliceId) (ch : Fin 16) (v : Word)   -- R430
  | descNop (sl : SliceId) (ch : Fin 16)                   -- R432
  | copy (sl : SliceId) (ch : Fin 16)                      -- R434
  | copyComplete (sl : SliceId) (ch : Fin 16)              -- R437
  | dmaReadError (sl : SliceId) (ch : Fin 16) (lastBeat : Bool)     -- R438
  | fence (sl : SliceId) (ch : Fin 16)                     -- R439
  | fenceComplete (sl : SliceId) (ch : Fin 16)             -- R439
  | lock (sl : SliceId) (ch : Fin 16)                      -- R440
  | unlock (sl : SliceId) (ch : Fin 16)                    -- R440
  | pause (sl : SliceId) (ch : Fin 16)                     -- R441
  | dmaPaused (sl : SliceId) (ch : Fin 16)                 -- R441
  | resume (sl : SliceId) (ch : Fin 16)                    -- R441
  | abort (sl : SliceId) (ch : Fin 16)                     -- R441
  | dmaClear (sl : SliceId) (ch : Fin 16)                  -- R441
  -- sequencers
  | trap (sl : SliceId) (q : Fin 4) (cause : BitVec 4) (upc : BitVec 13)  -- R449
  | sequencerHold (sl : SliceId) (q : Fin 4) (v : Word)    -- R446
  | romRead (sl : SliceId) (v : Word)                      -- R448
  | traceRead (sl : SliceId)                               -- R451
  -- counters and telemetry
  | counterWrap (sl : SliceId) (n : Fin 64)                -- R452
  | windowClose (sl : SliceId) (n : Fin 64) (k : BitVec 20)     -- R456
  | snap (sl : SliceId)                                    -- R459
  | freezeResume (sl : SliceId)                            -- R460
  | telemetryTailWrite (sl : SliceId) (ring : Fin 16) (v : Word)    -- R465
  | telemetryTimeout (sl : SliceId) (ring : Fin 16)        -- R466
  -- faults
  | engineFault (sl : SliceId) (e : Fin 68)                -- R473
  | camBankFault (sl : SliceId) (bank : Fin 33)            -- R474
  | camSpareLoaded (sl : SliceId)                          -- R474
  | hotSetWayFault (sl : SliceId) (set' : BitVec 14) (way : Fin 16)  -- R475
  | cellFault (sl : SliceId) (cell : Nat)                  -- R476
  | pipelineFault (sl : SliceId) (egress : Bool) (pipe : Pipe)      -- R477
  | blockRecovery (sl : SliceId) (v : Word)                -- R478
  | recoveryDone (sl : SliceId) (ok : Bool)                -- R478
  | registerRead (sl : SliceId) (req : Requester) (mode : Priv) (p : RegPlace) (hit : Option (ParityUnit × Bool))  -- R103, R414
  | onDieWindowWrite (sl : SliceId) (c : Cpu) (off : Word) (data : Bytes)      -- R412
  | dozeEntryDone (sl : SliceId)                           -- R45
  | f10mInRestored                                         -- R375
  | transmitEnd (sl : SliceId) (lane : Lane)               -- R332
  | sramPatrolPass (sl : SliceId) (found : List SramFinding)        -- R442
  deriving DecidableEq, Repr

end Sys2Proof
end

