-- ==== Sys2Proof/Config.lean ====
section
/-! DEFINITION. What an implementation fixes and the values the spec leaves open. The opaque constants have no body: no
proof can see what they are. -/

namespace Sys2Proof.Config

/-- A fresh open 32-bit value, applied to a slice number (8 for the hub) and its counter of free values. -/
opaque freeWord : Nat → Nat → Word

/-- A fresh open 64-bit value. -/
opaque freeDword : Nat → Nat → Dword

/-- Revision numbers of the microcode ROMs, MCS_ROMREV (R489: per ROM). -/
opaque romRev : Word

/-- Microword at an address of a sequencer's ROM, 144 bits (R448). -/
opaque romWord : Nat → Nat → BitVec 144

/-- Bits 31:24 of HWIN_ID, the hub revision (R490: per part). -/
opaque hubRev : Byte

/-- The number of which the device's private key is made (R84: a key pair unique to each part). -/
opaque devPriv : Nat

/-- Ethernet address of the management port, from which the hub sends (R87). -/
opaque hubMac : Nat

/-- PHY settings of a physical pseudo-channel, set by TRN (R489). -/
opaque phySetting : Nat → Word

/-- What a table read beyond its last entry returns: slice, table, index, word. -/
opaque beyond : Nat → Nat → Nat → Nat → Word

end Sys2Proof.Config
end

