-- ==== Sys2Proof/Machine/State.lean ====
section
/-! DEFINITION. The state of the part: eight slices, the hub and the queue of waiting commands. Plain data throughout. Sparse maps list only what differs from the value an unlisted key reads as. -/

namespace Sys2Proof.Machine

/-- A sparse map from keys to values: keys strictly rising, no entry equal to what an unlisted key reads as. -/
abbrev Sparse (β : Type) := List (Nat × β)

/-! ### Packets, frames and queues -/

/-- A classifier engine's hit: its number (CAM index, tree rule, range rule) and its action word (R201, R202). -/
structure Hit where
  num : Nat
  act : List Word
  deriving DecidableEq, Repr

/-- A time on a base: 48-bit seconds, nanoseconds, 16-bit fraction (R367). -/
structure Stamp where
  base : BaseId
  sec : Nat
  ns : Nat
  frac : Nat
  deriving DecidableEq, Repr

/-- A packet between the lane and its commit, with the metadata of R191. -/
structure Packet where
  id : Nat
  lane : Lane
  serge : Bool
  pipe : Pipe
  frame : Bytes
  fcsOk : Bool
  epoch : BitVec 4
  stamp : Stamp
  xbuf : Bytes
  xval : List Bool
  cls : Word
  hdrs : List Nat
  dex : Bool
  lcf : Bool
  pass2 : Bool
  pbase : Nat
  stop : Nat
  resume : Nat
  prof : Nat
  prim : Option (BitVec 2 × Hit)
  camHit : Option Hit
  mmatch : Bool
  act : List Word        -- action taken (R201)
  eng : BitVec 2         -- M4.ENGINE
  rule : BitVec 16       -- M4.RULE
  -- the second pass it waits for: start node, base, whether the extraction buffer is kept (R193, R197)
  again : Option (Nat × Nat × Bool)
  deriving DecidableEq, Repr

/-- A place in a pipeline's completion window (R209): the packet, and whether its classification has ended. -/
structure WinEntry where
  pkt : Packet
  node : Option Nat      -- tree node being read from DRAM
  rules : List Nat       -- rule nodes of the leaf still to test; the one being read is the first
  best : Option (Nat × Hit)    -- best tree hit so far, with its priority
  inCam : Bool           -- waits in the CAM queue
  done : Bool
  deriving DecidableEq, Repr

/-- Queues of R344, and the punt rings' queues of R381. -/
inductive QId where
  | cls (lane : Lane) (c : Fin 8)
  | aq (n : BitVec 14)
  | reflex (lane : Lane)
  | scene (lane : Lane)
  | punt (r : Fin 8)
  deriving DecidableEq, Repr

/-- One queued copy of a frame: one frame descriptor (R332). -/
structure Copy where
  id : Nat
  frm : Nat
  lane : Lane            -- egress port; for a punt copy, the ingress port
  q : QId
  reason : Byte          -- punt reason or mirror session
  mirror : Bool
  len : Nat              -- bytes of the frame the copy carries (mirror truncation, R341)
  started : Bool
  cut : Bool
  moved : Bool           -- in S: its cells have been copied to pages
  vid : Option Nat       -- VLAN and MAC rewrites of the handle that made the copy (R223, R338)
  dmac : Option Bytes
  deriving DecidableEq, Repr

/-- A frame held in cells and pages (R326, R332). -/
structure Frame where
  id : Nat
  bytes : Bytes
  owner : Nat
  cells : List Nat
  pages : List Nat
  need : Nat             -- cells still to be granted
  slot : Fin 4           -- request slot that asks for them (R331)
  copies : List Copy     -- multicast and mirror copies to admit once every cell is granted (R339)
  lanes : Option Lane    -- ingress port
  stamp : Option Stamp
  epoch : BitVec 4
  bad : Bool
  green : Bool           -- colour that governs admission (R356)
  tx : Option (Nat × Nat)     -- transmit ring and descriptor index (R382)
  stomped : Bool         -- counted in SWC_STOMPINp (R337)
  mir : Option Nat       -- mirror session whose truncated copy this is, until it has its cell (R341)
  deriving DecidableEq, Repr

/-- A queue's on-die segment H and spill segment S (R333). -/
structure Queue where
  q : QId
  h : List Copy
  s : List Copy
  deriving DecidableEq, Repr

/-- A copy that a port is sending (R348), with its egress timestamp and the bytes sent (R144, R379). -/
structure Sending where
  lane : Lane
  copy : Copy
  stamp : Stamp
  bytes : Bytes
  deriving DecidableEq, Repr

/-- A deficit round robin set (R349): `none` is the set of a port's classes, `some c` the members of class c. A member
is a class number, or 0 for the class queue and n + 1 for aggregate queue n; `last` is the member served last. -/
structure Dwrr where
  lane : Lane
  cls : Option (Fin 8)
  cur : Nat
  last : Nat
  defs : Sparse Int
  deriving DecidableEq, Repr

/-! ### Flow engine -/

/-- A hot set way (R253): key, record index and record; `dirty` when it differs from its DRAM copy (R255). -/
structure HotWay where
  set : Nat
  way : Nat
  kp : Nat
  klen : Nat
  key : Bytes
  idx : Nat
  rcd : List Dword
  dirty : Bool
  deriving DecidableEq, Repr

/-- A bucket entry's key with the record index (R250, R264). -/
structure KeyRec where
  kp : Nat
  klen : Nat
  key : Bytes
  idx : Nat
  deriving DecidableEq, Repr

inductive TrkOp where
  | fetch | resolve | remove | soft
  deriving DecidableEq, Repr

/-- What a tracker waits for. -/
inductive TrkStage where
  | bucket1              -- read of the first candidate bucket
  | bucket2
  | record (idx : Nat)   -- read of the record
  | kick (path : List (Nat × Nat)) (bucket slot : Nat)  -- kick walk: (bucket, slot) moved so far; ALT bucket being read
  -- installs when a way is unpinned (R254); whether the record differs from its DRAM copy (R255)
  | wayWait (idx : Nat) (rcd : List Dword) (dirty : Bool)
  | resolving            -- FWD resolves
  | remote (idx : Option Nat)   -- remote fetch outstanding (R280)
  | promotion            -- waits for PROMOTED (R480)
  | insertWait           -- an insert waits for a bucket held in the in-flight table (R264)
  | recheck              -- removal recheck (R268)
  | ready                -- the record is in hand
  | moving (bucket : Nat)   -- a stash entry goes back; the write of its bucket is not yet acknowledged (R264)
  deriving DecidableEq, Repr

/-- A tracker: one key, one operation and the ordered chain of packets (R256). -/
structure Tracker where
  id : Nat
  kp : Nat
  klen : Nat
  key : Bytes
  op : TrkOp
  stage : TrkStage
  chain : List Packet
  got : Option (Nat × List Dword)   -- index and record that a remote fetch returned (R280, R407)
  deriving DecidableEq, Repr

/-- A packet with its record, waiting in the flow engine for a free thread (R257, R283). -/
structure Ready where
  pkt : Packet
  idx : Option Nat       -- record index; none for a stateless packet (R265)
  handle : BitVec 16     -- default handle
  prog : Nat
  deriving DecidableEq, Repr

/-- A log queue entry (R272): a record waiting to be sent to the twin. -/
structure LogItem where
  idx : Nat
  isDel : Bool
  dirtyA : Bool
  dirtyB : Bool
  sync : Bool
  kp : Nat
  klen : Nat
  key : Bytes
  first : Dword          -- commit time of the oldest change it carries (R274)
  tcommit : Dword        -- commit time of the last
  dmask : Nat            -- F0.DURABLE of the record that a DEL entry ends
  deriving DecidableEq, Repr

/-- A log entry on the link (R273). -/
structure LogEntry where
  seq : Nat
  kind : Nat             -- 1 NEW, 2 UPD, 3 DEL
  sync : Bool
  idx : Nat
  dmask : Nat
  kp : Nat
  klen : Nat
  key : Bytes
  tcommit : Dword
  blockA : Option (List Dword)
  blockB : Option (List Dword)
  walk : Bool
  deriving DecidableEq, Repr

/-- What crosses the twin link (R11, R149). -/
inductive TwinMsg where
  | log (e : LogEntry)
  | logAck (seq : Nat)
  | heartbeat (slice : Nat) (fault : Bool) (cur : BitVec 2) (hbseq logseq : Nat)
  | hello (slice : Nat) (paired held : Bool)
  | down | sleep
  | ready (ok : Bool) (tag : Word)
  | readyAck
  | fetch (trk kp klen : Nat) (key : Bytes) (idx : Option Nat)
  | fetchReply (trk : Nat) (rcd : Option (Nat × List Dword))   -- record index and record; none: NOT_FOUND
  | sf (grp : Lane) (gid : BitVec 16)
  | declared
  | cleared
  | endResync
  deriving DecidableEq, Repr

/-- A transfer not yet acknowledged (R149). -/
structure Transfer where
  seq : Nat
  resends : Nat
  msg : TwinMsg
  deriving DecidableEq, Repr

/-! ### Damask threads -/

inductive Disp where
  | forward (handle : BitVec 16) (qclass : BitVec 3) (aq : Option (BitVec 14))
  | drop (k : BitVec 4)
  | punt (reason : Byte)
  | recirc (node : Byte) (puntFb : Bool) (reason : Byte)
  deriving DecidableEq, Repr

/-- A table write recorded for commit, in program order (R297); `none` is tst, `some m` is tadd with MOD m. -/
structure TabWrite where
  tbl : Nat
  idx : Nat
  val : Dword
  op : Option (BitVec 4)
  inRange : Bool
  word : Nat             -- word of program table memory
  deriving DecidableEq, Repr

/-- An emit recorded for commit (R302). -/
structure EmitRec where
  tbl : Nat
  idx : Nat
  epoch : BitVec 4
  patches : List Dword
  deriving DecidableEq, Repr

/-- Registers and window as they stood when the bundle issued (R292). -/
structure Snap where
  g : List Dword
  f : List Dword
  p : List Bool
  deriving DecidableEq, Repr

/-- A thread of a Damask engine (R285). -/
structure ThreadSt where
  th : Nat
  pkt : Packet
  idx : Option Nat
  seq : Nat              -- order of dispatch, which is the commit order within a flow (R260)
  entry : Nat
  rel : Nat              -- REL of the seal; 511 when the program writes no record (R307)
  input : List Dword     -- kept input image (R305)
  dflt : BitVec 16       -- default handle
  g : List Dword
  f : List Dword
  p : List Bool
  frame : Bytes
  pc : Nat               -- bundle, counted in program memory
  slot : Nat             -- 0 or 1: the instruction that issues next
  snap : Snap
  branch : Option Nat
  ending : Bool
  ended : Bool
  qclass : BitVec 3      -- queue class in force (R301)
  disp : Disp
  tabs : List TabWrite
  emits : List EmitRec
  mirror : Option (BitVec 4)
  sync : Bool
  released : Bool
  relImage : List Dword  -- image handed to the successor (R304)
  log : List Dword       -- replay log (R305)
  logPos : Nat
  rerun : Bool
  rewritten : Bool
  waits : Bool           -- its predecessor has not handed its image over: the program has not started (R260)
  deriving DecidableEq, Repr

/-- A committed packet whose disposition and emits wait for the twin (R275, R320). -/
structure Held where
  pkt : Packet
  idx : Nat
  seq : Nat
  lseq : Option Nat      -- LOGSEQ of its SYNC entry once sent
  sync : Bool
  disp : Disp
  qclass : BitVec 3      -- queue class in force at its commit
  emits : List EmitRec
  frame : Bytes
  frm : Option Nat       -- stored frame whose cells a mirror copy shares (R341)
  deriving DecidableEq, Repr

/-! ### Muslins -/

/-- A muslin item: its bytes, header first (R116). -/
abbrev Item := Bytes

/-- A muslin buffer's contents beside RIF_MSTATn and RIF_MFAILn (R114, R118). -/
structure MusBuf where
  items : List Item
  checkOk : Bool                 -- the last CHECK passed
  verdict : Word                 -- RIF_MFAIL that the CHECK in progress will write (R119)
  chkf : Option Word             -- DMK_CHKF that the CHECK in progress will write
  op : BitVec 64                 -- ARM operand
  tag : Word
  instant : Nat                  -- commit instant on the operand's base, in units of `nsUnits`
  passed : Bool                  -- a STEP has carried the base past the instant (R130)
  preloaded : List Nat           -- blocks that have finished pre-load
  answers : List (Nat × Bool)    -- readiness answers
  twinReady : Option (Bool × Word)
  twinAck : Bool
  sentReady : Bool
  deriving DecidableEq, Repr

/-- Words of a staged item not yet complete (R115). -/
structure Assembly where
  req : Requester
  buf : Buf
  words : List Word
  deriving DecidableEq, Repr

/-! ### Time -/

/-- A tracker: its time in units of 2^-42 × 10^-6 ns, and PPS loop state (R370, R373). -/
structure Trk where
  time : Nat
  edges : Nat            -- consecutive edges with |e| < 100 ns
  deriving DecidableEq, Repr

/-- A base: two trackers and the residual, in the units of `Trk.time` (R370). -/
structure Base where
  t0 : Trk
  t1 : Trk
  res : Int
  latched : Nat          -- last second latched (R172, R372)
  ratio : Nat            -- units the base advances per felt tick, as last measured (R377)
  deriving DecidableEq, Repr

/-- Gate list entry (R362). -/
structure GateEntry where
  gates : Byte
  interval : Nat
  deriving DecidableEq, Repr

/-- Gate lists of a port (R362, R363). -/
structure GateSt where
  lane : Lane
  admin : Sparse GateEntry
  oper : List GateEntry
  cycle : Nat
  base : Nat             -- T, in units of `nsUnits`
  entryAt : Nat          -- when the entry in force began
  cur : Nat              -- entry in force
  deriving DecidableEq, Repr

/-- A policer's levels and colour counts (R355, R358). -/
structure PolSt where
  tc : Nat
  te : Nat
  green : Word
  yellow : Word
  red : Word
  deriving DecidableEq, Repr

/-- A scene being fetched or released (R386). -/
structure SceneRun where
  scene : Nat
  next : Nat             -- frame to place next
  late : Bool            -- a frame was late
  overdue : Bool         -- a forward step overtook the next frame's instant (R372)
  slots : List (Option Bytes)   -- slots read; none where the read failed or its cell was refused
  cells : List Nat
  deriving DecidableEq, Repr

/-! ### Serge -/

/-- Candidate of the frame searcher (R163): position and count; `crcBad` when its latest pattern's CRC was wrong. -/
structure Cand where
  pos : Nat
  count : Nat
  deriving DecidableEq, Repr

/-- A frame that a member has sent (R155): its four overhead blocks and its payload as transmitted. -/
structure SentFrame where
  oh : List Dword
  pay : List Line
  deriving DecidableEq, Repr

/-- A member lane (R163 to R177) beside SRG_MSTm and SRG_MIDm. -/
structure Member where
  lane : Lane
  cands : List Cand
  fixed : Nat                 -- frame position once LOCKED
  miss : Nat
  lastValid : Bool            -- the last overhead received was valid
  prevOh : Option (List Dword)   -- the overhead of the previous frame, where it was valid
  rxFrame : Nat               -- multiframe index of the frame being received
  rxLast : Dword              -- contents of the last payload block received, which the descrambler goes on from
  seq : Option Nat            -- MSEQ last received with the group's GID
  codeRun : Nat               -- consecutive valid OH1s with the last member code
  rxAck : BitVec 4
  rlost : BitVec 16           -- RLOST of the last valid OH3
  ack : BitVec 4              -- ACK that SOH last set
  ackSeen : Bool              -- the far end's ACK for the pending request has arrived
  lost : Bool                 -- declared lost in the receive direction
  dropped : Bool              -- dropped from MAP after a loss, sending VOID
  recS : BitVec 16
  recP : BitVec 16
  farS : Option (BitVec 16)
  farP : Option (BitVec 16)
  retRdsk : Bool
  retRgid : Bool
  rxGmc : Bytes               -- GMC bytes last received
  gmcRx : Bytes               -- GMC bytes received, from a start byte on
  gmcTx : Bytes               -- bytes of messages still to send
  txIdx : Nat                 -- multiframe index of the frame being sent
  txOh : List Dword           -- its overhead; none before the first
  txLast : Dword              -- contents of the last payload block sent, which the scrambler goes on from
  sent : Option SentFrame     -- the last whole frame sent
  deriving DecidableEq, Repr

/-- What a member has delivered of a frame in the deskew store (R170): its sequence, MAP where its OH1 was valid, the
time its overhead arrived, and its payload once complete, descrambled. -/
structure RxPart where
  seq : Nat
  lane : Lane
  map : Option (BitVec 16)
  time : Nat
  pay : Option (List Line)
  deriving DecidableEq, Repr

/-- A frame in the deskew store: its multiframe index, what has been delivered, and its MAP once taken (R168). -/
structure RxFrame where
  idx : Nat
  parts : List RxPart
  map : Option (BitVec 16)
  conflict : Bool
  deriving DecidableEq, Repr

/-- A group beside its registers. -/
structure Group where
  lane : Lane
  gid : Nat                   -- GID and member rate that the group came up with (R175)
  rate : Nat
  seqs : List (Nat × Nat)     -- (lane, member sequence), R166
  idx : Nat                   -- multiframe index of the frame being sent
  count : Nat                 -- frames sent before it: F of R167
  txStream : List Line        -- blocks of the group's stream waiting to be sent
  txMap : BitVec 16           -- carry map by member sequence
  rxMap : BitVec 16
  rxSeen : List (Nat × Nat)   -- multiframe indices received, with the clock of the earliest member's arrival
  rxq : List RxFrame          -- deskew store, oldest frame first
  rxBar : BitVec 16           -- sequences lost since a MAP last left them out
  rxCur : Option (Bytes × Nat)   -- Ethernet frame being reassembled, and the time of its first block
  rxFrames : List (Bytes × Bool × Nat)   -- Ethernet frames reassembled: bytes, FCS correct, time of the first block
  rlostOut : BitVec 16        -- RLOST bits this end returns
  sf : Bool                   -- receive signal fail (R181)
  protTx : BitVec 4           -- request for PROT bits 7:4 (R183)
  protByte : Byte             -- PROT that SOH last set
  lostFrames : Nat            -- group frames lost (R178)
  mapConflicts : Nat          -- R168
  protDrop : Nat              -- frames received on the group not selected (R182)
  deriving DecidableEq, Repr

/-- A received group message (R186): lane and the words left to read. -/
structure Message where
  lane : Lane
  len : Nat
  words : List Word
  deriving DecidableEq, Repr

/-! ### Cores, DMA, sequencers -/

/-- A claimed interrupt (R417). -/
structure Claim where
  src : Nat
  cpu : Cpu
  sup : Bool
  deriving DecidableEq, Repr

/-- A delayed task or privileged time-out (R427). -/
structure Delay where
  slot : Nat
  wtick : Word
  deriving DecidableEq, Repr

/-- A DMA channel beside its registers (R429 to R441). -/
structure DmaCh where
  ch : Nat
  desc : Option Bytes         -- descriptor being executed
  flight : Option (Nat × Bytes)   -- bytes read and not yet written, with their destination
  acc : Nat                   -- address of the last source access
  pauseReq : Bool
  fencing : Bool
  badWrite : Option Nat       -- first address of a write that failed after leaving the engine (R439)
  deriving DecidableEq, Repr

/-- A sequencer beside its registers (R446 to R450). -/
structure SeqSt where
  inTrap : Bool
  retries : Nat × Nat         -- microword of the last wait time-out and its time-outs in a row
  romFails : List Nat
  held : Bool
  asleep : Bool
  deriving DecidableEq, Repr

/-- A pass of a periodic routine (R443, R445): when the next one is due, whether this one has finished, whether it has
overrun. -/
structure Pass where
  due : Nat
  done : Bool
  late : Bool
  deriving DecidableEq, Repr

/-- The trace buffer (R451). -/
structure Trace where
  entries : Sparse (List Word)
  wr : Nat
  count : Nat
  postLeft : Option Nat
  deriving DecidableEq, Repr

/-! ### Power and boot of a slice -/

/-- What a start tries (R70, R72, R73): a bank, with whether it is other than the first choice, or the network. -/
inductive BootStep where
  | bank (b : Bool) (fallback : Bool)
  | net
  deriving DecidableEq, Repr

/-- What the core boot ROM asks the network with (R73): the VLAN of its frames, the DHCP client identifier and the TFTP block
size. -/
structure NetRequest where
  vlan : Nat
  client : Bytes
  blksize : Nat
  deriving DecidableEq, Repr

/-- Where a slice is between OFF and running software (R68, R70): `plan` is what the start still may try. -/
inductive Phase where
  | off
  | training (plan : List BootStep)
  | streaming (bank : Bool) (fallback : Bool) (plan : List BootStep)
  | netboot (tries : Nat) (plan : List BootStep)    -- DHCP attempts made (R73)
  | running
  deriving DecidableEq, Repr

/-- Entry or wake in progress (R44, R45). -/
inductive PwrMove where
  | none
  | enterDoze
  | enterNap
  | waking (c : WakeCause)
  deriving DecidableEq, Repr

/-- What the last register, window or HRA access of the slice returned. -/
inductive BusReply where
  | none
  | value (v : Word)
  | pair (hi lo : Word)            -- of an 8-byte load (R111)
  | done
  | busError
  | denied
  | accessFault
  | illegal                        -- the CPU takes an illegal-instruction exception (R414)
  deriving DecidableEq, Repr

/-- What a slice has for the hub to take up: an event code and its data (R95), and the words W0 and W3 of a fault log
entry to keep (R471). -/
structure HubNote where
  code : Nat
  data : Dword
  log : Option (Word × Word)
  deriving DecidableEq, Repr

/-- The counter CSRs of a logical CPU that are not registers of PRF or ICN (R414): the half clocks of 2 GHz its pair has
counted, and what permits reads of the counters. -/
structure CoreSt where
  half : Nat
  mcounteren : Word
  scounteren : Word
  deriving DecidableEq, Repr

/-- One slice. Registers are held in `regs`, keyed by their offset from 0x4000_0000. -/
structure Slice where
  id : SliceId
  free : Nat                       -- the model's own counter of free values
  phase : Phase
  move : PwrMove
  heldWake : Option WakeCause      -- wake cause held during an entry (R45)
  stayActive : Bool                -- ACTIVE until the hub runs again (R15)
  lost : Bool                      -- stopped under R472
  regs : Sparse Word
  regsOld : Sparse Word            -- versions of the draining epoch (R127, R128)
  image : Sparse Word              -- committed images of the RW registers
  mism : List (Nat × ParityUnit × Nat)   -- register, unit whose copy it is, clock of its last parity mismatch (R104)
  discards : Sparse Nat            -- items that each block discarded (R100); no register of the spec shows the count
  negFails : Sparse Nat            -- negotiation failures of each port (R141)
  eeeAgreed : List Nat             -- ports whose partner agreed to low-power idle (R142)
  shadow : List (Requester × Nat × Word)    -- shadow registers (R108)
  holding : List (Requester × Nat × Word)   -- holding registers (R108)
  posted : List (Nat × Nat × Word) -- posted slow writes: block, offset, value (R105)
  bus : BusReply
  netReq : Option NetRequest       -- what network boot asks with (R73)
  confirmAt : Option Nat           -- value of `clk` at which the confirm time-out ends (R71)
  clk : Nat                        -- clocks of the 800 MHz time base domain since the slice started
  bases : Vector Base 4            -- the time bases (R367)
  -- memories
  tabs : Sparse Word               -- on-die tables, see `Tab`
  tabsOld : Sparse Word            -- versions of the draining epoch
  dram : Sparse Byte               -- mapped DRAM from 0x10_0000_0000
  poison : List Nat                -- poisoned 32-byte words (R401)
  winHold : List (Cpu × Nat × Dword)   -- held half of an L2 entry (R412)
  locks : List (FwdTable × Nat)    -- locked buckets whose time-out runs (R234)
  -- muslins
  bufs : Vector MusBuf 2
  asm : List Assembly
  heldCtl : List (Nat × Word)      -- _CTL writes held during POLLING: block, value (R126)
  -- ingress, classifier
  nextPkt : Nat
  fifo : List (Pipe × Lane × Bytes × Bool × Stamp)   -- ingress FIFOs (R215)
  win : List WinEntry              -- completion windows of both pipelines, oldest first
  recirc : List Packet             -- packets that wait to re-enter their pipeline (R197)
  flowIn : List Packet             -- classified packets for the flow engine
  camBusy : Bool                   -- searches pause while the spare is loaded (R474)
  pipesFenced : List (Bool × Pipe) -- fenced pipelines: egress?, pipeline (R477)
  banksFenced : List Nat
  -- forwarding
  notices : List (List Word)       -- learn FIFO
  filter : List (Nat × Nat × Nat)  -- notices posted: FID, MAC, kind (R231)
  provTok : Nat                    -- provisional bucket (R222)
  lastBump : Option Nat            -- value of `clk` at the last route epoch bump (R241)
  -- flow engine
  hot : List HotWay
  plru : Sparse Nat                -- 15-bit tree of each set (R254)
  waysFenced : List (Nat × Nat)
  victim : List (Nat × List Dword) -- victim buffer: index, record (R255)
  inflight : List (Nat × Bytes)    -- in-flight bucket table: bucket, 256 bytes (R264)
  stash : List KeyRec
  recUsed : List Nat               -- allocated record indices, rising (R245)
  lostRecs : List Nat              -- records whose only current copy a hot set fault lost (R475)
  trackers : List Tracker
  nextTrk : Nat
  inserts : Nat                    -- insert sequence number (R263)
  ready : List Ready
  soft : Option (Bool × KeyRec)    -- software command in progress: DELETE?, its key (R281)
  logq : List LogItem
  logged : List Nat                -- records logged to the twin (R271)
  shStash : List KeyRec            -- shadow stash (R276)
  shRefused : List Nat             -- records whose NEW entry was discarded (R276, R279)
  winEnd : Sparse Nat              -- when the window in progress of a WINDOW counter closes, in µs of base 0 (R456, R457)
  telPosted : Sparse Nat           -- export records written and not yet acknowledged, by ring (R465)
  rebuilt : List Nat               -- logical pseudo-channels in HOLD (R407)
  -- Damask engines
  threads : List ThreadSt
  rerunq : List ThreadSt           -- packets of fenced engines waiting for another thread (R305)
  seqNo : Nat
  held : List Held
  reserved : Nat
  -- buffers and egress
  nextFrm : Nat
  frames : List Frame
  cellsOut : List (Nat × Nat)      -- allocated cells: index, owner
  pagesOut : List (Nat × Nat)
  cellsRetired : List Nat
  cellClk : Nat                    -- clock of the cell allocator's last decisions (R331)
  suspects : List (Bool × Nat)     -- indices the last audit pass recorded: page?, index (R342)
  queues : List Queue
  spillLast : Option QId           -- queue that the spill mover served last (R334)
  readLast : Option QId            -- queue that the page reader served last (R335)
  sending : List Sending           -- frame each port is sending
  puntFrames : List Copy
  credits : Sparse Int             -- shaper and minimum-rate buckets, see `Credit`
  aqLive : List Nat                -- buckets of aggregate queues whose rate was not 0 at the last refill (R352)
  dwrr : List Dwrr
  mirCount : Sparse Nat            -- request counters of mirror sessions (R341)
  pols : Sparse PolSt
  gates : List GateSt
  scenes : List SceneRun
  filled : List (Nat × Nat)        -- punt descriptors filled and not handed back: ring, index (R381)
  txHead : List Nat                -- next descriptor of each transmit ring
  txBusy : List (Nat × Nat)        -- transmit descriptors handed to egress: ring, index
  -- twin link
  inbox : List TwinMsg
  unacked : List Transfer
  nextXfer : Nat
  hbSeq : Nat
  twinLost : Bool
  report : Bool                    -- a LOST fault has been reported (R471)
  toHub : List HubNote
  -- Serge
  members : List Member
  groups : List Group
  msgOut : Bytes                   -- staged message body
  serRaw : Sparse Nat              -- raw counts of R172: 8 × lane + register
  msgIn : List Message
  -- DRAM
  owed : Sparse Nat                -- refreshes owed: 3 × pc + rank (R398)
  drcPart : Sparse Nat             -- quarters of 256 bytes moved and not yet counted: port, 8 + port for writes (R394)
  drcCe : Sparse Nat               -- corrected errors of each physical pseudo-channel in the present second (R401)
  rankDown : List (Fin 32 × Fin 3) -- ranks in power-down (R400)
  training : Option (Fin 32)       -- pseudo-channel being retrained
  rebuilds : List Nat              -- logical pseudo-channels to rebuild, in order
  lostChans : List Nat             -- logical pseudo-channels LOST (R403)
  written : List Nat               -- 32-byte words written whole since the remap (R405)
  -- cores
  claims : List Claim
  hwWait : List Nat                -- sources whose hardware SIGNAL waits (R418)
  mtip : List Nat                  -- CPUs whose machine timer interrupt is taken
  cores : Vector CoreSt 4
  started : List (Nat × Dword)     -- CPUs started and their entry address (R413)
  -- task dispatcher
  rdy : List Nat                   -- ready list, oldest first
  waiters : List (Nat × Nat)       -- waiting tasks: slot, event; oldest first
  delays : List Delay
  -- DMA, sequencers, faults
  dma : Vector DmaCh 16
  seqs : Vector SeqSt 4
  passes : Vector Pass 5           -- of the routines in the order of MCS_OVR's bits
  trace : Trace
  recovering : Option Nat
  deriving DecidableEq, Repr

/-! ### Hub -/

inductive HubPhase where
  | off | romOnly | unclaimed | running
  deriving DecidableEq, Repr

/-- A cached reply of a session (R94). -/
structure CachedReply where
  seq : Nat
  tag : BitVec 128
  status : Byte
  body : Bytes
  frame : Bytes               -- the frame that carried it
  deriving DecidableEq, Repr

/-- An HRA frame but for its addresses and its tag (R87). -/
structure HraFrame where
  type : Nat
  ses : Nat
  seq : Nat
  nops : Nat
  status : Byte
  body : Bytes
  deriving DecidableEq, Repr

/-- Operations of a REQUEST (R89). -/
inductive HraOp where
  | read32 (off : Word) (n : Nat)
  | write32 (off v mask : Word)
  | read64 (off : Word)
  | write64 (off : Word) (v : Dword)
  | wait (off mask v : Word) (us : Nat)
  | stage (buf : Nat) (item : Bytes)
  | cmd (buf cmd : Nat) (operand : Dword)
  | kick (ch : Nat) (tail : Word)
  | wake
  | restart (key : Byte)
  | charterApply (slot : Nat)
  deriving DecidableEq, Repr

/-- A REQUEST being executed (R90). -/
structure HraRun where
  seq : Nat
  tag : BitVec 128
  ops : List HraOp
  done : Nat
  data : Bytes
  deriving DecidableEq, Repr

/-- An EVENT not yet acknowledged (R95): its felt timestamp, and for each session it was sent to and not acknowledged
by, the session, the SEQ of the frame and the resends. -/
structure EventRec where
  code : Nat
  slice : Nat
  felt : Dword
  data : Dword
  copies : List (Nat × Nat × Nat)
  deriving DecidableEq, Repr

/-- An HRA session (R84 to R96); target 8 is the hub. -/
structure Session where
  id : Nat
  target : Nat
  mac : Bytes            -- the host's Ethernet address
  hostKey : Bytes        -- AES-CMAC keys of frames from the host and from the hub (R85)
  hubKey : Bytes
  h : Nat                -- highest SEQ accepted
  seen : List (Nat × BitVec 128)
  cache : List CachedReply
  tagFails : List Nat         -- clocks of the tag failures of the last second
  out : Nat              -- hub's last SEQ
  run : Option HraRun
  waiting : List HraRun       -- accepted REQUESTs behind it, in order of arrival
  lastReply : Option CachedReply
  deriving DecidableEq, Repr

/-- An NVM staging set (R491); set 8 serves hub sessions. -/
structure NvmSet where
  words : List Word      -- words staged since the last command
  page : List Word       -- words a READ loaded, left to read
  op : Option (Bool × Nat)   -- command in progress: PROGRAM?, page offset
  status : BitVec 2
  ign : Bool
  addr : Word
  deriving DecidableEq, Repr

/-- What the hub keeps about a slice. -/
structure HubSlice where
  active : Bool               -- active bank: false A, true B (R70)
  failed : List Bool          -- banks marked failed
  streaming : Option Bool     -- bank protected from streaming to confirmation (R67)
  cause : BitVec 4            -- LAST_RST of the next start (R494)
  thermal : Bool              -- OFF for heat: starts on a host command only (R55)
  hot : Bool                  -- not below 95 °C since then
  zeroing : Bool              -- change of owner in progress (R79)
  deferred : Bool             -- start deferred by a supply warning (R39)
  start : Bool                -- a start is asked for
  policy : Bool               -- by the power policy, which starts slices in order (R40)
  started : Bool              -- has started since the last package reset or supply failure
  faulted : Bool              -- status the hub shows (R471)
  run : Bool                  -- status the hub shows (R13)
  fbits : Bool                -- fault report to pass on
  soft : Sparse Word          -- HWIN_WAKESn and HWIN_WAKENn, by their offset in page 0
  wakes : List (Nat × Nat)    -- wake times posted to the felt domain, earliest first, with their bases (R97)
  tap : TapInstr              -- instruction register of the slice's TAP (R53)
  events : List EventRec      -- unacknowledged events of the target
  evLost : Nat
  rx : List Bytes             -- frames in the receive buffer (R82)
  denied : Nat                -- accesses to pages not permitted (R83)
  deriving DecidableEq, Repr

structure Hub where
  free : Nat                  -- the model's own counter of free values
  phase : HubPhase
  felt : Bool                 -- felt domain running
  powered : Bool              -- hub rails on
  ov : Bool                   -- switched off by overvoltage
  vin : Word                  -- HWIN_VIN
  hubTj : Word                -- HWIN_HUBTJ
  warn : Bool                 -- supply warning stands
  bank : Bool                 -- bank of the hub image that runs
  imgFailed : List Bool
  wdCount : Nat               -- consecutive watchdog restarts with this image (R69)
  wdRestarted : Bool          -- the hub start follows a watchdog restart or a restart command
  charter : Bytes             -- charter in force
  anchors : List Bytes        -- programmed anchor slots, oldest first (R78)
  nvm : Sparse Byte           -- the 512 MiB NVM (R63)
  log : List (Nat × Word × Word)   -- NVM event and fault log: slice or 8, two words
  slices : List HubSlice      -- eight
  hubTgt : HubSlice           -- events and buffer of the hub target
  sessions : List Session
  nvmSets : List NvmSet       -- nine
  tout : Word                 -- HWIN_TOUT
  timeFlag : Bool             -- selected slice is OFF (R376)
  f10m : Bool                 -- F10M_IN valid
  f10mLost : Bool             -- loss flagged (R50)
  sfp : Bool                  -- the SFP+ cage is the management medium (R36)
  module : Bool               -- an SFP+ module is present
  mgtDrops : Nat
  seqDrops : Nat              -- frames dropped and counted under R94
  tx : List (Nat × Bytes)     -- frames that wait to be sent on the management port: slice or 8, bytes (R82)
  mgtCur : Nat                -- the sender served last, and the deficits of the senders (R82)
  mgtDef : Sparse Nat
  mgtTx : List (Nat × Bytes)  -- frames sent on the management port
  tap : TapInstr              -- instruction register of the hub's TAP (R53)
  trst : Bool                 -- TST_TRST_N is low: the port is held in reset (R52)
  twoWire : Bool              -- TST_SEL is high (R52)
  bsr : List Bool             -- boundary-scan register: a cell for each MGT, time and TST land, in the order of R31
  nextSes : Nat
  shadow : Option (Nat × Word)     -- shadow register of hub sessions (R109): tag and high word
  hubChar : Bytes             -- charter whose hub fields the last hub start applied (R79)
  clk : Nat                   -- clocks of 1.25 ns since the package was reset
  deriving DecidableEq, Repr

/-- The part. `pending` is the model's queue of waiting commands. -/
structure State where
  slices : Vector Slice 8
  hub : Hub
  pending : List Instr
  deriving DecidableEq, Repr

/-- Why a step stops with a fault. -/
inductive Fault where
  /-- An access that names no register and that no rule answers. No command raises it: R83, R90 and R112, R113 and R411 answer
  every address. Safe. -/
  | noSuchAddress
  deriving DecidableEq, Repr

/-- Why a command has no meaning. -/
inductive Refusal where
  /-- A command not modelled yet, by its mnemonic. Safe. -/
  | notModelled (mnemonic : String)
  deriving DecidableEq, Repr

/-! ### Reset -/

def MusBuf.empty : MusBuf :=
  { items := [], checkOk := false, verdict := 0, chkf := none, op := 0, tag := 0, instant := 0, passed := false,
    preloaded := [], answers := [], twinReady := none, twinAck := false, sentReady := false }

/-- A base at slice start (R493); the ratio before the first measurement is the nominal 40 ns (DESIGN CHOICE). -/
def Base.zero : Base :=
  { t0 := ⟨0, 0⟩, t1 := ⟨0, 0⟩, res := 0, latched := 0, ratio := 40 * (2 ^ 42 * 1000000) }

def DmaCh.idle (n : Nat) : DmaCh :=
  { ch := n, desc := none, flight := none, acc := 0, pauseReq := false, fencing := false, badWrite := none }

def SeqSt.idle : SeqSt := { inTrap := false, retries := (0, 0), romFails := [], held := false, asleep := false }

/-- No pass has begun: the first is due at the first clock that its routine runs. -/
def Pass.first : Pass := { due := 0, done := true, late := false }

/-- The CSRs of a CPU at a slice start. -/
def CoreSt.start : CoreSt := ⟨0, 0, 0⟩

/-- A slice as a start finds it: every register at its reset value, every memory 0, nothing in flight
(R391, R489, R493, R496). -/
def Slice.blank (n : SliceId) (ph : Phase) : Slice :=
  { id := n, free := 0, phase := ph, move := .none, heldWake := none, stayActive := false, lost := false, regs := [], regsOld := [],
    image := [], mism := [], discards := [], negFails := [], eeeAgreed := [], shadow := [], holding := [], posted := [], bus := .none, netReq := none, confirmAt := none, clk := 0,
    bases := #v[Base.zero, Base.zero, Base.zero, Base.zero], tabs := [], tabsOld := [], dram := [], poison := [],
    winHold := [], locks := [], bufs := #v[MusBuf.empty, MusBuf.empty], asm := [], heldCtl := [], nextPkt := 0,
    fifo := [], win := [], recirc := [], flowIn := [], camBusy := false, pipesFenced := [],
    banksFenced := [], notices := [], filter := [], provTok := 0, lastBump := none, hot := [], plru := [], waysFenced := [],
    victim := [], inflight := [], stash := [], recUsed := [], lostRecs := [], trackers := [], nextTrk := 0, inserts := 0,
    ready := [], soft := none, logq := [], logged := [], shStash := [], shRefused := [], winEnd := [], telPosted := [], rebuilt := [], threads := [],
    rerunq := [], seqNo := 0, held := [], reserved := 0, nextFrm := 0, frames := [], cellsOut := [], pagesOut := [],
    cellsRetired := [], cellClk := 0, suspects := [], queues := [], spillLast := none, readLast := none, sending := [], puntFrames := [], credits := [], aqLive := [], dwrr := [],
    mirCount := [], pols := [], gates := [], scenes := [], filled := [], txHead := [0, 0], txBusy := [], inbox := [], unacked := [],
    nextXfer := 0, hbSeq := 0, twinLost := false, report := false, toHub := [], members := [], groups := [], msgOut := [],
    serRaw := [], msgIn := [], owed := [], drcPart := [], drcCe := [], rankDown := [], training := none, rebuilds := [], lostChans := [], written := [],
    claims := [], hwWait := [], mtip := [], cores := Vector.ofFn fun _ => CoreSt.start, started := [], rdy := [], waiters := [], delays := [],
    dma := Vector.ofFn fun n => DmaCh.idle n.val,
    seqs := #v[SeqSt.idle, SeqSt.idle, SeqSt.idle, SeqSt.idle],
    passes := #v[Pass.first, Pass.first, Pass.first, Pass.first, Pass.first],
    trace := ⟨[], 0, 0, none⟩, recovering := none }

def HubSlice.blank : HubSlice :=
  { active := false, failed := [false, false], streaming := none, cause := 0,
    thermal := false, hot := false, zeroing := false, deferred := false, start := false, policy := false, started := false, faulted := false,
    run := false, fbits := false, soft := [], wakes := [], tap := .idcode, events := [], evLost := 0, rx := [], denied := 0 }

def NvmSet.blank : NvmSet := { words := [], page := [], op := none, status := 0, ign := false, addr := 0 }

/-- The hub of a part that was never claimed, before VIN12 rises (R40, R78). -/
def Hub.reset : Hub :=
  { free := 0, phase := .off, felt := false, powered := false, ov := false, vin := 0, hubTj := 0, warn := false, bank := false,
    imgFailed := [false, false], wdCount := 0, wdRestarted := false, charter := [], anchors := [], nvm := [], log := [],
    slices := List.replicate 8 HubSlice.blank, hubTgt := HubSlice.blank, sessions := [],
    nvmSets := List.replicate 9 NvmSet.blank, tout := 0, timeFlag := false, f10m := false, f10mLost := false,
    sfp := false, module := false, mgtDrops := 0, seqDrops := 0, tx := [], mgtCur := 0, mgtDef := [], mgtTx := [], tap := .idcode, trst := true,
    twoWire := false, bsr := List.replicate 36 false, nextSes := 1, shadow := none, hubChar := [], clk := 0 }

/-- The part right after a reset of the whole package: no supply, every slice OFF (R38, R40, R61). -/
def State.reset : State :=
  { slices := Vector.ofFn fun n => Slice.blank n .off, hub := Hub.reset, pending := [] }

end Sys2Proof.Machine
end

