-- ==== Sys2Proof/Machine/Sparse.lean ====
section
/-! DEFINITION. Sparse maps: keys strictly rising, an entry per key whose value is not the one an unlisted key reads as. -/

namespace Sys2Proof.Machine

/-- The entry listed for a key. -/
def sFind {β : Type} : Sparse β → Nat → Option β
  | [], _ => none
  | (k, v) :: m, i => if k = i then some v else sFind m i

/-- The value at a key, `d` where the key is not listed. -/
def sGet {β : Type} (d : β) (m : Sparse β) (i : Nat) : β := (sFind m i).getD d

/-- Removes a key. -/
def sDel {β : Type} : Sparse β → Nat → Sparse β
  | [], _ => []
  | (k, v) :: m, i => if k = i then sDel m i else (k, v) :: sDel m i

/-- Lists a value for a key, keeping the keys rising. -/
def sIns {β : Type} : Sparse β → Nat → β → Sparse β
  | [], i, w => [(i, w)]
  | (k, v) :: m, i, w =>
    if i < k then (i, w) :: (k, v) :: m else if k = i then (i, w) :: m else (k, v) :: sIns m i w

/-- Writes a value in a map whose unlisted keys read as `d`: the value `d` unlists the key. -/
def sPut {β : Type} [DecidableEq β] (d : β) (m : Sparse β) (i : Nat) (w : β) : Sparse β :=
  if w = d then sDel m i else sIns m i w

/-- Keys strictly rising, from a lower bound. -/
def sRising {β : Type} : Nat → Sparse β → Bool
  | _, [] => true
  | lo, (k, _) :: m => decide (lo ≤ k) && sRising (k + 1) m

/-- The canonical form of a map whose unlisted keys read as `d`. -/
def sWf {β : Type} [DecidableEq β] (d : β) (m : Sparse β) : Bool :=
  sRising 0 m && m.all (fun p => decide (p.2 ≠ d))

/-- Canonical form of a byte memory: an unlisted byte reads 0 (R391). -/
def Memory.wf (m : Sparse Byte) : Bool := sWf 0 m

/-- Writes bytes at consecutive keys. -/
def sPutBytes (m : Sparse Byte) : Nat → Bytes → Sparse Byte
  | _, [] => m
  | a, b :: bs => sPutBytes (sPut 0 m a b) (a + 1) bs

/-- Reads `n` bytes at consecutive keys. -/
def sGetBytes (m : Sparse Byte) (a : Nat) : Nat → Bytes
  | 0 => []
  | n + 1 => sGet 0 m a :: sGetBytes m (a + 1) n

/-- Replaces the entry of a list at an index. -/
def setNth {α : Type} : List α → Nat → α → List α
  | [], _, _ => []
  | _ :: l, 0, a => a :: l
  | b :: l, i + 1, a => b :: setNth l i a

/-- Changes the entry of a list at an index. -/
def modNth {α : Type} : List α → Nat → (α → α) → List α
  | [], _, _ => []
  | b :: l, 0, f => f b :: l
  | b :: l, i + 1, f => b :: modNth l i f

/-- Inserts a number in a rising list without repeats. -/
def insNat : List Nat → Nat → List Nat
  | [], i => [i]
  | k :: m, i => if i < k then i :: k :: m else if k = i then k :: m else k :: insNat m i

end Sys2Proof.Machine
end

