-- ==== Sys2Proof/Machine/Bits.lean ====
section
/-! DEFINITION. Bit fields, byte order and sign extension. Multi-byte values are big-endian unless a rule says otherwise. -/

namespace Sys2Proof.Machine

/-- Bits hi:lo of a number. -/
def bits (v hi lo : Nat) : Nat := (v >>> lo) % 2 ^ (hi + 1 - lo)

/-- One bit of a number. -/
def bit (v i : Nat) : Bool := (v >>> i) % 2 = 1

/-- Bits hi:lo of a register (spec 00, "Registers and fields"). -/
def fld (w : Word) (hi lo : Nat) : Nat := bits w.toNat hi lo

/-- The value with bits hi:lo of `w` replaced by `v`. -/
def putBits (w hi lo v : Nat) : Nat :=
  w - (bits w hi lo) * 2 ^ lo + (v % 2 ^ (hi + 1 - lo)) * 2 ^ lo

/-- A register with bits hi:lo replaced. -/
def setFld (w : Word) (hi lo v : Nat) : Word := BitVec.ofNat 32 (putBits w.toNat hi lo v)

def wbit (w : Word) (i : Nat) : Bool := w.toNat.testBit i

def setBit (w : Word) (i : Nat) (b : Bool) : Word := setFld w i i b.toNat

def w32 (n : Nat) : Word := BitVec.ofNat 32 n

def d64 (n : Nat) : Dword := BitVec.ofNat 64 n

/-- Mask of bits hi:lo. -/
def mask (hi lo : Nat) : Nat := (2 ^ (hi + 1 - lo) - 1) * 2 ^ lo

/-- Two's complement value of a `w`-bit number. -/
def signed (w v : Nat) : Int := if v % 2 ^ w < 2 ^ (w - 1) then (v % 2 ^ w : Nat) else ((v % 2 ^ w : Nat) : Int) - 2 ^ w

/-- A `w`-bit two's complement number. -/
def toSigned (w : Nat) (i : Int) : Nat := (i % 2 ^ w).toNat

/-- The number that bytes spell, the first byte most significant. -/
def beNat (bs : Bytes) : Nat := bs.foldl (fun a b => a * 256 + b.toNat) 0

/-- `n` bytes of a number, most significant first. -/
def beBytes : Nat → Nat → Bytes
  | 0, _ => []
  | n + 1, v => BitVec.ofNat 8 (v >>> (8 * n)) :: beBytes n v

/-- `n` bytes from an offset, bytes beyond the end reading 0. -/
def slab (bs : Bytes) (off n : Nat) : Bytes :=
  let t := (bs.drop off).take n
  t ++ List.replicate (n - t.length) 0

/-- The big-endian number at an offset. -/
def beAt (bs : Bytes) (off n : Nat) : Nat := beNat (slab bs off n)

/-- Writes bytes over a byte string, which keeps its length. -/
def overlay (bs : Bytes) (off : Nat) (p : Bytes) : Bytes :=
  (bs.take off) ++ ((p.take (bs.length - off)) ++ (bs.drop (off + p.length)))

/-- Saturating sum. -/
def satAdd (top a b : Nat) : Nat := min top (a + b)

/-- Ceiling division. -/
def cdiv (a b : Nat) : Nat := (a + b - 1) / b

/-- Number of set bits. -/
def popCount (n : Nat) (w : Nat) : Nat := ((List.range w).filter (bit n)).length

/-- Lowest set bit below `w`. -/
def lowBit (n w : Nat) : Option Nat := (List.range w).find? (bit n)

/-- One step of the reflected CRC-32C, polynomial 0x1EDC6F41 (R249). -/
def crc32cBit (c : Nat) : Nat := if c % 2 = 1 then (c / 2) ^^^ 0x82F63B78 else c / 2

def crc32cByte (c : Nat) (b : Byte) : Nat := Nat.repeat crc32cBit 8 (c ^^^ b.toNat)

/-- CRC register over bytes, without initial or final inversion. -/
def crc32cRun (c : Nat) (bs : Bytes) : Nat := bs.foldl crc32cByte c

/-- One step of the CRC-16 of overhead and messages, polynomial 0x1021, most significant bit first (R160). -/
def crc16Bit (c : Nat) : Nat := if bit c 15 then ((c * 2) ^^^ 0x1021) % 65536 else (c * 2) % 65536

def crc16Byte (c : Nat) (b : Byte) : Nat := Nat.repeat crc16Bit 8 (c ^^^ (b.toNat * 256))

def crc16Run (c : Nat) (bs : Bytes) : Nat := bs.foldl crc16Byte c

end Sys2Proof.Machine
end

