-- ==== Sys2Proof/Machine/RegTable.lean ====
section
/-! DEFINITION. The implemented registers of a slice (R102, R488, R489) with their field types (R4) and reset values. -/

namespace Sys2Proof.Machine

/-- One row of R489: `cnt` registers at `off`, `off + str`, …; the bits of each field type; whether the row is the high
word of a pair (SH); whether it is slow (R105); the reset value, and what each further index adds to it. -/
structure RegRow where
  off : Nat
  cnt : Nat := 1
  str : Nat := 4
  rw : Nat := 0
  lv : Nat := 0
  ro : Nat := 0
  w1c : Nat := 0
  rcl : Nat := 0
  sh : Bool := false
  slow : Bool := false
  rst : Nat := 0
  rstStep : Nat := 0
  deriving DecidableEq, Repr

def all32 : Nat := 0xFFFFFFFF

/-! Rows of one type. -/
def rRW (off m rst : Nat) (cnt str : Nat) : RegRow := { off, cnt, str, rw := m, rst }
def rLV (off m rst : Nat) (cnt str : Nat) : RegRow := { off, cnt, str, lv := m, rst }
def rRO (off : Nat) (rst : Nat) (cnt str : Nat) : RegRow := { off, cnt, str, ro := all32, rst }
def rWC (off m : Nat) (cnt str : Nat) : RegRow := { off, cnt, str, w1c := m }
def rWO (off cnt str : Nat) : RegRow := { off, cnt, str }
/-- High word of a read-only pair. -/
def rSH (off cnt str : Nat) : RegRow := { off, cnt, str, ro := all32, sh := true }
/-- High word of a writable pair. -/
def rSHW (off m rst cnt str : Nat) : RegRow := { off, cnt, str, lv := m, sh := true, rst }
/-- A run of 64-bit counters, 8 bytes apart. -/
def rCnt (off cnt : Nat) : List RegRow := [rRO off 0 cnt 8, rSH (off + 4) cnt 8]

def rowsRif : List RegRow :=
  [ rLV 0x100 0x10F 0 1 4, rLV 0x104 all32 0 1 4, rLV 0x108 all32 0 1 4, rSHW 0x10C all32 0 1 4,
    rRO 0x110 0 2 4, rRO 0x118 0 2 4, rWO 0x120 2 4, rRO 0x130 0 1 4,
    { off := 0x140, ro := 0x8FFFFFFF, w1c := 0x40000000 } ]

def rowsSlc : List RegRow :=
  [ { off := 0x100, lv := 0x00FF0103, ro := 0x8F0000CC, w1c := 0x20, rst := 0x00140000 },
    { off := 0x110, ro := 0xE000FFFF, rcl := 0x00FF0000 },
    { off := 0x120, ro := 0xFFF, w1c := 0x0FFF0000 },
    rWO 0x130 1 4,
    { off := 0x140, lv := 0xC000, ro := 0x00F007FF },
    rRO 0x144 0 1 4 ]

def rowsLne : List RegRow :=
  [ rRW 0x1000 0x0FC0000F 0x03000000 16 4, rRO 0x1040 0 1 4, rWC 0x1044 0xFFFF 1 4, rLV 0x1080 0xFFFF 0 1 4,
    rRO 0x1100 0 16 4,
    { off := 0x2000, cnt := 16, lv := 0xE00000FF, ro := 0x1FFF0000, slow := true } ]

def rowsSrg : List RegRow :=
  [ rRW 0x1000 0xFF00FFFF 0x01000000 16 16, rRW 0x1004 0xFFFF 0 16 16, rLV 0x1008 0xFFFF 0 16 16, rRO 0x100C 0 16 16,
    { off := 0x1800, cnt := 16, ro := 0xFF800000 },
    rRO 0x2000 0 16 4,
    { off := 0x2040, cnt := 16, ro := 0xFFF0FFFF, rcl := 0x000F0000 },
    rRO 0x3000 0 16 32, rRO 0x3004 0 16 32, rRO 0x3008 0 16 32, rRO 0x300C 0 16 32, rRO 0x3010 0 16 32,
    rRO 0x3014 0 16 32, rRO 0x3018 0 16 32,
    rWO 0x4000 1 4, rLV 0x4004 0x800F00FF 0 1 4, rRO 0x4008 0 1 4, rRO 0x400C 0 1 4 ]

def rowsPrs : List RegRow := [rWC 0x100 3 1 4, rRW 0x1000 0xFF 0xFF 16 4] ++ rCnt 0x2000 3

def rowsCls : List RegRow :=
  [ rWC 0x100 0xF 1 4, { off := 0x110, cnt := 2, ro := 0x7FF, rcl := 0x07FF0000 } ]
  ++ rCnt 0x1000 64 ++ rCnt 0x1400 64 ++ rCnt 0x1800 5

def rowsCam : List RegRow :=
  [rRO 0x100 0 1 4, rLV 0x200 all32 0 20 4, { off := 0x250, lv := 0xF0000000 }, rRO 0x254 0 1 4]

def rowsFwd : List RegRow :=
  [ rLV 0x100 0x7FFFF 0 1 4, rRO 0x110 0 4 4,
    { off := 0x120, lv := 0x1FFF0000, ro := 0x1FFF, rst := 0x00010000 },
    rLV 0x130 0xC0FFFFFF 0x7530 2 4,
    { off := 0x140, lv := 0x03FF0000, ro := 0x4000FFFF, rst := 0x00640000 },
    rLV 0x150 0x07FF00FF 0x0400000A 1 4, rRW 0x160 all32 0 1 4, rRW 0x164 0xFFFF 0 1 4,
    rRW 0x170 all32 0 1 4, rRW 0x174 all32 0xA5A5A5A5 1 4, rLV 0x180 all32 0x64 1 4, rLV 0x200 all32 0 4 4,
    { off := 0x210, lv := 0x8000FFFF, w1c := 0x40000000 } ]
  ++ rCnt 0x1000 8

def rowsFlw : List RegRow :=
  [ rWC 0x100 0xF 1 4, rRW 0x104 3 0 1 4, rRO 0x110 0 1 4, rLV 0x120 0x8000FFFF 0x800003E8 1 4,
    rRW 0x130 0x1FF 0 1 4, rRW 0x134 0x1FF 0x10 1 4, rRW 0x138 0x1FF 0x30 1 4, rRW 0x13C 0x1FF 0x40 1 4,
    rRW 0x140 all32 0 1 4, rRW 0x144 all32 0x5A5A5A5A 1 4, rRO 0x150 0 1 4 ]
  ++ rCnt 0x158 1 ++ [rRO 0x160 0 1 4] ++ rCnt 0x168 1
  ++ [rLV 0x200 all32 0 12 4, rLV 0x230 0x80033F3F 0 1 4, rRO 0x234 0 1 4, rRO 0x300 0 32 4]
  ++ rCnt 0x1000 22

def rowsDmk : List RegRow :=
  [ rWC 0x100 0xF 1 4, rRO 0x110 0 3 4,
    { off := 0x120, ro := 0x007FFF87, rcl := 0xFF800000, rst := 0x00400004 },
    rRO 0x130 0 1 4, { off := 0x140, ro := 0x7FF, rcl := 0x07FF0000 },
    rRW 0x1000 all32 0 256 4, rRW 0x1400 0x80007FFF 0 64 4 ]
  ++ rCnt 0x2000 9 ++ rCnt 0x2100 16

def rowsBuf : List RegRow :=
  [ rRO 0x100 0x30000 1 4, rRO 0x104 0x2FC00 1 4, rRO 0x108 0x280000 1 4, rRO 0x10C 0x280000 1 4, rWC 0x110 0xF 1 4,
    rRW 0x120 0x1FF 0x6C 1 4, rRW 0x140 0x3FFFF 0 8 4, rRO 0x160 0 1 4, rLV 0x180 0xC000FFFF 0xC00003E8 1 4,
    rRW 0x1000 0x8003FFFF 0x00030000 17 16, rRW 0x1110 0x8003FFFF 0x80030000 1 16,
    rRW 0x1120 0x8003FFFF 0x00030000 1 16, rRW 0x1130 0x8003FFFF 0x80030000 1 16,
    rRW 0x1140 0x8003FFFF 0x00030000 1 16,
    { off := 0x1150, rw := 0x0003FFFF, ro := 0x80000000, rst := 0x80030000 },
    rRW 0x1004 0x3FFFF 0 21 16, rRW 0x1154 0x3FFFF 0x400 1 16,
    rRW 0x1008 0x3FFFFF 0x280000 22 16, rRW 0x100C 0x3FFFFF 0 22 16,
    rRO 0x1400 0 22 8, rRO 0x1404 0 22 8 ]
  ++ rCnt 0x2000 7

def rowsSwc : List RegRow :=
  -- SWC_MSESS2 and SWC_STAT have one offset and no bit in common: one register holds both
  [ { off := 0x110, rw := 0xFF9F0000, w1c := 0xF }, rRW 0x100 0xFF9F0000 0 16 8, rRW 0x104 0xFFFFFF 0 16 8,
    rLV 0x400 0xFFFFFFE0 0 8 16, rSHW 0x404 0xFF 0 8 16, rLV 0x408 0x8FFFFFFF 0x00010010 8 16, rRO 0x40C 0 8 16,
    rLV 0x480 0xFFFFFFE0 0 2 16, rSHW 0x484 0xFF 0 2 16, rLV 0x488 0x8000FFFF 0x10 2 16, rLV 0x48C 0x7FFF 0 2 16 ]
  ++ rCnt 0x1000 16 ++ rCnt 0x1080 16 ++ rCnt 0x1100 16 ++ rCnt 0x1200 3 ++ rCnt 0x1300 16 ++ rCnt 0x1380 16
  ++ rCnt 0x1400 8 ++ [rLV 0x8000 0xC000FFFF 0 4096 4]

/-- The port block of TMG, at 0x1000 + 0x100 × p. -/
def rowsTmgPort : List RegRow :=
  [ rRW 0x00 0x8000003F 0x14 1 4, rRW 0x04 0xFFFFF 0 1 4, rRW 0x08 0xFFFFFF 0 1 4, rRW 0x0C 0x70700 0x70700 1 4,
    rRO 0x10 0 1 4, rRO 0x14 0 1 4, rRW 0x20 0xC000FFFF 0x800 8 16, rRW 0x24 0xFFFFF 0 8 16, rRW 0x28 0xFFFFFF 0 8 16,
    rRW 0x2C 0xFFFFF 0 8 16, rRW 0xA0 0xF003FFFF 0xC0001000 8 4, rLV 0xC0 0x8000FF00 0xFF00 1 4,
    rLV 0xC4 all32 0 1 4, rLV 0xC8 all32 0 1 4, rLV 0xCC all32 0x000F4240 1 4, rLV 0xD0 all32 0 1 4,
    rLV 0xD4 0x7FF 1 1 4, { off := 0xD8, ro := 0x97FF03FF, w1c := 0x60000000 }, rRO 0xDC 0 1 4, rRO 0xE0 0 8 4 ]

def rowsTmg : List RegRow :=
  [ rWC 0x100 0xF 1 4, rLV 0x110 all32 0 5 4, rLV 0x124 0xB0003FFF 0 1 4, rRO 0x130 0 5 4, rLV 0x200 0x000F83FF 0 1 4,
    rLV 0x204 0xFF 0 1 4, rLV 0x208 all32 0 1 4, rLV 0x300 all32 0 4 4,
    { off := 0x310, lv := 0xB0003FFF, ro := 0x40000000 }, rRO 0x314 0 1 4 ]
  ++ (List.range 16).flatMap (fun p => rowsTmgPort.map fun r => { r with off := 0x1000 + 0x100 * p + r.off })
  ++ rCnt 0x4000 16 ++ rCnt 0x4080 16 ++ rCnt 0x4100 16 ++ rCnt 0x4180 16 ++ rCnt 0x4200 2

/-- A base block of TIM, at 0x1000 + 0x100 × b, with its two tracker blocks. -/
def rowsTimBase : List RegRow :=
  [ rLV 0x00 0x87FE0000 0x00C80000 1 4, rRO 0x04 0 1 4, rRO 0x08 0 1 4, rRO 0x0C 0 1 4, rRO 0x10 0 1 4, rSH 0x14 1 4,
    rRO 0x18 0 1 4, rRO 0x1C 0 1 4, rLV 0x20 all32 0 1 4 ]
  ++ [0x40, 0x80].flatMap fun o =>
    [ rLV (o + 0x00) 0xFF000000 0x01000000 1 4, rRO (o + 0x04) 0 1 4, rLV (o + 0x08) all32 0 1 4, rWO (o + 0x0C) 1 4,
      rLV (o + 0x10) all32 0 1 4, rSHW (o + 0x14) 0xFFFF 0 1 4, rLV (o + 0x18) all32 0 1 4, rRO (o + 0x1C) 0 1 4 ]

def rowsTim : List RegRow :=
  [ { rWC 0x100 3 1 4 with slow := true } ]
  ++ (List.range 4).flatMap (fun b =>
      rowsTimBase.map fun r => { r with off := 0x1000 + 0x100 * b + r.off, slow := true })
  ++ ([ rLV 0x200 0xE0000003 0 16 4, rLV 0x300 all32 0 16 4, rLV 0x400 0x1FF 0 1 4, rLV 0x410 all32 0 6 4,
        { off := 0x430, lv := 0xB0000FFF, ro := 0x40000000 } ] ++ rCnt 0x2000 4).map (fun r => { r with slow := true })

def rowsDrc : List RegRow :=
  [ rRW 0x110 0x1FF 0x60 1 4, rRW 0x114 0x1FF 0x64 1 4, rRW 0x118 0x800001FF 0x8000013C 1 4,
    rLV 0x120 0xFFFFFF 0x2710 1 4, rLV 0x124 7 6 1 4, { off := 0x128, rcl := all32 }, rLV 0x12C 0xFFFF 0xC8 1 4,
    rLV 0x130 all32 0x00640040 1 4, rLV 0x134 0x8000FFFF 0x80000018 1 4, rLV 0x138 0x8000FFFF 0x8000012C 1 4,
    { off := 0x13C, ro := 0x1F, w1c := 0x80000000 }, rRO 0x140 0 1 4, rSH 0x144 1 4,
    { off := 0x148, ro := 7, w1c := 0x80000000 } ]
  ++ ([6, 5, 4, 5, 4, 2, 3, 1].mapIdx fun p d =>
      { off := 0x200 + 4 * p, lv := 0x07000000, ro := 0x000707FF, rst := d * 0x01010000 })
  ++ [ { off := 0x1000, cnt := 30, ro := all32, rstStep := 0x400000 }, rRO 0x1100 0 32 4 ]
  ++ rCnt 0x2000 5 ++ rCnt 0x2028 8 ++ rCnt 0x2068 8
  ++ [{ off := 0x4000, cnt := 32, str := 0x100, ro := all32, slow := true }]

/-- A channel block of DMA, at 0x1000 + 0x40 × n. -/
def rowsDmaCh : List RegRow :=
  [ rLV 0x00 0xFFFFFFE0 0 1 4, rSHW 0x04 0xFF 0 1 4, rLV 0x08 0x8F00FFFF 0x01000010 1 4, rRO 0x0C 0 1 4,
    rLV 0x10 0x7FFF 0 1 4, rWO 0x14 1 4, rRO 0x18 0 1 4, rRO 0x1C 0 1 4, rRO 0x20 0 1 4, rSH 0x24 1 4, rRO 0x28 0 1 4,
    rSH 0x2C 1 4, rRO 0x30 0 1 4, rSH 0x34 1 4, rLV 0x38 0xFFFF 0 1 4, rWC 0x3C 7 1 4 ]

def rowsDma : List RegRow :=
  [rLV 0x100 0x1F 0x10 1 4, rWC 0x110 0xFFFF 1 4, rWC 0x114 0xFFFF 1 4]
  ++ (List.range 16).flatMap (fun n => rowsDmaCh.map fun r => { r with off := 0x1000 + 0x40 * n + r.off })
  ++ rCnt 0x2000 16 ++ rCnt 0x2080 16 ++ rCnt 0x2100 1

def rowsTsk : List RegRow :=
  [rLV 0x100 0x3FF 1 1 4] ++ rCnt 0x108 1
  ++ [ rRO 0x110 1 1 4, { off := 0x120, ro := 0x1FFF, rcl := 0x1FFF0000 }, rWC 0x130 3 1 4,
       rWO 0x1000 4 0x40, rLV 0x1004 all32 0 4 0x40, rRO 0x1008 0x80000000 4 0x40, rRO 0x100C 0x80000000 4 0x40,
       rLV 0x1010 all32 0 4 0x40, rLV 0x1014 all32 0 4 0x40, rLV 0x1018 all32 0 4 0x40, rLV 0x101C all32 0 4 0x40,
       rRO 0x4000 0 4096 4 ]
  ++ rCnt 0x8000 5

def rowsIcn : List RegRow :=
  [ rLV 0x100 all32 0 1 4, rSHW 0x104 all32 0 1 4, rLV 0x110 all32 0xFFFFFFFF 4 8, rSHW 0x114 all32 0xFFFFFFFF 4 8,
    rLV 0x140 1 0 4 4, rLV 0x160 all32 0 4 8, rSHW 0x164 0xFF 0 4 8, rLV 0x200 0x1FF 0x80000000 4 8,
    rLV 0x204 0x1FF 0x80000000 4 8, rLV 0x240 7 0 4 4, rRO 0x800 0 16 4, rLV 0x1000 0xFCF00FFF 0x04100000 512 4 ]
  ++ rCnt 0x2000 1

def rowsMcs : List RegRow :=
  [ rRO 0x100 0 1 4, { off := 0x110, cnt := 4, ro := 0xFFFF0000, rcl := 0xFFFF }, rLV 0x120 1 0 4 4, rRO 0x130 0 4 4,
    rWC 0x140 0x1F 1 4, { off := 0x200, lv := 0xEFFFFFFF, ro := 0x10000000, rst := 0x40000000 }, rRO 0x210 0 4 4,
    rLV 0x300 0x31FFF 0 1 4, rRO 0x310 0 5 4 ]

def rowsPrf : List RegRow :=
  [ { off := 0x100, lv := 0x50000000, ro := 0xFFFF, w1c := 0x2C000000 }, rWC 0x110 all32 2 4, rWC 0x118 0xFFFF 1 4,
    rRW 0x120 0x1FF 0x10C 1 4, rLV 0x400 all32 0 64 4, rLV 0x600 all32 0 64 4, rLV 0x1000 all32 0 64 8,
    rSHW 0x1004 0xFFFF 0 64 8 ]
  ++ rCnt 0x1400 64 ++ rCnt 0x1800 64 ++ [rRO 0x1C00 0 64 4]
  ++ [ rLV 0x3000 0xFFFFFFC0 0 16 0x20, rSHW 0x3004 0xFF 0 16 0x20, rLV 0x3008 0x8000001F 6 16 0x20, rRO 0x300C 0 16 0x20,
       rLV 0x3010 0xFFFFFF 0 16 0x20, rLV 0x3014 all32 0 16 0x20 ]

def rowsTwn : List RegRow :=
  [ { off := 0x100, ro := 0xFFFF0000, rcl := 0xFFFF }, { off := 0x110, ro := 0x0F000000, rcl := 0x00FFFFFF },
    { off := 0x120, lv := 0xA01F0000, rst := 0x80100000 }, rRO 0x130 0 1 4 ]
  ++ rCnt 0x1000 1

def rowsFlt : List RegRow :=
  [ { off := 0x100, ro := 0x01FF03FF, w1c := 0x80000000 }, rLV 0x104 0x1FF 0 1 4,
    { off := 0x110, lv := 0x8000001F, ro := 0x70000000 } ]
  ++ rCnt 0x1000 4 ++ [rRO 0x4000 0 512 16, rRO 0x4004 0 512 16, rRO 0x4008 0 512 16, rRO 0x400C 0 512 16]

/-- The six common registers (R102). -/
def rowsCommon : List RegRow :=
  [ rRO 0x00 0 1 4, rLV 0x04 3 2 1 4, rRO 0x08 0 1 4, { off := 0x0C, ro := 0x400FFFFF, w1c := 0x80000000 },
    { off := 0x10, ro := 0x800FFFFF, w1c := 0x40000000 }, { off := 0x14, ro := 0x0FFFFFFF, w1c := 0x80000000 } ]

/-- The block's own rows (R489). -/
def rowsOf : Nat → List RegRow
  | 0 => rowsRif | 1 => rowsSlc | 2 => rowsLne | 3 => rowsSrg | 4 => rowsPrs | 5 => rowsCls | 6 => rowsCam
  | 7 => rowsFwd | 8 => rowsFlw | 9 => rowsDmk | 10 => rowsBuf | 11 => rowsSwc | 12 => rowsTmg | 13 => rowsTim
  | 14 => rowsDrc | 15 => rowsDma | 16 => rowsTsk | 17 => rowsIcn | 18 => rowsMcs | 19 => rowsPrf | 20 => rowsTwn
  | 21 => rowsFlt
  | _ => []

/-- Whether a row has a register at an offset. -/
def RegRow.has (r : RegRow) (off : Nat) : Bool :=
  decide (r.off ≤ off) && decide ((off - r.off) % r.str = 0) && decide ((off - r.off) / r.str < r.cnt)

/-- The row of the register at an offset of a block. -/
def rowAt (blk off : Nat) : Option RegRow :=
  if blk < 22 then (if off < 0x18 then rowsCommon else rowsOf blk).find? (·.has off) else none

/-- The reset value of R489 of the register at an offset, `sl` the slice (R102). -/
def resetOf (sl blk off : Nat) : Word :=
  if off = 0 then w32 (blk * 2 ^ 24 + sl * 2 ^ 16 + 0x0100)
  else match rowAt blk off with
    | some r => w32 (r.rst + (off - r.off) / r.str * r.rstStep)
    | none => 0

/-- Highest implemented relative offset of a 4 KiB group plus 4, 0 for a group with no register (R112). -/
def groupTop (blk grp : Nat) : Nat :=
  let tops := ((if grp = 0 then rowsCommon else []) ++ rowsOf blk).map fun r =>
    -- last register of the row that lies in the group
    let lo := grp * 0x1000
    if r.off + (r.cnt - 1) * r.str < lo ∨ lo + 0x1000 ≤ r.off then 0
    else
      let last := min (r.cnt - 1) ((lo + 0xFFF - r.off) / r.str)
      let o := r.off + last * r.str
      if lo ≤ o then o - lo + 4 else 0
  tops.foldl max 0

/-- Smallest power of two at least `n`, up to 4,096. -/
def pow2At (n : Nat) : Nat := ((List.range 13).map (2 ^ ·)).find? (n ≤ ·) |>.getD 4096

/-- Default decode of a window offset (R112): the offset of the implemented register, `none` where it reads as 0. -/
def decodeOff (blk off : Nat) : Option Nat :=
  let o := off % 0x10000
  let g := o / 0x1000
  let t := groupTop blk g
  if t = 0 then none
  else
    let r := g * 0x1000 + (o % 0x1000) % pow2At t
    if (rowAt blk r).isSome then some r else none

end Sys2Proof.Machine
end

