-- ==== Sys2Proof/Machine/Ops.lean ====
section
/-! DEFINITION. The named operations over a slice's registers, tables, memory, time, interrupts, counters and fault log,
and how a command acts on the slices of the part. -/

namespace Sys2Proof.Machine

/-! ### Blocks (R488) -/
abbrev kRIF : Nat := 0
abbrev kSLC : Nat := 1
abbrev kLNE : Nat := 2
abbrev kSRG : Nat := 3
abbrev kPRS : Nat := 4
abbrev kCLS : Nat := 5
abbrev kCAM : Nat := 6
abbrev kFWD : Nat := 7
abbrev kFLW : Nat := 8
abbrev kDMK : Nat := 9
abbrev kBUF : Nat := 10
abbrev kSWC : Nat := 11
abbrev kTMG : Nat := 12
abbrev kTIM : Nat := 13
abbrev kDRC : Nat := 14
abbrev kDMA : Nat := 15
abbrev kTSK : Nat := 16
abbrev kICN : Nat := 17
abbrev kMCS : Nat := 18
abbrev kPRF : Nat := 19
abbrev kTWN : Nat := 20
abbrev kFLT : Nat := 21

/-! ### Commands on slices -/

abbrev Res := Host.Outcome State Fault Refusal

def State.slice (s : State) (sl : SliceId) : Slice := s.slices[sl.val]

def State.setSlice (s : State) (sl : SliceId) (x : Slice) : State := { s with slices := s.slices.set sl.val x }

/-- A command that acts on one slice. -/
def onSlice (sl : SliceId) (f : Slice → Slice) (s : State) : Res := .next (s.setSlice sl (f (s.slice sl)))

/-- A slice that has started: its blocks answer (R20). -/
def Slice.on (x : Slice) : Bool := decide (x.phase ≠ .off)

/-- A slice that may forward: running and not stopped under R472. -/
def Slice.alive (x : Slice) : Bool := decide (x.phase = .running) && !x.lost

/-- A command on a started slice; on a slice that is OFF it has no effect. -/
def onStarted (sl : SliceId) (f : Slice → Slice) (s : State) : Res := onSlice sl (fun x => if x.on then f x else x) s

/-- A command on the forwarding path, of no effect on a slice that cannot forward. -/
def onAlive (sl : SliceId) (f : Slice → Slice) (s : State) : Res := onSlice sl (fun x => if x.alive then f x else x) s

/-! ### Registers -/

/-- Key of a register: its offset from 0x4000_0000. -/
def regKey (blk off : Nat) : Nat := blk * 0x100000 + off

/-- The value a register holds. -/
def regGet (x : Slice) (blk off : Nat) : Word := (sFind x.regs (regKey blk off)).getD (resetOf x.id.val blk off)

/-- A slice with other register contents. -/
def Slice.setRegs (x : Slice) (r : Sparse Word) : Slice := { x with regs := r }

def regSet (x : Slice) (blk off : Nat) (v : Word) : Slice :=
  x.setRegs (sPut (resetOf x.id.val blk off) x.regs (regKey blk off) v)

/-- The value a packet of an epoch sees: the old version while its epoch drains (R127). -/
def regGetEp (x : Slice) (old : Bool) (blk off : Nat) : Word :=
  if old then (sFind x.regsOld (regKey blk off)).getD (regGet x blk off) else regGet x blk off

/-- Bits hi:lo of a register. -/
def regFld (x : Slice) (blk off hi lo : Nat) : Nat := fld (regGet x blk off) hi lo

def regPut (x : Slice) (blk off hi lo v : Nat) : Slice := regSet x blk off (setFld (regGet x blk off) hi lo v)

def regBit (x : Slice) (blk off i : Nat) : Bool := wbit (regGet x blk off) i

/-- A 64-bit pair, low word at `off` (spec 04, "64-bit values"). -/
def pairGet (x : Slice) (blk off : Nat) : Nat := (regGet x blk (off + 4)).toNat * 2 ^ 32 + (regGet x blk off).toNat

def pairSet (x : Slice) (blk off v : Nat) : Slice := regSet (regSet x blk off (w32 v)) blk (off + 4) (w32 (v >>> 32))

/-- Adds to a 64-bit counter. -/
def count (x : Slice) (blk off n : Nat) : Slice := pairSet x blk off (pairGet x blk off + n)

/-- Adds to a field that saturates. -/
def satFld (x : Slice) (blk off hi lo n : Nat) : Slice :=
  regPut x blk off hi lo (satAdd (2 ^ (hi + 1 - lo) - 1) (regFld x blk off hi lo) n)

/-- Adds to a field that wraps. -/
def wrapFld (x : Slice) (blk off hi lo n : Nat) : Slice := regPut x blk off hi lo (regFld x blk off hi lo + n)

/-- Raises a high-water mark. -/
def hwmFld (x : Slice) (blk off hi lo n : Nat) : Slice := regPut x blk off hi lo (max (regFld x blk off hi lo) n)

/-! ### Block states (R99) -/

def stDisabled : Nat := 0
def stEnabled : Nat := 1
def stDraining : Nat := 2
def stPending : Nat := 3
def stFenced : Nat := 4

def blkState (x : Slice) (blk : Nat) : Nat := regFld x blk 8 2 0

def setState (x : Slice) (blk st : Nat) : Slice := regPut x blk 8 2 0 st

def enabled (x : Slice) (blk : Nat) : Bool := decide (blkState x blk = stEnabled)

def fenced (x : Slice) (blk : Nat) : Bool := decide (blkState x blk = stFenced)

def reloading (x : Slice) (blk : Nat) : Bool := regBit x blk 8 4

/-- A block discards items of work: the count of R100. -/
def discarded (x : Slice) (blk n : Nat) : Slice := { x with discards := sPut 0 x.discards blk (sGet 0 x.discards blk + n) }

/-- Messages arrive at a slice's end of the twin link; a fenced TWN discards them (R100). -/
def Slice.receives (x : Slice) (ms : List TwinMsg) : Slice :=
  if fenced x kTWN then discarded x kTWN ms.length else { x with inbox := x.inbox ++ ms }

/-- Delivers messages to a slice's end of the twin link. -/
def State.deliver (s : State) (sl : SliceId) (ms : List TwinMsg) : State := s.setSlice sl ((s.slice sl).receives ms)

/-- A command on a started slice that may send messages to its twin, which join the twin's inbox (R11). -/
def onPair (sl : SliceId) (f : Slice → Slice × List TwinMsg) (s : State) : Res :=
  if (s.slice sl).on then
    let r := f (s.slice sl)
    .next ((s.setSlice sl r.1).deliver (twin sl) r.2)
  else .next s

/-- Whether a block accepts work from its neighbour (R100, R103). -/
def accepts (x : Slice) (blk : Nat) : Bool := enabled x blk && !reloading x blk

/-- The slice is ACTIVE: SLC_PWR.CUR. -/
def awake (x : Slice) : Bool := decide (regFld x kSLC 0x100 7 6 = 0)

/-- The slice is in NAP: SLC_PWR.CUR. -/
def napping (x : Slice) : Bool := decide (regFld x kSLC 0x100 7 6 = 2)

/-! ### Interrupts (R416) -/

def pending (x : Slice) (src : Nat) : Bool := regBit x kICN (0x800 + 4 * (src / 32)) (src % 32)

def setPending (x : Slice) (src : Nat) (b : Bool) : Slice :=
  regPut x kICN (0x800 + 4 * (src / 32)) (src % 32) (src % 32) b.toNat

/-- Raises a source: sets its pending bit, or merges into it and counts the merge. -/
def raiseSrc (x : Slice) (src : Nat) : Slice :=
  if pending x src then count x kICN 0x2000 1 else setPending x src true

def raise (x : Slice) (blk cause : Nat) : Slice := raiseSrc x (blk * 16 + cause)

/-- Sets a sticky bit, raising a cause when it was clear. -/
def flagRaise (x : Slice) (blk off i cause : Nat) : Slice :=
  if regBit x blk off i then x else raise (regPut x blk off i i 1) blk cause

/-- Sets a bit. -/
def setRegBit (x : Slice) (blk off i : Nat) : Slice := regPut x blk off i i 1

def clrRegBit (x : Slice) (blk off i : Nat) : Slice := regPut x blk off i i 0

/-! ### Posted writes (R105, R106) -/

def pendBusy (x : Slice) (blk : Nat) : Bool := regBit x blk 0x10 31

/-- A posted write is dropped: DROPPED, the first offset, and cause 15. -/
def postDrop (x : Slice) (blk off : Nat) : Slice :=
  raise (if regBit x blk 0x10 30 then x else regPut (regPut x blk 0x10 30 30 1) blk 0x10 19 0 off) blk 15

/-! ### Time (R367, R370) -/

/-- Units of a base's time in a nanosecond. -/
def nsUnits : Nat := 2 ^ 42 * 1000000

def secUnits : Nat := nsUnits * 1000000000

def Base.trk (b : Base) (k : Nat) : Trk := if k = 0 then b.t0 else b.t1

def Base.setTrk (b : Base) (k : Nat) (t : Trk) : Base := if k = 0 then { b with t0 := t } else { b with t1 := t }

def timOff (b : Nat) : Nat := 0x1000 + 0x100 * b

def trkOff (b k : Nat) : Nat := 0x1040 + 0x100 * b + 0x40 * k

def aselOf (x : Slice) (b : Nat) : Nat := regFld x kTIM (timOff b) 31 31

def baseOf (x : Slice) (b : Nat) : Base := (x.bases[b]?).getD Base.zero

def setBase (x : Slice) (b : Nat) (v : Base) : Slice := { x with bases := x.bases.setIfInBounds b v }

/-- A base's present time in units: its active tracker's time plus res (R370), with 48-bit seconds. -/
def baseNow (x : Slice) (b : Nat) : Nat :=
  ((((baseOf x b).trk (aselOf x b)).time + (baseOf x b).res) % ((2 ^ 48 * secUnits : Nat) : Int)).toNat

def secOf (u : Nat) : Nat := u / secUnits % 2 ^ 48
def nsOf (u : Nat) : Nat := u % secUnits / nsUnits
/-- The 16-bit fraction, a multiple of 0x2000 (R367). -/
def fracOf (u : Nat) : Nat := u % nsUnits * 8 / nsUnits * 0x2000

/-- A time of a base, in its units, as a stamp. -/
def stampAt (b : BaseId) (u : Nat) : Stamp := ⟨b, secOf u, nsOf u, fracOf u⟩

/-- Present time of a base as a stamp. -/
def stampNow (x : Slice) (b : BaseId) : Stamp := stampAt b (baseNow x b.val)

/-- Units of a time in seconds and nanoseconds. -/
def unitsOf (sec ns : Nat) : Nat := sec * secUnits + ns * nsUnits

/-- Nanoseconds of a stamp with 16 fraction bits. -/
def Stamp.fine (t : Stamp) : Nat := (t.sec * 1000000000 + t.ns) * 65536 + t.frac

/-- The F3 format: seconds 31:0 above nanoseconds (R251). -/
def stampF3 (t : Stamp) : Dword := d64 ((t.sec % 2 ^ 32) * 2 ^ 32 + t.ns)

/-- The base a port's timestamps are taken on (R368). -/
def portBase (x : Slice) (p : Nat) : BaseId := ⟨regFld x kTIM (0x200 + 4 * p) 1 0 % 4, Nat.mod_lt _ (by decide)⟩

/-! ### Performance counters (R452 to R456, R460) -/

/-- A counter counts `k` events. -/
def prfAdd (x : Slice) (n k : Nat) : Slice :=
  let v := pairGet x kPRF (0x1000 + 8 * n)
  let x := pairSet x kPRF (0x1000 + 8 * n) ((v + k) % 2 ^ 48)
  if v + k < 2 ^ 48 then x
  else
    let x := setRegBit x kPRF (0x110 + 4 * (n / 32)) (n % 32)
    let x := if regBit x kPRF (0x400 + 4 * n) 26 then raise x kPRF 0 else x
    if regBit x kPRF 0x100 30 then setRegBit x kPRF 0x100 29 else x

/-- Counters whose selection register is not 0. -/
def prfSelected (x : Slice) : List (Nat × Word) :=
  (x.regs.filter fun e => decide (regKey kPRF 0x400 ≤ e.1) && decide (e.1 < regKey kPRF 0x500)).map fun e =>
    ((e.1 - regKey kPRF 0x400) / 4, e.2)

/-- A count event happens `k` times: every counter that selects it counts, except COUNT counters while frozen. -/
def perf (x : Slice) (ev sub subMask k : Nat) : Slice :=
  (prfSelected x).foldl (fun x e =>
    if wbit e.2 31 && decide (fld e.2 23 16 = ev) && decide (fld e.2 15 0 &&& subMask = sub)
        && (decide (fld e.2 30 29 = 2) || (decide (fld e.2 30 29 = 0) && !regBit x kPRF 0x100 29))
    then prfAdd x e.1 k else x) x

/-! ### Fault log (R469 to R472) -/

/-- Classes of R467. -/
def fcSoft : Nat := 0
def fcSpared : Nat := 1
def fcDegraded : Nat := 2
def fcLost : Nat := 3

/-- Unit code of a whole block. -/
def wholeBlock : Nat := 0xFF

def fltHead (x : Slice) : Nat := regFld x kFLT 0x100 24 16
def fltCount (x : Slice) : Nat := regFld x kFLT 0x100 9 0

/-- Writes a log slot. -/
def fltSlot (x : Slice) (k : Nat) (w0 w1 w2 w3 : Word) : Slice :=
  regSet (regSet (regSet (regSet x kFLT (0x4000 + 16 * k) w0) kFLT (0x4004 + 16 * k) w1) kFLT (0x4008 + 16 * k) w2)
    kFLT (0x400C + 16 * k) w3

/-- Oldest unread slot of a class. -/
def fltOldest (x : Slice) (cls : Nat) : Option Nat :=
  ((List.range (fltCount x)).map fun i => (fltHead x + 512 - fltCount x + i) % 512).find? fun k =>
    regFld x kFLT (0x4000 + 16 * k) 30 28 = cls

/-- An entry was dropped or replaced with the log full. -/
def fltLostEntry (x : Slice) : Slice := flagRaise (count x kFLT 0x1000 1) kFLT 0x100 31 3

/-- Places an entry in the log. -/
def fltStore (x : Slice) (cls : Nat) (w0 w1 w2 w3 : Word) : Slice :=
  if fltCount x < 512 then
    let h := fltHead x
    regPut (regPut (fltSlot x h w0 w1 w2 w3) kFLT 0x100 24 16 (h + 1)) kFLT 0x100 9 0 (fltCount x + 1)
  else if cls < fcDegraded then fltLostEntry x
  else match (fltOldest x fcSoft).orElse fun _ => fltOldest x fcSpared with
    | some k => fltLostEntry (fltSlot x k w0 w1 w2 w3)
    | none => fltLostEntry x

/-- A stomped frame is counted once for its ingress port (R337). -/
def stompIn (x : Slice) (id : Nat) : Slice :=
  match x.frames.find? (·.id = id) with
  | none => x
  | some f =>
    if f.stomped then x
    else
      let x := { x with frames := x.frames.map fun g => if g.id = id then { g with stomped := true } else g }
      match f.lanes with
      | some l => count x kSWC (0x1080 + 8 * l.val) 1
      | none => x

/-- Ends as stomped the frames being sent (R337, R472). -/
def stompSending (x : Slice) : Slice :=
  if x.sending = [] then x
  else
    let x := x.sending.foldl (fun x e =>
      stompIn (count x kSWC (0x1100 + 8 * e.lane.val) 1) e.copy.frm) { x with sending := [] }
    flagRaise x kSWC 0x110 0 0

/-- A LOST fault: ingress stops, frames inside are lost, the front lanes go to electrical idle (R472). -/
def sliceLost (x : Slice) : Slice :=
  let x := stompSending x
  { x with lost := true, report := true, fifo := [], win := [], recirc := [], flowIn := [] }

/-- Adds a fault log entry and reports it (R469, R471); an entry of class LOST stops the slice (R472). -/
def faultLog (x : Slice) (cls blk unit code detail : Nat) : Slice :=
  let t := baseNow x 0
  let w0 := w32 (2 ^ 31 + cls * 2 ^ 28 + blk * 2 ^ 16 + unit * 2 ^ 8 + code)
  let x := fltStore x cls w0 (w32 (secOf t)) (w32 (nsOf t)) (w32 detail)
  let x := if cls = fcSoft then count x kFLT 0x1008 1 else if cls = fcSpared then count x kFLT 0x1010 1
    else if cls = fcDegraded then count x kFLT 0x1018 1 else x
  let x := raise x kFLT 0
  let x := if cls = fcSpared then raise x kFLT 1 else if cls = fcDegraded then raise x kFLT 2 else x
  let x := if cls = fcSoft then x
    else { x with toHub := x.toHub ++ [⟨0x0008, d64 (w0.toNat * 2 ^ 32 + detail % 2 ^ 32), some (w0, w32 detail)⟩] }
  if cls = fcLost then sliceLost x else x

/-- Blocks whose loss stops forwarding (R468). -/
def lostBlocks : List Nat := [kLNE, kPRS, kCLS, kCAM, kFWD, kFLW, kDMK, kBUF, kSWC, kTMG, kTIM, kDRC]

/-- A fault fences a whole block (R99, R104, R468). -/
def fenceBlock (x : Slice) (blk code detail : Nat) : Slice :=
  faultLog (setState x blk stFenced) (if blk ∈ lostBlocks then fcLost else fcDegraded) blk wholeBlock code detail

/-! ### On-die tables -/

/-- Table numbers (R117), and the model's own numbers for the tables that have none. -/
abbrev tNode : Nat := 0x0400
abbrev tTrans : Nat := 0x0401
abbrev tProf : Nat := 0x0500
abbrev tCmp : Nat := 0x0501
abbrev tRule : Nat := 0x0502
abbrev tTree : Nat := 0x0503
abbrev tCam : Nat := 0x0600
abbrev tTrie : Nat := 0x0700
abbrev tL2 : Nat := 0x0701
abbrev tHandle : Nat := 0x0702
abbrev tKeyProf : Nat := 0x0800
abbrev tProg : Nat := 0x0900
abbrev tData : Nat := 0x0901
abbrev tAq : Nat := 0x0C00
abbrev tPol : Nat := 0x0C01
abbrev tScene : Nat := 0x0D00
abbrev tSlot : Nat := 0x1000

def tabKey (tid idx word : Nat) : Nat := (tid * 2 ^ 24 + idx) * 64 + word

/-- A word of a table entry, current version. -/
def tabGet (x : Slice) (tid idx word : Nat) : Word := sGet 0 x.tabs (tabKey tid idx word)

/-- A word of a table entry as a packet sees it; `old` for a packet of the draining epoch (R127). -/
def tabGetEp (x : Slice) (old : Bool) (tid idx word : Nat) : Word :=
  if old then (sFind x.tabsOld (tabKey tid idx word)).getD (tabGet x tid idx word) else tabGet x tid idx word

def tabSet (x : Slice) (tid idx word : Nat) (v : Word) : Slice :=
  { x with tabs := sPut 0 x.tabs (tabKey tid idx word) v }

/-- Words 0 to n − 1 of an entry. -/
def tabRow (x : Slice) (tid idx n : Nat) : List Word := (List.range n).map (tabGet x tid idx)

def tabRowEp (x : Slice) (old : Bool) (tid idx n : Nat) : List Word := (List.range n).map (tabGetEp x old tid idx)

def tabPutRow (x : Slice) (tid idx : Nat) (ws : List Word) : Slice :=
  (ws.zipIdx).foldl (fun x p => tabSet x tid idx p.2 p.1) x

/-- Whether a packet's epoch is the draining one. -/
def isOld (x : Slice) (ep : BitVec 4) : Bool :=
  regBit x kRIF 0x130 23 && decide (regFld x kRIF 0x130 27 24 = ep.toNat)

def curEpoch (x : Slice) : BitVec 4 := BitVec.ofNat 4 (regFld x kRIF 0x130 31 28)

def wordBytes (w : Word) : Bytes := beBytes 4 w.toNat

def wordsBytes (ws : List Word) : Bytes := ws.flatMap wordBytes

/-- Words of a byte string, the first byte in bits 31:24. -/
def bytesWords (bs : Bytes) : List Word := (List.range (cdiv bs.length 4)).map fun i => w32 (beAt bs (4 * i) 4)

def dwordBytes (d : Dword) : Bytes := beBytes 8 d.toNat

def bytesDwords (bs : Bytes) : List Dword := (List.range (cdiv bs.length 8)).map fun i => d64 (beAt bs (8 * i) 8)

/-! ### DRAM (R391, R393) -/

def dramBase : Nat := 0x1000000000

/-- Mapped DRAM: 30 pseudo-channels of 768 MiB. -/
def dramSize : Nat := 30 * 768 * 2 ^ 20

def mapped (addr n : Nat) : Bool := decide (dramBase ≤ addr) && decide (addr + n ≤ dramBase + dramSize)

/-- `n` bytes of DRAM from an offset; an unlisted byte reads 0. -/
def dramGet (x : Slice) (off n : Nat) : Bytes := sGetBytes x.dram off n

/-- Logical pseudo-channel l and index w of a 256-byte block (R392). -/
def blockLoc (blk : Nat) : Nat × Nat := ((blk + blk / 30) % 30, blk / 30)

/-- STATE of DRC_PCMAPl. -/
def pcmState (x : Slice) (l : Nat) : Nat := regFld x kDRC (0x1000 + 4 * l) 31 30

def pcNormal : Nat := 0
def pcRebuild : Nat := 1
def pcLost : Nat := 3

/-- Whether a 32-byte word cannot be read: its pseudo-channel is LOST, or its block waits for the rebuild and no write
has covered the word since the remap (R403, R405, R406). -/
def wordGone (x : Slice) (w : Nat) : Bool :=
  let loc := blockLoc (w / 8)
  decide (pcmState x loc.1 = pcLost)
  || (decide (pcmState x loc.1 = pcRebuild) && decide (regFld x kDRC (0x1000 + 4 * loc.1) 21 0 ≤ loc.2)
      && !decide (w ∈ x.written))

/-- The 32-byte words a span touches. -/
def wordsOf (off n : Nat) : List Nat := (List.range (cdiv (off + n) 32 - off / 32)).map (off / 32 + ·)

/-- The 32-byte words a span covers whole. -/
def wordsWhole (off n : Nat) : List Nat :=
  (wordsOf off n).filter fun w => off ≤ 32 * w ∧ 32 * w + 32 ≤ off + n

/-- Whether any word of a span is poisoned or gone (R401). -/
def poisoned (x : Slice) (off n : Nat) : Bool :=
  (x.poison.any fun w => decide (32 * w < off + n) && decide (off < 32 * w + 32))
  || ((decide (x.rebuilds ≠ []) || decide (x.lostChans ≠ [])) && (wordsOf off n).any (wordGone x))

/-- Writes DRAM bytes at an offset. A whole 32-byte word written is no longer poisoned (R401); during a rebuild it counts
as written (R405). A write to a LOST pseudo-channel leaves its words unreadable (R403). -/
def dramPut (x : Slice) (off : Nat) (bs : Bytes) : Slice :=
  { x with dram := sPutBytes x.dram off bs,
           poison := x.poison.filter fun w => !(decide (off ≤ 32 * w) && decide (32 * w + 32 ≤ off + bs.length)),
           written := if x.rebuilds = [] then x.written else (wordsWhole off bs.length).foldl insNat x.written }

/-- Offset of a region whose base register counts 64 MiB units. -/
def region (x : Slice) (blk off : Nat) : Nat := regFld x blk off 8 0 * 2 ^ 26

/-! ### Free values -/

/-- A free 32-bit value, and the state with the counter advanced. -/
def freeW (x : Slice) : Word × Slice := (Config.freeWord x.id.val x.free, { x with free := x.free + 1 })

def freeD (x : Slice) : Dword × Slice := (Config.freeDword x.id.val x.free, { x with free := x.free + 1 })

end Sys2Proof.Machine
end

