-- ==== Sys2Proof/Machine/Tsk.lean ====
section
/-! DEFINITION. The task dispatcher: slots, the ready list, events, delays and the operations of the CPUs
(R421 to R428). -/

namespace Sys2Proof.Machine

/-! Slot states (R421). -/
def tsFree : Nat := 0
def tsDormant : Nat := 1
def tsReady : Nat := 2
def tsRunning : Nat := 3
def tsDelayed : Nat := 4
def tsWaiting : Nat := 5
def tsLost : Nat := 6

/-! Result codes (R423). -/
def rsOk : Nat := 0
def rsRetry : Nat := 1
def rsDenied : Nat := 2
def rsBadState : Nat := 4
def rsBadOp : Nat := 5

/-! CPU states of TSK_CPUST. -/
def cpuParked : Nat := 0
def cpuRunning : Nat := 1
def cpuFenced : Nat := 2

def cpuState (x : Slice) (c : Nat) : Nat := regFld x kTSK 0x110 (2 * c + 1) (2 * c)

def setCpuState (x : Slice) (c st : Nat) : Slice := regPut x kTSK 0x110 (2 * c + 1) (2 * c) st

/-- CPUs not fenced, lowest first. -/
def survivors (x : Slice) : List Nat := (List.range 4).filter fun c => cpuState x c ≠ cpuFenced

def tskOff (c : Nat) : Nat := 0x1000 + 0x40 * c

/-- The task a CPU runs. -/
def curTask (x : Slice) (c : Nat) : Option Nat :=
  if regBit x kTSK (tskOff c + 0xC) 31 then none else some (regFld x kTSK (tskOff c + 0xC) 13 0)

def setCur (x : Slice) (c : Nat) (t : Option Nat) : Slice :=
  regSet x kTSK (tskOff c + 0xC) (match t with | none => 0x80000000 | some n => w32 n)

def slotW (x : Slice) (n w : Nat) : Word := tabGet x tSlot n w

def slotFld (x : Slice) (n w hi lo : Nat) : Nat := fld (slotW x n w) hi lo

def slotPut (x : Slice) (n w hi lo v : Nat) : Slice := tabSet x tSlot n w (setFld (slotW x n w) hi lo v)

def slotState (x : Slice) (n : Nat) : Nat := slotFld x n 0 31 29

def slotPrio (x : Slice) (n : Nat) : Nat := slotFld x n 0 28 24

/-- AFF, 0 taken as 0xF (R421). -/
def slotAff (x : Slice) (n : Nat) : Nat := if slotFld x n 0 23 20 = 0 then 15 else slotFld x n 0 23 20

/-- Privileged slots 0 to 63 (R421). -/
def slotPriv (n : Nat) : Bool := decide (n < 64)

def tskTick (x : Slice) : Nat := (regGet x kTSK 0x108).toNat

/-- TSK_RDY follows the ready list. -/
def syncRdy (x : Slice) : Slice :=
  hwmFld (regPut x kTSK 0x120 12 0 x.rdy.length) kTSK 0x120 28 16 x.rdy.length

/-- TSK_EVCNTe.waiters follows the event's list. -/
def syncWaiters (x : Slice) (e : Nat) : Slice :=
  regPut x kTSK (0x4000 + 4 * e) 27 16 (min 4095 (x.waiters.filter (·.2 = e)).length)

/-- Whether the ready list refuses a slot: 4,032 non-privileged tasks are READY (R428). -/
def rdyFull (x : Slice) (n : Nat) : Bool :=
  !slotPriv n && decide (4032 ≤ (x.rdy.filter fun k => !slotPriv k).length)

/-- The CPU that a newly READY task preempts (R425). -/
def preemptCpu (x : Slice) (n : Nat) : Option Nat :=
  let cs := (List.range 4).filter fun c => cpuState x c = cpuRunning ∧ bit (slotAff x n) c
  match cs.find? fun c => (curTask x c).isNone with
  | some c => some c
  | none =>
    cs.foldl (fun best c =>
      match curTask x c with
      | none => best
      | some t =>
        if slotPrio x n ≤ slotPrio x t then best
        else match best with
          | none => some c
          | some b => if slotPrio x t < slotPrio x ((curTask x b).getD 0) then some c else some b) none

/-- Raises the preempt cause of the CPU chosen for a READY task (R425). -/
def preempt (x : Slice) (n : Nat) : Slice :=
  match preemptCpu x n with
  | some c => raise x kTSK c
  | none => x

/-- A task takes state READY with a LASTWAKE and joins the tail of the ready list. -/
def enterReady (x : Slice) (n lw : Nat) : Slice :=
  let x := slotPut (slotPut x n 0 31 29 tsReady) n 0 7 6 lw
  syncRdy { x with rdy := x.rdy ++ [n] }

/-- A task becomes READY and a CPU is preempted for it. -/
def makeReady (x : Slice) (n lw : Nat) : Slice := preempt (enterReady x n lw) n

/-- An operation was refused with RETRY, or a hardware SIGNAL began to wait (R428). -/
def retryFlag (x : Slice) : Slice := raise (setRegBit (count x kTSK 0x8008 1) kTSK 0x130 0) kTSK 6

/-! ### Events (R426) -/

/-- The waiter a SIGNAL readies: highest priority, the oldest among equals. -/
def bestWaiter (x : Slice) (e : Nat) : Option Nat :=
  (x.waiters.filter (·.2 = e)).foldl (fun best w =>
    match best with
    | none => some w.1
    | some b => if slotPrio x b < slotPrio x w.1 then some w.1 else some b) none

def eventCount (x : Slice) (e : Nat) : Nat := regFld x kTSK (0x4000 + 4 * e) 15 0

/-- Whether a SIGNAL is refused for a full ready list (R428). -/
def signalRefused (x : Slice) (e : Nat) : Bool :=
  match bestWaiter x e with
  | some n => rdyFull x n
  | none => false

/-- A waiter leaves its event's list. -/
def leaveEvent (x : Slice) (n e : Nat) : Slice := syncWaiters { x with waiters := x.waiters.filter (·.1 ≠ n) } e

/-- An accepted SIGNAL: the slot it made READY, if any, and the state after (R426). -/
def signalEvent (x : Slice) (e : Nat) : Option Nat × Slice :=
  match bestWaiter x e with
  | some n =>
    let x := leaveEvent x n e
    (some n, makeReady { x with delays := x.delays.filter (·.slot ≠ n) } n 2)
  | none =>
    if eventCount x e = 65535 then (none, count x kTSK 0x8020 1)
    else (none, regPut x kTSK (0x4000 + 4 * e) 15 0 (eventCount x e + 1))

/-! ### Delays (R427) -/

/-- A tick comes after another, modulo 2^32. -/
def tickAfter (a b : Nat) : Bool := decide ((a + 2 ^ 32 - b) % 2 ^ 32 < 2 ^ 31) && decide (a ≠ b)

/-- Inserts in WTICK order, ties in order of insertion. -/
def insDelay : List Delay → Delay → List Delay
  | [], d => [d]
  | k :: l, d => if tickAfter k.wtick.toNat d.wtick.toNat then d :: k :: l else k :: insDelay l d

def addDelay (x : Slice) (n ticks : Nat) : Slice :=
  let w := w32 (tskTick x + ticks)
  let x := tabSet x tSlot n 1 w
  { x with delays := insDelay x.delays ⟨n, w⟩ }

/-- Moves one due entry to READY. -/
def expire (x : Slice) (d : Delay) : Slice :=
  let late := decide (d.wtick.toNat ≠ tskTick x)
  let x := { x with delays := x.delays.filter (·.slot ≠ d.slot) }
  let x := if late then flagRaise (count x kTSK 0x8010 1) kTSK 0x130 1 7 else x
  if slotState x d.slot = tsWaiting then
    makeReady (count (leaveEvent x d.slot (slotFld x d.slot 2 11 0)) kTSK 0x8018 1) d.slot 3
  else makeReady x d.slot 1

/-- Moves up to `k` due entries, in list order, leaving those that find no ready-list entry. -/
def expireDue : Nat → List Delay → Slice → Slice
  | 0, _, x => x
  | _, [], x => x
  | k + 1, d :: ds, x =>
    if tickAfter d.wtick.toNat (tskTick x) then x
    else if rdyFull x d.slot then expireDue (k + 1) ds x
    else expireDue k ds (expire x d)

/-- TASK_TICK: the tick advances and due tasks become READY (R427). -/
def execTaskTick (sl : SliceId) (s : State) : Res :=
  onStarted sl (fun x =>
    let x := count x kTSK 0x108 1
    expireDue 256 x.delays x) s

/-! ### Operations (R422) -/

def tskArg (x : Slice) (c : Nat) : Word := regGet x kTSK (tskOff c + 4)

/-- Writes TSK_RESc (R423). -/
def setRes (x : Slice) (c : Nat) (none : Bool) (status wake slot : Nat) : Slice :=
  regSet x kTSK (tskOff c + 8) (w32 (none.toNat * 2 ^ 31 + status * 2 ^ 28 + wake * 2 ^ 26 + slot % 2 ^ 14))

/-- The task NEXT picks for CPU c: the oldest of the highest priority whose AFF includes c (R425). -/
def pickTask (x : Slice) (c : Nat) : Option Nat :=
  (x.rdy.filter fun n => bit (slotAff x n) c).foldl (fun best n =>
    match best with
    | none => some n
    | some b => if slotPrio x b < slotPrio x n then some n else some b) none

/-- CPU c receives the next task, or none (R425). -/
def takeNext (x : Slice) (c : Nat) : Slice :=
  match pickTask x c with
  | none => setRes (setCur x c none) c true rsOk 0 0
  | some n =>
    let x := syncRdy { x with rdy := x.rdy.filter (· ≠ n) }
    let x := slotPut (slotPut x n 0 31 29 tsRunning) n 0 1 0 c
    let x := count (setCur x c (some n)) kTSK 0x8000 1
    setRes x c false rsOk (slotFld x n 0 7 6) n

/-- Preempts for a task requeued by NEXT unless NEXT returned it. -/
def preemptIfReady (x : Slice) (n : Nat) : Slice := if slotState x n = tsReady then preempt x n else x

/-- NEXT READY: the current task joins the tail of its priority. -/
def nextReadyOp (x : Slice) (c : Nat) : Slice :=
  match curTask x c with
  | none => takeNext x c
  | some n =>
    if rdyFull x n then setRes (retryFlag x) c false rsRetry 0 n
    else preemptIfReady (takeNext (enterReady (setCur x c none) n 0) c) n

/-- NEXT DELAY: the current task is DELAYED for a number of ticks. -/
def nextDelayOp (x : Slice) (c : Nat) : Slice :=
  match curTask x c with
  | none => takeNext x c
  | some n =>
    let x := slotPut (setCur x c none) n 0 31 29 tsDelayed
    takeNext (addDelay x n (fld (tskArg x c) 29 0)) c

/-- NEXT WAIT: takes an event count, or the task waits (R426). -/
def nextWaitOp (x : Slice) (c : Nat) : Slice :=
  match curTask x c with
  | none => takeNext x c
  | some n =>
    let e := fld (tskArg x c) 27 16
    let tmo := fld (tskArg x c) 15 0
    if 0 < eventCount x e then
      let x := regPut x kTSK (0x4000 + 4 * e) 15 0 (eventCount x e - 1)
      let x := count (slotPut x n 0 7 6 2) kTSK 0x8000 1
      setRes x c false rsOk 2 n
    else
      let x := slotPut (slotPut (setCur x c none) n 0 31 29 tsWaiting) n 2 11 0 e
      let x := syncWaiters { x with waiters := x.waiters ++ [(n, e)] } e
      takeNext (if slotPriv n && decide (tmo ≠ 0) then addDelay x n tmo else x) c

/-- NEXT STOP: DORMANT, or READY with one pending wake taken. -/
def nextStopOp (x : Slice) (c : Nat) : Slice :=
  match curTask x c with
  | none => takeNext x c
  | some n =>
    let p := slotFld x n 0 15 8
    let x := setCur x c none
    if p = 0 then takeNext (slotPut x n 0 31 29 tsDormant) c
    else preemptIfReady (takeNext (enterReady (slotPut x n 0 15 8 (p - 1)) n 1) c) n

/-- A CPU's operation on a running CPU. -/
def onCpu (sl : SliceId) (c : Cpu) (f : Slice → Slice) (s : State) : Res :=
  onStarted sl (fun x => if cpuState x c.val = cpuRunning then { f x with bus := .done } else x) s

/-- NEXT with the disposition that TSK_ARGc holds (R422). -/
def nextOp (disp : Nat) (op : Slice → Nat → Slice) (c : Nat) (x : Slice) : Slice :=
  if fld (tskArg x c) 31 30 = disp then op x c else x

def execNextReady (sl : SliceId) (c : Cpu) (s : State) : Res := onCpu sl c (nextOp 0 nextReadyOp c.val) s

def execNextDelay (sl : SliceId) (c : Cpu) (s : State) : Res := onCpu sl c (nextOp 1 nextDelayOp c.val) s

def execNextWait (sl : SliceId) (c : Cpu) (s : State) : Res := onCpu sl c (nextOp 2 nextWaitOp c.val) s

def execNextStop (sl : SliceId) (c : Cpu) (s : State) : Res := onCpu sl c (nextOp 3 nextStopOp c.val) s

def argSlot (x : Slice) (c : Nat) : Nat := fld (tskArg x c) 13 0

/-- WAKE (R422, R424, R428). -/
def wakeOp (c : Nat) (mode : Priv) (x : Slice) : Slice :=
  let n := argSlot x c
  let st := slotState x n
  if slotPriv n && decide (mode = .u) then setRes x c false rsDenied 0 n
  else if st = tsFree ∨ st = tsLost then setRes x c false rsBadState 0 n
  else if st = tsDormant then
    if rdyFull x n then setRes (retryFlag x) c false rsRetry 0 n
    else setRes (makeReady x n 1) c false rsOk 0 n
  else setRes (slotPut x n 0 15 8 (satAdd 255 (slotFld x n 0 15 8) 1)) c false rsOk 0 n

def execTaskWake (sl : SliceId) (c : Cpu) (mode : Priv) (s : State) : Res := onCpu sl c (wakeOp c.val mode) s

/-- SIGNAL (R426): the SLOT field of its result is not stated where no slot was operated on. -/
def signalOp (c : Nat) (x : Slice) : Slice :=
  let e := fld (tskArg x c) 11 0
  if signalRefused x e then
    let f := freeW x
    setRes (retryFlag f.2) c false rsRetry 0 f.1.toNat
  else
    let r := signalEvent x e
    match r.1 with
    | some n => setRes r.2 c false rsOk 0 n
    | none => let f := freeW r.2; setRes f.2 c false rsOk 0 f.1.toNat

def execSignal (sl : SliceId) (c : Cpu) (s : State) : Res := onCpu sl c (signalOp c.val) s

/-- SETPRIO (R422, R424). -/
def setPrioOp (c : Nat) (mode : Priv) (x : Slice) : Slice :=
  let n := argSlot x c
  if slotPriv n && decide (mode = .u) then setRes x c false rsDenied 0 n
  else
    let x := slotPut x n 0 28 24 (fld (tskArg x c) 28 24)
    let x := if slotState x n = tsReady then { x with rdy := x.rdy.filter (· ≠ n) ++ [n] } else x
    setRes x c false rsOk 0 n

def execSetPrio (sl : SliceId) (c : Cpu) (mode : Priv) (s : State) : Res := onCpu sl c (setPrioOp c.val mode) s

/-- Slot words as a WRITE stores them: PRIV read-only, reserved bits 0 (R421). -/
def slotImage (n : Nat) (w0 w1 w2 w3 : Word) : List Word :=
  [setBit (setFld (setFld w0 18 16 0) 5 2 0) 19 (slotPriv n), w1, setFld w2 31 12 0, w3]

/-- WRITE (R421, R422, R424, R428). -/
def taskWriteOp (c : Nat) (mode : Priv) (x : Slice) : Slice :=
  let n := argSlot x c
  let w := fun i => regGet x kTSK (tskOff c + 0x10 + 4 * i)
  let st := fld (w 0) 31 29
  if (slotPriv n || decide (24 ≤ fld (w 0) 28 24)) && decide (mode = .u) then setRes x c false rsDenied 0 n
  else if tsReady ≤ slotState x n ∧ slotState x n ≤ tsWaiting ∨ tsReady < st then setRes x c false rsBadState 0 n
  else if st = tsReady ∧ rdyFull x n then setRes (retryFlag x) c false rsRetry 0 n
  else
    let x := tabPutRow x tSlot n (slotImage n (w 0) (w 1) (w 2) (w 3))
    let x := if st = tsReady then preempt (syncRdy { x with rdy := x.rdy ++ [n] }) n else x
    setRes x c false rsOk 0 n

def execTaskWrite (sl : SliceId) (c : Cpu) (mode : Priv) (s : State) : Res := onCpu sl c (taskWriteOp c.val mode) s

/-- READ (R422). -/
def taskReadOp (c : Nat) (x : Slice) : Slice :=
  let n := argSlot x c
  let p := fun (x : Slice) i => regSet x kTSK (tskOff c + 0x10 + 4 * i) (slotW x n i)
  let x := p (p (p (p x 0) 1) 2) 3
  let x := regPut x kTSK (tskOff c + 0x10) 19 19 (slotPriv n).toNat
  setRes x c false rsOk 0 n

def execTaskRead (sl : SliceId) (c : Cpu) (s : State) : Res := onCpu sl c (taskReadOp c.val) s

/-- An operation code of a CPU's TSK_OPc (R422). -/
def tskOperate (x : Slice) (c : Nat) (mode : Priv) (code : Nat) : Slice :=
  match code with
  | 1 =>
    match fld (tskArg x c) 31 30 with
    | 0 => nextReadyOp x c
    | 1 => nextDelayOp x c
    | 2 => nextWaitOp x c
    | _ => nextStopOp x c
  | 2 => wakeOp c mode x
  | 3 => signalOp c x
  | 4 => setPrioOp c mode x
  | 5 => taskWriteOp c mode x
  | 6 => taskReadOp c x
  | _ => setRes x c false rsBadOp 0 (argSlot x c)

/-! ### Loss of a CPU (R425) -/

/-- The current task of a lost CPU becomes LOST. -/
def loseCurrent (x : Slice) (c : Nat) : Slice :=
  match curTask x c with
  | none => x
  | some n => raise (slotPut (setCur x c none) n 0 31 29 tsLost) kTSK 5

/-- Slots whose first word is not 0. -/
def usedSlots (x : Slice) : List Nat :=
  (x.tabs.filter fun e => decide (tabKey tSlot 0 0 ≤ e.1) && decide (e.1 < tabKey tSlot 16384 0) && decide (e.1 % 64 = 0)).map
    fun e => e.1 / 64 - tSlot * 2 ^ 24

/-- Clears fenced CPUs from every slot's AFF; an AFF left at 0 takes the mask of the survivors. -/
def clearLostAff (x : Slice) : Slice :=
  let sv := (survivors x).foldl (fun m c => m + 2 ^ c) 0
  (usedSlots x).foldl (fun x n =>
    let a := slotFld x n 0 23 20
    if a &&& (15 - sv) = 0 then x else slotPut x n 0 23 20 (if a &&& sv = 0 then sv else a &&& sv)) x

end Sys2Proof.Machine
end

