-- ==== Sys2Proof/Machine/Csr.lean ====
section
/-! DEFINITION. The counter CSRs of the logical CPUs: cycle, time, instret and hpmcounter3 to hpmcounter31, what permits a read
of them, and mhartid (R409, R414). -/

namespace Sys2Proof.Machine

def coreOf (x : Slice) (c : Cpu) : CoreSt := x.cores[c.val]

def setCore (x : Slice) (c : Cpu) (k : CoreSt) : Slice := { x with cores := x.cores.set c.val k }

/-- Bit of mcounteren and scounteren that permits a read of a counter CSR. -/
def counterBit : CoreCsr → Option Nat
  | .cycle => some 0
  | .time => some 1
  | .instret => some 2
  | .hpmcounter n => some (n.val + 3)
  | .mcounteren | .scounteren | .mhartid => none

/-- The mode may read the CSR: counters as mcounteren and scounteren permit, the others by their privilege level. -/
def csrReadable (k : CoreSt) (mode : Priv) (r : CoreCsr) : Bool :=
  match mode, counterBit r with
  | .m, _ => true
  | .s, some i => wbit k.mcounteren i
  | .u, some i => wbit k.mcounteren i && wbit k.scounteren i
  | .s, none => decide (r = .scounteren)
  | .u, none => false

/-- The mode may write the CSR. -/
def csrWritable (mode : Priv) (r : CoreCsr) : Bool :=
  match r, mode with
  | .mcounteren, .m => true
  | .scounteren, .m => true
  | .scounteren, .s => true
  | _, _ => false

/-- What a CSR holds. The instructions that a CPU retires are its program's: the value of instret is open. -/
def csrValue (x : Slice) (c : Cpu) (r : CoreCsr) : Dword × Slice :=
  match r with
  | .cycle => (d64 ((coreOf x c).half / 2), x)
  | .time => (d64 (pairGet x kICN 0x100), x)
  | .instret => freeD x
  | .hpmcounter n => (d64 (pairGet x kPRF (0x1000 + 8 * n.val) % 2 ^ 48), x)
  | .mcounteren => (d64 (coreOf x c).mcounteren.toNat, x)
  | .scounteren => (d64 (coreOf x c).scounteren.toNat, x)
  | .mhartid => (d64 c.val, x)

/-- A CSR read; one that is not permitted takes an illegal-instruction exception. -/
def csrRead (x : Slice) (c : Cpu) (mode : Priv) (r : CoreCsr) : Slice :=
  if csrReadable (coreOf x c) mode r then
    let v := csrValue x c r
    { v.2 with bus := .pair (w32 (v.1.toNat / 2 ^ 32)) (w32 v.1.toNat) }
  else { x with bus := .illegal }

/-- A CSR write. -/
def csrWrite (x : Slice) (c : Cpu) (mode : Priv) (r : CoreCsr) (v : Word) : Slice :=
  if csrWritable mode r then
    let k := coreOf x c
    { setCore x c (if r = .mcounteren then { k with mcounteren := v } else { k with scounteren := v }) with bus := .done }
  else { x with bus := .illegal }

/-- A CSR access of a CPU that is not fenced; the HRA engine has none. -/
def onCsr (sl : SliceId) (req : Requester) (f : Slice → Cpu → Slice) (s : State) : Res :=
  onStarted sl (fun x =>
    match req with
    | .cpu c => if cpuState x c.val = cpuFenced then x else f x c
    | .hra => x) s

/-- One clock of 1.25 ns: two and a half clocks of 2 GHz of each pair that runs. -/
def coreTick (x : Slice) : Slice :=
  if napping x then x
  else { x with cores := Vector.ofFn fun c => if cpuState x c.val = cpuFenced then x.cores[c.val]
    else { x.cores[c.val] with half := (x.cores[c.val].half + 5) % 2 ^ 65 } }

end Sys2Proof.Machine
end

