-- ==== Sys2Proof/Machine/Crypto.lean ====
section
/-! DEFINITION. The cryptographic functions that the rules name: SHA-256 (FIPS 180-4), HMAC-SHA-256 and the session keys
(R85), AES-128 and AES-CMAC (NIST SP 800-38B, R87), ECDSA and ECDH on P-256 (FIPS 186-5, R66, R76, R84, R88). -/

namespace Sys2Proof.Machine

/-! ### SHA-256 -/

def add32 (a b : Nat) : Nat := (a + b) % 2 ^ 32

def rotr32 (x n : Nat) : Nat := (x >>> n) ||| ((x <<< (32 - n)) % 2 ^ 32)

def shaK : List Nat :=
  [0x428a2f98, 0x71374491, 0xb5c0fbcf, 0xe9b5dba5, 0x3956c25b, 0x59f111f1, 0x923f82a4, 0xab1c5ed5,
   0xd807aa98, 0x12835b01, 0x243185be, 0x550c7dc3, 0x72be5d74, 0x80deb1fe, 0x9bdc06a7, 0xc19bf174]
  ++ [0xe49b69c1, 0xefbe4786, 0x0fc19dc6, 0x240ca1cc, 0x2de92c6f, 0x4a7484aa, 0x5cb0a9dc, 0x76f988da,
   0x983e5152, 0xa831c66d, 0xb00327c8, 0xbf597fc7, 0xc6e00bf3, 0xd5a79147, 0x06ca6351, 0x14292967]
  ++ [0x27b70a85, 0x2e1b2138, 0x4d2c6dfc, 0x53380d13, 0x650a7354, 0x766a0abb, 0x81c2c92e, 0x92722c85,
   0xa2bfe8a1, 0xa81a664b, 0xc24b8b70, 0xc76c51a3, 0xd192e819, 0xd6990624, 0xf40e3585, 0x106aa070]
  ++ [0x19a4c116, 0x1e376c08, 0x2748774c, 0x34b0bcb5, 0x391c0cb3, 0x4ed8aa4a, 0x5b9cca4f, 0x682e6ff3,
   0x748f82ee, 0x78a5636f, 0x84c87814, 0x8cc70208, 0x90befffa, 0xa4506ceb, 0xbef9a3f7, 0xc67178f2]

/-- Initial hash value. -/
def shaInit : List Nat :=
  [0x6a09e667, 0xbb67ae85, 0x3c6ef372, 0xa54ff53a, 0x510e527f, 0x9b05688c, 0x1f83d9ab, 0x5be0cd19]

/-- The next word of a message schedule whose last 16 words are given, newest first. -/
def shaNext (w : List Nat) : Nat :=
  let g := fun (i : Nat) => (w[i - 1]?).getD 0
  let a := g 15
  let b := g 2
  let s0 := rotr32 a 7 ^^^ rotr32 a 18 ^^^ (a >>> 3)
  let s1 := rotr32 b 17 ^^^ rotr32 b 19 ^^^ (b >>> 10)
  add32 (add32 (g 16) s0) (add32 (g 7) s1)

/-- Message schedule of a block, newest word first. -/
def shaSchedule (blk : List Nat) : List Nat := Nat.repeat (fun w => shaNext w :: w) 48 blk.reverse

/-- One round. -/
def shaRound (v : List Nat) (kw : Nat) : List Nat :=
  match v with
  | [a, b, c, d, e, f, g, h] =>
    let s1 := rotr32 e 6 ^^^ rotr32 e 11 ^^^ rotr32 e 25
    let ch := (e &&& f) ^^^ ((e ^^^ 0xFFFFFFFF) &&& g)
    let t1 := add32 (add32 h s1) (add32 ch kw)
    let s0 := rotr32 a 2 ^^^ rotr32 a 13 ^^^ rotr32 a 22
    let mj := (a &&& b) ^^^ (a &&& c) ^^^ (b &&& c)
    [add32 t1 (add32 s0 mj), a, b, c, add32 d t1, e, f, g]
  | _ => v

/-- Hash value after one more block of 16 words. -/
def shaBlock (h blk : List Nat) : List Nat :=
  let v := (shaK.zipWith add32 (shaSchedule blk).reverse).foldl shaRound h
  h.zipWith add32 v

/-- Words of 4 bytes. -/
def beWords : Bytes → List Nat
  | a :: b :: c :: d :: r => beNat [a, b, c, d] :: beWords r
  | _ => []

/-- Padding of a message of `n` bytes. -/
def shaPad (n : Nat) : Bytes := 0x80 :: List.replicate ((119 - n % 64) % 64) 0 ++ beBytes 8 (8 * n)

/-- SHA-256: 32 bytes. -/
def sha256 (m : Bytes) : Bytes :=
  let ws := beWords (m ++ shaPad m.length)
  let h := (List.range (ws.length / 16)).foldl (fun h i => shaBlock h ((ws.drop (16 * i)).take 16)) shaInit
  h.flatMap (beBytes 4)

/-! ### HMAC-SHA-256 and the session keys (R85) -/

/-- HMAC-SHA-256 with a key of at most 64 bytes. -/
def hmacSha256 (key m : Bytes) : Bytes :=
  let k := key ++ List.replicate (64 - key.length) 0
  sha256 (k.map (· ^^^ 0x5C) ++ sha256 (k.map (· ^^^ 0x36) ++ m))

/-- The label "HRA-SESSION". -/
def hraLabel : Bytes := [0x48, 0x52, 0x41, 0x2D, 0x53, 0x45, 0x53, 0x53, 0x49, 0x4F, 0x4E]

/-- The 256 bits that both ends derive from a shared secret: counter, label, 0x00, context and L (R85). -/
def sessionBits (secret hostNonce hubNonce : Bytes) (target ses : Nat) : Bytes :=
  hmacSha256 secret (beBytes 4 1 ++ hraLabel ++ [0] ++ hostNonce ++ hubNonce ++ beBytes 1 target ++ beBytes 2 ses
    ++ beBytes 4 256)

/-! ### AES-128 and AES-CMAC -/

/-- Multiplication by x in GF(2^8). -/
def gfDouble (a : Nat) : Nat := if a < 128 then 2 * a else (2 * a) ^^^ 0x11B

/-- Product in GF(2^8), over the low `n` bits of `b`. -/
def gfMulBits : Nat → Nat → Nat → Nat
  | 0, _, _ => 0
  | n + 1, a, b => (if b % 2 = 1 then a else 0) ^^^ gfMulBits n (gfDouble a) (b / 2)

def gfMul (a b : Nat) : Nat := gfMulBits 8 a b

/-- Inverse in GF(2^8): the 254th power, and 0 of 0. -/
def gfInv (a : Nat) : Nat :=
  let a2 := gfMul a a
  let a3 := gfMul a2 a
  let a12 := gfMul (gfMul a3 a3) (gfMul a3 a3)
  let a15 := gfMul a12 a3
  let s := fun (x : Nat) => gfMul x x
  gfMul (gfMul (s (s (s (s a15)))) a12) a2

/-- S-box. -/
def aesSub (b : Nat) : Nat :=
  let x := gfInv b
  let r := fun (n : Nat) => (x <<< n) % 256 ||| (x >>> (8 - n))
  x ^^^ r 1 ^^^ r 2 ^^^ r 3 ^^^ r 4 ^^^ 0x63

def xorAll (a b : List Nat) : List Nat := a.zipWith (· ^^^ ·) b

/-- The next round key. -/
def aesNextKey (rc : Nat) (k : List Nat) : List Nat :=
  let g := fun (i : Nat) => (k[i]?).getD 0
  let w0 := xorAll (k.take 4) [aesSub (g 13) ^^^ rc, aesSub (g 14), aesSub (g 15), aesSub (g 12)]
  let w1 := xorAll ((k.drop 4).take 4) w0
  let w2 := xorAll ((k.drop 8).take 4) w1
  w0 ++ w1 ++ w2 ++ xorAll (k.drop 12) w2

/-- SubBytes and ShiftRows of a state held column by column. -/
def aesSubShift (s : List Nat) : List Nat :=
  (List.range 16).map fun i => aesSub ((s[(i + 4 * (i % 4)) % 16]?).getD 0)

/-- MixColumns. -/
def aesMix (s : List Nat) : List Nat :=
  (List.range 16).map fun i =>
    let g := fun (j : Nat) => (s[i / 4 * 4 + (i + j) % 4]?).getD 0
    gfMul (g 0) 2 ^^^ gfMul (g 1) 3 ^^^ g 2 ^^^ g 3

/-- The first nine rounds, then the last: round constant, round key and state. -/
def aesRounds : Nat → Nat → List Nat → List Nat → List Nat
  | 0, rc, k, s => xorAll (aesSubShift s) (aesNextKey rc k)
  | n + 1, rc, k, s =>
    let k' := aesNextKey rc k
    aesRounds n (gfDouble rc) k' (xorAll (aesMix (aesSubShift s)) k')

/-- AES-128 of a block of 16 bytes. -/
def aes128 (key s : List Nat) : List Nat := aesRounds 9 1 key (xorAll s key)

/-- A CMAC subkey from the one before. -/
def cmacDouble (s : List Nat) : List Nat :=
  let n := s.foldl (fun a b => a * 256 + b) 0
  let d := (2 * n) % 2 ^ 128 ^^^ (if n < 2 ^ 127 then 0 else 0x87)
  (List.range 16).map fun i => (d >>> (8 * (15 - i))) % 256

/-- AES-CMAC: a tag of 16 bytes. -/
def aesCmac (key m : Bytes) : BitVec 128 :=
  let k := key.map (·.toNat)
  let b := m.map (·.toNat)
  let k1 := cmacDouble (aes128 k (List.replicate 16 0))
  let n := (b.length - 1) / 16
  let last := b.drop (16 * n)
  let final := if last.length = 16 then xorAll last k1
    else xorAll (last ++ 0x80 :: List.replicate (15 - last.length) 0) (cmacDouble k1)
  let c := (List.range n).foldl (fun c i => aes128 k (xorAll c ((b.drop (16 * i)).take 16))) (List.replicate 16 0)
  BitVec.ofNat 128 ((aes128 k (xorAll c final)).foldl (fun a x => a * 256 + x) 0)

/-! ### P-256 -/

def p256P : Nat := 0xffffffff00000001000000000000000000000000ffffffffffffffffffffffff
def p256N : Nat := 0xffffffff00000000ffffffffffffffffbce6faada7179e84f3b9cac2fc632551
def p256B : Nat := 0x5ac635d8aa3a93e7b3ebbd55769886bc651d06b0cc53b0f63bce3c3e27d2604b
def p256G : Nat × Nat :=
  (0x6b17d1f2e12c4247f8bce6e563a440f277037d812deb33a0f4a13945d898c296,
   0x4fe342e2fe1a7f9b8ee7eb4a7c0f9e162bce33576b315ececbb6406837bf51f5)

/-- b^e modulo m, over the low `n` bits of e. -/
def powMod : Nat → Nat → Nat → Nat → Nat
  | 0, _, _, m => 1 % m
  | n + 1, b, e, m => (if e % 2 = 1 then b else 1) * powMod n (b * b % m) (e / 2) m % m

/-- Inverse modulo a prime of 256 bits. -/
def invMod (a m : Nat) : Nat := powMod 256 (a % m) (m - 2) m

/-- Difference modulo the prime of the field. -/
def p256Sub (a b : Nat) : Nat := (a + (p256P - b)) % p256P

/-- A point in Jacobian coordinates X, Y, Z: the point (X/Z², Y/Z³), and the point at infinity where Z is 0. -/
structure JacPoint where
  x : Nat
  y : Nat
  z : Nat
  deriving DecidableEq, Repr

/-- Twice a point. -/
def jacDouble (a : JacPoint) : JacPoint :=
  let yy := a.y * a.y % p256P
  let zz := a.z * a.z % p256P
  let s := 4 * a.x * yy % p256P
  let m := 3 * p256Sub a.x zz * (a.x + zz) % p256P
  let x := p256Sub (m * m) (2 * s % p256P)
  ⟨x, p256Sub (m * p256Sub s x) (8 * yy * yy % p256P), 2 * a.y * a.z % p256P⟩

/-- Sum of points. -/
def jacAdd (a b : JacPoint) : JacPoint :=
  if a.z = 0 then b
  else if b.z = 0 then a
  else
    let za := a.z * a.z % p256P
    let zb := b.z * b.z % p256P
    let u := a.x * zb % p256P
    let s := a.y * b.z * zb % p256P
    let h := p256Sub (b.x * za) u
    let r := p256Sub (b.y * a.z * za) s
    if h = 0 then (if r = 0 then jacDouble a else ⟨1, 1, 0⟩)
    else
      let hh := h * h % p256P
      let c := h * hh % p256P
      let v := u * hh % p256P
      let x := p256Sub (r * r) ((c + 2 * v) % p256P)
      ⟨x, p256Sub (r * p256Sub v x) (s * c % p256P), h * a.z * b.z % p256P⟩

/-- Multiple of a point, over the low `n` bits of `k`. -/
def jacMulBits : Nat → Nat → JacPoint → JacPoint
  | 0, _, _ => ⟨1, 1, 0⟩
  | n + 1, k, q => jacAdd (if k % 2 = 1 then q else ⟨1, 1, 0⟩) (jacMulBits n (k / 2) (jacDouble q))

/-- The affine point; none is the point at infinity. -/
def jacAffine (a : JacPoint) : Option (Nat × Nat) :=
  if a.z = 0 then none
  else
    let w := invMod a.z p256P
    some (a.x * (w * w % p256P) % p256P, a.y * (w * w % p256P * w % p256P) % p256P)

def p256Mul (k : Nat) (q : Nat × Nat) : Option (Nat × Nat) := jacAffine (jacMulBits 256 k ⟨q.1, q.2, 1⟩)

/-- Sum of points. -/
def p256Add (a b : Option (Nat × Nat)) : Option (Nat × Nat) :=
  let jac := fun (q : Option (Nat × Nat)) => match q with | some q => JacPoint.mk q.1 q.2 1 | none => ⟨1, 1, 0⟩
  jacAffine (jacAdd (jac a) (jac b))

/-- The point that a key spells, X then Y; none where it is no point of the curve. -/
def p256Point (key : Bytes) : Option (Nat × Nat) :=
  let x := beAt key 0 32
  let y := beAt key 32 32
  if key.length = 64 ∧ x < p256P ∧ y < p256P ∧ y * y % p256P = (x * x * x + (p256P - 3) * x + p256B) % p256P then some (x, y)
  else none

def pointBytes (q : Option (Nat × Nat)) : Bytes := match q with | some p => beBytes 32 p.1 ++ beBytes 32 p.2 | none => []

/-- Public key of a private key. -/
def p256Public (d : Nat) : Bytes := pointBytes (p256Mul d p256G)

/-- A private key from 256 bits: 1 to n - 1. -/
def p256Scalar (v : Nat) : Nat := v % (p256N - 1) + 1

/-- The number that ECDSA signs: the SHA-256 of the message. -/
def ecdsaHash (m : Bytes) : Nat := beNat (sha256 m)

/-- ECDSA P-256 with SHA-256 verifies: signature r then s. -/
def ecdsaVerify (key m sig : Bytes) : Bool :=
  let r := beAt sig 0 32
  let s := beAt sig 32 32
  match p256Point key with
  | none => false
  | some q =>
    if sig.length ≠ 64 ∨ r = 0 ∨ p256N ≤ r ∨ s = 0 ∨ p256N ≤ s then false
    else
      let w := invMod s p256N
      match p256Add (p256Mul (ecdsaHash m * w % p256N) p256G) (p256Mul (r * w % p256N) q) with
      | none => false
      | some p => decide (p.1 % p256N = r)

/-- ECDSA P-256 signature of a message with a private key and the secret number of the signature. -/
def ecdsaSign (d k : Nat) (m : Bytes) : Bytes :=
  let r := match p256Mul k p256G with | some p => p.1 % p256N | none => 0
  beBytes 32 r ++ beBytes 32 (invMod k p256N * ((ecdsaHash m + r * d) % p256N) % p256N)

/-- ECDH: the x coordinate of the shared point, 32 bytes (R85). -/
def ecdhSecret (d : Nat) (q : Nat × Nat) : Bytes := match p256Mul d q with | some p => beBytes 32 p.1 | none => beBytes 32 0

/-- Private key of the device (R84). -/
def devicePriv : Nat := p256Scalar Config.devPriv

/-- Public key of the device. -/
def deviceKey : Bytes := p256Public devicePriv

end Sys2Proof.Machine
end

