-- ==== Sys2Proof/Machine/Mem.lean ====
section
/-! DEFINITION. DRAM accesses with the mirror of core memory, uncorrectable reads, muslin items, and the on-die memories
window (R126, R393, R401, R404, R412). -/

namespace Sys2Proof.Machine

/-! ### Core memory and its mirror (R404) -/

def coreOff (x : Slice) : Nat := region x kDRC 0x118

def mirrored (x : Slice) : Bool := regBit x kDRC 0x118 31

/-- Whether an offset lies in the mirrored lower half. -/
def inLower (x : Slice) (off : Nat) : Bool := mirrored x && decide (coreOff x ≤ off) && decide (off < coreOff x + 2 ^ 30)

def inUpper (x : Slice) (off : Nat) : Bool :=
  mirrored x && decide (coreOff x + 2 ^ 30 ≤ off) && decide (off < coreOff x + 2 ^ 31)

/-! ### Ports (R394, R395) -/

/-! Ports of the DRAM controller. -/
def portFms : Nat := 0
def portFwb : Nat := 1
def portPbw : Nat := 2
def portPbr : Nat := 3
def portTws : Nat := 4
def portDma : Nat := 5
def portCpu : Nat := 6
def portMnt : Nat := 7

/-- Quarters of 256 bytes that one access moves to cover n bytes from an offset of its block: 64, 128 or 256 bytes. -/
def blockQuarters (o n : Nat) : Nat :=
  if n = 0 then 0
  else if o / 64 = (o + n - 1) / 64 then 1
  else if o / 128 = (o + n - 1) / 128 then 2
  else 4

/-- Quarters that the accesses to a span of n bytes move, one access in each block (R394). -/
def spanQuarters (a n : Nat) : Nat :=
  if n = 0 then 0
  else
    let f := a / 256
    let l := (a + n - 1) / 256
    if f = l then blockQuarters (a % 256) n
    else blockQuarters (a % 256) (256 - a % 256) + 4 * (l - f - 1) + blockQuarters 0 ((a + n - 1) % 256 + 1)

/-- Adds quarters to DRC_RDp or DRC_WRp, which count whole 256-byte equivalents. -/
def portQuarters (x : Slice) (wr : Bool) (port q : Nat) : Slice :=
  let k := if wr then 8 + port else port
  let n := sGet 0 x.drcPart k + q
  count { x with drcPart := sPut 0 x.drcPart k (n % 4) } kDRC ((if wr then 0x2068 else 0x2028) + 8 * port) (n / 4)

/-- Whether a rank holds one of the blocks from `f` to `l` (R392). -/
def rankHolds (x : Slice) (f l : Nat) (r : Fin 32 × Fin 3) : Bool :=
  (List.range (l + 1 - f)).any fun i =>
    let b := blockLoc (f + i)
    decide (regFld x kDRC (0x1000 + 4 * b.1) 26 22 = r.1.val) && decide (b.2 / 1048576 = r.2.val)

/-- Ranks that an access reaches leave power-down, except in DOZE, which holds every rank there (R400). -/
def wakeRanks (x : Slice) (a n : Nat) : Slice :=
  if x.rankDown = [] ∨ n = 0 ∨ regFld x kSLC 0x100 7 6 = 1 then x
  else { x with rankDown := x.rankDown.filter (!rankHolds x ((a - dramBase) / 256) ((a + n - 1 - dramBase) / 256) ·) }

/-- The accesses of a port to a span of DRAM: counted, and made in ranks that are awake. -/
def portMoved (x : Slice) (wr : Bool) (port a n : Nat) : Slice := portQuarters (wakeRanks x a n) wr port (spanQuarters a n)

/-- Bytes that reach DRAM: `none` where they are discarded (unmapped, or the mirror half). -/
def dramLand (x : Slice) (addr : Nat) (bs : Bytes) : Option Slice :=
  if !mapped addr bs.length then none
  else
    let o := addr - dramBase
    if inUpper x o then none
    else if inLower x o then some (dramPut (dramPut x o bs) (o + 2 ^ 30) bs)
    else some (dramPut x o bs)

/-- A hardware write of a port: `none` where it is discarded. -/
def dramWrite (x : Slice) (port addr : Nat) (bs : Bytes) : Option Slice :=
  (dramLand x addr bs).map fun y => portMoved y true port addr bs.length

/-- A write whose discard has no other effect. -/
def dramStore (x : Slice) (port addr : Nat) (bs : Bytes) : Slice := (dramWrite x port addr bs).getD x

/-- Offset a read is served from: the lower half for both halves (R404). -/
def readOff (x : Slice) (o : Nat) : Nat := if inUpper x o then o - 2 ^ 30 else o

/-- Latches an uncorrectable read (R401). -/
def ueLatch (x : Slice) (addr port : Nat) : Slice :=
  let x := count x kDRC 0x2008 1
  let x := if regBit x kDRC 0x148 31 then x
    else regSet (pairSet x kDRC 0x140 addr) kDRC 0x148 (w32 (2 ^ 31 + port))
  raise x kDRC 0

/-- Restores poisoned words of mirrored core memory from the mirror copy (R401). -/
def healMirror (x : Slice) (o n : Nat) : Slice :=
  if inLower x o then
    { x with poison := x.poison.filter fun w => !(decide (32 * w < o + n) && decide (o < 32 * w + 32)) }
  else x

/-- A hardware read of an access on a port: `none` where it returns an error. -/
def dramRead (x : Slice) (addr n port : Nat) : Option Bytes × Slice :=
  if !mapped addr n then (none, x)
  else
    let o := readOff x (addr - dramBase)
    let x := portMoved x false port addr n
    if poisoned x o n then
      let x := ueLatch x (dramBase + o) port
      if inLower x o then (some (dramGet x o n), healMirror x o n) else (none, x)
    else (some (dramGet x o n), x)

/-! ### Muslin items (R116) -/

def itemKind (it : Item) : Nat := beAt it 0 1
def itemLen (it : Item) : Nat := beAt it 2 2
def itemAddr (it : Item) : Nat := beAt it 4 4
def itemTable (it : Item) : Nat := beAt it 4 2
def itemIndex (it : Item) : Nat := beAt it 8 4
def itemValue (it : Item) : Nat := beAt it 8 4
def itemMask (it : Item) : Nat := beAt it 12 4
def itemData (it : Item) : Bytes := it.drop 12

/-- Block a well-formed item touches. -/
def itemBlock (it : Item) : Nat :=
  if itemKind it = 1 then (itemAddr it - 0x40000000) / 0x100000 else itemTable it / 256

/-- Muslin states of RIF_MSTATn. -/
def msEmpty : Nat := 0
def msBuilding : Nat := 1
def msChecking : Nat := 2
def msChecked : Nat := 3
def msArmed : Nat := 4
def msPolling : Nat := 5
def msCommitted : Nat := 6
def msAborted : Nat := 7

def musState (x : Slice) (n : Nat) : Nat := regFld x kRIF (0x110 + 4 * n) 31 28

def musBuf (x : Slice) (n : Nat) : MusBuf := (x.bufs[n]?).getD MusBuf.empty

/-- Items of the buffers that are armed: ARMED, or POLLING. -/
def armedItems (x : Slice) : List Item :=
  (List.range 2).flatMap fun n => if musState x n = msArmed ∨ musState x n = msPolling then (musBuf x n).items else []

/-- A direct write of a versioned table entry sets CHANGED when an armed item names the entry (R126). -/
def noteTable (x : Slice) (tid idx : Nat) : Slice :=
  if (armedItems x).any fun it => decide (itemKind it = 2) && decide (itemTable it = tid) && decide (itemIndex it = idx)
  then setRegBit x (tid / 256) 8 5 else x

/-- The register offset that an item's ADDR names under strict decode. -/
def itemReg (it : Item) : Nat := itemAddr it - 0x40000000

/-- A direct register write sets CHANGED when an armed item names the register (R126). -/
def noteReg (x : Slice) (blk off : Nat) : Slice :=
  if (armedItems x).any fun it => decide (itemKind it = 1) && decide (itemReg it = regKey blk off)
  then setRegBit x blk 8 5 else x

/-- A write that the bus has delivered to a register: CHANGED may be set, and the bus is done. -/
def written (x : Slice) (blk off : Nat) : Slice := { noteReg x blk off with bus := .done }

/-! ### The on-die memories window (R412) -/

/-- What a window word belongs to. -/
inductive WinCell where
  | tab (tid idx word : Nat) (writable : Bool)
  | hotset (set way word : Nat)
  | none
  deriving DecidableEq, Repr

def winBase : Nat := 0x600000000

/-- Window offset of a word to its cell. -/
def winCell (o : Nat) : WinCell :=
  if o < 0x80000 then .tab tProg (o / 16) (o % 16 / 4) false
  else if 0x1000000 ≤ o ∧ o < 0x1800000 then .tab tData ((o - 0x1000000) / 8) (o % 8 / 4) true
  else if 0x2000000 ≤ o ∧ o < 0x3000000 then .tab tTree ((o - 0x2000000) / 64) (o % 64 / 4) true
  else if 0x3000000 ≤ o ∧ o < 0x5000000 then .tab tTrie ((o - 0x3000000) / 8) (o % 8 / 4) true
  else if 0x5000000 ≤ o ∧ o < 0x5800000 then .tab tL2 ((o - 0x5000000) / 16) (o % 16 / 4) true
  else if 0x6000000 ≤ o ∧ o < 0x6400000 then .tab tCam ((o - 0x6000000) / 64) (o % 64 / 4) true
  else if 0x7000000 ≤ o ∧ o < 0x7100000 then .tab tHandle ((o - 0x7000000) / 16) (o % 16 / 4) false
  else if 0x8000000 ≤ o ∧ o < 0xA000000 then
    .hotset ((o - 0x8000000) / 2048) ((o - 0x8000000) / 128 % 16) (o % 128 / 4)
  else .none

/-- A word of the handle table: handles 0 to 15 are fixed, handle k unicast to first lane k (R223). -/
def handleW (x : Slice) (h word : Nat) : Word :=
  if h < 16 then (if word = 0 then w32 (2 ^ 31 + h) else 0) else tabGet x tHandle h word

/-- A word of the window as a read returns it, current version. -/
def winWord (x : Slice) (o : Nat) : Word :=
  match winCell o with
  | .tab tid idx w _ => if tid = tHandle then handleW x idx w else tabGet x tid idx w
  | .hotset s w i =>
    match x.hot.find? fun h => h.set = s ∧ h.way = w with
    | some h => w32 (bits ((h.rcd[i / 2]?).getD 0).toNat (if i % 2 = 0 then 63 else 31) (if i % 2 = 0 then 32 else 0))
    | none => 0
  | .none => 0

/-- Whether an offset lies in program memory (R310). -/
def inProgMem (o : Nat) : Bool := decide (o < 0x80000)

/-- Writes a word of the window; words of read-only areas and of no area are discarded. -/
def winPutWord (x : Slice) (o : Nat) (v : Word) : Slice :=
  match winCell o with
  | .tab tid idx w true =>
    let x := tabSet x tid idx w v
    if tid = tTree ∨ tid = tTrie ∨ tid = tCam then noteTable x tid idx else x
  | _ => x

/-- Bytes of the window from an offset. -/
def winGet (x : Slice) (o n : Nat) : Bytes :=
  let lo := o / 4 * 4
  ((List.range (cdiv (o + n - lo) 4)).flatMap fun i => wordBytes (winWord x (lo + 4 * i))).drop (o - lo) |>.take n

/-- Writes bytes of the window, each 32-bit word of it changed in the bytes written only. -/
def winPut (x : Slice) (o : Nat) (bs : Bytes) : Slice :=
  let lo := o / 4 * 4
  let n := cdiv (o + bs.length - lo) 4
  (List.range n).foldl (fun x i =>
    let a := lo + 4 * i
    let old := wordBytes (winWord x a)
    let new := (List.range 4).map fun j =>
      if o ≤ a + j ∧ a + j < o + bs.length then (bs[a + j - o]?).getD 0 else (old[j]?).getD 0
    winPutWord x a (w32 (beNat new))) x

/-- Whether an address lies in the window. -/
def inWindow (addr n : Nat) : Bool := decide (winBase ≤ addr) && decide (addr + n ≤ winBase + 2 ^ 32)

end Sys2Proof.Machine
end

