-- ==== Sys2Proof/Machine/Mcs.lean ====
section
/-! DEFINITION. The microcode sequencers: traps, holds, ROM reads and the trace buffer (R442 to R451). -/

namespace Sys2Proof.Machine

/-! Sequencers (R442). -/
def qTRN : Nat := 0
def qSWP : Nat := 1
def qSOH : Nat := 2
def qBST : Nat := 3

/-! Sequencer states of MCS_SEQSTq. -/
def sqIdle : Nat := 0
def sqTrap : Nat := 3
def sqHeld : Nat := 4
def sqHalted : Nat := 5

def seqOf (x : Slice) (q : Nat) : SeqSt := (x.seqs[q]?).getD SeqSt.idle

def setSeq (x : Slice) (q : Nat) (v : SeqSt) : Slice := { x with seqs := x.seqs.setIfInBounds q v }

def seqState (x : Slice) (q : Nat) : Nat := regFld x kMCS (0x110 + 4 * q) 31 29

def setSeqState (x : Slice) (q st : Nat) : Slice := regPut x kMCS (0x110 + 4 * q) 31 29 st

/-- Whether a sequencer's routines run: neither halted, held nor asleep in NAP (R446, R447, R450). -/
def seqRuns (x : Slice) (q : Nat) : Bool :=
  decide (seqState x q ≠ sqHalted) && decide (seqState x q ≠ sqHeld) && !(seqOf x q).asleep

/-! ### Trace (R451) -/

def trRptr (x : Slice) : Nat := regFld x kMCS 0x200 11 0

/-- Recording stops: cause 3. -/
def traceStop (x : Slice) : Slice := flagRaise x kMCS 0x200 28 3

/-- Records an entry of four words, unless recording has stopped or is not enabled for the sequencer. -/
def traceRecord (x : Slice) (q : Nat) (isTrap : Bool) (ws : List Word) : Slice :=
  if !regBit x kMCS 0x200 31 || regBit x kMCS 0x200 28 || !regBit x kMCS 0x200 (24 + q) then x
  else
    let t := x.trace
    let post := regFld x kMCS 0x200 23 12
    let left := match t.postLeft with
      | some n => some (n - 1)
      | none => if isTrap && decide (post ≠ 0) then some post else none
    let t := { t with entries := sIns t.entries t.wr ws, wr := (t.wr + 1) % 4096, count := min 4096 (t.count + 1),
                      postLeft := left }
    let x := { x with trace := t }
    if left = some 0 ∨ (t.count = 4096 ∧ regBit x kMCS 0x200 30 = false) then traceStop x else x

/-- A word of the trace entry at RPTR. -/
def traceWord (x : Slice) (i : Nat) : Word := ((sGet [] x.trace.entries (trRptr x))[i]?).getD 0

/-- TRACE_READ: a read of MCS_TRDATA3 advances RPTR. -/
def traceRead (x : Slice) : Word × Slice := (traceWord x 3, regPut x kMCS 0x200 11 0 (trRptr x + 1))

def execTraceRead (sl : SliceId) (s : State) : Res :=
  onStarted sl (fun x => { (traceRead x).2 with bus := .value (traceRead x).1 }) s

/-! ### Traps (R449, R450) -/

/-- The trace entry of a trap vector: its result words are not stated. -/
def trapTrace (x : Slice) (q vec : Nat) : Slice :=
  let tag := (Config.romWord q vec).toNat >>> 80 % 128
  let w0 := w32 (2 ^ 31 + q * 2 ^ 29 + 2 ^ 28 + vec * 2 ^ 15 + tag * 2 ^ 8)
  let f := freeD x
  traceRecord f.2 q true [w0, w32 x.clk, w32 (f.1.toNat >>> 32), w32 f.1.toNat]

/-- A sequencer halts until the slice restarts. -/
def seqHalt (x : Slice) (q : Nat) : Slice :=
  raise (faultLog (setSeqState x q sqHalted) fcDegraded kMCS q 0x10 q) kMCS 1

/-- Whether a trap is logged as it is taken: a wait time-out only once its three retries have failed (R449). -/
def trapLogged (st : SeqSt) (cause upc : Nat) : Bool :=
  match cause with
  | 1 | 3 => true
  | 4 => decide (st.retries = (upc, 3))
  | _ => false

/-- What a sequencer remembers of a trap: ROM words that have failed, wait time-outs in a row. -/
def trapNote (st : SeqSt) (cause upc : Nat) : SeqSt :=
  let st := { st with inTrap := true }
  match cause with
  | 1 => { st with romFails := insNat st.romFails upc }
  | 4 => { st with retries := if st.retries.1 = upc ∧ st.retries.2 < 3 then (upc, st.retries.2 + 1)
                              else if st.retries = (upc, 3) then (0, 0) else (upc, 1) }
  | 5 => { st with asleep := true }
  | _ => st

/-- TRAP: a sequencer takes a micro-trap, or halts on one taken in a handler or on a second ROM failure. -/
def takeTrap (x : Slice) (q cause upc : Nat) : Slice :=
  let st := seqOf x q
  if cause = 0 ∨ 6 < cause ∨ seqState x q = sqHalted then x
  else
    let x := regSet x kMCS (0x130 + 4 * q) (w32 (cause * 2 ^ 28 + upc))
    let x := satFld x kMCS (0x110 + 4 * q) 15 0 1
    if st.inTrap ∨ (cause = 1 ∧ upc ∈ st.romFails) then seqHalt x q
    else
      let x := regPut (setSeqState x q sqTrap) kMCS (0x110 + 4 * q) 28 16 (16 * cause)
      let x := raise (setSeq x q (trapNote st cause upc)) kMCS 0
      let x := if trapLogged st cause upc then faultLog x fcSoft kMCS q 0x0F cause else x
      trapTrace x q (16 * cause)

def execTrap (sl : SliceId) (q : Fin 4) (cause : BitVec 4) (upc : BitVec 13) (s : State) : Res :=
  onStarted sl (fun x => takeTrap x q.val cause.toNat upc.toNat) s

/-- A trap handler returns: the sequencer goes on where it was. -/
def trapReturn (x : Slice) (q : Nat) : Slice :=
  if (seqOf x q).inTrap && decide (seqState x q = sqTrap) then
    setSeqState (setSeq x q { seqOf x q with inTrap := false }) q (if (seqOf x q).held then sqHeld else sqIdle)
  else x

/-! ### Hold and ROM reads (R446, R448) -/

/-- A write of MCS_CTLq: SWP and SOH obey HOLD at their safe point; TRN and BST ignore it. -/
def seqHold (x : Slice) (q : Nat) (v : Word) : Slice :=
  let x := regSet x kMCS (0x120 + 4 * q) (w32 (fld v 0 0))
  if q = qSWP ∨ q = qSOH then
    let x := setSeq x q { seqOf x q with held := wbit v 0 }
    if seqState x q = sqHalted ∨ seqState x q = sqTrap then x
    else setSeqState x q (if wbit v 0 then sqHeld else sqIdle)
  else x

def execSequencerHold (sl : SliceId) (q : Fin 4) (v : Word) (s : State) : Res :=
  onStarted sl (fun x => { seqHold x q.val v with bus := .done }) s

/-- A write of MCS_ROMADDR loads the microword into MCS_ROMDATA0 to 4. -/
def romRead (x : Slice) (v : Word) : Slice :=
  let w := (Config.romWord (fld v 17 16) (fld v 12 0)).toNat
  let x := regSet x kMCS 0x300 (w32 (v.toNat &&& 0x31FFF))
  let x := regSet (regSet x kMCS 0x310 (w32 (w >>> 112))) kMCS 0x314 (w32 (w >>> 80))
  let x := regSet (regSet x kMCS 0x318 (w32 (w >>> 48))) kMCS 0x31C (w32 (w >>> 16))
  regSet x kMCS 0x320 (w32 (w % 65536))

def execRomRead (sl : SliceId) (v : Word) (s : State) : Res :=
  onStarted sl (fun x => { romRead x v with bus := .done }) s

/-! ### Passes of the periodic routines (R443, R445) -/

/-! Routines, as MCS_OVR numbers them. -/
def rtFlow : Nat := 0
def rtL2 : Nat := 1
def rtEp : Nat := 2
def rtAudit : Nat := 3
def rtScrub : Nat := 4

/-- Clocks in a millisecond. -/
def msClocks : Nat := 800000

/-- Whether a routine is switched on and its sequencer runs. -/
def routineRuns (x : Slice) : Nat → Bool
  | 0 => regBit x kFLW 0x120 31 && seqRuns x qSWP
  | 1 => regBit x kFWD 0x130 31 && seqRuns x qSWP
  | 2 => regBit x kFWD 0x134 31 && seqRuns x qSWP
  | 3 => regBit x kBUF 0x180 31 && seqRuns x qSWP
  | _ => regBit x kDRC 0x134 31 && seqRuns x qBST

/-- Clocks from one pass of a routine to the next: PERIOD, or the least that its rule applies (R236, R269, R401). -/
def routinePeriod (x : Slice) : Nat → Nat
  | 0 => max 200 (regFld x kFLW 0x120 15 0) * msClocks
  | 1 => max 1 (regFld x kFWD 0x130 23 0) * 10 * msClocks
  | 2 => max 20 (regFld x kFWD 0x134 23 0) * 10 * msClocks
  | 3 => max 100 (regFld x kBUF 0x180 15 0) * msClocks
  | _ => max 1 (min 8760 (regFld x kDRC 0x134 15 0)) * 3600000 * msClocks

def passOf (x : Slice) (r : Nat) : Pass := (x.passes[r]?).getD Pass.first

def setPass (x : Slice) (r : Nat) (v : Pass) : Slice := { x with passes := x.passes.setIfInBounds r v }

/-- One clock of a routine: with its next pass due the pass begins, or the one in progress has overrun, which sets its bit of
MCS_OVR and raises cause 2. -/
def passTick (x : Slice) (r : Nat) : Slice :=
  let v := passOf x r
  if !routineRuns x r || decide (x.clk < v.due) || v.late then x
  else if v.done then setPass x r ⟨x.clk + routinePeriod x r, false, false⟩
  else raise (setRegBit (setPass x r { v with late := true }) kMCS 0x140 r) kMCS 2

/-- A pass of a routine ends: one that has overrun is followed by the next at once. -/
def passEnd (x : Slice) (r : Nat) : Slice :=
  let v := passOf x r
  setPass x r (if v.late then ⟨x.clk + routinePeriod x r, false, false⟩ else { v with done := true })

/-- Sequencers stop at their safe points for NAP, and go on after the wake (R447). -/
def seqSleep (x : Slice) (b : Bool) : Slice := { x with seqs := x.seqs.map fun q => { q with asleep := b } }

end Sys2Proof.Machine
end

