-- ==== Sys2Proof/Machine/Line.lean ====
section
/-! DEFINITION. 66-bit blocks: the Clause 82 coding of Ethernet frames, fillers, the scrambler of Clause 49 and the parities
of a frame (R155, R156, R162, R169). -/

namespace Sys2Proof.Machine

/-! ### Frame check sequence of Ethernet -/

def crc32Bit (c : Nat) : Nat := if c % 2 = 1 then (c / 2) ^^^ 0xEDB88320 else c / 2

def crc32Byte (c : Nat) (b : Byte) : Nat := Nat.repeat crc32Bit 8 (c ^^^ b.toNat)

/-- `n` bytes of a number, least significant first. -/
def leBytes (n v : Nat) : Bytes := (beBytes n v).reverse

/-- The four bytes of a frame's FCS, in the order sent. -/
def fcsOf (bs : Bytes) : Bytes := leBytes 4 ((bs.foldl crc32Byte 0xFFFFFFFF) ^^^ 0xFFFFFFFF)

/-! ### Blocks -/

/-- A block of eight bytes; the first byte is bits 7:0. -/
def lineOf (ctl : Bool) (bs : Bytes) : Line := ⟨ctl, d64 (beNat (slab bs 0 8).reverse)⟩

def lineBytes (l : Line) : Bytes := leBytes 8 l.w.toNat

/-- The filler of R169. -/
def filler : Line := ⟨true, 0⟩

/-- The start block: preamble and start-of-frame delimiter. -/
def startLine : Line := lineOf true [0x78, 0x55, 0x55, 0x55, 0x55, 0x55, 0x55, 0xD5]

/-- Block types of the terminate blocks, by the bytes that they carry. -/
def termTypes : List Nat := [0x87, 0x99, 0xAA, 0xB4, 0xCC, 0xD2, 0xE1, 0xFF]

/-- Data blocks, and the terminate block with the bytes left. -/
def dataLines : Nat → Bytes → List Line
  | 0, _ => []
  | k + 1, bs =>
    if bs.length < 8 then [lineOf true (BitVec.ofNat 8 ((termTypes[bs.length]?).getD 0) :: bs)]
    else lineOf false bs :: dataLines k (bs.drop 8)

/-- The blocks of a frame, with its FCS. -/
def frameLines (bs : Bytes) : List Line :=
  let n := bs.length + 4
  startLine :: dataLines (n / 8 + 1) (bs ++ fcsOf bs)

/-- The error control block: type 0x1E with eight /E/ characters (R337). -/
def errorLine : Line := ⟨true, d64 ((List.range 8).foldl (fun a i => a + 0x1E * 2 ^ (8 + 7 * i)) 0x1E)⟩

/-- The blocks of a stomped frame: whole blocks of what has been sent, then the error control block (R337). -/
def stompLines (bs : Bytes) : List Line :=
  startLine :: (List.range (bs.length / 8)).map (fun i => lineOf false (slab bs (8 * i) 8)) ++ [errorLine]

/-! ### Scrambling (R155) -/

/-- One block through the scrambler after the scrambled block `prev`. -/
def scrambleWord (prev d : Nat) : Nat :=
  let h := prev / 64
  let c0 := (d ^^^ (h >>> 19) ^^^ h) % 2 ^ 39
  let h' := (h >>> 39) ||| (c0 <<< 19)
  let c1 := ((d >>> 39) ^^^ (h' >>> 19) ^^^ h') % 2 ^ 25
  c0 ||| (c1 <<< 39)

/-- One block through the descrambler after the received block `prev`. -/
def descrambleWord (prev o : Nat) : Nat :=
  let c := (prev / 64) ||| (o <<< 58)
  (o ^^^ (c >>> 19) ^^^ c) % 2 ^ 64

def scramble (prev : Dword) : List Line → List Line
  | [] => []
  | l :: ls => let o := d64 (scrambleWord prev.toNat l.w.toNat); ⟨l.ctl, o⟩ :: scramble o ls

def descramble (prev : Dword) : List Line → List Line
  | [] => []
  | l :: ls => ⟨l.ctl, d64 (descrambleWord prev.toNat l.w.toNat)⟩ :: descramble l.w ls

/-- The last block's contents, from which the scrambler goes on. -/
def lastWord (prev : Dword) (ls : List Line) : Dword := (ls.getLast?.map (·.w)).getD prev

/-! ### Parity (R162) -/

def xorWords (ls : List Line) : Nat := ls.foldl (fun a l => a ^^^ l.w.toNat) 0

/-- Bit i is the parity of bits i, i + 8, ..., i + 56. -/
def foldByte (w : Nat) : Nat :=
  let a := w ^^^ (w >>> 32)
  let b := a ^^^ (a >>> 16)
  (b ^^^ (b >>> 8)) % 256

/-- PBP of a frame's payload. -/
def pathParity (pay : List Line) : Nat := foldByte (xorWords pay)

/-- SBP of a frame: its overhead blocks and its payload. -/
def sectionParity (oh : List Dword) (pay : List Line) : Nat :=
  foldByte (oh.foldl (fun a d => a ^^^ d.toNat) (xorWords pay))

/-! ### Distribution over members (R167, R169) -/

/-- Payload positions of a frame, and those of them that carry blocks at most. -/
def payPositions : Nat := 16380
def payBlocks : Nat := 16376

/-- Every Nth block, from the rth on: what the rth of N members carries. -/
def strand (n r : Nat) (bs : List Line) : List Line := (bs.zipIdx.filter fun p => p.2 % n = r).map (·.1)

/-- A member's payload before scrambling: its blocks, then fillers. -/
def payloadOf (bs : List Line) : List Line := bs ++ List.replicate (payPositions - bs.length) filler

/-- The blocks of several members in the order of R167, each with the time its position ended. -/
def weave (blk : Nat) : Nat → List (Nat × List Line) → List (Nat × Line)
  | 0, _ => []
  | k + 1, ms =>
    (ms.filterMap fun m => m.2.head?.map fun l => (m.1 + blk, l)) ++ weave blk k (ms.map fun m => (m.1 + blk, m.2.tail))

/-! ### Decoding (R156) -/

/-- Frames being taken from a group's blocks: the one under way, with the time of its first block, and those complete. -/
structure Deframe where
  cur : Option (Bytes × Nat)
  out : List (Bytes × Bool × Nat)
  deriving DecidableEq, Repr

/-- A frame ends: whole with its FCS, or broken. -/
def Deframe.finish (d : Deframe) (whole : Bool) : Deframe :=
  match d.cur with
  | none => d
  | some (bs, t) =>
    let n := bs.length - 4
    if n = 0 then { d with cur := none }
    else ⟨none, d.out ++ [(bs.take n, whole && decide (bs.drop n = fcsOf (bs.take n)), t)]⟩

/-- One block. Fillers are deleted, and idle blocks carry nothing. -/
def Deframe.take (d : Deframe) (b : Nat × Line) : Deframe :=
  let l := b.2
  if !l.ctl then { d with cur := d.cur.map fun c => (c.1 ++ lineBytes l, c.2) }
  else
    let ty := l.w.toNat % 256
    if ty = 0 then d
    else if ty = 0x78 then { d.finish false with cur := some ([], b.1) }
    else match termTypes.idxOf? ty with
      | some k => Deframe.finish { d with cur := d.cur.map fun c => (c.1 ++ ((lineBytes l).drop 1).take k, c.2) } true
      | none => d.finish false

/-- Start blocks in a payload: the Ethernet frames that begin in it. -/
def starts (ls : List Line) : Nat := (ls.filter fun l => l.ctl && decide (l.w.toNat % 256 = 0x78)).length

end Sys2Proof.Machine
end

