-- ==== Sys2Proof/Machine/Ports.lean ====
section
/-! DEFINITION. Ports and Serge groups as the rest of the slice sees them (R136 to R138, R146, R165). -/

namespace Sys2Proof.Machine

def lnePort (x : Slice) (p : Nat) : Word := regGet x kLNE (0x1000 + 4 * p)

def portMode (x : Slice) (p : Nat) : Nat := fld (lnePort x p) 3 0

/-- Rate of an Ethernet mode in Mb/s, 0 for a mode that is no port (R136). -/
def modeRate : Nat → Nat
  | 1 => 1000 | 2 => 10000 | 3 => 25000 | 4 => 50000 | 5 => 100000 | 6 => 200000 | 7 => 400000 | 8 => 800000
  | _ => 0

/-- Lanes of an Ethernet mode. -/
def modeLanes : Nat → Nat
  | 6 => 2 | 7 => 4 | 8 => 8 | _ => 1

/-- Rate of a Serge member mode in Mb/s. -/
def memberRate : Nat → Nat
  | 9 => 25000 | 10 => 50000 | 11 => 100000 | _ => 0

/-- Rate family of a mode: 1 for N, 2 for P, 0 for none (R135). -/
def modeFamily : Nat → Nat
  | 1 => 1 | 2 => 1 | 3 => 1 | 9 => 1 | 4 => 2 | 5 => 2 | 6 => 2 | 7 => 2 | 8 => 2 | 10 => 2 | 11 => 2 | _ => 0

/-- Whether an Ethernet port's first lane is p. -/
def isEth (x : Slice) (p : Nat) : Bool := decide (modeRate (portMode x p) ≠ 0)

def srgCfg (x : Slice) (p : Nat) : Word := regGet x kSRG (0x1000 + 16 * p)

/-- Whether a Serge group's lowest member is lane p. -/
def isGroup (x : Slice) (p : Nat) : Bool := wbit (srgCfg x p) 31

/-- Member lanes of a group as a mask. -/
def groupMembers (x : Slice) (p : Nat) : Nat := regFld x kSRG (0x1004 + 16 * p) 15 0

/-- Whether p names a port: an Ethernet port or a Serge group. -/
def isPort (x : Slice) (p : Nat) : Bool := isEth x p || isGroup x p

/-- Rate of a port in Mb/s (R350). -/
def portRate (x : Slice) (p : Nat) : Nat :=
  if isGroup x p then popCount (groupMembers x p) 16 * memberRate (portMode x p) else modeRate (portMode x p)

/-- Lanes of a port (R136, R166). -/
def portLanes (x : Slice) (p : Nat) : List Nat :=
  if isGroup x p then (List.range 16).filter (bit (groupMembers x p))
  else (List.range (modeLanes (portMode x p))).map (p + ·)

/-- LNE_ADMIN allows the port. -/
def adminUp (x : Slice) (p : Nat) : Bool := regBit x kLNE 0x1080 p

/-- Lanes carrying in the transmit map of a group. -/
def txMapOf (x : Slice) (p : Nat) : Nat := regFld x kSRG (0x100C + 16 * p) 15 0

def laneUp (x : Slice) (l : Nat) : Bool := regBit x kLNE 0x1040 l

/-- SRG carries its groups: neither DISABLED nor FENCED (R100, R478). -/
def srgOn (x : Slice) : Bool := decide (blkState x kSRG ≠ stDisabled) && decide (blkState x kSRG ≠ stFenced)

def groupOf (x : Slice) (n : Lane) : Option Group := x.groups.find? (·.lane = n)

def setGroup (x : Slice) (g : Group) : Slice := { x with groups := x.groups.map fun h => if h.lane = g.lane then g else h }

/-- Group n belongs to a protection pair whose traffic this end does not take (R182). -/
def pairIdle (x : Slice) (n : Nat) : Bool :=
  isGroup x n && decide (fld (srgCfg x n) 30 29 ≠ 0) && !regBit x kSRG (0x1800 + 4 * n) 23

/-- The blocks of a frame sent join the stream of its group (R156); only the selecting end of a protection pair forwards
onto it (R182). -/
def toStream (x : Slice) (l : Lane) (ls : List Line) : Slice :=
  match groupOf x l with
  | some g => if pairIdle x l.val then x else setGroup x { g with txStream := g.txStream ++ ls }
  | none => x

/-- Whether a port is up: an Ethernet port whose lanes are up, a group with a carrying member, allowed by LNE_ADMIN. -/
def portUp (x : Slice) (p : Nat) : Bool :=
  adminUp x p && (if isGroup x p then srgOn x && decide (txMapOf x p ≠ 0) else isEth x p && laneUp x p)

/-- Cut-through allowed on a port (R146). -/
def cutAllowed (x : Slice) (p : Nat) : Bool := wbit (lnePort x p) 27

/-- Sets LNE_LSTAT.UP of a lane; a change sets its LNE_LCHG bit and raises LNE cause 0. A lane that is down is in no
low-power idle. -/
def setLaneUp (x : Slice) (l : Nat) (b : Bool) : Slice :=
  let x := if b then x else regPut x kLNE 0x1040 (16 + l) (16 + l) 0
  if laneUp x l = b then x
  else raise (setRegBit (regPut x kLNE 0x1040 l l b.toNat) kLNE 0x1044 l) kLNE 0

def setLanesUp (x : Slice) (ls : List Nat) (b : Bool) : Slice := ls.foldl (fun x l => setLaneUp x l b) x

/-- A lane in a loopback (R148). -/
def looped (x : Slice) (l : Nat) : Bool := decide (regFld x kLNE (0x2000 + 4 * l) 31 30 ≠ 0)

/-- Whether a block does its own work: not DISABLED, not FENCED and not reloading (R100, R103). -/
def serves (x : Slice) (blk : Nat) : Bool :=
  decide (blkState x blk ≠ stDisabled) && decide (blkState x blk ≠ stFenced) && !reloading x blk

end Sys2Proof.Machine
end

