-- ==== Sys2Proof/Machine/Bufs.lean ====
section
/-! DEFINITION. Cells, pages, frames and queue segments (R326 to R337, R342, R343). -/

namespace Sys2Proof.Machine

/-! ### Pools and owners (R326 to R329) -/

def cellTotal : Nat := 196608
def pageTotal : Nat := 2621440

/-- Cells a stored frame of LEN bytes occupies (R326). -/
def frameCells (len : Nat) : Nat := cdiv (len + 4) 256

/-- Pages a spilled frame occupies: the layout is internal, and the model gives each frame pages of its own. -/
def framePages (len : Nat) : Nat := cdiv (len + 4) 4096

def usedC (x : Slice) (o : Nat) : Nat := regFld x kBUF (0x1400 + 8 * o) 17 0
def usedP (x : Slice) (o : Nat) : Nat := regFld x kBUF (0x1404 + 8 * o) 21 0
def limC (x : Slice) (o : Nat) : Nat := regFld x kBUF (0x1000 + 16 * o) 17 0
def minC (x : Slice) (o : Nat) : Nat := regFld x kBUF (0x1004 + 16 * o) 17 0
def limP (x : Slice) (o : Nat) : Nat := regFld x kBUF (0x1008 + 16 * o) 21 0
def minP (x : Slice) (o : Nat) : Nat := regFld x kBUF (0x100C + 16 * o) 21 0
/-- POLICY is WAIT; fixed for owner 21. -/
def policyWait (x : Slice) (o : Nat) : Bool := decide (o = 21) || regBit x kBUF (0x1000 + 16 * o) 31

/-- Free cells: neither allocated nor retired (R328, R476). -/
def freeC (x : Slice) : Nat :=
  cellTotal - x.cellsOut.length - (x.cellsRetired.filter fun k => (sFind x.cellsOut k).isNone).length
def freeP (x : Slice) : Nat := pageTotal - x.pagesOut.length

def reserveC (x : Slice) : Nat := ((List.range 22).map fun o => minC x o - usedC x o).foldl (· + ·) 0
def reserveP (x : Slice) : Nat := ((List.range 21).map fun o => minP x o - usedP x o).foldl (· + ·) 0

/-- Free less outstanding reserve (R328). -/
def sharedC (x : Slice) : Nat := freeC x - reserveC x
def sharedP (x : Slice) : Nat := freeP x - reserveP x

/-- Lowest number from k that a rising list does not hold. -/
def gapFrom : Nat → List Nat → Nat
  | k, [] => k
  | k, a :: l => if a = k then gapFrom (k + 1) l else if k < a then k else gapFrom k l

def lowestCell (x : Slice) : Nat := gapFrom 0 (x.cellsRetired.foldl insNat (x.cellsOut.map (·.1)))
def lowestPage (x : Slice) : Nat := gapFrom 0 (x.pagesOut.map (·.1))

/-- First refusal flag and cause 0. -/
def bufRefused (x : Slice) : Slice := flagRaise x kBUF 0x110 0 0

/-- An index is granted or freed: the last pass recorded it in vain (R342). -/
def cleared (x : Slice) (page : Bool) (k : Nat) : Slice := { x with suspects := x.suspects.filter (· ≠ (page, k)) }

/-- Takes the lowest free cell for an owner. -/
def takeCell (x : Slice) (o : Nat) : Nat × Slice :=
  let k := lowestCell x
  (k, regPut { cleared x false k with cellsOut := sIns x.cellsOut k o } kBUF (0x1400 + 8 * o) 17 0 (usedC x o + 1))

/-- Decides a request for a cell (R328). -/
def grantCell (x : Slice) (o : Nat) : Option Nat × Slice :=
  if usedC x o < minC x o ∧ 0 < freeC x then let r := takeCell x o; (some r.1, r.2)
  else if usedC x o < limC x o ∧ 0 < sharedC x then
    let r := takeCell x o
    (some r.1, if sharedC r.2 = 0 then raise (setRegBit r.2 kBUF 0x110 1) kBUF 1 else r.2)
  else (none, bufRefused x)

def takePage (x : Slice) (o : Nat) : Nat × Slice :=
  let k := lowestPage x
  (k, regPut { cleared x true k with pagesOut := sIns x.pagesOut k o } kBUF (0x1404 + 8 * o) 21 0 (usedP x o + 1))

/-- Decides a request for a page; owner 21 holds none. -/
def grantPage (x : Slice) (o : Nat) : Option Nat × Slice :=
  if o = 21 then (none, bufRefused x)
  else if usedP x o < minP x o ∧ 0 < freeP x then let r := takePage x o; (some r.1, r.2)
  else if usedP x o < limP x o ∧ 0 < sharedP x then
    let r := takePage x o
    (some r.1, if sharedP r.2 = 0 then raise (setRegBit r.2 kBUF 0x110 2) kBUF 3 else r.2)
  else (none, bufRefused x)

/-- Frees a cell; it leaves its owner's count. -/
def freeCell (x : Slice) (k : Nat) : Slice :=
  match sFind x.cellsOut k with
  | some o => regPut { cleared x false k with cellsOut := sDel x.cellsOut k } kBUF (0x1400 + 8 * o) 17 0 (usedC x o - 1)
  | none => x

def freePage (x : Slice) (k : Nat) : Slice :=
  match sFind x.pagesOut k with
  | some o => regPut { cleared x true k with pagesOut := sDel x.pagesOut k } kBUF (0x1404 + 8 * o) 21 0 (usedP x o - 1)
  | none => x

def freeCells (x : Slice) (ks : List Nat) : Slice := ks.foldl freeCell x
def freePages (x : Slice) (ks : List Nat) : Slice := ks.foldl freePage x

/-! ### Frames -/

def frameOf (x : Slice) (id : Nat) : Option Frame := x.frames.find? (·.id = id)

def setFrame (x : Slice) (f : Frame) : Slice :=
  { x with frames := x.frames.map fun g => if g.id = f.id then f else g }

def newFrame (x : Slice) (f : Frame) : Slice :=
  { x with frames := x.frames ++ [{ f with id := x.nextFrm }], nextFrm := x.nextFrm + 1 }

/-- Queued copies, copies being sent and punted copies: the descriptors in use (R332). -/
def allCopies (x : Slice) : List Copy :=
  (x.queues.flatMap fun q => q.h ++ q.s) ++ x.sending.map (·.copy) ++ x.puntFrames

def descTotal : Nat := 262144

/-- A descriptor is free. -/
def descFree (x : Slice) : Bool := decide ((allCopies x).length < descTotal)

/-- Clears OWN of a transmit descriptor (R382). -/
def txRelease (x : Slice) (t i : Nat) : Slice :=
  let a := bits (pairGet x kSWC (0x480 + 16 * t)) 39 0 + 32 * i
  let b := (dramGet x (a - dramBase) 1).map fun b => b &&& 0x7F
  { dramStore x portCpu a b with txBusy := x.txBusy.filter (· ≠ (t, i)) }

/-- Frees a frame that no copy refers to any longer (R332), nor a packet held at its commit. -/
def releaseFrame (x : Slice) (id : Nat) : Slice :=
  match frameOf x id with
  | none => x
  | some f =>
    if (allCopies x).any (·.frm = id) || decide (f.copies ≠ []) || (x.held.any fun h => h.frm = some id) then x
    else
      let x := freePages (freeCells x f.cells) f.pages
      let x := { x with frames := x.frames.filter (·.id ≠ id) }
      match f.tx with
      | some (t, i) => txRelease x t i
      | none => x

/-! ### Queues (R333, R344) -/

def aqW (x : Slice) (n w : Nat) : Word := tabGet x tAq n w
def aqPort (x : Slice) (n : Nat) : Nat := fld (aqW x n 0) 30 27
def aqClass (x : Slice) (n : Nat) : Nat := fld (aqW x n 0) 26 24

def tmgOff (p : Nat) : Nat := 0x1000 + 0x100 * p

/-- Port and class of a queue; the reflex and scene queues take the classes of TMG_PSPECp. -/
def queuePort (x : Slice) : QId → Nat
  | .cls l _ => l.val
  | .aq n => aqPort x n.toNat
  | .reflex l => l.val
  | .scene l => l.val
  | .punt _ => 16

def queueClass (x : Slice) : QId → Nat
  | .cls _ c => c.val
  | .aq n => aqClass x n.toNat
  | .reflex l => regFld x kTMG (tmgOff l.val + 0xC) 18 16
  | .scene l => regFld x kTMG (tmgOff l.val + 0xC) 10 8
  | .punt r => r.val

def queueOf (x : Slice) (q : QId) : Queue := (x.queues.find? (·.q = q)).getD ⟨q, [], []⟩

def Queue.all (q : Queue) : List Copy := q.h ++ q.s

def queueEmpty (x : Slice) (q : QId) : Bool := (queueOf x q).all.isEmpty

def putQueue (x : Slice) (v : Queue) : Slice :=
  if v.all.isEmpty then { x with queues := x.queues.filter (·.q ≠ v.q) }
  else if x.queues.any (·.q = v.q) then { x with queues := x.queues.map fun w => if w.q = v.q then v else w }
  else { x with queues := x.queues ++ [v] }

/-- Cells that a segment's frames occupy. -/
def segCells (cs : List Copy) : Nat := cs.foldl (fun n c => n + frameCells c.len) 0

/-- Spill threshold of a queue; 0 when it never spills. -/
def spillAt (x : Slice) (q : QId) : Nat :=
  match q with
  | .punt _ => 0
  | q => regFld x kBUF (0x140 + 4 * queueClass x q) 17 0

/-- Appends an admitted copy to H or S (R333). -/
def enqueue (x : Slice) (c : Copy) : Slice :=
  let v := queueOf x c.q
  let t := spillAt x c.q
  if v.s ≠ [] ∨ (t ≠ 0 ∧ t ≤ segCells v.h) then putQueue x { v with s := v.s ++ [c] }
  else putQueue x { v with h := v.h ++ [c] }

/-! DWRR deficits of members that become empty (R349). -/

def setDwrr (x : Slice) (d : Dwrr) : Slice :=
  if x.dwrr.any fun e => e.lane = d.lane ∧ e.cls = d.cls then
    { x with dwrr := x.dwrr.map fun e => if e.lane = d.lane ∧ e.cls = d.cls then d else e }
  else { x with dwrr := x.dwrr ++ [d] }

def dwrrOf (x : Slice) (l : Lane) (c : Option (Fin 8)) : Dwrr :=
  (x.dwrr.find? fun e => e.lane = l ∧ e.cls = c).getD ⟨l, c, 0, 0, []⟩

/-- Member number of a queue in its class. -/
def memberNo : QId → Nat
  | .aq n => n.toNat + 1
  | _ => 0

def laneOf (n : Nat) : Lane := ⟨n % 16, Nat.mod_lt _ (by decide)⟩
def clsOf (n : Nat) : Fin 8 := ⟨n % 8, Nat.mod_lt _ (by decide)⟩

/-- Whether a queue is a class queue or an aggregate queue. -/
def isData : QId → Bool
  | .cls _ _ => true
  | .aq _ => true
  | _ => false

/-- Zeroes the deficits of a queue, and of its class, that have become empty. -/
def dwrrEmpty (x : Slice) (q : QId) : Slice :=
  if !isData q || !queueEmpty x q then x
  else
    let l := laneOf (queuePort x q)
    let c := clsOf (queueClass x q)
    let d := dwrrOf x l (some c)
    let x := setDwrr x { d with defs := sDel d.defs (memberNo q) }
    if x.queues.any fun v => isData v.q && decide (queuePort x v.q = l.val) && decide (queueClass x v.q = c.val) then x
    else
      let d := dwrrOf x l none
      setDwrr x { d with defs := sDel d.defs c.val }

/-- Removes from the queues the copies that satisfy a test, and frees what they alone held. -/
def removeCopies (x : Slice) (p : Copy → Bool) : Slice :=
  let gone := (x.queues.flatMap Queue.all).filter p
  let x := { x with queues := (x.queues.map fun v => { v with h := v.h.filter (!p ·), s := v.s.filter (!p ·) }).filter
                                fun v => !v.all.isEmpty }
  let x := (gone.map (·.q)).foldl dwrrEmpty x
  (gone.map (·.frm)).foldl releaseFrame x

/-! ### Bad and stomped frames (R337) -/

def badDrop (x : Slice) (n : Nat) : Slice := if n = 0 then x else count x kSWC 0x1210 n

/-- Drops the copies of a frame that have not started, queued, punted or still to be made, counted in SWC_BADDROP. -/
def dropBad (x : Slice) (id : Nat) : Slice :=
  let n := ((x.queues.flatMap Queue.all).filter (·.frm = id)).length + (x.puntFrames.filter (·.frm = id)).length
    + ((frameOf x id).map (·.copies.length)).getD 0
  let x := { x with puntFrames := x.puntFrames.filter (·.frm ≠ id),
                    frames := x.frames.map fun g => if g.id = id then { g with copies := [] } else g }
  releaseFrame (removeCopies (badDrop x n) (·.frm = id)) id

/-- Ends a cut-through frame as stomped on every port that has started it, and drops its other copies. -/
def stompFrame (x : Slice) (id : Nat) : Slice :=
  let on := x.sending.filter (·.copy.frm = id)
  let x := if on = [] then x else stompIn (flagRaise x kSWC 0x110 0 0) id
  let x := on.foldl (fun x e => toStream (count x kSWC (0x1100 + 8 * e.lane.val) 1) e.lane (stompLines e.bytes)) x
  dropBad { x with sending := x.sending.filter (·.copy.frm ≠ id) } id

/-- Whether a copy of a frame has started. -/
def startedFrame (x : Slice) (id : Nat) : Bool := x.sending.any (·.copy.frm = id)

/-- CUT_THROUGH_BAD: a cut-through frame found bad after its head left (R337). -/
def execCutThroughBad (sl : SliceId) (frm : Nat) (s : State) : Res :=
  onAlive sl (fun x =>
    if x.sending.any fun e => e.copy.frm = frm && e.copy.cut then stompFrame x frm else x) s

/-- A mirror copy that is not made (R340). -/
def mirDrop (x : Slice) (s : Nat) : Slice := flagRaise (count x kSWC (0x1380 + 8 * s) 1) kSWC 0x110 2 2

/-- A frame refused a cell under DROP (R329): discarded and counted, and stomped when its head has left. A truncated mirror
copy is then one that is not made. -/
def discardNoCell (x : Slice) (f : Frame) : Slice :=
  let x := count x kBUF 0x2000 1
  let x := match f.mir with
    | some s => mirDrop x s
    | none => x
  let x := setFrame x { f with copies := [], mir := none }
  if startedFrame x f.id then stompFrame x f.id
  else
    let x := { x with puntFrames := x.puntFrames.filter (·.frm ≠ f.id) }
    releaseFrame (removeCopies x (·.frm = f.id)) f.id

/-! ### The spill mover and the page reader (R334, R335) -/

/-- Grants `n` pages to an owner, `none` when one is refused. -/
def grantPages (o : Nat) : Nat → Slice → Option (List Nat) × Slice
  | 0, x => (some [], x)
  | n + 1, x =>
    match grantPage x o with
    | (none, x) => (none, x)
    | (some k, x') =>
      match grantPages o n x' with
      | (some ks, x'') => (some (k :: ks), x'')
      | (none, _) => (none, bufRefused x)

/-- Moves a waiting copy of a queue to pages; `false` when its owner is refused. -/
def spillCopy (x : Slice) (v : Queue) (c : Copy) : Bool × Slice :=
  match frameOf x c.frm with
  | none => (false, x)
  | some f =>
    match grantPages f.owner (framePages c.len) x with
    | (none, x) => (false, x)
    | (some ps, x) =>
      let id := x.nextFrm
      let x := newFrame x { f with cells := [], pages := ps, need := 0, copies := [],
                                    tx := if (allCopies x).any (fun d => d.frm = f.id && d.id ≠ c.id) then none else f.tx }
      let c' := { c with frm := id, moved := true, cut := false }
      let x := putQueue x { v with s := v.s.map fun d => if d.id = c.id then c' else d }
      let x := count (portMoved x true portPbw (dramBase + region x kBUF 0x120 + 4096 * (ps.head?.getD 0)) (c.len + 4)) kBUF 0x2010 1
      -- the old frame keeps its transmit descriptor only while another copy refers to it
      let x := if (allCopies x).any (·.frm = f.id) then x else setFrame x { f with tx := none }
      (true, releaseFrame x f.id)

/-- First copy of S that waits in its cells and is whole there. -/
def spillable (x : Slice) (v : Queue) : Option Copy :=
  match v.s.find? fun c => !c.moved with
  | some c => if (frameOf x c.frm).any (·.need = 0) then some c else none
  | none => none

/-- The queues in turn, those after the one served last first: the mover and the reader serve all queues together. -/
def queuesAfter (qs : List Queue) : Option QId → List Queue
  | none => qs
  | some q => if qs.any (·.q = q) then (qs.dropWhile (·.q ≠ q)).drop 1 ++ qs.takeWhile (·.q ≠ q) ++ qs.filter (·.q = q) else qs

/-- Moves one frame of the first queue whose owner is not refused a page. -/
def spillOne : List Queue → Slice → Slice
  | [], x => x
  | v :: vs, x =>
    match spillable x v with
    | none => spillOne vs x
    | some c =>
      match spillCopy x v c with
      | (true, x) => { x with spillLast := some v.q }
      | (false, x) => spillOne vs x

/-- SPILL_PAGE_WRITE_DONE: the controller accepts a page write and the frame's cells are freed (R334). -/
def execSpillPageWriteDone (sl : SliceId) (s : State) : Res :=
  onAlive sl (fun x => if serves x kBUF then spillOne (queuesAfter x.queues x.spillLast) x else x) s

/-- The frame of S that the page reader may read next (R335): the oldest in pages that is not yet being read, while H is
below half and no frame before it waits for the mover. -/
def readable (x : Slice) (v : Queue) : Option Frame :=
  if 2 * segCells v.h < spillAt x v.q then
    ((v.s.takeWhile (·.moved)).filterMap fun c => frameOf x c.frm).find? fun f => decide (f.need = 0 ∧ f.cells = [])
  else none

/-- PAGE_READ_DONE: a page read returns and its frame asks for cells of owner 21 (R335). -/
def execPageReadDone (sl : SliceId) (s : State) : Res :=
  onAlive sl (fun x =>
    if !serves x kBUF then x
    else match (queuesAfter x.queues x.readLast).findSome? fun v => (readable x v).map fun f => (v.q, f) with
    | some (q, f) =>
      let a := dramBase + region x kBUF 0x120 + 4096 * (f.pages.head?.getD 0)
      setFrame { portMoved x false portPbr a (f.bytes.length + 4) with readLast := some q }
        { f with owner := 21, need := frameCells f.bytes.length, slot := 3 }
    | none => x) s

/-- A page-read frame whose cells are all granted moves to the tail of H, and its pages are freed (R335). -/
def pageReadWhole (x : Slice) (f : Frame) : Slice :=
  match x.queues.find? fun v => v.s.any (·.frm = f.id) with
  | none => x
  | some v =>
    let cs := v.s.filter (·.frm = f.id)
    let x := putQueue x { v with h := v.h ++ cs.map (fun c => { c with moved := false }),
                                  s := v.s.filter (·.frm ≠ f.id) }
    count (freePages (setFrame x { f with pages := [] }) f.pages) kBUF 0x2018 1

/-! ### The leaked-cell audit (R342, R343) -/

/-- Cells and pages that something refers to: frames (descriptors, queue segments, mover, reader, writes in progress)
and scenes' prefetched cells. -/
def refdCells (x : Slice) : List Nat := x.frames.flatMap (·.cells) ++ x.scenes.flatMap (·.cells)
def refdPages (x : Slice) : List Nat := x.frames.flatMap (·.pages)

/-- A leaked index found: counted, flagged, logged on the first, freed when RECLAIM is 1. -/
def leakFound (x : Slice) (page : Bool) (k : Nat) : Slice :=
  let o := (sFind (if page then x.pagesOut else x.cellsOut) k).getD 0
  let x := count x kBUF (if page then 0x2028 else 0x2020) 1
  let x := if regBit x kBUF 0x110 3 then x
    else faultLog (flagRaise x kBUF 0x110 3 2) fcSoft kBUF wholeBlock 0x0E o
  if regBit x kBUF 0x180 30 then (if page then freePage x k else freeCell x k) else x

/-- Corrects an owner's count. -/
def fixCount (x : Slice) (o : Nat) : Slice :=
  let fix := fun (x : Slice) (off hi n : Nat) =>
    if regFld x kBUF off hi 0 = n then x
    else faultLog (count (regPut x kBUF off hi 0 n) kBUF 0x2030 1) fcSoft kBUF wholeBlock 0x0E o
  let x := fix x (0x1400 + 8 * o) 17 (x.cellsOut.filter (·.2 = o)).length
  fix x (0x1404 + 8 * o) 21 (x.pagesOut.filter (·.2 = o)).length

/-- AUDIT_PASS: a pass over cells and pages (R342, R343). -/
def execAuditPass (sl : SliceId) (s : State) : Res :=
  onStarted sl (fun x =>
    if !routineRuns x rtAudit then x
    else
      let cs := (x.cellsOut.map (·.1)).filter fun k => k ∉ refdCells x
      let ps := (x.pagesOut.map (·.1)).filter fun k => k ∉ refdPages x
      let old := x.suspects
      let x := { x with suspects := cs.map ((false, ·)) ++ ps.map ((true, ·)) }
      let x := (cs.filter fun k => (false, k) ∈ old).foldl (leakFound · false ·) x
      let x := (ps.filter fun k => (true, k) ∈ old).foldl (leakFound · true ·) x
      passEnd (raise ((List.range 22).foldl fixCount x) kBUF 4) rtAudit) s

end Sys2Proof.Machine
end

