-- ==== Sys2Proof/Machine/Gates.lean ====
section
/-! DEFINITION. Time gates (R359 to R364). -/

namespace Sys2Proof.Machine

def gctl (x : Slice) (p : Nat) : Word := regGet x kTMG (tmgOff p + 0xC0)

def gateEn (x : Slice) (p : Nat) : Bool := wbit (gctl x p) 31

def igates (x : Slice) (p : Nat) : Nat := fld (gctl x p) 15 8

def gstatOff (p : Nat) : Nat := tmgOff p + 0xD8

def gatePend (x : Slice) (p : Nat) : Bool := regBit x kTMG (gstatOff p) 31

def gateOf (x : Slice) (p : Nat) : GateSt :=
  (x.gates.find? (·.lane.val = p)).getD ⟨laneOf p, [], [], 0, 0, 0, 0⟩

def setGate (x : Slice) (g : GateSt) : Slice :=
  if x.gates.any (·.lane = g.lane) then { x with gates := x.gates.map fun h => if h.lane = g.lane then g else h }
  else { x with gates := x.gates ++ [g] }

/-- The list as its cycle runs it: cut short at the cycle's end, the last entry holding until then (R362). -/
def effList (cycle : Nat) : Nat → List GateEntry → List GateEntry
  | _, [] => []
  | at', e :: es =>
    if cycle ≤ at' then []
    else if es = [] ∨ cycle ≤ at' + e.interval then [⟨e.gates, cycle - at'⟩]
    else e :: effList cycle (at' + e.interval) es

def operEff (g : GateSt) : List GateEntry := effList g.cycle 0 g.oper

def adminEntry (g : GateSt) (i : Nat) : GateEntry := sGet ⟨0, 0⟩ g.admin i

def glen (x : Slice) (p : Nat) : Nat := regFld x kTMG (tmgOff p + 0xD4) 10 0

def gcyc (x : Slice) (p : Nat) : Nat := (regGet x kTMG (tmgOff p + 0xCC)).toNat

/-- The admin list, GLEN entries. -/
def adminList (x : Slice) (p : Nat) : List GateEntry := (List.range (glen x p)).map (adminEntry (gateOf x p))

def opens (e : GateEntry) (c : Nat) : Bool := bit e.gates.toNat c

def entryOf (l : List GateEntry) (i : Nat) : GateEntry := (l[i]?).getD ⟨0, 0⟩

/-- A class is gated (R359). -/
def gated (x : Slice) (p c : Nat) : Bool :=
  gateEn x p && (!bit (igates x p) c || (adminList x p).any (fun e => !opens e c)
                 || (gateOf x p).oper.any (fun e => !opens e c))

/-- Where an open stretch ends. -/
inductive Stretch where
  | closes (u : Nat)
  | reaches           -- runs up to the pending change at T
  | never
  deriving DecidableEq, Repr

/-- Whether the cycle that would begin at `e` is not begun, because T is less than GEXT after it (R363). -/
def heldUntil (t : Option Nat) (ext e : Nat) : Bool :=
  match t with
  | some t => decide (t < e + ext)
  | none => false

/-- End of the unbroken stretch whose entry `i`, open, ends at `e`. -/
def stretchEnd (l : List GateEntry) (c : Nat) (t : Option Nat) (ext : Nat) : Nat → Nat → Nat → Stretch
  | 0, _, _ => .never
  | k + 1, i, e =>
    if (match t with | some t => decide (t ≤ e) | none => false) then .reaches
    else
      let j := (i + 1) % l.length
      if j = 0 ∧ heldUntil t ext e then .reaches
      else if opens (entryOf l j) c then stretchEnd l c t ext k j (e + (entryOf l j).interval * nsUnits)
      else .closes e

/-- T of a pending change. -/
def pendAt (x : Slice) (p : Nat) : Option Nat := if gatePend x p then some (gateOf x p).base else none

def gext (x : Slice) (p : Nat) : Nat := (regGet x kTMG (tmgOff p + 0xD0)).toNat * nsUnits

/-- Present time for a port's gates: at least the beginning of the entry in force. -/
def gateNow (x : Slice) (p : Nat) : Nat := max (baseNow x (portBase x p).val) (gateOf x p).entryAt

/-- A cycle of a pending admin list from T. -/
def afterChange (x : Slice) (p c t : Nat) : Option Nat :=
  let l := effList (gcyc x p) 0 (adminList x p)
  if opens (entryOf l 0) c then
    match stretchEnd l c none 0 (l.length + 1) 0 (t + (entryOf l 0).interval * nsUnits) with
    | .closes u => some u
    | _ => none
  else some t

/-- When the gate of class c, open now, closes: `some 0` when it is closed, `none` when it never closes (R360). -/
def gateCloses (x : Slice) (p c : Nat) : Option Nat :=
  if !gateEn x p then none
  else
    let g := gateOf x p
    let l := operEff g
    let r : Stretch :=
      if l = [] then (if bit (igates x p) c then (if (pendAt x p).isSome then .reaches else .never) else .closes 0)
      else if opens (entryOf l g.cur) c then
        stretchEnd l c (pendAt x p) (gext x p) (l.length + 1) g.cur (g.entryAt + (entryOf l g.cur).interval * nsUnits)
      else .closes 0
    match r with
    | .closes u => some u
    | .reaches => (pendAt x p).bind (afterChange x p c)
    | .never => none

/-- Longest open stretch of a class's gate in ns, `none` when it is never closed (R360). -/
def longestOpen (x : Slice) (p c : Nat) : Option Nat :=
  if !gateEn x p then none
  else
    let l := operEff (gateOf x p)
    if l = [] then (if bit (igates x p) c then none else some 0)
    else if l.all (opens · c) then none
    else some ((l ++ l).foldl (fun (r : Nat × Nat) e =>
        if opens e c then (r.1 + e.interval, max r.2 (r.1 + e.interval)) else (0, r.2)) (0, 0)).2

/-! ### Commands -/

/-- The admin registers of a port, whose writes are ignored while PEND is 1 (R364). -/
def isGateAdmin (off : Nat) : Bool :=
  decide (0x1000 ≤ off) && decide (off < 0x2000) && decide (off % 0x100 ∈ [0xC4, 0xC8, 0xCC, 0xD0, 0xD4])

/-- Discards the operational list and a pending switch (R359). -/
def gateOff (x : Slice) (p : Nat) : Slice :=
  let g := gateOf x p
  let x := if x.gates.any (·.lane.val = p) then setGate x { g with oper := [], cycle := 0, entryAt := 0, cur := 0, base := 0 } else x
  regPut (regPut x kTMG (gstatOff p) 31 31 0) kTMG (gstatOff p) 28 0 0

/-- The admin base time B on the port's time base (R363). -/
def adminBase (x : Slice) (p : Nat) : Int :=
  let now := baseNow x (portBase x p).val
  let sec := now / secUnits / 2 ^ 32 * 2 ^ 32 + (regGet x kTMG (tmgOff p + 0xC4)).toNat
  let b : Int := ((sec * secUnits + (regGet x kTMG (tmgOff p + 0xC8)).toNat * nsUnits : Nat) : Int)
  let span : Int := ((2 ^ 32 * secUnits : Nat) : Int)
  let far : Int := ((now + 2 ^ 31 * secUnits : Nat) : Int)
  if b + span ≤ far then b + span else if b ≤ far then b else b - span

/-- The configuration change time T (R363). -/
def changeTime (x : Slice) (p : Nat) : Nat :=
  let b := adminBase x p
  let least : Int := ((baseNow x (portBase x p).val + 10000 * nsUnits : Nat) : Int)
  if least ≤ b then b.toNat
  else
    let cyc : Int := ((gcyc x p * nsUnits : Nat) : Int)
    (b + (least - b + cyc - 1) / cyc * cyc).toNat

/-- Whether CONFIG is refused (R364). -/
def configBad (x : Slice) (p : Nat) : Bool :=
  decide (glen x p = 0) || decide (1024 < glen x p) || decide (gcyc x p < 1000) || decide (1000000000 < gcyc x p)
  || (adminList x p).any (fun e => decide (e.interval = 0))

/-- CONFIG written to TMG_GCTLp.CMD; with EN 0 its pending switch is discarded at once. -/
def gateConfig (x : Slice) (p : Nat) : Slice :=
  if gatePend x p then setRegBit x kTMG (gstatOff p) 29
  else if configBad x p then raise (setRegBit x kTMG (gstatOff p) 30) kTMG 1
  else
    let t := changeTime x p
    let x := regSet x kTMG (tmgOff p + 0xDC) (w32 (secOf t))
    let x := regSet x kTMG (tmgOff p + 0x10) (w32 (nsOf t))
    if gateEn x p then setRegBit (setGate x { gateOf x p with base := t }) kTMG (gstatOff p) 31 else x

def gateCancel (x : Slice) (p : Nat) : Slice := clrRegBit x kTMG (gstatOff p) 31

/-- A write of TMG_GCTLp: EN and IGATES, then CMD. -/
def gctlWrite (x : Slice) (p : Nat) (v : Word) : Slice :=
  let x := regSet x kTMG (tmgOff p + 0xC0) (w32 (v.toNat &&& 0x8000FF00))
  let x := if wbit v 31 then x else gateOff x p
  match fld v 1 0 with
  | 1 => gateConfig x p
  | 2 => gateCancel x p
  | _ => x

def execConfig (sl : SliceId) (lane : Lane) (s : State) : Res :=
  onStarted sl (fun x => written (gateConfig x lane.val) kTMG (tmgOff lane.val + 0xC0)) s

def execGateCancel (sl : SliceId) (lane : Lane) (s : State) : Res :=
  onStarted sl (fun x => written (gateCancel x lane.val) kTMG (tmgOff lane.val + 0xC0)) s

/-- Shows the entry in force. -/
def showEntry (x : Slice) (p i : Nat) : Slice := regPut x kTMG (gstatOff p) 9 0 i

/-- The port's time base has reached a time. -/
def gateDue (x : Slice) (p u : Nat) : Bool := decide (u ≤ baseNow x (portBase x p).val)

/-- GATE_CONFIG_CHANGE: at T the admin list becomes operational (R363). -/
def execGateConfigChange (sl : SliceId) (lane : Lane) (s : State) : Res :=
  onStarted sl (fun x =>
    let p := lane.val
    if !gatePend x p || !gateEn x p || !gateDue x p (gateOf x p).base then x
    else
      let g := gateOf x p
      let x := setGate x { g with oper := adminList x p, cycle := gcyc x p, entryAt := g.base, cur := 0 }
      let x := regPut x kTMG (gstatOff p) 31 31 0
      let x := regPut (regPut x kTMG (gstatOff p) 28 28 1) kTMG (gstatOff p) 26 16 (glen x p)
      raise (showEntry x p 0) kTMG 0) s

/-- GATE_ENTRY_ADVANCE: the entry in force ends (R362, R363). -/
def execGateEntryAdvance (sl : SliceId) (lane : Lane) (s : State) : Res :=
  onStarted sl (fun x =>
    let p := lane.val
    let g := gateOf x p
    let l := operEff g
    if !gateEn x p || decide (l = []) then x
    else
      let e := g.entryAt + (entryOf l g.cur).interval * nsUnits
      let j := (g.cur + 1) % l.length
      if !gateDue x p e || (decide (j = 0) && heldUntil (pendAt x p) (gext x p) e) then x
      else showEntry (setGate x { g with entryAt := e, cur := j }) p j) s

/-! ### List access (R362) -/

def glPort (x : Slice) : Nat := regFld x kTMG 0x200 19 16
def glOper (x : Slice) : Bool := regBit x kTMG 0x200 15
def glEntry (x : Slice) : Nat := regFld x kTMG 0x200 9 0

/-- The list entry that TMG_GLADDR names. -/
def glGet (x : Slice) : GateEntry :=
  let g := gateOf x (glPort x)
  if glOper x then entryOf g.oper (glEntry x) else adminEntry g (glEntry x)

def glAdvance (x : Slice) : Slice := regPut x kTMG 0x200 9 0 (glEntry x + 1)

/-- A write of TMG_GLDATA1. -/
def glWrite (x : Slice) (v : Word) : Slice :=
  let p := glPort x
  if glOper x then x
  else if gatePend x p then setRegBit x kTMG (gstatOff p) 29
  else
    let g := gateOf x p
    let e : GateEntry := ⟨BitVec.ofNat 8 (regFld x kTMG 0x204 7 0), v.toNat⟩
    glAdvance (regSet (setGate x { g with admin := sPut ⟨0, 0⟩ g.admin (glEntry x) e }) kTMG 0x208 v)

def execGateListWrite (sl : SliceId) (v : Word) (s : State) : Res :=
  onStarted sl (fun x => written (glWrite x v) kTMG 0x208) s

/-- A read of TMG_GLDATA1. -/
def glRead (x : Slice) : Word × Slice := (w32 (glGet x).interval, glAdvance x)

def execGateListRead (sl : SliceId) (s : State) : Res :=
  onStarted sl (fun x => { (glRead x).2 with bus := .value (glRead x).1 }) s

/-- A forward step past a gate cycle start restarts the cycle from the new time (R372). -/
def gateStep (x : Slice) (p u1 : Nat) : Slice :=
  let g := gateOf x p
  let l := operEff g
  if l = [] ∨ !gateEn x p then x
  else
    let rest := ((l.drop g.cur).map (·.interval)).foldl (· + ·) 0
    if g.entryAt + rest * nsUnits < u1 then showEntry (setGate x { g with entryAt := u1, cur := 0 }) p 0 else x

end Sys2Proof.Machine
end

