-- ==== Sys2Proof/Machine/Ptp.lean ====
section
/-! DEFINITION. The one-step transparent clock and one-step origin at egress (R378 to R380, R382). -/

namespace Sys2Proof.Machine

/-- Form of a PTP frame (R378). -/
inductive PtpForm where
  | l2 | v4 | v6
  deriving DecidableEq, Repr

/-- Offset of the EtherType after the source address and up to `n` VLAN tags. -/
def etOffset (bs : Bytes) : Nat → Nat → Nat
  | 0, o => o
  | n + 1, o => if beAt bs o 2 = 0x8100 ∨ beAt bs o 2 = 0x88A8 then etOffset bs n (o + 4) else o

/-- The UDP form of a frame to port 319, with the offsets of its UDP and PTP headers. -/
def ptpUdp (bs : Bytes) (o : Nat) : Option (PtpForm × Nat × Nat) :=
  if beAt bs o 2 = 0x0800 ∧ beAt bs (o + 2) 1 % 16 = 5 ∧ beAt bs (o + 8) 2 % 0x4000 = 0 ∧ beAt bs (o + 11) 1 = 17
      ∧ beAt bs (o + 24) 2 = 319 then some (.v4, o + 22, o + 30)
  else if beAt bs o 2 = 0x86DD ∧ beAt bs (o + 8) 1 = 17 ∧ beAt bs (o + 44) 2 = 319 then some (.v6, o + 42, o + 50)
  else none

/-- Form, UDP offset and PTP offset of a PTP event message (R378). -/
def ptpEvent (bs : Bytes) : Option (PtpForm × Nat × Nat) :=
  let o := etOffset bs 2 12
  let r := if beAt bs o 2 = 0x88F7 then some (PtpForm.l2, 0, o + 2) else ptpUdp bs o
  match r with
  | some (f, u, p) =>
    if beAt bs (p + 1) 1 % 16 = 2 ∧ beAt bs p 1 % 16 < 4 ∧ p + 16 ≤ 256 ∧ p + 16 ≤ bs.length then some (f, u, p) else none
  | none => none

/-- One's complement sum of 16-bit numbers. -/
def ocAdd (a b : Nat) : Nat := if a + b < 65536 then a + b else a + b - 65535

/-- Sum of ~m + m' over the changed 16-bit words of an even-aligned span. -/
def ocDelta (old new : Bytes) (n : Nat) : Nat :=
  (List.range n).foldl (fun a i => ocAdd (ocAdd a (65535 - beAt old (2 * i) 2)) (beAt new (2 * i) 2)) 0

/-- Checksum after a change, under RFC 1624; 0 becomes 0xFFFF. -/
def cksumUpdate (c delta : Nat) : Nat :=
  let v := 65535 - ocAdd (65535 - c) delta
  if v = 0 then 65535 else v

def swap16 (v : Nat) : Nat := v % 256 * 256 + v / 256

/-- Keeps a frame's checksum valid after a change of the PTP message by `delta` (R380). -/
def ptpChecksum (form : PtpForm) (u p : Nat) (trail : Bool) (delta : Nat) (bs : Bytes) : Bytes :=
  match form with
  | .l2 => bs
  | .v4 =>
    let c := beAt bs (u + 6) 2
    if c = 0 then bs else overlay bs (u + 6) (beBytes 2 (cksumUpdate c delta))
  | .v6 =>
    let pay := beAt bs (u + 4) 2 - 8
    if trail && decide (beAt bs (p + 2) 2 + 2 ≤ pay) && decide (u + 8 + pay ≤ bs.length) then
      let o := u + 8 + pay - 2
      let t := beAt bs o 2
      let t := if pay % 2 = 0 then ocAdd t (65535 - delta) else swap16 (ocAdd (swap16 t) (65535 - delta))
      overlay bs o (beBytes 2 t)
    else
      let c := beAt bs (u + 6) 2
      overlay bs (u + 6) (beBytes 2 (cksumUpdate c delta))

/-- Replaces bytes of the PTP message and keeps the checksum valid. -/
def ptpPatch (r : PtpForm × Nat × Nat) (trail : Bool) (o : Nat) (new : Bytes) (bs : Bytes) : Bytes :=
  ptpChecksum r.1 r.2.1 r.2.2 trail (ocDelta (slab bs o new.length) new (new.length / 2)) (overlay bs o new)

def timPort (x : Slice) (p : Nat) : Word := regGet x kTIM (0x200 + 4 * p)

/-- Adds to correctionField, modulo 2^64. -/
def ptpAdd (r : PtpForm × Nat × Nat) (trail : Bool) (d : Int) (bs : Bytes) : Bytes :=
  ptpPatch r trail (r.2.2 + 8) (beBytes 8 (toSigned 64 (beAt bs (r.2.2 + 8) 8 + d))) bs

/-- The transparent clock (R378, R379): the frame as sent on port p. -/
def transparent (x : Slice) (p : Nat) (f : Frame) (st : Stamp) (bs : Bytes) : Bytes × Slice :=
  match f.lanes, f.stamp with
  | some q, some i =>
    if !wbit (timPort x p) 31 then (bs, x)
    else match ptpEvent bs with
      | none => (bs, x)
      | some r =>
        if i.base ≠ st.base then (bs, setRegBit (count x kTIM 0x2008 1) kTIM 0x100 0)
        else
          let ldly := if beAt bs r.2.2 1 % 16 = 0 ∧ wbit (timPort x q.val) 30 then (regGet x kTIM (0x300 + 4 * q.val)).toNat else 0
          let d := (st.fine : Int) - i.fine + ldly
          (ptpAdd r (wbit (timPort x p) 29) d bs, count x kTIM 0x2000 1)
  | _, _ => (bs, x)

/-- Bytes of a transmit descriptor (R382). -/
def txDesc (x : Slice) (t i : Nat) : Nat × Bytes :=
  let a := bits (pairGet x kSWC (0x480 + 16 * t)) 39 0 + 32 * i
  (a, dramGet x (a - dramBase) 32)

/-- Form and offsets of a one-step origin frame: a UDP header to port 319, or the Layer 2 offset of OSOFF. -/
def originForm (bs : Bytes) (osoff : Nat) : PtpForm × Nat × Nat :=
  (ptpUdp bs (etOffset bs 2 12)).getD (.l2, 0, 14 + 4 * osoff)

/-- A one-step origin (R382): originTimestamp takes the egress time and correctionField its fraction. -/
def oneStepOrigin (x : Slice) (p : Nat) (f : Frame) (st : Stamp) (bs : Bytes) : Bytes :=
  match f.tx with
  | none => bs
  | some (t, i) =>
    let b12 := beAt (txDesc x t i).2 12 1
    let r := originForm bs (bits b12 5 3)
    if bit b12 6 = false ∨ bs.length < r.2.2 + 44 then bs
    else
      let trail := wbit (timPort x p) 29
      ptpAdd r trail st.frac (ptpPatch r trail (r.2.2 + 34) (beBytes 6 st.sec ++ beBytes 4 st.ns) bs)

end Sys2Proof.Machine
end

