-- ==== Sys2Proof/Machine/Tmg.lean ====
section
/-! DEFINITION. The traffic manager: admission, the choice of the next frame, shapers, policers, and the aggregate queue
and policer tables (R344 to R358, R360, R365, R366). -/

namespace Sys2Proof.Machine

/-! ### Admission (R345, R346, R365, R366) -/

def aqValid (x : Slice) (n : Nat) : Bool := wbit (aqW x n 0) 31

/-- Limit of a queue for a green frame and its yellow fraction. -/
def queueLim (x : Slice) : QId → Nat × Nat
  | .cls l c =>
    let w := regGet x kTMG (tmgOff l.val + 0xA0 + 4 * c.val)
    (fld w 17 0, fld w 31 28)
  | .aq n => (256 * fld (aqW x n.toNat 1) 31 24, fld (aqW x n.toNat 1) 23 20)
  | .reflex _ => (64, 16)
  | .scene _ => (256, 16)
  | .punt _ => (4096, 16)

/-- Frames that a queue holds. -/
def queueLen (x : Slice) (q : QId) : Nat :=
  match q with
  | .punt _ => (x.puntFrames.filter (·.q = q)).length
  | q => (queueOf x q).all.length

/-- Why a copy is refused. -/
inductive Refuse where
  | down | full
  deriving DecidableEq, Repr

/-- A group of a protection pair whose end does not select: nothing is forwarded onto it (R182). -/
def unselected (x : Slice) (l : Nat) : Bool :=
  isGroup x l && decide (fld (srgCfg x l) 30 29 ≠ 0) && !regBit x kSRG (0x1800 + 4 * l) 23

/-- Whether a copy is admitted (R346); a copy that finds no descriptor is refused as for a full queue (R332). -/
def admission (x : Slice) (c : Copy) (green : Bool) : Option Refuse :=
  let lim := queueLim x c.q
  let n := if green then lim.1 else lim.1 * lim.2 / 16
  if (match c.q with | .punt _ => false | _ => !portUp x c.lane.val || unselected x c.lane.val) then some .down
  else if !descFree x || decide (n ≤ queueLen x c.q) then some .full
  else none

/-- A frame may be sent cut-through (R146). -/
def cutOk (x : Slice) (f : Frame) (c : Copy) : Bool :=
  match f.lanes, c.q with
  | some i, .cls l k =>
    cutAllowed x i.val && cutAllowed x l.val && queueEmpty x c.q && !gated x l.val k.val
    && decide (portRate x l.val ≤ portRate x i.val)
  | some i, .aq n =>
    let p := aqPort x n.toNat
    cutAllowed x i.val && cutAllowed x p && queueEmpty x c.q && !gated x p (aqClass x n.toNat)
    && decide (portRate x p ≤ portRate x i.val)
  | _, _ => false

/-- Places an admitted copy in its queue. -/
def placeCopy (x : Slice) (c : Copy) : Slice :=
  match c.q with
  | .punt _ => { x with puntFrames := x.puntFrames ++ [c] }
  | _ => enqueue x (match frameOf x c.frm with | some f => { c with cut := cutOk x f c } | none => c)

/-- First queue-full refusal. -/
def fullFlag (x : Slice) : Slice := flagRaise x kTMG 0x100 1 3

/-- An aggregate queue that is not VALID, not of the copy's port, or under a port that is none (R345, R354). -/
def aqWrong (x : Slice) (c : Copy) : Bool :=
  match c.q with
  | .aq n => !aqValid x n.toNat || decide (aqPort x n.toNat ≠ c.lane.val) || !isPort x c.lane.val
  | _ => false

def aqBad (x : Slice) : Slice := setRegBit (count x kTMG 0x4200 1) kTMG 0x100 3

/-- Admits the copy of a unicast frame, or drops the frame and counts why. -/
def admitUnicast (x : Slice) (c : Copy) (green : Bool) : Slice :=
  if aqWrong x c then releaseFrame (aqBad x) c.frm
  else match admission x c green with
    | none => placeCopy x c
    | some .down => releaseFrame (count x kTMG (0x4080 + 8 * c.lane.val) 1) c.frm
    | some .full => releaseFrame (fullFlag (count x kTMG (0x4000 + 8 * c.lane.val) 1)) c.frm

/-- Admits an emitted frame to a reflex queue (R365). -/
def admitReflex (x : Slice) (c : Copy) : Slice :=
  match admission x c true with
  | none => placeCopy x c
  | some .down => releaseFrame (count x kTMG (0x4080 + 8 * c.lane.val) 1) c.frm
  | some .full =>
    let x := if descFree x then flagRaise (count x kTMG (0x4180 + 8 * c.lane.val) 1) kTMG 0x100 2 4
      else fullFlag (count x kTMG (0x4000 + 8 * c.lane.val) 1)
    releaseFrame x c.frm

/-! ### Shapers and minimum-rate buckets (R350, R351) -/

def kPortSh (p : Nat) : Nat := p
def kClsSh (p c : Nat) : Nat := 16 + 8 * p + c
def kClsMin (p c : Nat) : Nat := 144 + 8 * p + c
def kAqSh (n : Nat) : Nat := 1024 + n
def kAqMin (n : Nat) : Nat := 32768 + n

def credit (x : Slice) (k : Nat) : Int := sGet 0 x.credits k

def setCredit (x : Slice) (k : Nat) (v : Int) : Slice := { x with credits := sPut 0 x.credits k v }

/-- Rate in Mb/s and cap in bits of a bucket. -/
def creditCfg (x : Slice) (k : Nat) : Nat × Nat :=
  if k < 16 then (regFld x kTMG (tmgOff k + 4) 19 0, 8 * regFld x kTMG (tmgOff k + 8) 23 0)
  else if k < 144 then
    let o := tmgOff ((k - 16) / 8) + 16 * ((k - 16) % 8)
    (regFld x kTMG (o + 0x24) 19 0, 8 * regFld x kTMG (o + 0x28) 23 0)
  else if k < 272 then
    (regFld x kTMG (tmgOff ((k - 144) / 8) + 16 * ((k - 144) % 8) + 0x2C) 19 0, 16384)
  else if k < 32768 then (fld (aqW x (k - 1024) 1) 19 0, 8 * fld (aqW x (k - 1024) 2) 23 0)
  else (fld (aqW x (k - 32768) 3) 19 0, 16384)

/-- Buckets whose credit a refill can change: those with a rate set and those with credit. -/
def refillKeys (x : Slice) : List Nat :=
  let regs := x.regs.filterMap fun e =>
    if regKey kTMG 0x1000 ≤ e.1 ∧ e.1 < regKey kTMG 0x2000 then
      let p := (e.1 - regKey kTMG 0x1000) / 0x100
      let o := e.1 % 0x100
      if o = 4 then some (kPortSh p)
      else if 0x20 ≤ o ∧ o < 0xA0 ∧ o % 16 = 4 then some (kClsSh p ((o - 0x20) / 16))
      else if 0x20 ≤ o ∧ o < 0xA0 ∧ o % 16 = 12 then some (kClsMin p ((o - 0x20) / 16))
      else none
    else none
  let aqs := x.tabs.filterMap fun e =>
    if tabKey tAq 0 0 ≤ e.1 ∧ e.1 < tabKey tAq 16384 0 then
      let n := e.1 / 64 - tAq * 2 ^ 24
      if e.1 % 64 = 1 then some (kAqSh n) else if e.1 % 64 = 3 then some (kAqMin n) else none
    else none
  (regs ++ aqs ++ x.credits.map (·.1)).foldl insNat []

/-! ### Policers (R355 to R358) -/

/-- Colours of a frame. -/
inductive Colour where
  | green | yellow | red
  deriving DecidableEq, Repr

def polW (x : Slice) (n w : Nat) : Word := tabGet x tPol n w

def polOf (x : Slice) (n : Nat) : PolSt := sGet ⟨0, 0, 0, 0, 0⟩ x.pols n

def setPol (x : Slice) (n : Nat) (v : PolSt) : Slice := { x with pols := sPut ⟨0, 0, 0, 0, 0⟩ x.pols n v }

/-- One refill of a policer's buckets, which caps both at the sizes in force (R355, R358). -/
def polRefill (x : Slice) (n : Nat) : Slice :=
  let p := polOf x n
  let cbs := 8 * fld (polW x n 2) 23 0
  let ebs := 8 * fld (polW x n 4) 23 0
  let tc := p.tc + fld (polW x n 1) 19 0
  if wbit (polW x n 0) 30 then
    setPol x n { p with tc := min tc cbs, te := min (p.te + fld (polW x n 3) 19 0) ebs }
  else if cbs < tc then setPol x n { p with tc := cbs, te := min (p.te + tc - cbs) ebs }
  else setPol x n { p with tc := tc, te := min p.te ebs }

/-- Marks a frame of LEN bytes and charges the policer. -/
def polCharge (x : Slice) (n len : Nat) (pre : Colour) : Colour × Slice :=
  if !wbit (polW x n 0) 31 then (pre, x)
  else
    let p := polOf x n
    let b := 8 * (len + 4)
    let pre := if wbit (polW x n 0) 29 then pre else .green
    let r : Colour × PolSt :=
      if wbit (polW x n 0) 30 then
        if pre = .red ∨ p.te < b then (.red, p)
        else if pre = .yellow ∨ p.tc < b then (.yellow, { p with te := p.te - b })
        else (.green, { p with te := p.te - b, tc := p.tc - b })
      else if pre = .green ∧ b ≤ p.tc then (.green, { p with tc := p.tc - b })
      else if pre ≠ .red ∧ b ≤ p.te then (.yellow, { p with te := p.te - b })
      else (.red, p)
    let q := match r.1 with
      | .green => { r.2 with green := r.2.green + 1 }
      | .yellow => { r.2 with yellow := r.2.yellow + 1 }
      | .red => { r.2 with red := r.2.red + 1 }
    (r.1, setPol x n q)

/-- Valid entries of a table whose bit 31 of word 0 is VALID. -/
def validEntries (x : Slice) (tid top : Nat) : List Nat :=
  (((x.tabs.filter fun e => decide (tabKey tid 0 0 ≤ e.1) && decide (e.1 < tabKey tid top 0) && decide (e.1 % 64 = 0)).map fun e =>
    e.1 / 64 - tid * 2 ^ 24).foldl insNat []).filter fun n => wbit (tabGet x tid n 0) 31

/-- Policers that hold anything: entries with a word that is not 0, and those with state. -/
def usedPols (x : Slice) : List Nat :=
  let rows := (x.tabs.filter fun e => decide (tabKey tPol 0 0 ≤ e.1) && decide (e.1 < tabKey tPol 16384 0)).map fun e =>
    e.1 / 64 - tPol * 2 ^ 24
  (rows ++ x.pols.map (·.1)).foldl insNat []

/-- One refill of a bucket; a rate of an aggregate queue that is not 0 acts from its first refill on (R352). -/
def refillKey (x : Slice) (k : Nat) : Slice :=
  let g := creditCfg x k
  let x := setCredit x k (min (credit x k + g.1) g.2)
  if k < 1024 ∨ g.1 = 0 then x else { x with aqLive := insNat x.aqLive k }

/-- SHAPER_REFILL: the common tick of shapers, minimum-rate buckets and policers (R351, R355). -/
def execShaperRefill (sl : SliceId) (s : State) : Res :=
  onStarted sl (fun x =>
    (usedPols x).foldl polRefill ((refillKeys x).foldl refillKey { x with aqLive := [] })) s

/-! ### Choosing the next frame (R348, R349, R360) -/

/-- Charge of a copy on a port in bytes. -/
def charge (x : Slice) (p len : Nat) : Nat := len + 4 + regFld x kTMG (tmgOff p) 5 0

/-- Time on the line in units, rounded up to 0.125 ns (R360). -/
def txUnits (x : Slice) (p c : Nat) : Nat := cdiv (64000 * c) (portRate x p) * (nsUnits / 8)

/-- The time at which a frame that starts now crosses the lands, at 0.125 ns (R361). -/
def startTime (x : Slice) (p : Nat) : Nat := gateNow x p / (nsUnits / 8) * (nsUnits / 8)

/-- A frame may start now under its class's gate (R360). -/
def gatePass (x : Slice) (p k c : Nat) : Bool :=
  match gateCloses x p k with
  | none => true
  | some u => decide (startTime x p + txUnits x p c ≤ u)

/-- A frame too long for every open stretch of its gate (R360). -/
def oversize (x : Slice) (p k c : Nat) : Bool :=
  match longestOpen x p k with
  | none => false
  | some n => decide (n * nsUnits < txUnits x p c)

/-- Queues of a port, class queues and aggregate queues in number order. -/
def portQueues (x : Slice) (p : Nat) : List QId := (x.queues.map (·.q)).filter fun q => queuePort x q = p

def headOf (x : Slice) (q : QId) : Option Copy := (queueOf x q).h.head?

/-- The head frame is found bad before it starts (R337), or oversize for its gate (R360): dropped and counted. -/
def dropHead (x : Slice) (p : Nat) (q : QId) : Option Slice :=
  match headOf x q with
  | none => none
  | some c =>
    if (frameOf x c.frm).any (fun f => f.bad && decide (f.need = 0)) then
      some (removeCopies (count x kSWC 0x1210 1) (·.id = c.id))
    else if oversize x p (queueClass x q) (charge x p c.len) then
      some (removeCopies (flagRaise (count x kTMG (0x4100 + 8 * p) 1) kTMG 0x100 0 2) (·.id = c.id))
    else none

/-- Drops such heads until none is left. -/
def dropHeads (p : Nat) : Nat → Slice → Slice
  | 0, x => x
  | k + 1, x =>
    match (portQueues x p).findSome? (dropHead x p) with
    | some x' => dropHeads p k x'
    | none => x

/-- The head frame can start: whole in its cells, or cut-through. -/
def headReady (x : Slice) (c : Copy) : Bool := c.cut || (frameOf x c.frm).any (·.need = 0)

/-- A queue's head passes its gate and can start; its charge. -/
def headCharge (x : Slice) (p : Nat) (q : QId) : Option Nat :=
  match headOf x q with
  | none => none
  | some c =>
    let n := charge x p c.len
    if headReady x c && gatePass x p (queueClass x q) n then some n else none

def portShaped (x : Slice) (p : Nat) : Bool := regBit x kTMG (tmgOff p) 31
def ccfg (x : Slice) (p c : Nat) : Word := regGet x kTMG (tmgOff p + 0x20 + 16 * c)
def clsShaped (x : Slice) (p c : Nat) : Bool := wbit (ccfg x p c) 30
def clsStrict (x : Slice) (p c : Nat) : Bool := wbit (ccfg x p c) 31
/-- RATE, or MIN, of an aggregate queue was not 0 at the last refill (R351, R352). -/
def aqShaped (x : Slice) (n : Nat) : Bool := decide (kAqSh n ∈ x.aqLive)
def aqHasMin (x : Slice) (n : Nat) : Bool := decide (kAqMin n ∈ x.aqLive)

/-- A class or aggregate queue is eligible (R348); its charge. -/
def eligible (x : Slice) (p : Nat) (q : QId) : Option Nat :=
  let ok := (!portShaped x p || decide (0 < credit x (kPortSh p)))
    && (let c := queueClass x q; !clsShaped x p c || decide (0 < credit x (kClsSh p c)))
    && (match q with
        | .aq n => !aqShaped x n.toNat || decide (0 < credit x (kAqSh n.toNat))
        | _ => true)
  if ok then headCharge x p q else none

/-- A candidate of a pick: member number, charge, quantum, and the queue it stands for. -/
structure Pick where
  m : Nat
  c : Nat
  quantum : Nat
  q : QId
  deriving DecidableEq, Repr

/-- The first candidate after a member in ring order. -/
def nextCand (cs : List Pick) (m : Nat) : Option Pick := (cs.find? fun c => m < c.m).orElse fun _ => cs.head?

/-- The loop of R349 over the members in S; the fuel bounds the visits. -/
def dwrrLoop (cs : List Pick) : Nat → Nat → Sparse Int → Option Pick × Sparse Int
  | 0, _, d => (none, d)
  | k + 1, m, d =>
    match cs.find? fun c => c.m = m && decide ((c.c : Int) ≤ sGet 0 d m) with
    | some c => (some c, d)
    | none =>
      match nextCand cs m with
      | none => (none, d)
      | some c => dwrrLoop cs k c.m (sPut 0 d c.m (sGet 0 d c.m + c.quantum))

/-- Visits that suffice when every quantum is at least 1. -/
def dwrrFuel (cs : List Pick) (d : Sparse Int) : Nat :=
  cs.length * ((cs.map fun c => ((c.c : Int) - sGet 0 d c.m).toNat).foldl max 0 + 2) + 2

/-- dwrr_pick: the member picked, and the set's deficits and pointer after. -/
def dwrrPick (d : Dwrr) (cs : List Pick) : Option (Pick × Dwrr) :=
  match dwrrLoop cs (dwrrFuel cs d.defs) d.cur d.defs with
  | (some c, defs) => some (c, { d with cur := c.m, defs := defs })
  | (none, _) => none

/-- Inserts a candidate in member order. -/
def insCand : List Pick → Pick → List Pick
  | [], c => [c]
  | b :: l, c => if c.m < b.m then c :: b :: l else b :: insCand l c

/-- Eligible members of a class of a port. -/
def membersOf (x : Slice) (p c : Nat) : List Pick :=
  ((portQueues x p).filter fun q => isData q && decide (queueClass x q = c)).foldl (fun l q =>
    match eligible x p q with
    | some n =>
      let qu := match q with | .aq n => fld (aqW x n.toNat 0) 15 0 | _ => fld (ccfg x p c) 15 0
      insCand l ⟨memberNo q, n, qu, q⟩
    | none => l) []

/-- member_of(c): the queue served, and the state with the set's deficits (R348). -/
def memberOf (x : Slice) (p c : Nat) : Option (QId × Slice) :=
  let ms := membersOf x p c
  let d := dwrrOf x (laneOf p) (some (clsOf c))
  let mins := ms.filter fun m =>
    match m.q with
    | .aq n => aqHasMin x n.toNat && decide (0 < credit x (kAqMin n.toNat))
    | _ => false
  match nextCand mins d.last with
  | some m => some (m.q, x)
  | none =>
    match dwrrPick d ms with
    | some (m, d') => some (m.q, setDwrr x d')
    | none => none

/-- The pick of R348. -/
def pickQueue (x : Slice) (p : Nat) : Option (QId × Slice) :=
  let l := laneOf p
  if (headCharge x p (.reflex l)).isSome then some (.reflex l, x)
  else if (headCharge x p (.scene l)).isSome then some (.scene l, x)
  else
    let cs := (List.range 8).filter fun c => membersOf x p c ≠ []
    match (cs.filter fun c => decide (0 < credit x (kClsMin p c))).getLast? with
    | some c => memberOf x p c
    | none =>
      match (cs.filter (clsStrict x p)).getLast? with
      | some c => memberOf x p c
      | none =>
        -- class quanta; a class is charged for the member that member_of would send
        let cands := cs.filterMap fun c =>
          match memberOf x p c with
          | some (q, _) => (eligible x p q).map fun n => (⟨c, n, fld (ccfg x p c) 15 0, q⟩ : Pick)
          | none => none
        match dwrrPick (dwrrOf x l none) cands with
        | some (m, d') => memberOf (setDwrr x d') p m.m
        | none => none

/-- Subtracts from a bucket. -/
def debit (x : Slice) (k n : Nat) : Slice := setCredit x k (credit x k - n)

/-- Charges a start to shapers, minimum-rate buckets and deficits (R348 to R351, R365, R366). -/
def chargeStart (x : Slice) (p : Nat) (q : QId) (c : Nat) : Slice :=
  let b := 8 * c
  let x := if portShaped x p then debit x (kPortSh p) b else x
  if !isData q then x
  else
    let k := queueClass x q
    let x := if clsShaped x p k then debit x (kClsSh p k) b else x
    let x := debit x (kClsMin p k) b
    let x := match q with
      | .aq n =>
        let x := if aqShaped x n.toNat then debit x (kAqSh n.toNat) b else x
        if aqHasMin x n.toNat then debit x (kAqMin n.toNat) b else x
      | _ => x
    let d := dwrrOf x (laneOf p) (some (clsOf k))
    let m := memberNo q
    let x := setDwrr x { d with defs := sPut 0 d.defs m (sGet 0 d.defs m - c), last := m }
    if clsStrict x p k then x
    else
      let d := dwrrOf x (laneOf p) none
      setDwrr x { d with defs := sPut 0 d.defs k (sGet 0 d.defs k - c), last := k }

/-- Egress timestamp of a frame whose first preamble bit crosses the lands now: 8 bytes later (R144, R361). -/
def egressStamp (x : Slice) (p : Nat) : Stamp :=
  stampAt (portBase x p) (startTime x p + 64000 * nsUnits / portRate x p)

/-- The VLAN and MAC rewrites of a copy's handle (R223). -/
def copyRewrite (c : Copy) (bs : Bytes) : Bytes :=
  let bs := match c.vid with
    | some v => if beAt bs 12 2 = 0x8100 ∨ beAt bs 12 2 = 0x88A8 then overlay bs 14 (beBytes 2 (beAt bs 14 2 / 4096 * 4096 + v)) else bs
    | none => bs
  match c.dmac with
  | some m => overlay bs 0 m
  | none => bs

/-- Starts the head of a queue on a port. -/
def startHead (x : Slice) (p : Nat) (q : QId) : Slice :=
  let v := queueOf x q
  match v.h with
  | [] => x
  | c :: h =>
    let n := charge x p c.len
    let x := chargeStart x p q n
    let x := dwrrEmpty (putQueue x { v with h := h }) q
    let st := egressStamp x p
    let f := (frameOf x c.frm)
    let bs := (f.map (·.bytes)).getD []
    let bs := copyRewrite c (bs.take c.len)
    let (bs, x) := match f with
      | some f => let r := transparent x p f st bs; (oneStepOrigin x p f st r.1, r.2)
      | none => (bs, x)
    let x := perf (perf x 4 p 15 1) 5 p 15 (c.len + 4)
    { x with sending := x.sending ++ [⟨laneOf p, { c with started := true }, st, bs⟩] }

/-- Whether a port can start a frame. -/
def portFree (x : Slice) (p : Nat) : Bool :=
  serves x kTMG && isPort x p && portUp x p && !(x.sending.any (·.lane.val = p))

/-- TRANSMIT_START: a port able to start a frame picks the next queue (R348). -/
def execTransmitStart (sl : SliceId) (lane : Lane) (s : State) : Res :=
  onAlive sl (fun x =>
    let p := lane.val
    if !portFree x p then x
    else
      let x := dropHeads p ((allCopies x).length + 1) x
      match pickQueue x p with
      | some (q, x) => startHead x p q
      | none => x) s

/-- Writes the egress timestamp of a descriptor with TSREQ (R382). -/
def txStamp (x : Slice) (f : Frame) (st : Stamp) : Slice :=
  match f.tx with
  | some (t, i) =>
    let d := txDesc x t i
    if bit (beAt d.2 12 1) 7 then dramStore x portCpu (d.1 + 16) (beBytes 6 st.sec ++ beBytes 4 st.ns ++ beBytes 2 st.frac) else x
  | none => x

/-- TRANSMIT_END: a copy has been sent (R332, R382); one whose frame was found bad ends as stomped (R337). -/
def execTransmitEnd (sl : SliceId) (lane : Lane) (s : State) : Res :=
  onAlive sl (fun x =>
    match x.sending.find? (·.lane = lane) with
    | none => x
    | some e =>
      match frameOf x e.copy.frm with
      | none => { x with sending := x.sending.filter (·.lane ≠ lane) }
      | some f =>
        if f.need ≠ 0 then x
        else if f.bad then stompFrame x f.id
        else
          let x := toStream (txStamp x f e.stamp) lane (frameLines e.bytes)
          releaseFrame { x with sending := x.sending.filter (·.lane ≠ lane) } f.id) s

/-! ### Flushing (R336, R347) -/

/-- Ends the frame a port is sending as stomped. -/
def stompPort (x : Slice) (p : Nat) : Slice :=
  match x.sending.find? (·.lane.val = p) with
  | none => x
  | some e =>
    let x := toStream x e.lane (stompLines e.bytes)
    let x := stompIn (flagRaise (count x kSWC (0x1100 + 8 * p) 1) kSWC 0x110 0 0) e.copy.frm
    releaseFrame { x with sending := x.sending.filter (·.lane.val ≠ p) } e.copy.frm

/-- Flushes every queue of a port. -/
def flushPort (x : Slice) (p : Nat) : Slice :=
  let isP := fun (c : Copy) => decide (queuePort x c.q = p)
  let n := ((x.queues.flatMap Queue.all).filter isP).length
  removeCopies (if n = 0 then x else count x kTMG (0x4080 + 8 * p) n) isP

/-- A port goes down: its lanes or the stream of its group, its frame being sent and its queues. -/
def portDown (x : Slice) (p : Nat) : Slice :=
  let x := flushPort (stompPort (if isGroup x p then x else setLanesUp x (portLanes x p) false) p) p
  { x with groups := x.groups.map fun g => if g.lane.val = p then { g with txStream := [] } else g }

/-! ### The aggregate queue table (R353, R354) -/

/-- Total of the minimum-rate guarantees under a port (R350). -/
def minTotal (x : Slice) (p : Nat) : Nat :=
  ((List.range 8).map fun c => regFld x kTMG (tmgOff p + 0x2C + 16 * c) 19 0).foldl (· + ·) 0
  + (((validEntries x tAq 16384).filter fun n => aqPort x n = p).map fun n => fld (aqW x n 3) 19 0).foldl (· + ·) 0

/-- An entry breaks TMG rule 1, 2, 3 or 4 (R122, R354). -/
def aqBreaks (x : Slice) (n : Nat) : Bool :=
  aqValid x n &&
  (decide (fld (aqW x n 0) 15 0 = 0) || !isPort x (aqPort x n) || decide (portRate x (aqPort x n) < fld (aqW x n 1) 19 0)
   || decide (portRate x (aqPort x n) < minTotal x (aqPort x n)))

/-- Command register after a command is done: GO 0, REF, OP and index. -/
def cmdDone (v : Word) (ref : Bool) : Word := setBit (setBit (w32 (v.toNat &&& 0x30003FFF)) 30 ref) 31 false

/-- OP write of TMG_AQCMD. -/
def aqWriteOp (x : Slice) (v : Word) : Slice :=
  let n := fld v 13 0
  let st := (List.range 4).map fun i => regGet x kTMG (0x300 + 4 * i)
  let ws := st.zipIdx.map fun p => w32 (p.1.toNat &&& ([0xFF00FFFF, all32, 0x00FFFFFF, 0x000FFFFF][p.2]?).getD 0)
  let x' := tabPutRow x tAq n ws
  let q : QId := .aq (BitVec.ofNat 14 n)
  let ref := aqBreaks x' n
    || (!queueEmpty x q && (decide (aqPort x' n ≠ aqPort x n) || decide (aqClass x' n ≠ aqClass x n) || !aqValid x' n))
  raise (regSet (if ref then x else x') kTMG 0x310 (cmdDone v ref)) kTMG 5

/-- OP read of TMG_AQCMD. -/
def aqReadOp (x : Slice) (v : Word) : Slice :=
  let n := fld v 13 0
  let x' := (List.range 4).foldl (fun y i => regSet y kTMG (0x300 + 4 * i) (aqW x n i)) x
  let x' := regSet x' kTMG 0x314 (w32 (queueLen x (.aq (BitVec.ofNat 14 n)) % 2 ^ 18))
  raise (regSet x' kTMG 0x310 (cmdDone v (regBit x kTMG 0x310 30))) kTMG 5

/-- A write of TMG_AQCMD. -/
def aqCmd (x : Slice) (v : Word) : Slice :=
  if wbit v 31 && decide (fld v 29 28 = 1) then aqWriteOp x v
  else if wbit v 31 && decide (fld v 29 28 = 2) then aqReadOp x v
  else regSet x kTMG 0x310 (cmdDone v (regBit x kTMG 0x310 30))

/-- AQ_WRITE: a TMG_AQCMD value with GO and OP write. -/
def execAqWrite (sl : SliceId) (v : Word) (s : State) : Res :=
  onStarted sl (fun x => if wbit v 31 && decide (fld v 29 28 = 1) then written (aqWriteOp x v) kTMG 0x310 else x) s

def execAqRead (sl : SliceId) (v : Word) (s : State) : Res :=
  onStarted sl (fun x => if wbit v 31 && decide (fld v 29 28 = 2) then written (aqReadOp x v) kTMG 0x310 else x) s

/-! ### Policer commands (R358) -/

/-- OP write of TMG_POLCMD. -/
def polWriteOp (x : Slice) (v : Word) : Slice :=
  let n := fld v 13 0
  let st := (List.range 5).map fun i => regGet x kTMG (0x110 + 4 * i)
  let fill := wbit ((st[0]?).getD 0) 28
  let ws := st.zipIdx.map fun p =>
    w32 (p.1.toNat &&& ([0xEF000000, 0x000FFFFF, 0x00FFFFFF, 0x000FFFFF, 0x00FFFFFF][p.2]?).getD 0)
  let x := tabPutRow x tPol n ws
  let x := if fill then setPol x n { polOf x n with tc := 8 * fld (polW x n 2) 23 0, te := 8 * fld (polW x n 4) 23 0 } else x
  raise (regSet x kTMG 0x124 (cmdDone v false)) kTMG 5

/-- OP read of TMG_POLCMD. -/
def polReadOp (x : Slice) (v : Word) : Slice :=
  let p := polOf x (fld v 13 0)
  let x := [w32 (p.tc % 2 ^ 28), w32 (p.te % 2 ^ 28), p.green, p.yellow, p.red].zipIdx.foldl (fun x e =>
    regSet x kTMG (0x130 + 4 * e.2) e.1) x
  raise (regSet x kTMG 0x124 (cmdDone v false)) kTMG 5

/-- A write of TMG_POLCMD. -/
def polCmd (x : Slice) (v : Word) : Slice :=
  if wbit v 31 && decide (fld v 29 28 = 1) then polWriteOp x v
  else if wbit v 31 && decide (fld v 29 28 = 2) then polReadOp x v
  else regSet x kTMG 0x124 (cmdDone v false)

def execPolicerWrite (sl : SliceId) (v : Word) (s : State) : Res :=
  onStarted sl (fun x => if wbit v 31 && decide (fld v 29 28 = 1) then written (polWriteOp x v) kTMG 0x124 else x) s

def execPolicerRead (sl : SliceId) (v : Word) (s : State) : Res :=
  onStarted sl (fun x => if wbit v 31 && decide (fld v 29 28 = 2) then written (polReadOp x v) kTMG 0x124 else x) s

/-! ### Cell requests (R328, R329, R331, R339) -/

/-- Admits the copies of a frame that has all its cells (R339). A copy dropped under R345 is not one that R339 refuses. -/
def admitCopies (x : Slice) (f : Frame) : Slice :=
  let x := setFrame x { f with copies := [] }
  let r := f.copies.foldl (fun (r : Nat × Nat × Slice) c =>
    let x := r.2.2
    if aqWrong x c then (r.1, r.2.1, aqBad x)
    else match admission x c f.green with
      | none => (r.1 + 1, r.2.1, placeCopy x c)
      | some .down => (r.1, r.2.1 + 1, count x kSWC (0x1000 + 8 * c.lane.val) 1)
      | some .full => (r.1, r.2.1 + 1, fullFlag (count x kSWC (0x1000 + 8 * c.lane.val) 1))) (0, 0, x)
  let x := r.2.2
  let x := if r.1 = 0 then count x kSWC 0x1208 1
    else if 0 < r.2.1 then flagRaise (count x kSWC 0x1200 1) kSWC 0x110 1 1 else x
  releaseFrame x f.id

end Sys2Proof.Machine
end

