-- ==== Sys2Proof/Machine/Switch.lean ====
section
/-! DEFINITION. The switch core: forwarding handles at commit, multicast, mirror sessions and punts, and cell requests
(R223 to R225, R331, R338 to R341, R345, R381). -/

namespace Sys2Proof.Machine

/-- A number for a frame or a copy. -/
def freshId (x : Slice) : Nat × Slice := (x.nextFrm, { x with nextFrm := x.nextFrm + 1 })

/-- The rewrites of a handle (R223). -/
def handleVid (x : Slice) (h : Nat) : Option Nat :=
  if wbit (handleW x h 1) 31 then some (fld (handleW x h 1) 27 16) else none

def handleDmac (x : Slice) (h : Nat) : Option Bytes :=
  if wbit (handleW x h 3) 31 then some (beBytes 2 (fld (handleW x h 1) 15 0) ++ wordBytes (handleW x h 2)) else none

/-- A copy of a frame for a queue. -/
def mkCopy (x : Slice) (frm len : Nat) (lane : Lane) (q : QId) : Copy × Slice :=
  let r := freshId x
  ({ id := r.1, frm := frm, lane := lane, q := q, reason := 0, mirror := false, len := len, started := false, cut := false,
     moved := false, vid := none, dmac := none }, r.2)

/-- A draft of a frame, before it has a number or cells. -/
def draftFrame (bs : Bytes) (owner : Nat) (slot : Fin 4) (lane : Option Lane) (st : Option Stamp) (ep : BitVec 4) : Frame :=
  { id := 0, bytes := bs, owner := owner, cells := [], pages := [], need := frameCells bs.length, slot := slot, copies := [],
    lanes := lane, stamp := st, epoch := ep, bad := false, green := true, tx := none,
    stomped := false, mir := none }

/-- Stores a frame, whose cells are then requested. -/
def storeFrame (x : Slice) (f : Frame) : Nat × Slice := (x.nextFrm, newFrame x f)

/-! ### Punts (R381) -/

def prCfg (x : Slice) (r : Nat) : Word := regGet x kSWC (0x408 + 16 * r)

def puntDrop (x : Slice) (r : Nat) : Slice := count x kSWC (0x1400 + 8 * r) 1

/-- Admits a copy to a punt ring's queue; `false` where it is dropped. -/
def admitPunt (x : Slice) (c : Copy) (r : Fin 8) : Bool × Slice :=
  if wbit (prCfg x r.val) 31 && (admission x c true).isNone then (true, placeCopy x c) else (false, puntDrop x r.val)

/-- Queues a copy of a frame for a punt ring. -/
def puntCopy (x : Slice) (frm len : Nat) (lane : Lane) (r : Fin 8) (reason : Byte) : Slice :=
  let k := mkCopy x frm len lane (.punt r)
  (admitPunt k.2 { k.1 with reason := reason } r).2

/-! ### Handles (R223 to R225, R338, R345) -/

/-- Queue of a copy for a port (R345): the aggregate queue only for its own port's copy of a multicast frame. -/
def queueFor (x : Slice) (p : Nat) (qc : Nat) (aq : Option (BitVec 14)) (multi : Bool) : QId :=
  match aq with
  | some n => if multi && decide (aqPort x n.toNat ≠ p) then .cls (laneOf p) (clsOf qc) else .aq n
  | none => .cls (laneOf p) (clsOf qc)

/-- Copies of a multicast frame. -/
def multiCopies (x : Slice) (frm len h qc : Nat) (aq : Option (BitVec 14)) : List Nat → List Copy × Slice
  | [] => ([], x)
  | p :: ps =>
    let k := mkCopy x frm len (laneOf p) (queueFor x p qc aq true)
    let r := multiCopies k.2 frm len h qc aq ps
    ({ k.1 with vid := handleVid x h, dmac := handleDmac x h } :: r.1, r.2)

/-- The copy set of a multicast list (R338). -/
def copySet (x : Slice) (k : Nat) (src : Option Lane) : List Nat :=
  let w := regGet x kSWC (0x8000 + 4 * k)
  if 4095 < k ∨ !wbit w 31 then []
  else (List.range 16).filter fun n => wbit w n && !(wbit w 30 && decide (src.map (·.val) = some n))

def badHandle (x : Slice) : Slice := count x kFWD 0x1018 1

/-- Sends a stored frame where a handle says (R223 to R225, R338). The caller releases the frame afterwards. -/
def sendHandle (x : Slice) (f : Frame) (h qc : Nat) (aq : Option (BitVec 14)) : Slice :=
  let w := handleW x h 0
  let t := fld w 15 0
  if !wbit w 31 then badHandle x
  else match fld w 30 28 with
    | 0 =>
      if 15 < t ∨ !isPort x t then badHandle x
      else
        let k := mkCopy x f.id f.bytes.length (laneOf t) (queueFor x t qc aq false)
        admitUnicast k.2 { k.1 with vid := handleVid x h, dmac := handleDmac x h } f.green
    | 1 =>
      match copySet x t f.lanes with
      | [] => count x kSWC 0x1208 1
      | ps =>
        let r := multiCopies x f.id f.bytes.length h qc aq ps
        -- a frame that has its cells already is one that a mirror copy kept
        let g := { f with copies := r.1 }
        if f.need = 0 then admitCopies r.2 g else setFrame r.2 g
    | 2 => puntCopy x f.id f.bytes.length (f.lanes.getD 0) (clsOf qc) (BitVec.ofNat 8 (fld w 23 16))
    | _ => x

/-- Whether a handle punts, so that its frame is charged to owner 16. -/
def handlePunts (x : Slice) (h : Nat) : Bool := wbit (handleW x h 0) 31 && decide (fld (handleW x h 0) 30 28 = 2)

/-! ### Mirror sessions (R340, R341) -/

def msess (x : Slice) (s : Nat) : Word := regGet x kSWC (0x100 + 8 * s)

/-- A request's place in its session's count: whether it makes a copy. -/
def mirSample (x : Slice) (s : Nat) : Bool × Slice :=
  let n := regFld x kSWC (0x104 + 8 * s) 23 0
  if n ≤ 1 then (true, x)
  else
    let k := sGet 0 x.mirCount s + 1
    if n ≤ k then (true, { x with mirCount := sPut 0 x.mirCount s 0 }) else (false, { x with mirCount := sPut 0 x.mirCount s k })

/-- Copy length in bytes of a session, `none` for the whole frame. -/
def mirTrunc (x : Slice) (s : Nat) : Option Nat :=
  let t := fld (msess x s) 20 16
  if t = 0 then none else some (16 * (if t < 4 then 4 else if 16 < t then 16 else t))

/-- The copy of a frame that a session asks for. -/
def mirrorCopy (x : Slice) (f : Frame) (s : Nat) : Copy × Slice :=
  let w := msess x s
  let qc := clsOf (fld w 25 23)
  if wbit w 30 then
    let k := mkCopy x f.id f.bytes.length (f.lanes.getD 0) (.punt qc)
    ({ k.1 with reason := BitVec.ofNat 8 s, mirror := true }, k.2)
  else
    let p := fld w 29 26
    let k := mkCopy x f.id f.bytes.length (laneOf p) (.cls (laneOf p) qc)
    ({ k.1 with mirror := true }, k.2)

/-- Queues a session's copy, with the colour of its packet, and counts it made or dropped (R340, R346). -/
def admitMirror (x : Slice) (c : Copy) (s : Nat) (green : Bool) : Slice :=
  let r : Bool × Slice := match c.q with
    | .punt k => admitPunt x c k
    | _ => match admission x c green with
      | none => (true, placeCopy x c)
      | some .full => (false, fullFlag x)
      | some .down => (false, x)
  if r.1 then count r.2 kSWC (0x1300 + 8 * s) 1 else mirDrop r.2 s

/-- One mirror request for a stored frame `f` of the packet. A truncated copy has a cell of its own, and is queued when it
has it (R341). -/
def mirror (x : Slice) (f : Frame) (s : Nat) : Slice :=
  let w := msess x s
  if !wbit w 31 then count x kSWC (0x1380 + 8 * s) 1
  else
    let r := mirSample x s
    if !r.1 then r.2
    else match mirTrunc r.2 s with
      | none =>
        let k := mirrorCopy r.2 f s
        admitMirror k.2 k.1 s f.green
      | some n =>
        let d := draftFrame (f.bytes.take n) 20 2 f.lanes f.stamp f.epoch
        let d := { d with need := 1, bad := f.bad, green := f.green, mir := some s }
        let k := storeFrame r.2 d
        let c := mirrorCopy k.2 { d with id := k.1 } s
        setFrame c.2 { d with id := k.1, copies := [c.1] }

/-- Where a packet's disposition sends it. -/
inductive Dest where
  | drop
  | punt (r : Fin 8) (reason : Byte)
  | handle (h qc : Nat) (aq : Option (BitVec 14))
  deriving DecidableEq, Repr

/-- Stores a packet's frame under the owner its destination gives, and makes its mirror copies. -/
def storeMirrored (x : Slice) (d : Frame) (mirrors : List Nat) (t : Dest) : Frame × Slice :=
  let punted := match t with
    | .punt _ _ => true
    | .handle h _ _ => handlePunts x h
    | .drop => false
  let d := if punted then { d with owner := 16, slot := 2 } else d
  let r := storeFrame x d
  let f := { d with id := r.1 }
  (f, mirrors.foldl (fun x s => mirror x f s) r.2)

/-- Sends a stored frame to its destination; a frame that no copy refers to is freed. -/
def sendDest (x : Slice) (f : Frame) (t : Dest) : Slice :=
  let x := match t with
    | .drop => x
    | .punt k reason => puntCopy x f.id f.bytes.length (f.lanes.getD 0) k reason
    | .handle h qc aq => sendHandle x f h qc aq
  releaseFrame x f.id

/-- Makes a packet's mirror copies, then acts its disposition; its frame is stored when something needs it. -/
def disposeFrame (x : Slice) (d : Frame) (mirrors : List Nat) (t : Dest) : Slice :=
  let r := storeMirrored x d mirrors t
  sendDest r.2 r.1 t

/-- The same for a packet whose frame may be stored already. -/
def disposeStored (x : Slice) (stored : Option Nat) (d : Frame) (mirrors : List Nat) (t : Dest) : Slice :=
  match stored.bind (frameOf x) with
  | some f =>
    let f := { f with bytes := d.bytes, green := d.green }
    sendDest (setFrame x f) f t
  | none => disposeFrame x d mirrors t

/-! ### Offered frames (R100, R329) -/

/-- The oldest frame of a request slot that wants a cell. -/
def wantsCell (x : Slice) (slot : Fin 4) : Option Frame := x.frames.find? fun f => f.slot = slot && decide (f.need ≠ 0)

/-- A frame whose cell is refused under WAIT holds the write port of its slot (R329). -/
def portHeld (x : Slice) (slot : Fin 4) : Bool :=
  match wantsCell x slot with
  | some f => policyWait x f.owner && (grantCell x f.owner).1.isNone
  | none => false

/-- Whether the write port of a slot takes a frame. -/
def portTakes (x : Slice) (slot : Fin 4) : Bool := accepts x kSWC && accepts x kBUF && !portHeld x slot

/-- A mirror session that copies to a port. -/
def mirrorsToPort (x : Slice) (s : Nat) : Bool := wbit (msess x s) 31 && !wbit (msess x s) 30

/-- Whether the switch core takes a frame for its mirror copies and its destination: it waits in the block that offers it
while SWC or BUF does not accept work, while its write port is held, and, for a port, while TMG does not accept work. -/
def offerTaken (x : Slice) (slot : Fin 4) (mirrors : List Nat) (t : Dest) : Bool :=
  match t with
  | .drop => decide (mirrors = []) || (portTakes x slot && (accepts x kTMG || !mirrors.any (mirrorsToPort x)))
  | .punt _ _ => portTakes x 2 && (accepts x kTMG || !mirrors.any (mirrorsToPort x))
  | .handle h _ _ =>
    portTakes x (if handlePunts x h then 2 else slot)
    && (accepts x kTMG || (handlePunts x h && !mirrors.any (mirrorsToPort x)))

/-! ### Cell requests (R328, R329, R331) -/

/-- A truncated mirror copy has its cell, and is queued. -/
def mirrorWhole (x : Slice) (f : Frame) : Slice :=
  let x := setFrame x { f with copies := [], mir := none }
  releaseFrame (f.copies.foldl (fun x c => admitMirror x c (f.mir.getD 0) f.green) x) f.id

/-- The oldest frame of a slot that wants a cell asks for one. -/
def cellRequest (x : Slice) (slot : Fin 4) : Slice :=
  match wantsCell x slot with
  | none => x
  | some f =>
    match grantCell x f.owner with
    | (none, x) => if policyWait x f.owner then count x kBUF 0x2008 1 else discardNoCell x f
    | (some k, x) =>
      let f := { f with cells := f.cells ++ [k], need := f.need - 1 }
      let x := setFrame x f
      if f.need ≠ 0 then x
      else if f.pages ≠ [] then pageReadWhole x f
      else if f.mir.isSome then mirrorWhole x f
      else if f.copies ≠ [] then admitCopies x f
      else x

end Sys2Proof.Machine
end

