-- ==== Sys2Proof/Machine/Tim.lean ====
section
/-! DEFINITION. Time bases and trackers: capture, set, phase, rate, holdover, the sources and the clock tick
(R367 to R377). The commands that step a base or write its control word are in Timestep. -/

namespace Sys2Proof.Machine

/-- A base's time wraps with its 48-bit seconds. -/
def timeMod : Nat := 2 ^ 48 * secUnits

/-- Signed difference of two times. -/
def timeDiff (a b : Nat) : Int :=
  let d := (a % timeMod + timeMod - b % timeMod) % timeMod
  if 2 * d < timeMod then (d : Int) else (d : Int) - timeMod

def addTime (a : Nat) (d : Int) : Nat := (((a : Int) + d) % (timeMod : Int)).toNat

/-- Sets a tracker's time; the base does not move (R371). -/
def setTrkTime (x : Slice) (b k t : Nat) : Slice :=
  let v := baseOf x b
  let v' := v.setTrk k { v.trk k with time := t % timeMod }
  if aselOf x b = k then setBase x b { v' with res := timeDiff (baseNow x b) (t % timeMod) } else setBase x b v'

/-! ### Registers of trackers -/

def tctl (x : Slice) (b k : Nat) : Word := regGet x kTIM (trkOff b k)

/-- Source of a tracker: 0 LOCAL, 1 PPS, 2 TWIN; the reserved value acts as LOCAL (R373). -/
def srcOf (x : Slice) (b k : Nat) : Nat := if fld (tctl x b k) 31 30 = 3 then 0 else fld (tctl x b k) 31 30

def trkState (x : Slice) (b k : Nat) : Nat := regFld x kTIM (trkOff b k + 4) 31 29

def tkFree : Nat := 0
def tkAcquiring : Nat := 1
def tkLocked : Nat := 2
def tkHoldover : Nat := 3
def tkLoop : Nat := 4

/-- Changes a tracker's state: cause 0 into or out of LOCKED, cause 1 on entering HOLDOVER, cause 4 on a twin loop. -/
def setTrkState (x : Slice) (b k st : Nat) : Slice :=
  let old := trkState x b k
  if old = st then x
  else
    let x := regPut x kTIM (trkOff b k + 4) 31 29 st
    let x := if old = tkLocked ∨ st = tkLocked then raise x kTIM 0 else x
    let x := if st = tkHoldover then raise x kTIM 1 else x
    if st = tkLoop then raise x kTIM 4 else x

/-- FADJ in units of 2^-40. -/
def fadjOf (x : Slice) (b k : Nat) : Int := signed 32 (regGet x kTIM (trkOff b k + 8)).toNat

/-- ±1,000 ppm in units of 2^-40. -/
def fadjMax : Int := 1099511627

def clampFadj (v : Int) : Int := max (-fadjMax) (min fadjMax v)

def setFadj (x : Slice) (b k : Nat) (v : Int) : Slice := regSet x kTIM (trkOff b k + 8) (w32 (toSigned 32 (clampFadj v)))

/-- The rate a servo sets: open, within the limits of FADJ. -/
def servoFadj (x : Slice) (b k : Nat) : Slice :=
  let f := freeW x
  setFadj f.2 b k (signed 32 f.1.toNat)

/-! ### The clock (R367, R370, R377) -/

/-- Units a tracker advances per clock. -/
def rateOf (x : Slice) (b k : Nat) : Nat := ((5 * 2 ^ 40 * 1000000 : Nat) + 5000000 * fadjOf x b k).toNat

/-- SLEW in ppm. -/
def slewPpm (x : Slice) (b : Nat) : Nat := max 1 (min 1000 (regFld x kTIM (timOff b) 26 17))

/-- Units the residual shrinks per clock. -/
def slewStep (x : Slice) (b : Nat) : Nat := rateOf x b (aselOf x b) * slewPpm x b / 1000000

/-- A residual slewed for one clock. -/
def slewed (r : Int) (d : Nat) : Int := if r.natAbs ≤ d then 0 else if 0 < r then r - d else r + d

/-- One clock of a base. -/
def tickBase (x : Slice) (b : Nat) : Slice :=
  let v := baseOf x b
  let r := slewed v.res (slewStep x b)
  let v' := { v with t0 := { v.t0 with time := (v.t0.time + rateOf x b 0) % timeMod },
                     t1 := { v.t1 with time := (v.t1.time + rateOf x b 1) % timeMod }, res := r }
  let x := setBase x b v'
  if v.res ≠ 0 ∧ r = 0 then raise x kTIM 2 else x

/-- One felt tick of a base in NAP (R377). -/
def feltTickBase (x : Slice) (b : Nat) : Slice :=
  let v := baseOf x b
  setBase x b { v with t0 := { v.t0 with time := (v.t0.time + v.ratio) % timeMod },
                       t1 := { v.t1 with time := (v.t1.time + v.ratio) % timeMod } }

/-! ### Commands -/

/-- Posts writes of a slow domain, or drops them while one is outstanding (R105, R106). -/
def postWrites (x : Slice) (blk off : Nat) (ws : List (Nat × Word)) : Slice :=
  if pendBusy x blk then postDrop x blk off
  else setRegBit { x with posted := x.posted ++ ws.map fun w => (blk, w.1, w.2) } blk 0x10 31

/-- A write of a TIM register, which the time domain takes at SLOW_WRITE_LAND. -/
def timCommand (sl : SliceId) (off : Nat) (v : Slice → Word) (s : State) : Res :=
  onStarted sl (fun x => { postWrites x kTIM off [(off, v x)] with bus := .done }) s

/-- A value of a register with a command in its low bits. -/
def withCmd (x : Slice) (off hi n : Nat) : Word := setFld (regGet x kTIM off) hi 0 n

/-- What CAPTURE does as the time domain takes it (R369). -/
def captureBase (x : Slice) (b : Nat) : Slice :=
  let u := baseNow x b
  let x := pairSet x kTIM (timOff b + 0x10) (secOf u)
  regSet (regSet x kTIM (timOff b + 0x18) (w32 (nsOf u))) kTIM (timOff b + 0xC) (w32 (fracOf u))

/-- CAPTURE: the base command of TIM_BCFG. -/
def execCapture (sl : SliceId) (b : BaseId) (s : State) : Res :=
  timCommand sl (timOff b.val) (withCmd · (timOff b.val) 1 1) s

/-- What SET does: loads TIM_TSETS and TIM_TSETN into the tracker (R371). -/
def setTracker (x : Slice) (b k : Nat) : Slice :=
  let sec := pairGet x kTIM (trkOff b k + 0x10)
  let ns := (regGet x kTIM (trkOff b k + 0x18)).toNat
  setTrkTime x b k (unitsOf sec ns)

/-- SET: the tracker command of TIM_TCTL. -/
def execSet (sl : SliceId) (b : BaseId) (k : TrkId) (s : State) : Res :=
  timCommand sl (trkOff b.val k.val) (withCmd · (trkOff b.val k.val) 2 1) s

/-- A write of TIM_PHASE: signed ns added to the tracker's time. -/
def phaseAdd (x : Slice) (b k : Nat) (v : Word) : Slice :=
  setTrkTime x b k (addTime ((baseOf x b).trk k).time (signed 32 v.toNat * nsUnits))

/-- PHASE_WRITE. -/
def execPhaseWrite (sl : SliceId) (b : BaseId) (k : TrkId) (v : Word) (s : State) : Res :=
  timCommand sl (trkOff b.val k.val + 0xC) (fun _ => v) s

/-- FADJ_WRITE. -/
def execFadjWrite (sl : SliceId) (b : BaseId) (k : TrkId) (v : Word) (s : State) : Res :=
  timCommand sl (trkOff b.val k.val + 8) (fun _ => v) s

/-- A write of TIM_TCTL: the source and PTC, then CMD (R373). -/
def tctlWrite (x : Slice) (b k : Nat) (v : Word) : Slice :=
  let old := srcOf x b k
  let x := regSet x kTIM (trkOff b k) (w32 (v.toNat &&& 0xFF000000))
  let src := srcOf x b k
  let x := if src = old then x else setTrkState x b k (if src = 0 then tkFree else tkAcquiring)
  if fld v 2 0 = 1 then setTracker x b k else x

/-- Changes ASEL: res takes up the difference, and the base does not move (R371). -/
def selectTracker (x : Slice) (b k : Nat) : Slice :=
  if aselOf x b = k then x
  else
    let v := baseOf x b
    let r := timeDiff (baseNow x b) (v.trk k).time
    setBase (regPut x kTIM (timOff b) 31 31 k) b { v with res := r }

/-- RESIDUAL_ZERO: slewing has brought res to 0 (R370). -/
def execResidualZero (sl : SliceId) (b : BaseId) (s : State) : Res :=
  onStarted sl (fun x =>
    let v := baseOf x b.val
    if v.res = 0 then x else raise (setBase x b.val { v with res := 0 }) kTIM 2) s

/-- The twin link carries traffic: UP, with four lanes or three. -/
def linkIsUp (x : Slice) : Bool := decide (regFld x kTWN 0x100 31 28 = 3) || decide (regFld x kTWN 0x100 31 28 = 4)

/-- TRACKER_HOLDOVER: a PPS tracker without edges or a TWIN tracker without its link (R373, R374). -/
def execTrackerHoldover (sl : SliceId) (b : BaseId) (k : TrkId) (s : State) : Res :=
  onStarted sl (fun x =>
    if srcOf x b.val k.val = 0 ∨ trkState x b.val k.val = tkLoop ∨ (srcOf x b.val k.val = 2 ∧ linkIsUp x = true) then x
    else
      let v := baseOf x b.val
      setTrkState (setBase x b.val (v.setTrk k.val { v.trk k.val with edges := 0 })) b.val k.val tkHoldover) s

/-- An error in units as ns in a register. -/
def errNs (e : Int) : Word := w32 (toSigned 32 (e / (nsUnits : Int)))

/-- TWIN_TIME_MESSAGE: two-way time messages with the twin (R374). The servo takes out the whole phase error at once, and
the rate it sets is open. -/
def execTwinTimeMessage (sl : SliceId) (b : BaseId) (k : TrkId) (s : State) : Res :=
  onStarted sl (fun x =>
    let y := s.slice (twin sl)
    if srcOf x b.val k.val ≠ 2 ∨ !linkIsUp x then x
    else if sl.val % 2 = 0 ∧ (srcOf y b.val 0 = 2 ∨ srcOf y b.val 1 = 2) then setTrkState x b.val k.val tkLoop
    else
      let e := timeDiff ((baseOf x b.val).trk k.val).time (baseNow y b.val)
      let x := setTrkTime x b.val k.val (baseNow y b.val)
      let x := regSet (servoFadj x b.val k.val) kTIM (trkOff b.val k.val + 0x1C) (errNs e)
      setTrkState x b.val k.val tkLocked) s

/-- Distance of a tracker's time from the nearest whole second, less the cable delay (R373). -/
def ppsError (x : Slice) (b k : Nat) : Int :=
  let r := ((baseOf x b).trk k).time % secUnits
  (if 2 * r < secUnits then (r : Int) else (r : Int) - secUnits)
    - signed 32 (regGet x kTIM (timOff b + 0x20)).toNat * nsUnits

/-- A PPS tracker at a captured edge (R373, R375). -/
def ppsTracker (x : Slice) (b k : Nat) : Slice :=
  if srcOf x b k ≠ 1 then x
  else
    let e := ppsError x b k
    let near := decide (e.natAbs < 100 * nsUnits)
    let n := if near then min 4 (((baseOf x b).trk k).edges + 1) else 0
    let x := setTrkTime x b k (addTime ((baseOf x b).trk k).time (-e))
    let x := regSet x kTIM (trkOff b k + 0x1C) (errNs e)
    -- with F10M_IN the loop corrects phase only
    let x := if regBit x kTIM (trkOff b k + 4) 28 then x else servoFadj x b k
    let v := baseOf x b
    let x := setBase x b (v.setTrk k { v.trk k with edges := n })
    if n = 4 then setTrkState x b k tkLocked
    else if trkState x b k = tkLocked then x else setTrkState x b k tkAcquiring

/-- A PPS_IN edge at one slice (R375). -/
def ppsSlice (x : Slice) : Slice :=
  if !x.on then x
  else
    let x := (List.range 4).foldl (fun x b => regSet x kTIM (timOff b + 0x1C) (w32 (nsOf (baseNow x b)))) x
    let x := raise x kTIM 8
    (List.range 8).foldl (fun x i => ppsTracker x (i / 2) (i % 2)) x

/-- Applies a function to every slice. -/
def State.eachSlice (s : State) (f : Slice → Slice) : State := { s with slices := s.slices.map f }

/-- The hub is not down, so that it uses the time lands (R51): its ROM or its firmware runs. -/
def hubUp (s : State) : Bool := decide (s.hub.phase ≠ .off)

/-- PPS_EDGE: a PPS_IN rising edge (R373, R375). -/
def execPpsEdge (s : State) : Res := .next (if hubUp s then s.eachSlice ppsSlice else s)

/-- Shows F10M at the PPS trackers of a slice. -/
def f10mShow (v : Bool) (x : Slice) : Slice :=
  if !x.on then x
  else (List.range 8).foldl (fun x i =>
    if srcOf x (i / 2) (i % 2) = 1 then regPut x kTIM (trkOff (i / 2) (i % 2) + 4) 28 28 v.toNat else x) x

/-- The hub goes down: the time lands are ignored, so that PPS trackers fall back to their loop (R51, R375). -/
def State.hubDown (s : State) (f : Hub → Hub) : State := { s.eachSlice (f10mShow false) with hub := f s.hub }

/-- F10M_MEASURE: PPS trackers take their rate from F10M_IN (R375); the measurement is open. -/
def execF10mMeasure (s : State) : Res :=
  .next (if hubUp s && s.hub.f10m then
    s.eachSlice fun x =>
      if !x.on then x
      else (List.range 8).foldl (fun x i =>
        if srcOf x (i / 2) (i % 2) = 1 then
          regPut (servoFadj x (i / 2) (i % 2)) kTIM (trkOff (i / 2) (i % 2) + 4) 28 28 1
        else x) x
    else s)

/-- F10M_LOSS: the loss is flagged, and the trackers fall back to their loop (R50, R375). -/
def execF10mLoss (s : State) : Res :=
  .next (if s.hub.f10m then { s.eachSlice (f10mShow false) with hub := { s.hub with f10m := false, f10mLost := true } } else s)

/-- F10M_IN_RESTORED (R375). -/
def execF10mInRestored (s : State) : Res :=
  .next (if hubUp s then { s.eachSlice (f10mShow true) with hub := { s.hub with f10m := true } } else s)

/-- FELT_RATIO_MEASURE: an ACTIVE or DOZE slice measures every base against the felt clock (R377); the result is open. -/
def execFeltRatioMeasure (sl : SliceId) (s : State) : Res :=
  onStarted sl (fun x =>
    if napping x then x
    else (List.range 4).foldl (fun x b =>
      let f := freeD x
      setBase f.2 b { baseOf f.2 b with ratio := f.1.toNat }) x) s

end Sys2Proof.Machine
end

