-- ==== Sys2Proof/Machine/Charter.lean ====
section
/-! DEFINITION. Fields of a charter and the rules it must meet (R74 to R76). -/

namespace Sys2Proof.Machine

/-- Offset of a slice's entry. -/
def chEntry (n : Nat) : Nat := 0x100 + 128 * n

def chSerial (c : Bytes) : Nat := beAt c 8 8
def chHubKey (c : Bytes) : Bytes := slab c 0x30 64
def chHubFp (c : Bytes) : Bytes := slab c 0x10 32
def chHubBank (c : Bytes) : Bool := decide (beAt c 0x70 1 = 1)
def chMgtMode (c : Bytes) : Nat := beAt c 0x71 1
def chHubVlan (c : Bytes) : Nat := beAt c 0x72 2
def chHubMinver (c : Bytes) : Nat := beAt c 0x74 4

def chOwnFp (c : Bytes) (n : Nat) : Bytes := slab c (chEntry n) 32
def chOwnKey (c : Bytes) (n : Nat) : Bytes := slab c (chEntry n + 0x20) 64
def chVlan (c : Bytes) (n : Nat) : Nat := beAt c (chEntry n + 0x60) 2
def chFlags (c : Bytes) (n : Nat) : Nat := beAt c (chEntry n + 0x62) 1
def chPaired (c : Bytes) (n : Nat) : Bool := bit (chFlags c n) 7
def chDebug (c : Bytes) (n : Nat) : Bool := bit (chFlags c n) 6
def chStrict (c : Bytes) (n : Nat) : Bool := bit (chFlags c n) 5
def chNetboot (c : Bytes) (n : Nat) : Bool := bit (chFlags c n) 4
def chNetfirst (c : Bytes) (n : Nat) : Bool := bit (chFlags c n) 3
def chStart (c : Bytes) (n : Nat) : Bool := bit (beAt c (chEntry n + 0x63) 1) 2
/-- MAXDEEP, encoded as SLC_PWR.CUR. -/
def chMaxdeep (c : Bytes) (n : Nat) : Nat := bits (beAt c (chEntry n + 0x63) 1) 1 0
def chImgbank (c : Bytes) (n : Nat) : Bool := decide (beAt c (chEntry n + 0x64) 1 = 1)
/-- Management port weight. -/
def chShare (c : Bytes) (n : Nat) : Nat := beAt c (chEntry n + 0x65) 1
def chHubwin (c : Bytes) (n : Nat) : Nat := beAt c (chEntry n + 0x66) 2
def chMinver (c : Bytes) (n : Nat) : Nat := beAt c (chEntry n + 0x68) 4
def chConfirmTo (c : Bytes) (n : Nat) : Nat := beAt c (chEntry n + 0x6C) 2

/-- A span of zeros. -/
def zeroAt (c : Bytes) (off n : Nat) : Bool := decide (slab c off n = List.replicate n 0)

/-- Reserved bytes are 0. -/
def chReservedOk (c : Bytes) : Bool := zeroAt c 0x78 136 && (List.range 8).all fun n => zeroAt c (chEntry n + 0x6E) 18

/-- No number other than 0 occurs twice. -/
def distinctNonzero : List Nat → Bool
  | [] => true
  | v :: vs => (decide (v = 0) || !decide (v ∈ vs)) && distinctNonzero vs

def chVlans (c : Bytes) : List Nat := chHubVlan c :: (List.range 8).map (chVlan c)

/-- Whether the charter transfers the hub. -/
def chTransfer (c : Bytes) : Bool := decide (beAt c 6 2 = 0x05C0)

/-- PREV_KEY of a transfer charter, and its two signatures. -/
def chPrevKey (c : Bytes) : Bytes := slab c 0x540 64
def chSig (c : Bytes) : Bytes := slab c 0x500 64
def chXsig (c : Bytes) : Bytes := slab c 0x580 64

/-- Rule k of R76. `anchors` are the programmed anchor slots and `serial` the serial of the charter in force. -/
def chRule (anchors : List Bytes) (serial : Nat) (c : Bytes) : Nat → Bool
  | 1 =>
    decide (beAt c 0 4 = 0x4E434854) && decide (beAt c 4 2 = 1)
    && (decide (beAt c 6 2 = 0x0540) || chTransfer c) && decide (beAt c 6 2 = c.length) && chReservedOk c
  | 2 =>
    decide (sha256 (chHubKey c) = chHubFp c) && (if chTransfer c then
        decide (some (sha256 (chPrevKey c)) = anchors.getLast?) && decide (some (chHubFp c) ≠ anchors.getLast?)
        && decide (anchors.length < 16)
      else decide (some (chHubFp c) = anchors.getLast?))
  | 3 =>
    ecdsaVerify (if chTransfer c then chPrevKey c else chHubKey c) (slab c 0 0x500) (chSig c)
    && (!chTransfer c || ecdsaVerify (chHubKey c) (slab c 0 0x580) (chXsig c))
  | 4 => decide (serial < chSerial c)
  | 5 => (List.range 8).all fun n => decide (sha256 (chOwnKey c n) = chOwnFp c n)
  | 6 => (List.range 4).all fun k => chPaired c (2 * k) == chPaired c (2 * k + 1)
  | 7 => distinctNonzero (chVlans c)
  | 8 => (List.range 8).all fun n => !chStart c n || decide (chVlan c n ≠ 0)
  | _ => true

/-- First rule of R76 that fails, of those listed. -/
def chFails (anchors : List Bytes) (serial : Nat) (c : Bytes) (rules : List Nat) : Option Nat :=
  rules.find? fun k => !chRule anchors serial c k

def chAll : List Nat := [1, 2, 3, 4, 5, 6, 7, 8]

/-- A slice whose charter entry is PAIRED (R10). -/
def paired (s : State) (sl : SliceId) : Bool := chPaired s.hub.charter sl.val

end Sys2Proof.Machine
end

