-- ==== Sys2Proof/Machine/Parse.lean ====
section
/-! DEFINITION. The parse graph (R187 to R195). -/

namespace Sys2Proof.Machine

/-- The big-endian 16-bit value at a window offset; bytes outside the window or the frame read as 0. -/
def winWord16 (bs : Bytes) (base off : Nat) : Nat :=
  let b := fun i => if i < 256 then ((bs[base + i]?).getD 0).toNat else 0
  b off * 256 + b (off + 1)

/-- A walk in progress. -/
structure Walk where
  node : Nat
  off : Nat
  hdrs : List Nat        -- window offsets of the headers walked
  cls : Word
  xbuf : Bytes
  xval : List Bool
  dex : Bool
  lcf : Bool
  deriving DecidableEq, Repr

/-- Copies the bytes of one extraction (R190). -/
def extract (bs : Bytes) (base src len dst : Nat) (w : Walk) : Walk :=
  (List.range len).foldl (fun w i =>
    if src + i < 256 ∧ base + src + i < bs.length ∧ dst + i < 64 then
      { w with xbuf := setNth w.xbuf (dst + i) ((bs[base + src + i]?).getD 0), xval := setNth w.xval (dst + i) true }
    else w) w

/-- The transition taken: the lowest-numbered match, else DEFNEXT (R187, R189). -/
def transition (x : Slice) (old : Bool) (w2 w4 : Word) (ddefer : Bool) (key : Nat) : Nat × Bool :=
  let tb := fld w4 15 5
  let tc := min 16 (fld w4 4 0)
  let hit := (List.range tc).find? fun i =>
    let t0 := tabGetEp x old tTrans (tb + i) 0
    let t1 := tabGetEp x old tTrans (tb + i) 1
    decide (tb + i < 2048) && wbit t1 31 && decide (key &&& fld t0 15 0 = fld t0 31 16 &&& fld t0 15 0)
  match hit with
  | some i => (fld (tabGetEp x old tTrans (tb + i) 1) 7 0, wbit (tabGetEp x old tTrans (tb + i) 1) 30)
  | none => (fld w2 7 0, ddefer)

/-- The walk of R187; the fuel bounds the headers, each at least one byte long. -/
def walkGraph (x : Slice) (old : Bool) (bs : Bytes) (base : Nat) : Nat → Walk → Walk
  | 0, w => w
  | k + 1, w =>
    let e := tabRowEp x old tNode w.node 9
    let g := fun i => (e[i]?).getD 0
    let w0 := g 0
    if w.node = 0xFF ∨ !wbit w0 31 then w
    else if 255 ≤ w.off then { w with dex := true }
    else
      let wd := fun o => winWord16 bs base (w.off + o)
      let w1 := g 1
      let w3 := g 3
      let hlen := fld w0 7 0 + (((wd (fld w1 15 8) &&& fld w1 31 16) >>> fld w0 19 16) <<< fld w0 15 14)
      if bs.length < base + w.off + hlen ∨ hlen = 0 then { w with lcf := true }
      else
        let decl := fld w1 7 0 + (wd (fld w3 15 8) &&& fld w3 31 16)
        let rem := bs.length - (base + w.off)
        if wbit w0 30 ∧ (rem < decl ∨ (decl < rem ∧ 60 < bs.length)) then { w with lcf := true }
        else if 256 < w.off + hlen then { w with dex := true }
        else
          let v := { w with hdrs := w.hdrs ++ [w.off], cls := setBit w.cls (fld w0 29 25) true }
          let v := [5, 6, 7, 8].foldl (fun v i =>
            if wbit (g i) 23 then extract bs base (w.off + fld (g i) 7 0) (fld (g i) 16 13 + 1) (fld (g i) 22 17) v else v) v
          let key := wd (fld (g 2) 15 8) &&& fld (g 2) 31 16
          let t := transition x old (g 2) (g 4) (wbit w0 24) key
          let v := { v with off := w.off + hlen, node := t.1 }
          if t.2 ∧ t.1 ≠ 0xFF then { v with dex := true } else walkGraph x old bs base k v

def emptyXbuf : Bytes := List.replicate 64 0
def emptyXval : List Bool := List.replicate 64 false

/-- One parse pass of a packet from a node at a base, adding to what its buffer and class flags hold. -/
def parsePass (x : Slice) (p : Packet) (node base : Nat) : Packet × Slice :=
  let w := walkGraph x (isOld x p.epoch) p.frame base 257
    { node := node, off := 0, hdrs := [], cls := p.cls, xbuf := p.xbuf, xval := p.xval, dex := false, lcf := false }
  let x := if w.dex then flagRaise (count x kPRS 0x2000 1) kPRS 0x100 0 0 else x
  let x := if w.lcf then flagRaise (count x kPRS 0x2008 1) kPRS 0x100 1 1 else x
  ({ p with xbuf := w.xbuf, xval := w.xval, cls := w.cls, hdrs := w.hdrs, dex := w.dex, lcf := w.lcf, pbase := base,
            stop := base + w.off, resume := w.node }, x)

end Sys2Proof.Machine
end

