-- ==== Sys2Proof/Machine/Classify.lean ====
section
/-! DEFINITION. The classifier: key space, profiles, range rules, decision trees, the CAM and the action word
(R192, R198 to R214). -/

namespace Sys2Proof.Machine

/-! ### Key space (R192) -/

/-- Flags of key-space byte 66. -/
def keyFlags (p : Packet) : Nat := p.pass2.toNat * 8 + p.dex.toNat * 4 + p.lcf.toNat * 2 + p.serge.toNat

/-- The 80 bytes of the key space; an extraction byte that is not valid reads as 0. -/
def keySpace (x : Slice) (p : Packet) : Bytes :=
  (p.xbuf.zip p.xval).map (fun b => if b.2 then b.1 else 0)
    ++ [BitVec.ofNat 8 p.prof, BitVec.ofNat 8 (16 * x.id.val + p.lane.val), BitVec.ofNat 8 (keyFlags p),
        BitVec.ofNat 8 p.hdrs.length]
    ++ wordBytes p.cls ++ beBytes 2 p.frame.length ++ beBytes 6 0

/-- Key-space word w; words beyond 39 read as 0. -/
def keyWord (ks : Bytes) (w : Nat) : Nat := beAt ks (2 * w) 2

/-- Both bytes of a key-space word are valid. -/
def wordValid (p : Packet) (w : Nat) : Bool :=
  decide (32 ≤ w) || ((p.xval[2 * w]?).getD false && (p.xval[2 * w + 1]?).getD false)

/-! ### The action word (R202) -/

def actW (a : List Word) (i : Nat) : Word := (a[i]?).getD 0
def actDisp (a : List Word) : Nat := fld (actW a 0) 31 29
def actFallback (a : List Word) : Bool := wbit (actW a 0) 28
def actMirror (a : List Word) : Option Nat := if wbit (actW a 0) 27 then some (fld (actW a 0) 26 23) else none
def actQClass (a : List Word) : Nat := fld (actW a 0) 22 20
def actKeyProf (a : List Word) : Nat := fld (actW a 0) 19 14
def actPol (a : List Word) : Option Nat := if wbit (actW a 1) 31 then some (fld (actW a 1) 30 17) else none
def actProg (a : List Word) : Nat := fld (actW a 1) 14 0
def actRule (a : List Word) : Nat := fld (actW a 2) 31 16
def actReason (a : List Word) : Nat := fld (actW a 2) 15 8
def actR2nd (a : List Word) : Nat := fld (actW a 2) 7 0

/-! ### Profiles (R198, R199) -/

def profW (x : Slice) (old : Bool) (p w : Nat) : Word := tabGetEp x old tProf p w

/-- The profile of a packet. -/
def selectProfile (x : Slice) (p : Packet) : Option Nat :=
  let old := isOld x p.epoch
  (List.range 64).find? fun n =>
    let w0 := profW x old n 0
    let m := profW x old n 2
    wbit w0 31 && wbit w0 p.lane.val && decide (p.cls &&& m = profW x old n 1 &&& m)
    && decide (keyFlags p &&& fld w0 23 20 = fld w0 27 24 &&& fld w0 23 20)

def profAct (x : Slice) (old : Bool) (n first : Nat) : List Word := (List.range 4).map fun i => profW x old n (first + i)

/-! ### Range comparators and rules (R204 to R206) -/

/-- Result of comparator c; a comparator whose SRC lies beyond the key space reads 0 there. -/
def comparator (x : Slice) (old : Bool) (p : Packet) (ks : Bytes) (c : Nat) : Bool :=
  let w0 := tabGetEp x old tCmp c 0
  let w1 := tabGetEp x old tCmp c 1
  let s := fld w0 21 16
  wbit w0 31 && wordValid p s && decide (fld w1 31 16 ≤ keyWord ks s) && decide (keyWord ks s ≤ fld w1 15 0)

/-- Whether range rule r hits. -/
def rangeHit (x : Slice) (old : Bool) (p : Packet) (ks : Bytes) (r : Nat) : Bool :=
  let w := fun i => tabGetEp x old tRule r i
  let cs := [fld (w 1) 29 20, fld (w 1) 19 10, fld (w 1) 9 0, fld (w 2) 9 0]
  let nr := fld (w 0) 26 24
  wbit (w 0) 31 && decide (1 ≤ nr) && decide (nr ≤ 4)
  && (List.range nr).all fun k => comparator x old p ks ((cs[k]?).getD 0) != wbit (w 0) (27 + k)

/-- The hitting rule of a window with the highest PRIO, the lowest number among equals. -/
def bestRange (x : Slice) (old : Bool) (p : Packet) (ks : Bytes) (first cnt : Nat) : Option Hit :=
  let hits := ((List.range cnt).map (first + ·)).filter fun r => r < 512 && rangeHit x old p ks r
  let prio := fun r => fld (tabGetEp x old tRule r 0) 23 16
  (hits.foldl (fun (b : Option Nat) r =>
    match b with
    | none => some r
    | some q => if prio q < prio r then some r else b) none).map fun r =>
      ⟨r, (List.range 4).map fun i => tabGetEp x old tRule r (4 + i)⟩

/-! ### Decision trees (R207, R208) -/

def treeNone : Nat := 0xFFFFFF

/-- Whether a node address lies in the DRAM overflow region. -/
def treeInDram (a : Nat) : Bool := bit a 23

/-- Words of an on-die node; what lies beyond the tree memory is open. -/
def treeNode (x : Slice) (old : Bool) (a : Nat) : List Word :=
  if a < 262144 then tabRowEp x old tTree a 16 else (List.range 16).map (Config.beyond x.id.val tTree a)

def nodeW (n : List Word) (i : Nat) : Word := (n[i]?).getD 0
def nodeType (n : List Word) : Nat := fld (nodeW n 0) 30 29
def nodeValid (n : List Word) : Bool := wbit (nodeW n 0) 31

/-- Threshold i of an inner node. -/
def threshold (n : List Word) (i : Nat) : Nat :=
  if i % 2 = 0 then fld (nodeW n (1 + i / 2)) 31 16 else fld (nodeW n (1 + i / 2)) 15 0

/-- Child taken at an inner node. -/
def treeChild (n : List Word) (ks : Bytes) : Nat :=
  let v := keyWord ks (fld (nodeW n 0) 21 16)
  let nt := fld (nodeW n 0) 2 0
  let i := ((List.range nt).find? fun i => v ≤ threshold n i).getD nt
  fld (nodeW n (5 + i)) 23 0

/-- Rule nodes of a leaf. -/
def leafRules (n : List Word) : List Nat := (List.range (min 8 (fld (nodeW n 0) 3 0))).map fun i => fld (nodeW n (1 + i)) 23 0

/-- Whether a rule node hits. -/
def ruleHits (n : List Word) (p : Packet) (ks : Bytes) : Bool :=
  nodeValid n && decide (nodeType n = 2)
  && (List.range (min 5 (fld (nodeW n 0) 2 0))).all fun k =>
    let w := fld (nodeW n 2) (29 - 6 * k) (24 - 6 * k)
    let r := nodeW n (3 + k)
    wordValid p w && decide (fld r 31 16 ≤ keyWord ks w) && decide (keyWord ks w ≤ fld r 15 0)

/-- Takes a rule node into the best hit: highest PRIO, then lowest RNUM. -/
def takeRule (n : List Word) (p : Packet) (ks : Bytes) (b : Option (Nat × Hit)) : Option (Nat × Hit) :=
  if !ruleHits n p ks then b
  else
    let pr := fld (nodeW n 0) 15 8
    let h : Hit := ⟨fld (nodeW n 1) 19 0, (List.range 4).map fun i => nodeW n (8 + i)⟩
    match b with
    | none => some (pr, h)
    | some (q, g) => if q < pr ∨ (q = pr ∧ h.num < g.num) then some (pr, h) else b

/-- Where a tree walk stands: waiting for a DRAM node, or ended with its best hit. -/
structure TreePos where
  node : Option Nat
  rules : List Nat
  best : Option (Nat × Hit)
  deriving DecidableEq, Repr

/-- Tests the rules of a leaf up to one in DRAM. -/
def treeRules (x : Slice) (old : Bool) (p : Packet) (ks : Bytes) : List Nat → Option (Nat × Hit) → TreePos
  | [], b => ⟨none, [], b⟩
  | r :: rs, b =>
    if r = treeNone then treeRules x old p ks rs b
    else if treeInDram r then ⟨some r, r :: rs, b⟩
    else treeRules x old p ks rs (takeRule (treeNode x old r) p ks b)

/-- Goes on from a node in hand. -/
def treeFrom (x : Slice) (old : Bool) (p : Packet) (ks : Bytes) : Nat → List Word → TreePos
  | 0, _ => ⟨none, [], none⟩
  | k + 1, n =>
    if !nodeValid n then ⟨none, [], none⟩
    else if nodeType n = 1 then treeRules x old p ks (leafRules n) none
    else if nodeType n = 0 then
      let c := treeChild n ks
      if c = treeNone then ⟨none, [], none⟩
      else if treeInDram c then ⟨some c, [], none⟩
      else treeFrom x old p ks k (treeNode x old c)
    else ⟨none, [], none⟩

/-- Longest walk that CLS rule 3 admits, and some: a deeper walk ends without a hit. -/
def treeFuel : Nat := 64

/-- Walks a tree from its root. -/
def treeWalk (x : Slice) (old : Bool) (p : Packet) (ks : Bytes) (root : Nat) : TreePos :=
  if root = treeNone then ⟨none, [], none⟩
  else if treeInDram root then ⟨some root, [], none⟩
  else treeFrom x old p ks treeFuel (treeNode x old root)

/-! ### The CAM (R200, R210 to R214) -/

/-- Search key of a profile as a number of 160, 320 or 640 bits. -/
def camKey (x : Slice) (old : Bool) (prof width : Nat) (ks : Bytes) : Nat :=
  let chunks := (List.range 6).flatMap fun k =>
    let w := profW x old prof (5 + k / 2)
    let c := if k % 2 = 0 then fld w 31 16 else fld w 15 0
    if bit c 15 then (List.range (bits c 3 0 + 1)).map fun i => (ks[bits c 14 8 + i]?).getD 0 else []
  beAt chunks 0 (width / 8)

/-- 160 bits of words W(first) to W(first + 4). -/
def camBits (x : Slice) (old : Bool) (i first : Nat) : Nat :=
  (List.range 5).foldl (fun a k => a * 2 ^ 32 + (tabGetEp x old tCam i (first + k)).toNat) 0

/-- Whether the 160 key bits of entry i match. -/
def camPart (x : Slice) (old : Bool) (i key : Nat) : Bool :=
  let m := camBits x old i 6
  decide (key &&& m = camBits x old i 1 &&& m)

/-- Whether the entry headed at index i matches a search of width code w. -/
def camMatch (x : Slice) (old : Bool) (w key i : Nat) : Bool :=
  let w0 := fun j => tabGetEp x old tCam j 0
  let n := 2 ^ w
  decide (i / 2048 % n = 0) && wbit (w0 i) 31 && decide (fld (w0 i) 30 29 = w)
  && (List.range n).all fun k =>
    (decide (k = 0) || (wbit (w0 (i + 2048 * k)) 31 && decide (fld (w0 (i + 2048 * k)) 30 29 = 3)))
    && camPart x old (i + 2048 * k) (key >>> (160 * (n - 1 - k)) % 2 ^ 160)

/-- Indices whose first word is listed in some version. -/
def camListed (x : Slice) (old : Bool) : List Nat :=
  let pick := fun (m : Sparse Word) => m.filterMap fun e =>
    if tabKey tCam 0 0 ≤ e.1 ∧ e.1 < tabKey tCam 65536 0 ∧ e.1 % 64 = 0 then some (e.1 / 64 - tCam * 2 ^ 24) else none
  if old then (pick x.tabsOld).foldl insNat (pick x.tabs) else pick x.tabs

/-- Every match, lowest index first. -/
def camMatches (x : Slice) (old : Bool) (w key : Nat) : List Nat :=
  if w = 3 then [] else (camListed x old).filter (camMatch x old w key)

def camAct (x : Slice) (old : Bool) (i : Nat) : List Word := (List.range 4).map fun k => tabGetEp x old tCam i (12 + k)

/-! ### Software searches (R214) -/

/-- The key that CAM_SKEY holds for a width code. -/
def camSoftKey (x : Slice) (w : Nat) : Nat :=
  (List.range (5 * 2 ^ w)).foldl (fun a k => a * 2 ^ 32 + (regGet x kCAM (0x200 + 4 * k)).toNat) 0

/-- A write of CAM_SCMD: the search starts, and its result comes with CAM_SEARCH_DONE. -/
def camCmd (x : Slice) (v : Word) : Slice :=
  if regBit x kCAM 0x250 31 then x else regSet x kCAM 0x250 (w32 (v.toNat &&& 0xF0000000))

/-- CAM_SEARCH: a CAM_SCMD write with GO and NEXT 0. -/
def execCamSearch (sl : SliceId) (v : Word) (s : State) : Res :=
  onStarted sl (fun x => if wbit v 31 && !wbit v 30 then written (camCmd x v) kCAM 0x250 else x) s

/-- CAM_SEARCH_NEXT: a CAM_SCMD write with GO and NEXT 1. -/
def execCamSearchNext (sl : SliceId) (v : Word) (s : State) : Res :=
  onStarted sl (fun x => if wbit v 31 && wbit v 30 then written (camCmd x v) kCAM 0x250 else x) s

/-- The result of the search in progress is written to CAM_SRES (R214). The INDEX of a search with no match is not
stated. -/
def camSearchDone (x : Slice) : Slice :=
  let v := regGet x kCAM 0x250
  if !wbit v 31 ∨ x.camBusy then x
  else
    let w := fld v 29 28
    let all := camMatches x false w (camSoftKey x w)
    let last := regFld x kCAM 0x254 15 0
    let ms := if wbit v 30 then all.filter fun i => last < i else all
    let x := match ms with
      | [] => let f := freeW x; regSet f.2 kCAM 0x254 (w32 (f.1.toNat % 65536))
      | i :: l => regSet x kCAM 0x254 (w32 (2 ^ 31 + (if l = [] then 0 else 2 ^ 30 + 2 ^ 29) + i))
    raise (regPut x kCAM 0x250 31 31 0) kCAM 1

/-- CAM_SEARCH_DONE. -/
def execCamSearchDone (sl : SliceId) (s : State) : Res := onStarted sl camSearchDone s

end Sys2Proof.Machine
end

