-- ==== Sys2Proof/Machine/Fwd.lean ====
section
/-! DEFINITION. Forwarding: resolution, the L2 and endpoint tables, learning, ageing, locks, the trie, handles and route
epochs (R219 to R242). -/

namespace Sys2Proof.Machine

/-! ### Dword fields -/

def dbits (d : Dword) (hi lo : Nat) : Nat := bits d.toNat hi lo

def dset (d : Dword) (hi lo v : Nat) : Dword := d64 (putBits d.toNat hi lo v)

def rcdW (r : List Dword) (i : Nat) : Dword := (r[i]?).getD 0

/-! ### Hashing (R227, R228, R249) -/

/-- CRC-32C of a string: the register initialised to a seed, the result inverted. -/
def crcSeed (seed : Word) (bs : Bytes) : Nat := (crc32cRun seed.toNat bs) ^^^ 0xFFFFFFFF

/-- The two candidate buckets of a key. -/
def candidates (s0 s1 : Word) (bs : Bytes) (mask : Nat) : Nat × Nat :=
  let h1 := crcSeed s0 bs &&& mask
  let h2 := crcSeed s1 bs &&& mask
  (h1, if h2 = h1 then h1 ^^^ 1 else h2)

def fwdCands (x : Slice) (bs : Bytes) (mask : Nat) : Nat × Nat :=
  candidates (regGet x kFWD 0x170) (regGet x kFWD 0x174) bs mask

/-! ### The L2 exact table (R226, R227, R234) -/

def l2W (x : Slice) (b slot w : Nat) : Word := tabGet x tL2 (4 * b + slot) w

def l2Set (x : Slice) (b slot w : Nat) (v : Word) : Slice := tabSet x tL2 (4 * b + slot) w v

def l2Locked (x : Slice) (b : Nat) : Bool := wbit (l2W x b 0 0) 31

def l2Mac (x : Slice) (b slot : Nat) : Nat := (l2W x b slot 1).toNat * 65536 + fld (l2W x b slot 2) 31 16

def l2Handle (x : Slice) (b slot : Nat) : Nat := fld (l2W x b slot 2) 15 0

/-- Slot of a bucket that holds a FID and MAC. -/
def l2In (x : Slice) (b fid mac : Nat) : Option Nat :=
  (List.range 4).find? fun k =>
    wbit (l2W x b k 0) 30 && decide (fld (l2W x b k 0) 15 0 = fid) && decide (l2Mac x b k = mac)

def l2Cands (x : Slice) (fid mac : Nat) : Nat × Nat := fwdCands x (beBytes 2 fid ++ beBytes 6 mac) 0x1FFFF

/-- Bucket and slot of a FID and MAC, the first bucket first. -/
def l2Find (x : Slice) (fid mac : Nat) : Option (Nat × Nat) :=
  let c := l2Cands x fid mac
  match l2In x c.1 fid mac with
  | some k => some (c.1, k)
  | none => (l2In x c.2 fid mac).map fun k => (c.2, k)

/-- A lookup that matches sets HIT, unless the bucket is locked. -/
def l2Hit (x : Slice) (b slot : Nat) : Slice :=
  if l2Locked x b then x else l2Set x b slot 0 (setFld (l2W x b slot 0) 28 28 1)

/-- A lookup: the handle, and the state with HIT set. -/
def l2Lookup (x : Slice) (fid mac : Nat) : Option Nat × Slice :=
  match l2Find x fid mac with
  | some (b, k) => (some (l2Handle x b k), l2Hit x b k)
  | none => (none, x)

/-! ### The endpoint table (R228) -/

def epAddr (x : Slice) (entry : Nat) : Nat := dramBase + region x kDRC 0x110 + 64 * entry

/-- Slot of a bucket's 128 bytes that holds a key. -/
def epIn (bs : Bytes) (fam vrf : Nat) (addr : Bytes) : Option Nat :=
  (List.range 2).find? fun k =>
    let w0 := w32 (beAt bs (64 * k) 4)
    wbit w0 30 && decide (fld w0 26 26 = fam) && decide (fld w0 7 0 = vrf) && decide (slab bs (64 * k + 4) 16 = addr)

/-- Reads one candidate bucket: the handle of a match, with HIT set unless the bucket is locked. A bucket with an error
holds no match (R401). -/
def epBucket (x : Slice) (b fam vrf : Nat) (addr : Bytes) (err : Bool) : Option Nat × Slice :=
  match dramRead x (epAddr x (2 * b)) 128 portFms, err with
  | (some bs, y), false =>
    match epIn bs fam vrf addr with
    | none => (none, y)
    | some k =>
      let w0 := w32 (beAt bs (64 * k) 4)
      let y := if bit (beAt bs 0 1) 7 then y else dramStore y portFwb (epAddr x (2 * b + k)) (wordBytes (setFld w0 28 28 1))
      (some (beAt bs (64 * k + 22) 2), y)
  | (_, y), _ => (none, y)

/-- An endpoint lookup: both buckets are fetched. -/
def epLookup (x : Slice) (fam vrf : Nat) (addr : Bytes) (err : Bool) : Option Nat × Slice :=
  let c := fwdCands x ([BitVec.ofNat 8 fam, BitVec.ofNat 8 vrf, 0, 0] ++ addr) 0x1FFFFF
  let x := count x kFWD 0x1008 1
  match epBucket x c.1 fam vrf addr err with
  | (some h, y) => (some h, y)
  | (none, y) => epBucket y c.2 fam vrf addr err

/-! ### The trie (R237, R238) -/

def trieSize : Nat := 4194304

/-- An entry, W0 and W1; what lies beyond the table is open. -/
def trieEnt (x : Slice) (old : Bool) (i : Nat) : Word × Word :=
  if i < trieSize then (tabGetEp x old tTrie i 0, tabGetEp x old tTrie i 1)
  else (Config.beyond x.id.val tTrie i 0, Config.beyond x.id.val tTrie i 1)

/-- Strides of a family's plan: 0 IPv4, 1 IPv6. -/
def strides (fam : Nat) : List Nat := if fam = 0 then [16, 8, 8] else [16, 16, 16, 16, 16, 8, 8, 8, 8, 8, 8]

def trieKind (e : Word × Word) : Nat := fld e.1 31 30

/-- The walk from an entry with `left` address bits not used yet. -/
def trieFrom (x : Slice) (old : Bool) (addr : Nat) :
    List Nat → Nat → Word × Word → Option (Word × Word) → Option (Word × Word)
  | [], _, _, best => best
  | s :: ss, left, e, best =>
    let best := if trieKind e = 3 then some e else best
    if trieKind e ≠ 1 ∧ trieKind e ≠ 3 then best
    else
      let n := trieEnt x old (fld e.1 21 0 + (addr >>> (left - s)) % 2 ^ s)
      trieFrom x old addr ss (left - s) n (if 2 ≤ trieKind n then some n else best)

def trieWalk (x : Slice) (old : Bool) (fam vrf addr : Nat) : Option (Word × Word) :=
  trieFrom x old addr (strides fam) (if fam = 0 then 32 else 128) (trieEnt x old (fam * 256 + vrf)) none

/-! ### Resolution (R219, R220) -/

def repochCur (x : Slice) : Nat := regFld x kFWD 0x140 15 0

/-- Word w of key profile k as a packet sees it. -/
def kpW (x : Slice) (old : Bool) (k w : Nat) : Word := tabGetEp x old tKeyProf k w

def kpMode (x : Slice) (old : Bool) (k : Nat) : Nat := fld (kpW x old k 0) 27 26

/-- Bytes of the key space from a word on; what lies beyond reads as 0. -/
def ksBytes (ks : Bytes) (w n : Nat) : Bytes := slab ks (2 * w) n

/-- What a resolution gives: handle, route epoch, provisional bit. -/
structure Resolution where
  handle : Nat
  repoch : Nat
  prov : Bool
  deriving DecidableEq, Repr

/-- The handle and provisional bit of a packet under a key profile. -/
def resolveHandle (x : Slice) (p : Packet) (k : Nat) (err : Bool) : (Nat × Bool) × Slice :=
  let old := isOld x p.epoch
  let ks := keySpace x p
  let dw := fld (kpW x old k 1) 15 10
  let idv := fld (kpW x old k 1) 31 16
  match kpMode x old k with
  | 0 => let f := freeW x; ((f.1.toNat % 65536, false), f.2)
  | 1 =>
    match l2Lookup x idv (beNat (ksBytes ks dw 6)) with
    | (some h, x) => ((h, false), x)
    | (none, x) => (((fld (regGetEp x old kFWD 0x164) 15 0 + idv % 4096) % 65536, true), x)
  | m =>
    let fam := m - 2
    let vrf := idv % 256
    let addr := if fam = 0 then ksBytes ks dw 4 else ksBytes ks dw 16
    match trieWalk x old fam vrf (beNat addr) with
    | none =>
      let d := regGetEp x old kFWD 0x160
      ((if fam = 0 then fld d 15 0 else fld d 31 16, false), x)
    | some r =>
      if wbit r.1 28 then
        match epLookup x fam vrf (List.replicate (16 - addr.length) 0 ++ addr) err with
        | (some h, x) => ((h, false), x)
        | (none, x) => ((fld r.2 15 0, true), x)
      else ((fld r.2 15 0, false), x)

/-- Resolves a packet. A profile with mode NONE never resolves, and its handle is open. -/
def resolvePacket (x : Slice) (p : Packet) (k : Nat) (err : Bool) : Resolution × Slice :=
  let none' := decide (kpMode x (isOld x p.epoch) k = 0)
  let r := resolveHandle x p k err
  let x := if none' then r.2 else count r.2 kFWD 0x1000 1
  (⟨r.1.1, if p.epoch = curEpoch x then repochCur x else 0xFFFF, r.1.2⟩, x)

/-- F1 with a resolution in it. -/
def putF1 (f1 : Dword) (r : Resolution) : Dword :=
  dset (dset (dset f1 63 48 r.handle) 47 32 r.repoch) 31 31 r.prov.toNat

/-- Takes a token for a provisional re-resolution (R222). -/
def provTake (x : Slice) : Bool × Slice :=
  if regFld x kFWD 0x150 7 0 ≠ 0 ∧ x.provTok ≠ 0 then (true, { x with provTok := x.provTok - 1 })
  else (false, count x kFWD 0x1010 1)

/-- PROV_TOKEN_REFILL: each microsecond the bucket gains RATE tokens up to BURST. -/
def execProvTokenRefill (sl : SliceId) (s : State) : Res :=
  onStarted sl (fun x => { x with provTok := min (regFld x kFWD 0x150 26 16) (x.provTok + regFld x kFWD 0x150 7 0) }) s

/-! ### Route epochs (R241) -/

/-- The route epoch advances; CUR skips 0xFFFF. -/
def bumpNow (x : Slice) : Slice :=
  let n := (repochCur x + 1) % 65536
  raise { regPut (clrRegBit x kFWD 0x140 30) kFWD 0x140 15 0 (if n = 0xFFFF then 0 else n) with lastBump := some x.clk } kFWD 3

/-- MINGAP since the last bump has not passed. -/
def inGap (x : Slice) : Bool := x.lastBump.any fun t => decide (x.clk < t + 800 * max 1 (regFld x kFWD 0x140 25 16))

/-- A bump is requested: it takes effect now, or at the end of the gap. -/
def bumpRequest (x : Slice) : Slice := if inGap x then setRegBit x kFWD 0x140 30 else bumpNow x

/-- A write of FWD_REPOCH. -/
def repochWrite (x : Slice) (v : Word) : Slice :=
  let x := regPut x kFWD 0x140 25 16 (fld v 25 16)
  if wbit v 31 then bumpRequest x else x

/-- BUMP: a write of FWD_REPOCH with BUMP 1. -/
def execBump (sl : SliceId) (v : Word) (s : State) : Res :=
  onStarted sl (fun x => written (repochWrite x v) kFWD 0x140) s

/-- ROUTE_EPOCH_BUMP: MINGAP has passed, and the request that waits takes effect. -/
def execRouteEpochBump (sl : SliceId) (s : State) : Res :=
  onStarted sl (fun x => if regBit x kFWD 0x140 30 && !inGap x then bumpNow x else x) s

/-! ### Notices (R231, R232) -/

def ntNew : Nat := 1
def ntMove : Nat := 2
def ntFull : Nat := 3
def ntAged : Nat := 4

/-- Cause 0 while the FIFO holds THR or more notices. -/
def lfifoJudge (x : Slice) : Slice := if regFld x kFWD 0x120 28 16 ≤ x.notices.length then raise x kFWD 0 else x

/-- A write of FWD_LFST. -/
def lfstWrite (x : Slice) (v : Word) : Slice := lfifoJudge (regPut x kFWD 0x120 28 16 (fld v 28 16))

/-- Places a notice in the learn FIFO. -/
def postNotice (x : Slice) (ws : List Word) : Slice :=
  if 4096 ≤ x.notices.length then
    let x' := if pairGet x kFWD 0x1028 = 0 then raise x kFWD 1 else x
    count x' kFWD 0x1028 1
  else lfifoJudge { x with notices := x.notices ++ [ws] }

def noticeWords (kind : Nat) (static locked ep : Bool) (new fid mac old bucket : Nat) : List Word :=
  [w32 (2 ^ 31 + kind * 2 ^ 28 + static.toNat * 2 ^ 27 + locked.toNat * 2 ^ 26 + ep.toNat * 2 ^ 25 + new % 32 * 2 ^ 16 + fid),
   w32 (mac / 65536), w32 (mac % 65536 * 65536 + old), w32 bucket]

/-- Posts an L2 notice unless the filter holds one of the same FID, MAC and kind. The filter keeps what has been posted. -/
def noticeL2 (x : Slice) (kind : Nat) (static locked : Bool) (new fid mac old bucket : Nat) : Slice :=
  if (fid, mac, kind) ∈ x.filter then x
  else
    let f := x.filter ++ [(fid, mac, kind)]
    let x := if 4096 ≤ x.notices.length then x else { x with filter := f.drop (f.length - 64) }
    postNotice x (noticeWords kind static locked false new fid mac old bucket)

/-- NOTICE_FILTER_EXPIRY: the oldest filter entry is forgotten. -/
def execNoticeFilterExpiry (sl : SliceId) (s : State) : Res :=
  onStarted sl (fun x => { x with filter := x.filter.drop 1 }) s

/-- Word i of the oldest notice; 0 with none waiting. -/
def lfifoWord (x : Slice) (i : Nat) : Word := ((x.notices.head?).bind (·[i]?)).getD 0

/-- LFIFO_POP: a read of FWD_LFIFO3. -/
def execLfifoPop (sl : SliceId) (s : State) : Res :=
  onStarted sl (fun x => { x with bus := .value (lfifoWord x 3), notices := x.notices.drop 1 }) s

/-! ### Learning (R230) -/

/-- Valid entries of a bucket. -/
def l2Load (x : Slice) (b : Nat) : Nat := ((List.range 4).filter fun k => wbit (l2W x b k 0) 30).length

def l2Free (x : Slice) (b : Nat) : Option Nat := (List.range 4).find? fun k => !wbit (l2W x b k 0) 30

/-- The fuller of two buckets that has a free slot. -/
def l2Target (x : Slice) (c : Nat × Nat) : Option (Nat × Nat) :=
  match l2Free x c.1, l2Free x c.2 with
  | none, none => none
  | some k, none => some (c.1, k)
  | none, some k => some (c.2, k)
  | some k, some j => if l2Load x c.1 < l2Load x c.2 then some (c.2, j) else some (c.1, k)

/-- Writes a new entry with HIT 1. -/
def l2Insert (x : Slice) (b slot fid mac h : Nat) : Slice :=
  let x := l2Set x b slot 0 (w32 ((if wbit (l2W x b slot 0) 31 then 2 ^ 31 else 0) + 2 ^ 30 + 2 ^ 28 + fid))
  let x := l2Set x b slot 1 (w32 (mac / 65536))
  l2Set x b slot 2 (w32 (mac % 65536 * 65536 + h))

/-- Learns a source: handle k seen with a FID and MAC. The LOCKED flag is of MODE HW. -/
def learnSource (x : Slice) (hw : Bool) (fid mac k : Nat) : Slice :=
  match l2Find x fid mac with
  | some (b, slot) =>
    let x := l2Hit x b slot
    let old := l2Handle x b slot
    let locked := l2Locked x b
    if old = k then x
    else if wbit (l2W x b slot 0) 29 then noticeL2 x ntMove true (hw && locked) k fid mac old b
    else
      let x := noticeL2 x ntMove false (hw && locked) k fid mac old b
      if hw && !locked then
        let x := l2Set x b slot 2 (setFld (l2W x b slot 2) 15 0 k)
        if regBit x kFWD 0x100 18 then bumpRequest x else x
      else x
  | none =>
    match l2Target x (l2Cands x fid mac) with
    | none =>
      let x := if pairGet x kFWD 0x1020 = 0 then raise x kFWD 4 else x
      noticeL2 (count x kFWD 0x1020 1) ntFull false false k fid mac 0 (l2Cands x fid mac).1
    | some (b, slot) =>
      let locked := l2Locked x b
      let x := noticeL2 x ntNew false (hw && locked) k fid mac 0 b
      if hw && !locked then l2Insert x b slot fid mac k else x

/-- The source lookup of a packet, where its port learns and its key profile names a FID. -/
def learn (x : Slice) (p : Packet) (kp : Nat) : Slice :=
  let c := regGet x kFWD 0x100
  let m := fld c 17 16
  let old := isOld x p.epoch
  if wbit c p.lane.val && (decide (m = 1) || decide (m = 2)) && decide (kpMode x old kp = 1) then
    learnSource x (decide (m = 2)) (fld (kpW x old kp 1) 31 16) (beAt p.frame 6 6) p.lane.val
  else x

/-! ### Locks (R234) -/

/-- LOCK_TIMEOUT: a lock held longer than FWD_LOCKTO is broken. -/
def execLockTimeout (sl : SliceId) (t : FwdTable) (bucket : Nat) (s : State) : Res :=
  onStarted sl (fun x =>
    let broken := fun (y : Slice) => raise (count { y with locks := y.locks.filter (· ≠ (t, bucket)) } kFWD 0x1030 1) kFWD 2
    match t with
    | .l2 =>
      if bucket < 131072 && l2Locked x bucket then broken (l2Set x bucket 0 0 (setFld (l2W x bucket 0 0) 31 31 0)) else x
    | .endpoint =>
      match dramRead x (epAddr x (2 * bucket)) 4 portFms with
      | (some bs, y) =>
        let w0 := w32 (beNat bs)
        if bucket < 2097152 && wbit w0 31 then broken (dramStore y portFwb (epAddr x (2 * bucket)) (wordBytes (setFld w0 31 31 0)))
        else y
      | (none, y) => y) s

/-! ### Ageing (R235) -/

/-- What a visit makes of W0: the new word, and whether the entry is removed. -/
def aged (w0 : Word) : Word × Bool :=
  if wbit w0 28 then (setFld w0 28 27 0, false)
  else if wbit w0 27 then (setFld w0 30 30 0, true)
  else (setFld w0 27 27 1, false)

/-- The sweeper visits an entry of a table. -/
def ageingVisit (x : Slice) (t : FwdTable) (entry : Nat) : Slice :=
    match t with
    | .l2 =>
      let b := entry / 4
      let k := entry % 4
      let w0 := l2W x b k 0
      if 524288 ≤ entry || !regBit x kFWD 0x130 31 || !wbit w0 30 || wbit w0 29 || l2Locked x b then x
      else
        let r := aged w0
        let y := l2Set x b k 0 r.1
        if !r.2 then y
        else
          let y := count y kFWD 0x1038 1
          if regBit y kFWD 0x130 30 then noticeL2 y ntAged false false 0 (fld w0 15 0) (l2Mac x b k) (l2Handle x b k) b else y
    | .endpoint =>
      if 4194304 ≤ entry || !regBit x kFWD 0x134 31 then x
      else match dramRead x (epAddr x (entry / 2 * 2)) 128 portMnt with
        | (none, y) => y
        | (some bs, y) =>
          let w0 := w32 (beAt bs (64 * (entry % 2)) 4)
          if !wbit w0 30 || wbit w0 29 || bit (beAt bs 0 1) 7 then y
          else
            let r := aged w0
            let y := dramStore y portMnt (epAddr x entry) (wordBytes r.1)
            if !r.2 then y
            else
              let y := count y kFWD 0x1038 1
              if regBit y kFWD 0x134 30 then
                postNotice y [w32 (2 ^ 31 + ntAged * 2 ^ 28 + 2 ^ 25), 0, w32 (entry % 2), w32 (entry / 2)]
              else y

/-- Entries of an ageing table. -/
def ageEntries : FwdTable → Nat
  | .l2 => 524288
  | .endpoint => 4194304

/-- The routine that ages a table. -/
def ageRoutine : FwdTable → Nat
  | .l2 => rtL2
  | .endpoint => rtEp

/-- AGEING_VISIT: the visit of the last entry ends the pass. -/
def execAgeingVisit (sl : SliceId) (t : FwdTable) (entry : Nat) (s : State) : Res :=
  onStarted sl (fun x =>
    if !seqRuns x qSWP then x
    else
      let y := ageingVisit x t entry
      if entry + 1 = ageEntries t ∧ routineRuns x (ageRoutine t) then passEnd y (ageRoutine t) else y) s

/-! ### Handles (R224) -/

/-- A write of FWD_HCMD. -/
def hcmdWrite (x : Slice) (v : Word) : Slice :=
  let h := fld v 15 0
  let x := if wbit v 30 then clrRegBit x kFWD 0x210 30 else x
  let x := regPut x kFWD 0x210 15 0 h
  if !wbit v 31 then x
  else if h < 16 then setRegBit x kFWD 0x210 30
  else tabPutRow x tHandle h ((List.range 4).map fun i => regGet x kFWD (0x200 + 4 * i))

/-- HANDLE_WRITE: a write of FWD_HCMD. -/
def execHandleWrite (sl : SliceId) (v : Word) (s : State) : Res :=
  onStarted sl (fun x => written (hcmdWrite x v) kFWD 0x210) s

end Sys2Proof.Machine
end

