-- ==== Sys2Proof/Machine/Scenes.lean ====
section
/-! DEFINITION. The Voile scene engine (R383 to R387). -/

namespace Sys2Proof.Machine

/-! Scene states (R384). -/
def scIdle : Nat := 0
def scArmed : Nat := 1
def scFetching : Nat := 2
def scReleasing : Nat := 3
def scDone : Nat := 4
def scLate : Nat := 5
def scCancelled : Nat := 6

def sceneW (x : Slice) (n w : Nat) : Word := tabGet x tScene n w
def sceneState (x : Slice) (n : Nat) : Nat := fld (sceneW x n 0) 30 28
def setScene (x : Slice) (n st : Nat) : Slice := tabSet x tScene n 0 (setFld (sceneW x n 0) 30 28 st)
def sceneBase (x : Slice) (n : Nat) : Nat := fld (sceneW x n 0) 27 26
/-- Frames of a scene. -/
def sceneCount (x : Slice) (n : Nat) : Nat := fld (sceneW x n 0) 23 16 + 1
/-- Release time T in units. -/
def sceneT (x : Slice) (n : Nat) : Nat :=
  unitsOf (fld (sceneW x n 0) 15 0 * 2 ^ 32 + (sceneW x n 1).toNat) (sceneW x n 2).toNat
/-- Instant of frame k: T + k × SPACE. -/
def sceneInstant (x : Slice) (n k : Nat) : Nat := sceneT x n + k * (sceneW x n 3).toNat * nsUnits

def runOf (x : Slice) (n : Nat) : SceneRun := (x.scenes.find? (·.scene = n)).getD ⟨n, 0, false, false, [], []⟩

def setRun (x : Slice) (r : SceneRun) : Slice :=
  if x.scenes.any (·.scene = r.scene) then { x with scenes := x.scenes.map fun q => if q.scene = r.scene then r else q }
  else { x with scenes := x.scenes ++ [r] }

/-- Ends a run: its prefetched cells are freed. -/
def endRun (x : Slice) (n : Nat) : Slice :=
  let r := runOf x n
  { freeCells x r.cells with scenes := x.scenes.filter (·.scene ≠ n) }

/-- The staged entry, its reserved bits and STATE cleared. -/
def stagedScene (x : Slice) : List Word :=
  [0x8CFFFFFF, all32, all32, all32, all32, 0x000FFFFF].zipIdx.map fun p =>
    w32 ((regGet x kTIM (0x410 + 4 * p.2)).toNat &&& p.1)

/-- Command register after a scene command: GO 0. -/
def sceneDone (x : Slice) (v : Word) (ref : Bool) : Slice :=
  regSet x kTIM 0x430 (setBit (w32 (v.toNat &&& 0x30000FFF)) 30 ref)

/-- A write with VALID = 1 (R385). -/
def sceneArmOp (x : Slice) (v : Word) : Slice :=
  let n := fld v 11 0
  let st := sceneState x n
  let y := tabPutRow x tScene n (stagedScene x)
  let ref := st = scArmed ∨ st = scFetching ∨ st = scReleasing
    ∨ sceneT y n < baseNow x (sceneBase y n) + 200000 * nsUnits
    ∨ 1048575 < fld (sceneW y n 5) 19 0 + fld (sceneW y n 0) 23 16
  if ref then sceneDone x v true else sceneDone (setScene y n scArmed) v false

/-- A write with VALID = 0 (R385). -/
def sceneCancelOp (x : Slice) (v : Word) : Slice :=
  let n := fld v 11 0
  let st := sceneState x n
  let on := st = scArmed ∨ st = scFetching ∨ st = scReleasing
  let y := setScene (tabPutRow x tScene n (stagedScene x)) n (if on then scCancelled else st)
  sceneDone (if on then endRun y n else y) v false

/-- OP read: the entry with its state. -/
def sceneReadOp (x : Slice) (v : Word) : Slice :=
  let n := fld v 11 0
  let y := (List.range 6).foldl (fun y i => regSet y kTIM (0x410 + 4 * i) (sceneW x n i)) x
  sceneDone y v (regBit x kTIM 0x430 30)

def sceneStagedValid (x : Slice) : Bool := regBit x kTIM 0x410 31

/-- A write of TIM_SCCMD. -/
def sceneCmd (x : Slice) (v : Word) : Slice :=
  if wbit v 31 && decide (fld v 29 28 = 1) then (if sceneStagedValid x then sceneArmOp x v else sceneCancelOp x v)
  else if wbit v 31 && decide (fld v 29 28 = 2) then sceneReadOp x v
  else sceneDone x v (regBit x kTIM 0x430 30)

/-- A write of TIM_SCCMD that names an operation is posted. -/
def sceneCommand (sl : SliceId) (v : Word) (op : Nat) (staged : Slice → Bool) (s : State) : Res :=
  if wbit v 31 && decide (fld v 29 28 = op) && staged (s.slice sl) then timCommand sl 0x430 (fun _ => v) s else .next s

/-- SCENE_ARM: a TIM_SCCMD write with OP write and VALID 1 staged (R385). -/
def execSceneArm (sl : SliceId) (v : Word) (s : State) : Res := sceneCommand sl v 1 sceneStagedValid s

/-- SCENE_CANCEL: the same with VALID 0 staged. -/
def execSceneCancel (sl : SliceId) (v : Word) (s : State) : Res := sceneCommand sl v 1 (fun x => !sceneStagedValid x) s

/-- SCENE_READ: a TIM_SCCMD write with OP read. -/
def execSceneRead (sl : SliceId) (v : Word) (s : State) : Res := sceneCommand sl v 2 (fun _ => true) s

/-! ### Fetching (R383, R386) -/

/-- Reads slot i; `none` where the read fails (R401). -/
def readSlot (x : Slice) (i : Nat) : Option Bytes × Slice :=
  dramRead x (dramBase + region x kTIM 0x400 + 256 * i) 256 portMnt

/-- Reads `k` further slots of a scene. -/
def fetchSlots (n : Nat) : Nat → Slice → Slice
  | 0, x => x
  | k + 1, x =>
    let r := runOf x n
    let d := readSlot x (fld (sceneW x n 5) 19 0 + r.slots.length)
    fetchSlots n k (setRun d.2 { r with slots := r.slots ++ [d.1] })

/-- Slots of a run still to be placed that hold a frame. -/
def liveSlots (r : SceneRun) : List Nat :=
  (List.range r.slots.length).filter fun i => r.next ≤ i && ((r.slots[i]?).join).isSome

/-- The slot of a run that a cell is to be requested for. -/
def cellWanted (r : SceneRun) : Option Nat := (liveSlots r)[r.cells.length]?

/-- The scene engine asks for a cell of owner 19 for the first frame that has none: it waits where it is refused, or the
frame is discarded under DROP (R329, R386). -/
def sceneCell (x : Slice) : Slice :=
  match x.scenes.findSome? fun r => (cellWanted r).map fun i => (r, i) with
  | none => x
  | some (r, i) =>
    match grantCell x 19 with
    | (some c, x) => setRun x { r with cells := r.cells ++ [c] }
    | (none, x) =>
      if policyWait x 19 then count x kBUF 0x2008 1
      else count (setRun x { r with slots := setNth r.slots i none }) kBUF 0x2000 1

/-- A request slot asks for a cell: slot 2 serves the scene engine when no generated frame asks (R331). -/
def slotRequest (x : Slice) (slot : Fin 4) : Slice :=
  if slot = 2 ∧ (wantsCell x slot).isNone then sceneCell x else cellRequest x slot

/-- One clock of the cell allocator: the slots that ask are served in the order c, c + 1, c + 2, c + 3 modulo 4 (R331). -/
def cellClock (x : Slice) (slots : BitVec 4) : Slice :=
  let c := max (x.cellClk + 1) (2 * x.clk)
  (List.range 4).foldl (fun x i =>
    let k : Fin 4 := ⟨(c + i) % 4, Nat.mod_lt _ (by decide)⟩
    if slots.getLsbD k.val then slotRequest x k else x) { x with cellClk := c }

/-- The scene's base has reached T − 100 µs. -/
def fetchDue (x : Slice) (n : Nat) : Bool := decide (sceneT x n ≤ baseNow x (sceneBase x n) + 100000 * nsUnits)

/-- SCENE_FETCH: at T − 100 µs the engine of an ACTIVE slice reads the scene's slots, and from then on asks for their cells
(R386). -/
def execSceneFetch (sl : SliceId) (n : BitVec 12) (s : State) : Res :=
  onAlive sl (fun x =>
    let n := n.toNat
    let st := sceneState x n
    if awake x && (decide (st = scArmed) && fetchDue x n || decide (st = scFetching) || decide (st = scReleasing)) then
      let x := if st = scArmed then setScene x n scFetching else x
      fetchSlots n (sceneCount x n - (runOf x n).slots.length) x
    else x) s

/-! ### Release (R386, R387) -/

/-- IPv4 header checksum over the header at an offset, its checksum field taken as 0. -/
def ip4Checksum (bs : Bytes) (o : Nat) : Nat :=
  let words := beAt bs o 1 % 16 * 2
  65535 - (List.range words).foldl (fun a i => if i = 5 then a else ocAdd a (beAt bs (o + 2 * i) 2)) 0

/-- The frame of a slot with its act time written where ACT asks for it (R383). -/
def sceneFrame (slot : Bytes) (act : Nat) : Bytes :=
  let bs := (slot.drop 8).take (beAt slot 0 2)
  let b4 := beAt slot 4 1
  let bs := if bit b4 7 then overlay bs (beAt slot 5 1) (beBytes 4 (secOf act) ++ beBytes 4 (nsOf act)) else bs
  let bs := if bit b4 6 then overlay bs (beAt slot 6 1 + 10) (beBytes 2 (ip4Checksum bs (beAt slot 6 1))) else bs
  if bit b4 5 then overlay bs (beAt slot 7 1) [0, 0] else bs

/-- Ports that a scene frame's handle names, `none` for a handle that makes no copy. -/
def scenePorts (x : Slice) (h : Nat) : Option (List Nat) :=
  let w := handleW x h 0
  let t := fld w 15 0
  if !wbit w 31 then none
  else if fld w 30 28 = 0 then (if t ≤ 15 ∧ isPort x t then some [t] else none)
  else if fld w 30 28 = 1 then some (copySet x t none)
  else none

/-- A port whose scene queue has no room, or no descriptor, makes the engine wait (R366). -/
def sceneWaits (x : Slice) (ps : List Nat) : Bool :=
  ps.any fun p => portUp x p && (decide (256 ≤ queueLen x (.scene (laneOf p))) || !descFree x)

/-- Places a copy in the scene queue of each port. -/
def placeScene (x : Slice) (f : Frame) (h : Nat) (multi : Bool) (ps : List Nat) : Slice :=
  let r := ps.foldl (fun (r : Nat × Nat × Slice) p =>
    let k := mkCopy r.2.2 f.id f.bytes.length (laneOf p) (.scene (laneOf p))
    let c := { k.1 with vid := handleVid x h, dmac := handleDmac x h }
    match admission k.2 c true with
    | none => (r.1 + 1, r.2.1, placeCopy k.2 c)
    | some _ => (r.1, r.2.1 + 1, count k.2 (if multi then kSWC else kTMG) ((if multi then 0x1000 else 0x4080) + 8 * p) 1)) (0, 0, x)
  let x := r.2.2
  let x := if !multi then x
    else if r.1 = 0 then count x kSWC 0x1208 1
    else if 0 < r.2.1 then flagRaise (count x kSWC 0x1200 1) kSWC 0x110 1 1 else x
  releaseFrame x f.id

/-- A skipped scene frame: its handle makes no copy. -/
def sceneSkip (x : Slice) : Slice := raise (count x kTIM 0x2018 1) kTIM 7

/-- A late scene frame. -/
def sceneLate (x : Slice) : Slice := flagRaise (count x kTIM 0x2010 1) kTIM 0x100 1 6

/-- Goes on to the next frame, or finishes the scene. -/
def sceneNext (x : Slice) (n : Nat) (late : Bool) : Slice :=
  let r := runOf x n
  let r := { r with next := r.next + 1, late := r.late || late, overdue := false }
  let x := setRun x r
  if r.next < sceneCount x n then x
  else raise (endRun (setScene x n (if r.late then scLate else scDone)) n) kTIM 5

/-- The instant of the next frame of a scene has come. -/
def frameDue (x : Slice) (n : Nat) : Bool :=
  decide (sceneInstant x n (runOf x n).next ≤ baseNow x (sceneBase x n))

/-- A frame placed now is late: more than 1 µs after its instant, or overtaken by a step (R387). -/
def frameLate (x : Slice) (n : Nat) : Bool :=
  (runOf x n).overdue || decide (sceneInstant x n (runOf x n).next + 1000 * nsUnits < baseNow x (sceneBase x n))

/-- The engine of an ACTIVE slice may place the next frame of a scene. -/
def mayPlace (x : Slice) (n : Nat) : Bool :=
  awake x && (decide (sceneState x n = scFetching) || decide (sceneState x n = scReleasing)) && frameDue x n
  && accepts x kSWC && accepts x kBUF && accepts x kTMG

/-- SCENE_FRAME_PLACE: the next frame of a scene is placed at its instant, or as soon as it can be (R386, R387). -/
def execSceneFramePlace (sl : SliceId) (n : BitVec 12) (s : State) : Res :=
  onAlive sl (fun x =>
    let n := n.toNat
    let r := runOf x n
    if !mayPlace x n then x
    else
      let x := setScene x n scReleasing
      match r.slots[r.next]?, r.cells with
      | some none, _ => sceneNext x n false
      | some (some slot), cell :: cells =>
        let h := beAt slot 2 2
        match scenePorts x h with
        | none => sceneNext (sceneSkip x) n false
        | some ps =>
          if sceneWaits x ps then x
          else
            let late := frameLate x n
            let act := sceneT x n + (sceneW x n 4).toNat * nsUnits
            let d := draftFrame (sceneFrame slot act) 19 2 none none (curEpoch x)
            let x := setRun x { r with cells := cells }
            let k := storeFrame x { d with cells := [cell], need := 0 }
            let x := placeScene k.2 { d with id := k.1, cells := [cell], need := 0 } h
              (decide (fld (handleW x h 0) 30 28 = 1)) ps
            sceneNext (if late then sceneLate x else x) n late
      | _, _ => x) s

/-- A forward step of a base past the instant of the next frame releases it late (R372). -/
def sceneStep (x : Slice) (b u0 u1 : Nat) : Slice :=
  { x with scenes := x.scenes.map fun r =>
      if sceneBase x r.scene = b ∧ u0 < sceneInstant x r.scene r.next ∧ sceneInstant x r.scene r.next ≤ u1
      then { r with overdue := true } else r }

end Sys2Proof.Machine
end

