-- ==== Sys2Proof/Machine/Rings.lean ====
section
/-! DEFINITION. Punt rings and transmit rings (R381, R382, R389). -/

namespace Sys2Proof.Machine

/-- Address of a punt descriptor. -/
def prDesc (x : Slice) (r i : Nat) : Nat := bits (pairGet x kSWC (0x400 + 16 * r)) 39 0 + 32 * i

def prEntries (x : Slice) (r : Nat) : Nat := fld (prCfg x r) 15 0

def prHead (x : Slice) (r : Nat) : Nat := regFld x kSWC (0x40C + 16 * r) 14 0

/-- OWN of a descriptor in memory. -/
def descOwn (x : Slice) (a : Nat) : Bool := bit (beAt (dramGet x (a - dramBase) 1) 0 1) 7

/-- Filled descriptors of a ring that software has not handed back. -/
def prFilled (x : Slice) (r : Nat) : List (Nat × Nat) :=
  x.filled.filter fun e => decide (e.1 = r) && !descOwn x (prDesc x r e.2)

/-- Bytes 8 to 31 of a punt descriptor (R381). -/
def puntDesc (x : Slice) (f : Frame) (c : Copy) (buflen : Nat) : Bytes :=
  let st := f.stamp.getD ⟨0, 0, 0, 0⟩
  let n := min c.len buflen
  let flags := (if c.mirror then 128 else 0) + (if buflen < c.len then 64 else 0) + 16 * st.base.val + f.epoch.toNat % 16
  beBytes 2 n ++ beBytes 2 f.bytes.length ++ beBytes 1 (16 * x.id.val + c.lane.val) ++ [c.reason] ++ beBytes 1 flags ++ [0]
    ++ beBytes 6 st.sec ++ beBytes 4 st.ns ++ beBytes 2 st.frac ++ beBytes 4 0

/-- A ring that holds THR or more filled descriptors raises cause 3. -/
def ringThr (x : Slice) (r : Nat) : Slice :=
  if fld (prCfg x r) 27 16 ≤ (prFilled x r).length then raise x kSWC 3 else x

/-- Removes the head copy of a punt ring's queue. -/
def puntRemove (x : Slice) (c : Copy) : Slice :=
  releaseFrame { x with puntFrames := x.puntFrames.filter (·.id ≠ c.id) } c.frm

/-- Delivers the oldest frame of a punt ring's queue. -/
def puntDeliver (x : Slice) (r : Fin 8) : Slice :=
  match x.puntFrames.find? (·.q = .punt r) with
  | none => x
  | some c =>
    match frameOf x c.frm with
    | none => { x with puntFrames := x.puntFrames.filter (·.id ≠ c.id) }
    | some f =>
      if f.need ≠ 0 then x
      else if !wbit (prCfg x r.val) 31 then puntRemove (puntDrop x r.val) c
      else if f.bad then puntRemove (count x kSWC 0x1210 1) c
      else
        let i := prHead x r.val
        let a := prDesc x r.val i
        let d := dramGet x (a - dramBase) 32
        let x := portMoved x false portCpu a 32
        if !bit (beAt d 0 1) 7 then x
        else
          let buf := bits (beAt d 0 8) 39 0
          let len := beAt d 8 2
          let x := dramStore x portCpu buf (f.bytes.take (min c.len len))
          let x := dramStore x portCpu (a + 8) (puntDesc x f c len)
          let x := dramStore x portCpu a (beBytes 1 (beAt d 0 1 % 128))
          let x := regPut x kSWC (0x40C + 16 * r.val) 14 0 ((i + 1) % prEntries x r.val)
          let x := { x with filled := (x.filled.filter (· ≠ (r.val, i))) ++ [(r.val, i)] }
          puntRemove (ringThr x r.val) c

/-- PUNT_DELIVER: a punted frame or mirror copy is written to its ring (R381). -/
def execPuntDeliver (sl : SliceId) (ring : Fin 8) (s : State) : Res := onAlive sl (fun x => if serves x kSWC then puntDeliver x ring else x) s

/-! ### Configuration (R389) -/

/-- ENTRIES that a ring takes: a power of two from 16 to 32,768. -/
def entriesOk (n : Nat) : Bool := (List.range 12).any fun k => decide (n = 16 * 2 ^ k)

def badRing (x : Slice) : Slice := setRegBit x kSWC 0x110 3

/-- Whether an offset of SWC is a ring's configuration or base register: ring (8 and 9 transmit) and register. -/
def ringReg (off : Nat) : Option (Nat × Nat) :=
  if 0x400 ≤ off ∧ off < 0x480 ∧ off % 16 < 12 then some ((off - 0x400) / 16, off % 16)
  else if 0x480 ≤ off ∧ off < 0x4A0 ∧ off % 16 < 12 then some (8 + (off - 0x480) / 16, off % 16)
  else none

def ringCfgOff (r : Nat) : Nat := 0x408 + 16 * r

/-- A write of a ring's configuration register. -/
def ringCfgWrite (x : Slice) (r : Nat) (v : Word) : Slice :=
  let old := regGet x kSWC (ringCfgOff r)
  if !entriesOk (fld v 15 0) then badRing x
  else if wbit old 31 ∧ fld v 15 0 ≠ fld old 15 0 then badRing x
  else
    let x := regSet x kSWC (ringCfgOff r) (w32 (v.toNat &&& (if r < 8 then 0x8FFFFFFF else 0x8000FFFF)))
    if wbit v 31 && !wbit old 31 then
      if r < 8 then { regPut x kSWC (0x40C + 16 * r) 14 0 0 with filled := x.filled.filter (·.1 ≠ r) }
      else { x with txHead := setNth x.txHead (r - 8) 0 }
    else if r < 8 && decide (fld v 27 16 < fld old 27 16) && decide (prFilled x r ≠ []) then ringThr x r
    else x

/-- A write of a ring's base pair: ignored while EN is 1 when it changes the base. -/
def ringBaseWrite (x : Slice) (r lo hi : Nat) : Slice :=
  let v := (hi % 256) * 2 ^ 32 + lo / 32 * 32
  if regBit x kSWC (ringCfgOff r) 31 ∧ v ≠ pairGet x kSWC (0x400 + 16 * r) then badRing x
  else pairSet x kSWC (0x400 + 16 * r) v

/-- RING_CONFIG_WRITE: a write of a ring's configuration or base register, at its offset from 0x4000_0000. A base word is
written alone, the other word keeping its value. -/
def execRingConfigWrite (sl : SliceId) (addr : BitVec 28) (v : Word) (s : State) : Res :=
  onStarted sl (fun x =>
    let off := addr.toNat - kSWC * 0x100000
    if addr.toNat / 0x100000 ≠ kSWC then x
    else match ringReg off with
      | some (r, 8) => written (ringCfgWrite x r v) kSWC off
      | some (r, 0) => written (ringBaseWrite x r v.toNat (pairGet x kSWC (0x400 + 16 * r) / 2 ^ 32)) kSWC off
      | some (r, 4) => written (ringBaseWrite x r (regGet x kSWC (0x400 + 16 * r)).toNat v.toNat) kSWC off
      | _ => x) s

/-! ### Transmit rings (R382) -/

/-- A write of SWC_TRTAIL. -/
def txTail (x : Slice) (t : Nat) (v : Word) : Slice := regSet x kSWC (0x48C + 16 * t) (w32 (fld v 14 0))

def execTxRingKick (sl : SliceId) (t : Fin 2) (v : Word) (s : State) : Res :=
  onStarted sl (fun x => written (txTail x t.val v) kSWC (0x48C + 16 * t.val)) s

def txNext (x : Slice) (t : Nat) : Nat := (x.txHead[t]?).getD 0

/-- TX_DESCRIPTOR: the next descriptor handed over is read and its frame sent. A frame whose bytes cannot be read is not
sent, and its descriptor is handed back. -/
def execTxDescriptor (sl : SliceId) (t : Fin 2) (s : State) : Res :=
  onAlive sl (fun x =>
    let t := t.val
    let cfg := regGet x kSWC (0x488 + 16 * t)
    let i := txNext x t
    let n := fld cfg 15 0
    if !wbit cfg 31 ∨ i = regFld x kSWC (0x48C + 16 * t) 14 0 % n then x
    else
      let d := txDesc x t i
      let t' : Dest := .handle (beAt d.2 10 2) (beAt d.2 12 1 % 8) none
      if !bit (beAt d.2 0 1) 7 || !offerTaken x 2 [] t' then x
      else
        let x := portMoved x false portCpu d.1 32
        let x := { x with txHead := setNth x.txHead t ((i + 1) % n), txBusy := x.txBusy ++ [(t, i)] }
        let r := dramRead x (bits (beAt d.2 0 8) 39 0) (beAt d.2 8 2) portCpu
        match r with
        | (none, x) => txRelease x t i
        | (some bs, x) =>
          let f := { draftFrame bs 17 2 none none (curEpoch x) with tx := some (t, i) }
          disposeFrame x f [] t') s

end Sys2Proof.Machine
end

