-- ==== Sys2Proof/Machine/Ingress.lean ====
section
/-! DEFINITION. Ingress: frames received, the ingress FIFOs, the two pipelines with their completion windows and CAM
queues, recirculation and the classifier's dispositions (R143, R193 to R203, R209, R215, R256). -/

namespace Sys2Proof.Machine

/-! ### Pipelines (R138, R477) -/

/-- The ingress pipeline that serves a pipeline's FIFO: the other one once it is fenced. -/
def servedBy (x : Slice) (p : Nat) : Nat :=
  if (false, (⟨p % 2, Nat.mod_lt _ (by decide)⟩ : Pipe)) ∈ x.pipesFenced then 1 - p % 2 else p % 2

def pipeOfLane (l : Nat) : Nat := if l < 8 then 0 else 1

def pipeFin (p : Nat) : Pipe := ⟨p % 2, Nat.mod_lt _ (by decide)⟩

/-- Depth of a pipeline's CAM queue. -/
def camDepth (x : Slice) (p : Nat) : Nat := (x.win.filter fun e => e.inCam && decide (e.pkt.pipe.val = p)).length

def camFull (x : Slice) (p : Nat) : Bool := decide (1024 ≤ camDepth x p)

/-- Packets in a pipeline's completion window, those that wait for the flow engine included; a packet in the CAM queue has
not come to the window. -/
def winDepth (x : Slice) (p : Nat) : Nat :=
  (x.win.filter fun e => decide (e.pkt.pipe.val = p) && !e.inCam).length
  + (x.flowIn.filter fun k => decide (k.pipe.val = p)).length

/-! ### Threads (R282, R283, R305) -/

def threadOf (x : Slice) (th : Nat) : Option ThreadSt := x.threads.find? (·.th = th)

def spFree (x : Slice) : Nat := regFld x kDMK 0x120 2 0

def engineFenced (x : Slice) (e : Nat) : Bool := regBit x kDMK (0x110 + 4 * (e / 32)) (e % 32)

/-- Engines in service: 0 to 63 and the spares that replaced fenced ones. -/
def engineActive (x : Slice) (e : Nat) : Bool := !engineFenced x e && decide (e < 64 + (4 - spFree x))

def threadFree (x : Slice) (th : Nat) : Bool := (threadOf x th).isNone

def freeThreads (x : Slice) (e : Nat) : List Nat := ((List.range 4).map (4 * e + ·)).filter (threadFree x)

/-- The lowest free thread of the active engine with the most free threads, the lower-numbered engine among equals. -/
def placeThread (x : Slice) : Option Nat :=
  let best := ((List.range 68).filter (engineActive x)).foldl (fun (b : Option (Nat × Nat)) e =>
    let n := (freeThreads x e).length
    match b with
    | none => if n = 0 then none else some (e, n)
    | some (_, m) => if m < n then some (e, n) else b) none
  best.bind fun b => (freeThreads x b.1).head?

/-- A packet of a pipeline waits in the flow engine with no thread free: the pipeline is back-pressured (R283). -/
def threadsFull (x : Slice) (p : Nat) : Bool := (x.ready.any fun r => r.pkt.pipe.val = p) && (placeThread x).isNone

/-- Whether a pipeline's ingress is back-pressured (R100, R103, R209, R215, R283, R329). -/
def blocked (x : Slice) (p : Nat) : Bool :=
  !accepts x kPRS || !accepts x kCLS || portHeld x (if p % 2 = 0 then 0 else 1) || camFull x p || decide (512 ≤ winDepth x p)
  || threadsFull x p

/-! ### Classification of one pass -/

def wNeedsCam (x : Slice) (old : Bool) (n : Nat) : Bool := wbit (profW x old n 3) 29

/-- Classifies a parsed packet: profile, primary engine, and a place in the CAM queue where the profile searches. -/
def classify (x : Slice) (p : Packet) : WinEntry × Slice :=
  match selectProfile x p with
  | none => (⟨{ p with prof := 64, prim := none, camHit := none, mmatch := false }, none, [], none, false, true⟩, x)
  | some n =>
    let old := isOld x p.epoch
    let p := { p with prof := n, prim := none, camHit := none, mmatch := false }
    let x := count x kCLS (0x1000 + 8 * n) 1
    let ks := keySpace x p
    let w3 := profW x old n 3
    let cam := wNeedsCam x old n
    match fld w3 31 30 with
    | 1 =>
      let h := bestRange x old p ks (fld w3 25 17) (fld w3 16 7)
      (⟨{ p with prim := h.map fun h => (1, h) }, none, [], none, cam, !cam⟩, x)
    | 2 =>
      let t := treeWalk x old p ks (fld (profW x old n 4) 23 0)
      let p := if t.node = none then { p with prim := t.best.map fun b => (2, b.2) } else p
      (⟨p, t.node, t.rules, t.best, cam, !cam && decide (t.node = none)⟩, x)
    | _ => (⟨p, none, [], none, cam, !cam⟩, x)

/-- Notes the depth of a CAM queue that a packet has joined. -/
def camJoined (x : Slice) (p : Nat) : Slice :=
  let d := camDepth x p
  let x := hwmFld x kCLS (0x110 + 4 * p) 26 16 (min 1024 d)
  if d = 1024 then flagRaise x kCLS 0x100 0 0 else x

/-- A packet starts a pass: it is parsed, classified and placed in its pipeline's window. -/
def startPass (x : Slice) (p : Packet) (node base : Nat) : Slice :=
  let r := parsePass x p node base
  let e := classify r.2 r.1
  let x := { e.2 with win := e.2.win ++ [e.1] }
  if e.1.inCam then camJoined x e.1.pkt.pipe.val else x

/-! ### Dispositions (R195, R196, R201, R203) -/

/-- Slot of the cell allocator that an ingress packet's frame uses (R331). -/
def ingressSlot (p : Packet) : Fin 4 := if p.pipe = 0 then 0 else 1

/-- A draft of a packet's frame, charged to its ingress port. -/
def packetFrame (p : Packet) : Frame :=
  { draftFrame p.frame p.lane.val (ingressSlot p) (some p.lane) (some p.stamp) p.epoch with bad := !p.fcsOk }

/-- The engine result of a packet, and its action (R201). -/
def engineResult (x : Slice) (p : Packet) : BitVec 2 × List Word :=
  let old := isOld x p.epoch
  let camwin := wbit (profW x old p.prof 3) 28
  match p.prim, p.camHit with
  | some (e, h), some c => if camwin then (3, c.act) else (e, h.act)
  | some (e, h), none => (e, h.act)
  | none, some c => (3, c.act)
  | none, none => (0, profAct x old p.prof 8)

def mirrorsOf (a : List Word) : List Nat := (actMirror a).toList

/-- The classifier's mirror copy of a packet that goes no further (R203, R340). -/
def mirrorOnly (x : Slice) (p : Packet) : Slice :=
  match mirrorsOf p.act with
  | [] => x
  | ms => disposeFrame x (packetFrame p) ms .drop

/-- DROP, counted against the profile. -/
def classDrop (x : Slice) (p : Packet) : Slice := mirrorOnly (count x kCLS (0x1400 + 8 * p.prof) 1) p

def classPunt (x : Slice) (p : Packet) : Slice :=
  disposeFrame x (packetFrame p) (mirrorsOf p.act) (.punt (clsOf (actQClass p.act)) (BitVec.ofNat 8 (actReason p.act)))

/-- A RECIRC that cannot be taken (R196). -/
def recircRefused (x : Slice) (p : Packet) : Slice :=
  let x := flagRaise (count x kCLS 0x1810 1) kCLS 0x100 3 3
  if actFallback p.act then classPunt x p else classDrop x p

/-- A RECIRC action: the second pass it asks for, or its fallback. -/
def classRecirc (x : Slice) (p : Packet) : Slice :=
  if p.pass2 || p.lcf then recircRefused x p
  else
    let x := mirrorOnly x p
    let a := if p.dex then (p.resume, p.stop, true) else (actR2nd p.act, 0, false)
    { x with recirc := x.recirc ++ [{ p with again := some a }] }

/-- A packet with the engine result and the action taken. -/
def withAction (x : Slice) (p : Packet) : Packet :=
  let r := engineResult x p
  let act := if p.dex || p.lcf then profAct x (isOld x p.epoch) p.prof 12 else r.2
  { p with act := act, eng := r.1, rule := BitVec.ofNat 16 (actRule r.2) }

/-- Whether the switch core takes what a classified packet offers it: a punt, and the mirror copies of a packet that does not
go on to the flow engine. -/
def classTaken (x : Slice) (p : Packet) : Bool :=
  let p := withAction x p
  let ms := mirrorsOf p.act
  let punt : Dest := .punt (clsOf (actQClass p.act)) 0
  decide (p.prof = 64)
  || (match actDisp p.act with
      | 0 => true
      | 2 => offerTaken x (ingressSlot p) ms punt
      | 3 => offerTaken x (ingressSlot p) ms (if (p.pass2 || p.lcf) && actFallback p.act then punt else .drop)
      | _ => offerTaken x (ingressSlot p) ms .drop)

/-- Settles a packet whose classification has ended. -/
def settle (x : Slice) (p : Packet) : Slice :=
  if p.prof = 64 then flagRaise (count x kCLS 0x1800 1) kCLS 0x100 2 2
  else
    let p := withAction x p
    let x := if p.pass2 then x else learn x p (actKeyProf p.act)
    match actDisp p.act with
    | 0 => { x with flowIn := x.flowIn ++ [p] }
    | 2 => classPunt x p
    | 3 => classRecirc x p
    | _ => classDrop x p

/-- Oldest entry of a pipeline's window. -/
def winHead (x : Slice) (p : Nat) : Option WinEntry := x.win.find? fun e => e.pkt.pipe.val = p

/-- Replaces a packet's window entry. -/
def setWin (x : Slice) (e : WinEntry) : Slice :=
  { x with win := x.win.map fun f => if f.pkt.id = e.pkt.id then e else f }

/-- Settles, in arrival order, the packets of a pipeline whose classification has ended (R209). -/
def drainWin (p : Nat) : Nat → Slice → Slice
  | 0, x => x
  | k + 1, x =>
    match winHead x p with
    | some e =>
      if e.done && classTaken x e.pkt then drainWin p k (settle { x with win := x.win.filter (·.pkt.id ≠ e.pkt.id) } e.pkt) else x
    | none => x

/-- Next frame of the FIFOs that a pipeline serves. -/
def nextFifo (x : Slice) (p : Nat) : Option (Pipe × Lane × Bytes × Bool × Stamp) :=
  x.fifo.find? fun e => servedBy x e.1.val = p

/-- Removes the first entry equal to a given one. -/
def eraseFifo (x : Slice) (e : Pipe × Lane × Bytes × Bool × Stamp) : Slice := { x with fifo := x.fifo.erase e }

/-- A frame leaves its FIFO and enters the pipeline: its epoch is the current one (R17). -/
def enterPipe (x : Slice) (p : Nat) (e : Pipe × Lane × Bytes × Bool × Stamp) : Slice :=
  let pkt : Packet :=
    { id := x.nextPkt, lane := e.2.1, serge := isGroup x e.2.1.val, pipe := pipeFin p, frame := e.2.2.1, fcsOk := e.2.2.2.1,
      epoch := curEpoch x, stamp := e.2.2.2.2, xbuf := emptyXbuf, xval := emptyXval, cls := 0, hdrs := [], dex := false,
      lcf := false, pass2 := false, pbase := 0, stop := 0, resume := 0, prof := 64, prim := none, camHit := none,
      mmatch := false, act := [], eng := 0, rule := 0, again := none }
  startPass { eraseFifo x e with nextPkt := x.nextPkt + 1 } pkt (regFld x kPRS (0x1000 + 4 * e.2.1.val) 7 0) 0

/-- Moves frames from the FIFOs into a pipeline while it takes them, recirculated packets first (R197). -/
def pumpPipe (p : Nat) : Nat → Slice → Slice
  | 0, x => x
  | k + 1, x =>
    if blocked x p || (x.recirc.any fun q => q.pipe.val = p) then x
    else match nextFifo x p with
      | none => x
      | some e => pumpPipe p k (drainWin p 1024 (enterPipe x p e))

/-- Both pipelines take what they can. -/
def pump (x : Slice) : Slice :=
  let x := drainWin 1 1024 (drainWin 0 1024 x)
  pumpPipe 1 (x.fifo.length + 1) (pumpPipe 0 (x.fifo.length + 1) x)

/-- The pipelines go on where a block accepts work again. -/
def resume (x : Slice) : Slice := if x.alive then pump x else x

/-! ### Reception (R143, R182, R215) -/

/-- The slice receives frames: ACTIVE, and not on its way into NAP (R24, R44). -/
def rxOpen (x : Slice) : Bool := awake x && decide (x.move ≠ .enterNap)

/-- Bytes in a pipeline's ingress FIFO. -/
def fifoBytes (x : Slice) (p : Nat) : Nat :=
  (x.fifo.filter fun e => e.1.val = p).foldl (fun n e => n + e.2.2.1.length + 4) 0

/-- A frame is dropped with the FIFO full, under the cause of the back-pressure. -/
def fifoDrop (x : Slice) (p : Nat) : Slice :=
  if camFull x p then flagRaise (count x kCLS 0x1808 1) kCLS 0x100 1 1 else count x kFLW 0x1040 1

def rxPort (x : Slice) (l : Lane) : Bool :=
  enabled x kLNE && isPort x l.val && portUp x l.val && rxOpen x

/-- A frame received on a port, with its ingress timestamp. -/
def receive (x : Slice) (l : Lane) (frame : Bytes) (fcsOk : Bool) (st : Stamp) : Slice :=
  let x := perf (perf x 2 l.val 15 1) 3 l.val 15 (frame.length + 4)
  let p := pipeOfLane l.val
  if 524288 < fifoBytes x p + frame.length + 4 then fifoDrop x p
  else pump { x with fifo := x.fifo ++ [(pipeFin p, l, frame, fcsOk, st)] }

/-- The oldest frame that a group has reassembled is received, or discarded and counted where the group is the one of a
protection pair that is not selected (R145, R182). -/
def groupReceive (x : Slice) (g : Group) : Slice :=
  match g.rxFrames with
  | [] => x
  | (bs, ok, t) :: fs =>
    let g := { g with rxFrames := fs }
    if pairIdle x g.lane.val then setGroup x { g with protDrop := g.protDrop + 1 }
    else receive (setGroup x g) g.lane bs ok (stampAt (portBase x g.lane.val) t)

/-- FRAME_RECEIVE: a frame without its FCS arrives at a port, named by its first lane (R143). The frames of a Serge group
come from its member lanes: the one it has reassembled first is taken, whatever frame the command names. -/
def execFrameReceive (sl : SliceId) (lane : Lane) (frame : Bytes) (fcsOk : Bool) (s : State) : Res :=
  onAlive sl (fun x =>
    if !rxPort x lane then x
    else if isGroup x lane.val then
      match groupOf x lane with
      | some g => groupReceive x g
      | none => x
    else if frame = [] then x
    else receive x lane frame fcsOk (stampNow x (portBase x lane.val))) s

/-- CELL_REQUEST: one clock of the cell allocator, in which the named slots ask, each for one cell (R328, R329, R331). -/
def execCellRequest (sl : SliceId) (slots : BitVec 4) (s : State) : Res :=
  onAlive sl (fun x => if serves x kBUF then pump (cellClock x slots) else x) s

/-! ### Tree reads, CAM slots, recirculation -/

/-- Ends the tree walk of an entry, or leaves it waiting for its next DRAM node. -/
def treeGo (e : WinEntry) (t : TreePos) : WinEntry :=
  if t.node = none then
    { e with pkt := { e.pkt with prim := t.best.map fun b => (2, b.2) }, node := none, rules := [], best := none, done := !e.inCam }
  else { e with node := t.node, rules := t.rules, best := t.best }

/-- TREE_NODE_READ_DONE: a tree node read from DRAM returns (R208, R209); after an error the packet has no tree hit (R401). -/
def execTreeNodeReadDone (sl : SliceId) (pkt : Nat) (err : Bool) (s : State) : Res :=
  onAlive sl (fun x =>
    match x.win.find? (·.pkt.id = pkt) with
    | none => x
    | some e =>
      match e.node with
      | none => x
      | some a =>
        let r := dramRead x (dramBase + region x kDRC 0x114 + 64 * bits a 22 0) 64 portFms
        let x := r.2
        let old := isOld x e.pkt.epoch
        let ks := keySpace x e.pkt
        let t : TreePos := match r.1, err with
          | some bs, false =>
            let n := bytesWords bs
            match e.rules with
            | _ :: rs => treeRules x old e.pkt ks rs (takeRule n e.pkt ks e.best)
            | [] => treeFrom x old e.pkt ks treeFuel n
          | _, _ => ⟨none, [], none⟩
        pump (setWin x (treeGo e t))) s

/-- CAM_SEARCH_SLOT: the oldest packet of a pipeline's CAM queue is searched (R211, R212). -/
def execCamSearchSlot (sl : SliceId) (pipe : Pipe) (s : State) : Res :=
  onAlive sl (fun x =>
    if x.camBusy || !accepts x kCAM then x
    else match x.win.find? fun e => e.inCam && decide (e.pkt.pipe = pipe) with
      | none => x
      | some e =>
        let old := isOld x e.pkt.epoch
        let w := fld (profW x old e.pkt.prof 3) 27 26
        let ms := camMatches x old w (camKey x old e.pkt.prof (160 * 2 ^ w) (keySpace x e.pkt))
        let multi := decide (1 < ms.length)
        let x := if multi then count x kCLS 0x1820 1 else x
        let p := { e.pkt with camHit := ms.head?.map fun i => ⟨i, camAct x old i⟩, mmatch := multi }
        pump (setWin x { e with pkt := p, inCam := false, done := decide (e.node = none) })) s

/-- RECIRC_PASS: a recirculated packet re-enters its pipeline for its second pass (R193, R197). -/
def execRecircPass (sl : SliceId) (pipe : Pipe) (s : State) : Res :=
  onAlive sl (fun x =>
    if blocked x pipe.val then x
    else match x.recirc.find? (·.pipe = pipe) with
      | none => x
      | some p =>
        let x := { x with recirc := x.recirc.filter (·.id ≠ p.id) }
        match p.again with
        | none => x
        | some (node, base, keep) =>
          let p := { p with pass2 := true, again := none, hdrs := [], dex := false, lcf := false }
          let p := if keep then p else { p with xbuf := emptyXbuf, xval := emptyXval, cls := 0 }
          pump (startPass (count x kPRS 0x2010 1) p node base)) s

end Sys2Proof.Machine
end

