-- ==== Sys2Proof/Machine/Prf.lean ====
section
/-! DEFINITION. Performance counters and telemetry rings (R452 to R466). -/

namespace Sys2Proof.Machine

def selOf (x : Slice) (n : Nat) : Word := regGet x kPRF (0x400 + 4 * n)

def parOf (x : Slice) (n : Nat) : Nat := (regGet x kPRF (0x600 + 4 * n)).toNat

/-- COUNTER_WRAP: a counter that stands at 2^48 − 1 counts one event more (R452, R460). -/
def execCounterWrap (sl : SliceId) (n : Fin 64) (s : State) : Res :=
  onStarted sl (fun x =>
    if wbit (selOf x n.val) 31 && decide (pairGet x kPRF (0x1000 + 8 * n.val) = 2 ^ 48 - 1) then prfAdd x n.val 1
    else x) s

/-- Window length of a counter in WINDOW mode: a divisor of 1,000,000 µs (R456). -/
def windowLen (x : Slice) (n : Nat) : Option Nat :=
  let w := parOf x n % 2 ^ 20
  if wbit (selOf x n) 31 && decide (fld (selOf x n) 30 29 = 2) && decide (w ≠ 0) && decide (1000000 % w = 0) then some w
  else none

/-- Latches a window: PRF_WINn, PRF_WINTn, restart from 0, cause 2 (R456). -/
def latchWindow (x : Slice) (n sec k : Nat) (short : Bool) : Slice :=
  let x := pairSet x kPRF (0x1800 + 8 * n) (pairGet x kPRF (0x1000 + 8 * n))
  let x := regSet x kPRF (0x1C00 + 4 * n) (w32 (short.toNat * 2 ^ 31 + sec % 2048 * 2 ^ 20 + k))
  let x := pairSet x kPRF (0x1000 + 8 * n) 0
  if wbit (selOf x n) 26 then raise x kPRF 2 else x

/-- A time of base 0 in whole microseconds. -/
def usOf (u : Nat) : Nat := u / (nsUnits * 1000)

/-- The window of a counter that holds a time of base 0 is the one in progress. -/
def openWindow (x : Slice) (n w us : Nat) : Slice := { x with winEnd := sPut 0 x.winEnd n ((us / w + 1) * w) }

/-- The window in progress closes: it is latched, and the window that holds the time `us` begins. -/
def closeWindow (x : Slice) (n w us : Nat) (short : Bool) : Slice :=
  let o := sGet 0 x.winEnd n - w
  openWindow (latchWindow x n (o / 1000000) (o % 1000000 / w) short) n w us

/-- WINDOW_CLOSE (R456): base 0 has passed the close of the window in progress, which is window k; none in NAP (R457). -/
def execWindowClose (sl : SliceId) (n : Fin 64) (k : BitVec 20) (s : State) : Res :=
  onStarted sl (fun x =>
    match windowLen x n.val with
    | none => x
    | some w =>
      let e := sGet 0 x.winEnd n.val
      if e ≤ usOf (baseNow x 0) ∧ (e - w) % 1000000 / w = k.toNat ∧ napping x = false then
        closeWindow x n.val w (usOf (baseNow x 0)) false
      else x) s

/-- A forward step of base 0 latches the windows whose close it passes, with SHORT (R457). -/
def stepWindows (x : Slice) (u1 : Nat) : Slice :=
  (List.range 64).foldl (fun x n =>
    match windowLen x n with
    | none => x
    | some w => if sGet 0 x.winEnd n ≤ usOf u1 then closeWindow x n w (usOf u1) true else x) x

/-- After a wake from NAP the window in progress of every counter is the one that holds the wake time (R457). -/
def wakeWindows (x : Slice) : Slice :=
  (List.range 64).foldl (fun x n =>
    match windowLen x n with
    | none => x
    | some w => openWindow x n w (usOf (baseNow x 0))) x

/-- PRF_SELn or PRF_PARn has been written: a counter that comes to count windows of another length begins with the window
that holds the present time. -/
def windowSet (x y : Slice) (n : Nat) : Slice :=
  match windowLen y n with
  | none => y
  | some w => if windowLen x n = some w then y else openWindow y n w (usOf (baseNow y 0))

/-- A snapshot of all 64 counters (R459). -/
def snapCounters (x : Slice) : Slice :=
  let x := (List.range 64).foldl (fun x n => pairSet x kPRF (0x1400 + 8 * n) (pairGet x kPRF (0x1000 + 8 * n))) x
  wrapFld x kPRF 0x100 15 0 1

def execSnap (sl : SliceId) (s : State) : Res := onStarted sl (fun x => { snapCounters x with bus := .done }) s

/-- FREEZE_RESUME: a 1 written to FROZEN resumes counting (R460). -/
def execFreezeResume (sl : SliceId) (s : State) : Res :=
  onStarted sl (fun x => { clrRegBit x kPRF 0x100 29 with bus := .done }) s

/-! ### Telemetry rings (R464 to R466) -/

def trOff (r : Nat) : Nat := 0x3000 + 0x20 * r

def trSize (x : Slice) (r : Nat) : Nat := 2 ^ regFld x kPRF (trOff r + 8) 4 0

def trHead (x : Slice) (r : Nat) : Nat := (regGet x kPRF (trOff r + 0xC)).toNat

def trTail (x : Slice) (r : Nat) : Nat := (regGet x kPRF (trOff r + 0x10)).toNat

/-- Records in a ring. -/
def trHeld (x : Slice) (r : Nat) : Nat := (trHead x r + trSize x r - trTail x r % trSize x r) % trSize x r

/-- Whether a ring of a configuration fits: LOG2 6 to 24, whole within the telemetry region (R464). -/
def trFits (x : Slice) (base log2 : Nat) : Bool :=
  let lo := dramBase + region x kPRF 0x120
  decide (6 ≤ log2) && decide (log2 ≤ 24) && decide (lo ≤ base) && decide (base + 64 * 2 ^ log2 ≤ lo + 3 * 2 ^ 30)

/-- A ring needs service (R466). -/
def trService (x : Slice) (r : Nat) : Slice := raise (setRegBit x kPRF 0x118 r) kPRF 1

/-- A write of PRF_TRINTr: a ring that already holds THR or more records needs service (R466). -/
def trIntWrite (x : Slice) (r : Nat) (v : Word) : Slice :=
  let y := regSet x kPRF (trOff r + 0x14) v
  if fld v 15 0 ≠ 0 ∧ fld v 15 0 ≤ trHeld y r then trService y r else y

/-- Writes the records of one flow to consecutive slots; `false` where they are lost (R465). -/
def trWrite (x : Slice) (r : Nat) (recs : List Bytes) : Bool × Slice :=
  let sz := trSize x r
  let out := sGet 0 x.telPosted r
  if fenced x kPRF then (false, discarded x kPRF recs.length)
  else if !regBit x kPRF (trOff r + 8) 31 || decide (sz ≤ trHeld x r + out + recs.length) then (false, x)
  else
    let x := recs.zipIdx.foldl (fun x p =>
      dramStore x portMnt (pairGet x kPRF (trOff r) + 64 * ((trHead x r + out + p.2) % sz)) p.1) x
    (true, { x with telPosted := sPut 0 x.telPosted r (out + recs.length) })

/-- TELEMETRY_WRITE_ACK: a record write is acknowledged and HEAD advances (R465, R466). -/
def execTelemetryWriteAck (sl : SliceId) (ring : Fin 16) (s : State) : Res :=
  onStarted sl (fun x =>
    let r := ring.val
    let out := sGet 0 x.telPosted r
    if out = 0 then x
    else
      let x := { x with telPosted := sPut 0 x.telPosted r (out - 1) }
      let x := regSet x kPRF (trOff r + 0xC) (w32 ((trHead x r + 1) % trSize x r))
      let thr := regFld x kPRF (trOff r + 0x14) 15 0
      if thr ≠ 0 ∧ thr ≤ trHeld x r then trService x r else x) s

/-- A write of PRF_TRTAILr; one that would pass HEAD is ignored (R465). -/
def trTailWrite (x : Slice) (r : Nat) (v : Word) : Slice :=
  let sz := trSize x r
  let t := fld v 23 0
  if t < sz ∧ (t + sz - trTail x r % sz) % sz ≤ trHeld x r then regSet x kPRF (trOff r + 0x10) (w32 t) else x

def execTelemetryTailWrite (sl : SliceId) (ring : Fin 16) (v : Word) (s : State) : Res :=
  onStarted sl (fun x => { trTailWrite x ring.val v with bus := .done }) s

/-- TELEMETRY_TIMEOUT: the oldest unread record has waited TMO µs (R466). -/
def execTelemetryTimeout (sl : SliceId) (ring : Fin 16) (s : State) : Res :=
  onStarted sl (fun x =>
    if regFld x kPRF (trOff ring.val + 0x14) 31 16 ≠ 0 ∧ trHeld x ring.val ≠ 0 then trService x ring.val else x) s

end Sys2Proof.Machine
end

