-- ==== Sys2Proof/Machine/FlowTable.lean ====
section
/-! DEFINITION. The flow table: keys, hashing, buckets, records, the hot set, the stash, export records and the log queue
(R244 to R255, R263, R264, R270 to R272). -/

namespace Sys2Proof.Machine

/-! ### Keys (R246 to R249) -/

/-- A flow key: its profile, its length and 48 bytes, padded with zeros. -/
structure FKey where
  kp : Nat
  klen : Nat
  key : Bytes
  deriving DecidableEq, Repr

/-- A chunk of a key: its bytes, none where it is not in use. -/
def keyChunk (ks : Bytes) (c : Nat) : Option Bytes :=
  if bit c 15 then some (slab ks (bits c 14 8) (bits c 5 0 + 1)) else none

def chunkBytes (c : Option Bytes) : Bytes := c.getD []

/-- Whether chunks i and j swap: both in use with equal CLEN. -/
def swapPair (cs : List (Option Bytes)) (i j : Nat) : List (Option Bytes) :=
  match (cs[i]?).join, (cs[j]?).join with
  | some a, some b => if a.length = b.length then setNth (setNth cs i (some b)) j (some a) else cs
  | _, _ => cs

/-- Direction-independent order of chunks 0 to 3 (R248). -/
def symChunks (cs : List (Option Bytes)) : List (Option Bytes) :=
  let b := fun i => chunkBytes ((cs[i]?).join)
  if beNat (b 1 ++ b 3) < beNat (b 0 ++ b 2) then swapPair (swapPair cs 0 1) 2 3 else cs

/-- Pads a key to 48 bytes. -/
def pad48 (bs : Bytes) : Bytes := slab bs 0 48

/-- The key of a packet under its key profile; none for a profile that is not VALID. -/
def buildKey (x : Slice) (p : Packet) : Option FKey :=
  let old := isOld x p.epoch
  let k := actKeyProf p.act
  if !wbit (kpW x old k 0) 31 then none
  else
    let ks := keySpace x p
    let cs := (List.range 8).map fun i =>
      let w := kpW x old k (6 + i / 2)
      keyChunk ks (if i % 2 = 0 then fld w 31 16 else fld w 15 0)
    let cs := if wbit (kpW x old k 0) 28 then symChunks cs else cs
    let bs := cs.flatMap chunkBytes
    let bs := if bs = [] then [0] else bs.take 48
    some ⟨k, bs.length, pad48 bs⟩

/-- Candidate buckets and hot set index of a key (R249). -/
def flowHash (x : Slice) (k : FKey) : Nat × Nat × Nat :=
  let bs := [BitVec.ofNat 8 k.kp, BitVec.ofNat 8 k.klen] ++ k.key
  let c := candidates (regGet x kFLW 0x140) (regGet x kFLW 0x144) bs 0x3FFFFF
  (c.1, c.2, (crcSeed (regGet x kFLW 0x144) bs >>> 18) % 16384)

/-! ### Bucket entries (R250) -/

def entOff (s : Nat) : Nat := 64 * s

def entT (bs : Bytes) (s t : Nat) : Word := w32 (beAt bs (entOff s + 48 + 4 * t) 4)

def entValid (bs : Bytes) (s : Nat) : Bool := wbit (entT bs s 0) 31

def entRec (bs : Bytes) (s : Nat) : Nat := fld (entT bs s 1) 23 0

def entAlt (bs : Bytes) (s : Nat) : Nat := fld (entT bs s 2) 21 0

def entKey (bs : Bytes) (s : Nat) : FKey := ⟨fld (entT bs s 0) 30 25, fld (entT bs s 0) 24 19, slab bs (entOff s) 48⟩

/-- Slot of a bucket that holds a key. -/
def slotOf (bs : Bytes) (k : FKey) : Option Nat := (List.range 4).find? fun s => entValid bs s && decide (entKey bs s = k)

def freeSlot (bs : Bytes) : Option Nat := (List.range 4).find? fun s => !entValid bs s

/-- An entry's 64 bytes. -/
def mkEntry (k : FKey) (idx alt : Nat) : Bytes :=
  k.key ++ wordBytes (w32 (2 ^ 31 + k.kp % 64 * 2 ^ 25 + k.klen % 64 * 2 ^ 19)) ++ wordBytes (w32 (idx % 2 ^ 24))
    ++ wordBytes (w32 (alt % 2 ^ 22)) ++ wordBytes 0

def putEntry (bs : Bytes) (s : Nat) (e : Bytes) : Bytes := overlay bs (entOff s) e

def clearEntry (bs : Bytes) (s : Nat) : Bytes := putEntry bs s (List.replicate 64 0)

/-! ### Regions (R244) -/

/-- Own (`false`) or shadow (`true`) bucket address. -/
def bucketAddr (x : Slice) (sh : Bool) (b : Nat) : Nat := dramBase + region x kFLW (if sh then 0x138 else 0x130) + 256 * b

def recordAddr (x : Slice) (sh : Bool) (i : Nat) : Nat := dramBase + region x kFLW (if sh then 0x13C else 0x134) + 128 * i

/-- A bucket, the in-flight table first (R264); none where its read returns an error. -/
def getBucket (x : Slice) (sh : Bool) (b : Nat) : Option Bytes × Slice :=
  match if sh then none else (x.inflight.find? fun e => e.1 = b) with
  | some e => (some e.2, x)
  | none => dramRead x (bucketAddr x sh b) 256 (if sh then portTws else portFms)

/-- Writes a bucket: an own bucket is held in the in-flight table until its write is acknowledged (R264). -/
def putBucket (x : Slice) (sh : Bool) (b : Nat) (bs : Bytes) : Slice :=
  if sh then dramStore x portTws (bucketAddr x sh b) bs
  else { x with inflight := (x.inflight.filter fun e => e.1 ≠ b) ++ [(b, bs)] }

/-- An own bucket write must wait: the bucket is held, or the table is full. -/
def bucketBusy (x : Slice) (b : Nat) : Bool := (x.inflight.any fun e => e.1 = b) || decide (256 ≤ x.inflight.length)

/-! ### The hot set (R253 to R255) -/

def HotWay.fkey (h : HotWay) : FKey := ⟨h.kp, h.klen, h.key⟩
def KeyRec.fkey (e : KeyRec) : FKey := ⟨e.kp, e.klen, e.key⟩
def Tracker.fkey (t : Tracker) : FKey := ⟨t.kp, t.klen, t.key⟩

def hotFind (x : Slice) (k : FKey) : Option HotWay := x.hot.find? fun h => decide (h.fkey = k)

def hotByIdx (x : Slice) (i : Nat) : Option HotWay := x.hot.find? fun h => h.idx = i

def setHot (x : Slice) (h : HotWay) : Slice :=
  { x with hot := x.hot.map fun g => if g.set = h.set ∧ g.way = h.way then h else g }

def trackerOf (x : Slice) (k : FKey) : Option Tracker := x.trackers.find? fun t => decide (t.fkey = k)

def trackerId (x : Slice) (n : Nat) : Option Tracker := x.trackers.find? (·.id = n)

def setTracker' (x : Slice) (t : Tracker) : Slice :=
  { x with trackers := x.trackers.map fun u => if u.id = t.id then t else u }

def dropTracker (x : Slice) (t : Tracker) : Slice := { x with trackers := x.trackers.filter (·.id ≠ t.id) }

/-- A packet with the record runs, waits for a thread, or is held at its commit. -/
def inUse (x : Slice) (i : Nat) : Bool :=
  (x.ready.any fun r => r.idx = some i) || (x.threads.any fun t => t.idx = some i)
  || (x.rerunq.any fun t => t.idx = some i) || (x.held.any fun h => h.idx = i)

/-- A pinned way (R254). -/
def pinned (x : Slice) (h : HotWay) : Bool := inUse x h.idx || (trackerOf x h.fkey).isSome

/-- The tree of a set after a use of a way: every node on its path points away from it. -/
def plruTouch (t w : Nat) : Nat :=
  [3, 2, 1, 0].foldl (fun t d =>
    let node := (16 + w) >>> (d + 1)
    let right := decide (((16 + w) >>> d) % 2 = 1)
    if right then t &&& (0xFFFF ^^^ 2 ^ node) else t ||| 2 ^ node) t

/-- The way the tree points to among those that may go. -/
def plruPick (t : Nat) (ok : Nat → Bool) : Nat → Nat → Option Nat
  | 0, node => if ok (node - 16) then some (node - 16) else none
  | d + 1, node =>
    let b := (bit t node).toNat
    match plruPick t ok d (2 * node + b) with
    | some w => some w
    | none => plruPick t ok d (2 * node + (1 - b))

def plruUse (x : Slice) (set way : Nat) : Slice :=
  { x with plru := sPut 0 x.plru set (plruTouch (sGet 0 x.plru set) way) }

/-- Every way of a set is pinned (R254). -/
def setPinned (x : Slice) (set : Nat) : Bool :=
  (List.range 16).all fun w => decide ((set, w) ∈ x.waysFenced) || x.hot.any fun h => decide (h.set = set ∧ h.way = w) && pinned x h

/-- A way for a record of a set: an empty one, else the one replaced, which goes to the victim buffer when it differs from
its DRAM copy. None while every way is pinned or the victim buffer is full. -/
def hotMakeRoom (x : Slice) (set : Nat) : Option (Nat × Slice) :=
  let live := fun w => !decide ((set, w) ∈ x.waysFenced)
  let at' := fun w => x.hot.find? fun h => h.set = set ∧ h.way = w
  match (List.range 16).find? fun w => live w && (at' w).isNone with
  | some w => some (w, x)
  | none =>
    match plruPick (sGet 0 x.plru set) (fun w => live w && ((at' w).any fun h => !pinned x h)) 4 1 with
    | none => none
    | some w =>
      match at' w with
      | none => none
      | some h =>
        let x' := { x with hot := x.hot.filter fun g => !(decide (g.set = set) && decide (g.way = w)) }
        if !h.dirty then some (w, x')
        else if 1024 ≤ x.victim.length then none
        else some (w, { x' with victim := x'.victim ++ [(h.idx, h.rcd)] })

/-- Installs a record in the hot set; none where it must wait (R254, R255). -/
def install (x : Slice) (k : FKey) (i : Nat) (r : List Dword) (dirty : Bool) : Option Slice :=
  let set := (flowHash x k).2.2
  (hotMakeRoom x set).map fun p =>
    plruUse { p.2 with hot := p.2.hot ++ [⟨set, p.1, k.kp, k.klen, k.key, i, r, dirty⟩] } set p.1

/-! ### Records (R251) -/

def recordBytes (r : List Dword) : Bytes := r.flatMap dwordBytes

/-- Newest copy of a record in the victim buffer. -/
def victimOf (x : Slice) (i : Nat) : Option (List Dword) :=
  (x.victim.reverse.find? fun v => v.1 = i).map (·.2)

/-- A record read, the victim buffer first; none where DRAM returns an error. -/
def readRecord (x : Slice) (i : Nat) : Option (List Dword) × Slice :=
  match victimOf x i with
  | some r => (some r, x)
  | none =>
    if i ∈ x.lostRecs then (none, x)
    else
      let r := dramRead x (recordAddr x false i) 128 portFms
      (r.1.map bytesDwords, r.2)

/-- Writes a record to the own table. -/
def storeRecord (x : Slice) (i : Nat) (r : List Dword) : Slice :=
  dramStore { x with lostRecs := x.lostRecs.filter (· ≠ i) } portFwb (recordAddr x false i) (recordBytes r)

/-- The authoritative copy of a record. -/
def authRecord (x : Slice) (i : Nat) : Option (List Dword) × Slice :=
  match hotByIdx x i with
  | some h => (some h.rcd, x)
  | none => readRecord x i

/-- Changes the authoritative copy of a record. -/
def putRecord (x : Slice) (i : Nat) (r : List Dword) : Slice :=
  match hotByIdx x i with
  | some h => setHot x { h with rcd := r, dirty := true }
  | none =>
    if (victimOf x i).isSome then { x with victim := x.victim.map fun v => if v.1 = i then (i, r) else v }
    else storeRecord x i r

/-- A stamp expressed on another base. -/
def stampOn (x : Slice) (st : Stamp) (b : BaseId) : Stamp :=
  if st.base = b then st
  else
    let age := timeDiff (baseNow x st.base.val) (unitsOf st.sec st.ns)
    let u := addTime (baseNow x b.val) (-age)
    ⟨b, secOf u, nsOf u, fracOf u⟩

/-- Time base of F2, F3 and ageing. -/
def flowTb (x : Slice) : BaseId := ⟨regFld x kFLW 0x104 1 0 % 4, Nat.mod_lt _ (by decide)⟩

/-- F3 of a packet. -/
def arrivalF3 (x : Slice) (p : Packet) : Dword := stampF3 (stampOn x p.stamp (flowTb x))

/-- F0 of a new record (R252). -/
def newF0 (kp dmask sec : Nat) : Dword :=
  d64 (2 ^ 63 + kp % 64 * 2 ^ 52 + sec % 65536 * 2 ^ 32 + (dmask % 65536 ||| 3))

/-- A new record: its route epoch is one that never is current, until its resolution (R252). -/
def initRecord (x : Slice) (p : Packet) (kp : Nat) : List Dword :=
  let old := isOld x p.epoch
  let st := stampOn x p.stamp (flowTb x)
  [newF0 kp (fld (kpW x old kp 0) 15 0) st.sec, d64 (0xFFFF * 2 ^ 32 + actProg p.act), stampF3 st, stampF3 st]
    ++ List.replicate 12 0

def rState (r : List Dword) : Nat := dbits (rcdW r 0) 62 61
def rTsel (r : List Dword) : Nat := dbits (rcdW r 0) 60 59
def rRemote (r : List Dword) : Nat := dbits (rcdW r 0) 58 58
def rKp (r : List Dword) : Nat := dbits (rcdW r 0) 57 52
def rShadowed (r : List Dword) : Bool := decide (dbits (rcdW r 0) 51 51 = 1)
def rLastExp (r : List Dword) : Nat := dbits (rcdW r 0) 47 32
def rDurable (r : List Dword) : Nat := dbits (rcdW r 0) 15 0
def rHandle (r : List Dword) : Nat := dbits (rcdW r 1) 63 48
def rRepoch (r : List Dword) : Nat := dbits (rcdW r 1) 47 32
def rProv (r : List Dword) : Bool := decide (dbits (rcdW r 1) 31 31 = 1)
def rProg (r : List Dword) : Nat := dbits (rcdW r 1) 14 0

/-- Stale: its route epoch is not the current one (R221); a profile with mode NONE never resolves (R219). -/
def stale (x : Slice) (p : Packet) (r : List Dword) : Bool :=
  decide (kpMode x (isOld x p.epoch) (rKp r) ≠ 0) && decide (rRepoch r ≠ repochCur x)

/-- A record that the twin returned: REMOTE (R280). -/
def remoteRecord (r : List Dword) : List Dword := setNth r 0 (dset (rcdW r 0) 58 58 1)

/-- A record migrated from the shadow (R278): REMOTE, and a route epoch that never is current. -/
def migratedRecord (r : List Dword) : List Dword := setNth (remoteRecord r) 1 (dset (rcdW r 1) 47 32 0xFFFF)

/-! ### Exports (R270) -/

def exIdle : Nat := 1
def exClosed : Nat := 2
def exPeriodic : Nat := 3
def exRemoved : Nat := 4

/-- The one or two 64-byte export records of a flow. -/
def exportRecords (x : Slice) (k : FKey) (i : Nat) (r : List Dword) (kind : Nat) : List Bytes :=
  let hd := fun (kd : Nat) =>
    [BitVec.ofNat 8 kd, BitVec.ofNat 8 k.kp, BitVec.ofNat 8 k.klen,
     BitVec.ofNat 8 (rRemote r * 128 + rState r * 32 + x.id.val)] ++ beBytes 4 i
  let ws := fun (a n : Nat) => ((List.range n).map fun j => rcdW r (a + j)).flatMap dwordBytes
  let first := hd kind ++ ws 2 4 ++ slab k.key 0 24
  if 24 < k.klen then [first, hd 0x80 ++ slab k.key 24 24 ++ List.replicate 8 0 ++ ws 6 3] else [first]

/-- Writes a flow's export records to its profile's ring, or loses them. -/
def exportFlow (x : Slice) (k : FKey) (i : Nat) (r : List Dword) (kind : Nat) : Slice :=
  let recs := exportRecords x k i r kind
  let w := trWrite x (fld (tabGet x tKeyProf k.kp 0) 25 22) recs
  if w.1 then count w.2 kFLW 0x1058 recs.length else raise (count w.2 kFLW 0x1060 recs.length) kFLW 6

/-! ### The log queue (R271, R272) -/

/-- The slice replicates: its link is up, and its twin holds no promoted shadow (R12, R485). -/
def replicates (x : Slice) : Bool := linkIsUp x && !regBit x kTWN 0x130 26

def logWaiting (x : Slice) (i : Nat) : Bool := x.logq.any fun e => decide (e.idx = i) && !e.isDel

/-- The log queue is full for a record that would join it. -/
def logFull (x : Slice) (i : Nat) : Bool := decide (16384 ≤ x.logq.length) && !logWaiting x i

/-- Marks halves of a record dirty; it joins the queue, at its head for a synchronous write (R275). -/
def logMark (x : Slice) (k : FKey) (i : Nat) (a b sync : Bool) (t : Dword) : Slice :=
  if !replicates x then x
  else
    let old := x.logq.find? fun e => decide (e.idx = i) && !e.isDel
    let e : LogItem := match old with
      | some e => { e with dirtyA := e.dirtyA || a, dirtyB := e.dirtyB || b, sync := e.sync || sync, tcommit := t }
      | none => ⟨i, false, a, b, sync, k.kp, k.klen, k.key, t, t, 0⟩
    let rest := x.logq.filter fun e => !(decide (e.idx = i) && !e.isDel)
    if sync then { x with logq := e :: rest }
    else if old.isSome then { x with logq := x.logq.map fun f => if decide (f.idx = i) && !f.isDel then e else f }
    else { x with logq := x.logq ++ [e] }

/-- A record ends: a waiting entry goes, and a DEL entry joins the queue when the twin has the record. -/
def logDelete (x : Slice) (k : FKey) (i : Nat) (r : List Dword) (t : Dword) : Slice :=
  let x := { x with logq := x.logq.filter fun e => !(decide (e.idx = i) && !e.isDel), logged := x.logged.filter (· ≠ i) }
  if rShadowed r && replicates x then
    { x with logq := x.logq ++ [⟨i, true, false, false, false, k.kp, k.klen, k.key, t, t, rDurable r⟩] }
  else x

/-- The end of a record must wait: its DEL entry finds the queue full. -/
def delWaits (x : Slice) (i : Nat) (r : List Dword) : Bool := rShadowed r && replicates x && logFull x i

/-! ### Finding a key (R258, R264) -/

/-- Index of a key in the own stash. -/
def stashFind (x : Slice) (k : FKey) : Option Nat := (x.stash.find? fun e => decide (e.fkey = k)).map (·.idx)

/-- Bucket and slot of a key in the own or shadow buckets; a bucket with an error holds no match. -/
def bucketFind (x : Slice) (sh : Bool) (k : FKey) : Option (Nat × Nat × Bytes) :=
  let hs := flowHash x k
  let look := fun b => ((getBucket x sh b).1).bind fun bs => (slotOf bs k).map fun s => (b, s, bs)
  (look hs.1).orElse fun _ => look hs.2.1

/-- Index of a key in the own table. -/
def keyIndex (x : Slice) (k : FKey) : Option Nat :=
  match hotFind x k with
  | some h => some h.idx
  | none => (stashFind x k).orElse fun _ => (bucketFind x false k).map fun f => entRec f.2.2 f.2.1

/-- Buckets of a region in which some byte is not 0. -/
def listedBuckets (x : Slice) (sh : Bool) : List Nat :=
  let lo := region x kFLW (if sh then 0x138 else 0x130)
  x.dram.foldr (fun e acc =>
    if lo ≤ e.1 ∧ e.1 < lo + 2 ^ 30 then
      let b := (e.1 - lo) / 256
      if acc.head? = some b then acc else b :: acc
    else acc) []

/-- Key of an entry of a bucket that names a record. -/
def keyInBucket (bs : Bytes) (i : Nat) : Option FKey :=
  ((List.range 4).find? fun s => entValid bs s && decide (entRec bs s = i)).map (entKey bs)

/-- Key of a record of the own or shadow table. -/
def keyOfRecord (x : Slice) (sh : Bool) (i : Nat) : Option FKey :=
  let st := if sh then x.shStash else x.stash
  match (if sh then none else hotByIdx x i), st.find? (·.idx = i) with
  | some h, _ => some h.fkey
  | none, some e => some e.fkey
  | none, none =>
    let bufs := if sh then [] else x.inflight
    match bufs.findSome? fun e => keyInBucket e.2 i with
    | some k => some k
    | none => (listedBuckets x sh).findSome? fun b => ((getBucket x sh b).1).bind fun bs => keyInBucket bs i

/-! ### Kick paths (R263) -/

/-- A choice on the path: bucket and slot of the entry to move. -/
abbrev KickPos := Nat × Nat

/-- Whether a path still stands: each entry's ALT bucket is the bucket of the next. -/
def pathStands (x : Slice) (sh : Bool) : List KickPos → Nat → Bool
  | [], _ => true
  | (b, s) :: ps, free =>
    let next := match ps with
      | [] => free
      | p :: _ => p.1
    ((getBucket x sh b).1.any fun bs => entValid bs s && decide (entAlt bs s = next)) && pathStands x sh ps free

/-- Moves the entries of a path, the last first, into a free slot; gives back the slot that the first leaves. -/
def movePath (x : Slice) (sh : Bool) : List KickPos → Nat → Nat → Slice
  | [], _, _ => x
  | (b, s) :: ps, fb, fs =>
    -- the entries after this one move first and leave their slot
    let x := movePath x sh ps fb fs
    let tb := match ps with
      | [] => fb
      | p :: _ => p.1
    let ts := match ps with
      | [] => fs
      | p :: _ => p.2
    match (getBucket x sh b).1, (getBucket x sh tb).1 with
    | some bs, some ts' =>
      let e := entKey bs s
      let y := putBucket x sh tb (putEntry ts' ts (mkEntry e (entRec bs s) b))
      if sh then y else count y kFLW 0x1020 1
    | _, _ => x

/-- Buckets of a path and its free end. -/
def pathBuckets (ps : List KickPos) (fb : Nat) : List Nat := ps.map (·.1) ++ [fb]

end Sys2Proof.Machine
end

