-- ==== Sys2Proof/Machine/Flow.lean ====
section
/-! DEFINITION. The flow engine: lookups, trackers, fetches, inserts, resolutions, the shadow, remote fetches, the sweeper,
removals and software commands (R244 to R269, R276 to R281). -/

namespace Sys2Proof.Machine

/-! ### The twin link as the flow engine uses it -/

/-- Sends a message to the twin: a transfer not yet acknowledged (R149). A fenced TWN discards it and counts it (R100). -/
def sendTwin (x : Slice) (m : TwinMsg) : Slice :=
  if fenced x kTWN then discarded x kTWN 1
  else { x with unacked := x.unacked ++ [⟨x.nextXfer, 0, m⟩], nextXfer := x.nextXfer + 1 }

/-- Messages sent since a slice stood at `x`. -/
def sentSince (x y : Slice) : List TwinMsg := (y.unacked.filter fun t => decide (x.nextXfer ≤ t.seq)).map (·.msg)

/-- A command on a started slice that may send messages to its twin. -/
def onLink (sl : SliceId) (f : Slice → Slice) (s : State) : Res := onPair sl (fun x => (f x, sentSince x (f x))) s

/-- The shadow's state (R277, R278). -/
def shFollowing : Nat := 0
def shFrozen : Nat := 1
def shPromoting : Nat := 2
def shPromoted : Nat := 3

def shadState (x : Slice) : Nat := regFld x kFLW 0x160 31 30

def setShad (x : Slice) (st : Nat) : Slice := regPut x kFLW 0x160 31 30 st

/-- Keys missing from the own table are looked for in the shadow (R278, R486). -/
def migrates (x : Slice) : Bool :=
  decide (shadState x = shPromoted) || (regBit x kTWN 0x120 29 && decide (shadState x = shFollowing))

/-! ### The shadow (R276) -/

/-- The shadow buckets of a key have been read. -/
def shSearched (x : Slice) (k : FKey) : Slice :=
  let hs := flowHash x k
  (getBucket (getBucket x true hs.1).2 true hs.2.1).2

/-- Record index of a key in the shadow. -/
def shFind (x : Slice) (k : FKey) : Option Nat :=
  ((x.shStash.find? fun e => decide (e.fkey = k)).map (·.idx)).orElse fun _ =>
    (bucketFind x true k).map fun f => entRec f.2.2 f.2.1

def shRecord (x : Slice) (i : Nat) : Option (List Dword) := ((dramRead x (recordAddr x true i) 128 portTws).1).map bytesDwords

/-- A key's shadow record. -/
def shLookup (x : Slice) (k : FKey) : Option (Nat × List Dword) :=
  (shFind x k).bind fun i => (shRecord x i).map fun r => (i, r)

/-- Removes a key from the shadow buckets or stash, and clears its record. -/
def shRemove (x : Slice) (k : FKey) (i : Nat) : Slice :=
  let x := { shSearched x k with shStash := x.shStash.filter fun e => decide (e.fkey ≠ k) }
  let x := match bucketFind x true k with
    | some (b, s, bs) => putBucket x true b (clearEntry bs s)
    | none => x
  dramStore x portTws (recordAddr x true i) (List.replicate 128 0)

/-- The kick walk over the shadow buckets: the path and its free end. -/
def shKick (x : Slice) : Nat → List KickPos → Nat → Nat → Option (List KickPos × Nat × Nat)
  | 0, _, _, _ => none
  | n + 1, ps, b, s =>
    if (b, s) ∈ ps then none
    else
      let ps := ps ++ [(b, s)]
      match (getBucket x true b).1 with
      | none => none
      | some bs =>
        let alt := entAlt bs s
        match (getBucket x true alt).1 with
        | none => none
        | some as =>
          match freeSlot as with
          | some f => some (ps, alt, f)
          | none => shKick x n ps alt ((s + 1) % 4)

/-- Writes a key into a bucket slot. -/
def placeKey (x : Slice) (sh : Bool) (b s : Nat) (k : FKey) (i alt : Nat) : Slice :=
  match (getBucket x sh b).1 with
  | some bs => putBucket x sh b (putEntry bs s (mkEntry k i alt))
  | none => x

/-- Inserts a key in the shadow; `false` where it finds no room. -/
def shInsert (x : Slice) (k : FKey) (i : Nat) : Bool × Slice :=
  let hs := flowHash x k
  let x := shSearched x k
  match bucketFind x true k with
  | some (b, s, bs) => (true, putBucket x true b (putEntry bs s (mkEntry k i (entAlt bs s))))
  | none =>
    if x.shStash.any fun e => decide (e.fkey = k) then
      (true, { x with shStash := x.shStash.map fun e => if e.fkey = k then { e with idx := i } else e })
    else
      let free := fun b => ((getBucket x true b).1).bind freeSlot
      match free hs.1, free hs.2.1, shKick x 8 [] hs.1 (x.inserts % 4) with
      | some s, _, _ => (true, placeKey x true hs.1 s k i hs.2.1)
      | none, some s, _ => (true, placeKey x true hs.2.1 s k i hs.1)
      | none, none, some (ps, fb, fs) =>
        let x := movePath x true ps fb fs
        (true, placeKey x true hs.1 ((ps.head?.map (·.2)).getD 0) k i hs.2.1)
      | none, none, none =>
        if x.shStash.length < 1024 then (true, { x with shStash := x.shStash ++ [⟨k.kp, k.klen, k.key, i⟩] }) else (false, x)

/-! ### Dispatch and overflow (R257, R265) -/

/-- A packet with its record is handed to the Damask engines. -/
def readyPut (x : Slice) (p : Packet) (i : Nat) (prog : Nat) : Slice :=
  { x with ready := x.ready ++ [⟨p, some i, 0, prog⟩] }

/-- Dispatches the chain of a tracker on a record, and frees the tracker. -/
def completeRecord (x : Slice) (t : Tracker) (h : HotWay) : Slice :=
  dropTracker (t.chain.foldl (fun x p => readyPut x p h.idx (rProg h.rcd)) x) t

/-- A packet dispatched without a record: resolved once for itself, and counted (R265). -/
def readyStateless (x : Slice) (p : Packet) (kp : Nat) : Slice :=
  let r := resolvePacket x p kp false
  let x := count r.2 kFLW 0x1030 1
  { x with ready := x.ready ++ [⟨p, none, BitVec.ofNat 16 r.1.handle, actProg p.act⟩] }

/-- A packet dropped by the flow engine; its mirror copy is made (R203, R265). -/
def flowDrop (x : Slice) (p : Packet) : Slice := mirrorOnly (count x kFLW 0x1038 1) p

def ovfFlag (x : Slice) : Slice := flagRaise x kFLW 0x100 0 0

/-- The table is full: the profile's policy applies to every packet of the chain (R265). -/
def overflow (x : Slice) (t : Tracker) : Slice :=
  let x := t.chain.foldl (fun x p =>
    if fld (kpW x (isOld x p.epoch) t.kp 0) 30 29 = 0 then readyStateless x p t.kp else flowDrop x p) x
  dropTracker (ovfFlag x) t

/-! ### Fetch, install and insert (R258, R262, R263) -/

/-- Goes on once a record is resident: a stale one is resolved first (R221). -/
def afterInstall (x : Slice) (t : Tracker) : Slice :=
  match hotFind x t.fkey, t.chain with
  | some h, p :: _ =>
    if stale x p h.rcd then setTracker' x { t with stage := .resolving } else completeRecord x t h
  | _, _ => dropTracker x t

/-- Installs a record for a tracker, or leaves it waiting for a way. -/
def installFor (x : Slice) (t : Tracker) (i : Nat) (r : List Dword) (dirty again : Bool) : Slice :=
  match install x t.fkey i r dirty with
  | some x => afterInstall x t
  | none =>
    let x := if again || !setPinned x (flowHash x t.fkey).2.2 then x else count x kFLW 0x1048 1
    setTracker' x { t with stage := .wayWait i r dirty }

/-- A fetch starts: the stash is searched on die. -/
def startFetch (x : Slice) (t : Tracker) : Slice :=
  setTracker' x { t with op := .fetch, stage := match stashFind x t.fkey with
    | some i => .record i
    | none => .bucket1 }

/-- Runs a tracker's chain again as a FETCH, on the resident record where there is one (R268, R281). -/
def rerunFetch (x : Slice) (t : Tracker) : Slice :=
  if t.chain = [] then dropTracker x t
  else if (hotFind x t.fkey).isSome then afterInstall x { t with op := .fetch }
  else startFetch x t

/-- The record of an insert: what the twin returned, the shadow's on a migration, else a new one (R252, R262, R278). -/
def finishInsert (x : Slice) (t : Tracker) (i : Nat) : Slice :=
  let x := { x with recUsed := insNat x.recUsed i, inserts := x.inserts + 1, lostRecs := x.lostRecs.filter (· ≠ i) }
  let k := t.fkey
  match t.got, t.chain with
  | some (_, r), _ => installFor (storeRecord x i (remoteRecord r)) t i (remoteRecord r) false false
  | none, [] => dropTracker x t
  | none, p :: _ =>
    let x := count x kFLW 0x1010 1
    match if migrates x then shLookup x k else none with
    | some (si, r) =>
      let x := count (shRemove x k si) kFLW 0x1098 1
      -- the new own record has had no NEW entry sent
      let r := migratedRecord r
      installFor x t i (setNth r 0 (dset (rcdW r 0) 51 51 0)) true false
    | none =>
      let r := initRecord x p t.kp
      if kpMode x (isOld x p.epoch) t.kp = 0 then
        let f := resolvePacket x p t.kp false
        installFor f.2 t i (setNth r 1 (putF1 (rcdW r 1) f.1)) true false
      else installFor x t i r true false

/-- Index for an insert: the original one of a record that the twin returned, unless another key holds it by now, else the
first free one. -/
def insertIndex (x : Slice) (t : Tracker) : Option Nat :=
  let free := let i := gapFrom 0 x.recUsed; if i < 16777216 then some i else none
  match t.got with
  | some (i, _) =>
    if i ∈ x.recUsed ∧ (keyOfRecord x false i).any (fun k => decide (k ≠ t.fkey)) = true then free else some i
  | none => free

/-- Places a tracker's key in a bucket slot and finishes the insert, or waits for the bucket. -/
def placeFor (x : Slice) (t : Tracker) (b s alt : Nat) : Slice :=
  if bucketBusy x b then setTracker' x { t with stage := .insertWait }
  else match insertIndex x t with
    | none => overflow x t
    | some i => finishInsert (placeKey x false b s t.fkey i alt) t i

/-- The kick path is exhausted: the stash, else the overflow policy. -/
def stashFor (x : Slice) (t : Tracker) : Slice :=
  match insertIndex x t with
  | none => overflow x t
  | some i =>
    if x.stash.length < 4096 then
      finishInsert (count { x with stash := x.stash ++ [⟨t.kp, t.klen, t.key, i⟩] } kFLW 0x1028 1) t i
    else overflow { x with inserts := x.inserts + 1 } t

/-- Inserts a tracker's key (R262). A key that stands in a candidate bucket already is placed over itself. -/
def insertFor (x : Slice) (t : Tracker) : Slice :=
  let hs := flowHash x t.fkey
  match insertIndex x t with
  | none => overflow x t
  | some _ =>
    match bucketFind x false t.fkey with
    | some (b, s, _) => placeFor x t b s (if b = hs.1 then hs.2.1 else hs.1)
    | none =>
      match ((getBucket x false hs.1).1).bind freeSlot, ((getBucket x false hs.2.1).1).bind freeSlot with
      | some s, _ => placeFor x t hs.1 s hs.2.1
      | none, some s => placeFor x t hs.2.1 s hs.1
      | none, none =>
        if (getBucket x false hs.1).1.isNone then stashFor x t
        else setTracker' x { t with stage := .kick [] hs.1 (x.inserts % 4) }

/-- A remote fetch fails: counted, and the key is treated as absent (R280). -/
def remoteFailed (x : Slice) (t : Tracker) : Slice :=
  let x := { x with stash := x.stash.filter fun e => decide (e.fkey ≠ t.fkey) }
  insertFor (flagRaise (count x kFLW 0x10A8 1) kFLW 0x100 3 5) { t with got := none }

/-- Asks the twin for a key's shadow record (R258, R280). -/
def remoteFetch (x : Slice) (t : Tracker) (i : Option Nat) : Slice :=
  let x := count x kFLW 0x10A0 1
  if linkIsUp x && !x.twinLost then
    sendTwin (setTracker' x { t with stage := .remote i }) (.fetch t.id t.kp t.klen t.key i)
  else remoteFailed x t

/-- Logical pseudo-channel of an address. -/
def chanOf (a : Nat) : Nat := (blockLoc ((a - dramBase) / 256)).1

/-- A read that the twin answers in its place; DRC counts it while its range is being rebuilt or in HOLD (R406, R407). -/
def remoteRead (x : Slice) (t : Tracker) (i : Option Nat) (a : Nat) : Slice :=
  let moved := decide (pcmState x (chanOf a) = pcRebuild) || decide (chanOf a ∈ x.rebuilt)
  remoteFetch (if moved && linkIsUp x && !x.twinLost then count x kDRC 0x2020 1 else x) t i

/-- The candidate bucket that lies in a range rebuilt less than HOLD ago (R407). -/
def holdRange (x : Slice) (k : FKey) : Option Nat :=
  let hs := flowHash x k
  [hs.1, hs.2.1].find? fun b => decide (chanOf (bucketAddr x false b) ∈ x.rebuilt)

/-- The key is in neither own bucket nor the stash. -/
def keyMissing (x : Slice) (t : Tracker) : Slice :=
  let x := if migrates x then shSearched x t.fkey else x
  if shadState x = shPromoting then setTracker' x { t with stage := .promotion }
  else if migrates x && (shLookup x t.fkey).isSome then insertFor x t
  else match holdRange x t.fkey with
    | some b => remoteRead x t none (bucketAddr x false b)
    | none => insertFor x t

/-- Trackers that wait for a way try again. -/
def retryWays (x : Slice) : Slice :=
  x.trackers.foldl (fun x t =>
    match (trackerId x t.id) with
    | some u =>
      match u.stage with
      | .wayWait i r d => installFor x u i r d true
      | _ => x
    | none => x) x

/-- Trackers whose insert waits for a bucket try again. -/
def retryInserts (x : Slice) : Slice :=
  x.trackers.foldl (fun x t =>
    match (trackerId x t.id) with
    | some u => if u.stage = .insertWait then insertFor x u else x
    | none => x) x

/-- FLOW_FETCH_READ_DONE: a bucket or record read of a fetch returns (R258). -/
def fetchReadDone (x : Slice) (t : Tracker) (err : Bool) : Slice :=
  let hs := flowHash x t.fkey
  let look := fun (b : Nat) (second : Bool) =>
    let r := getBucket x false b
    match r.1, err with
    | some bs, false =>
      match slotOf bs t.fkey with
      | some s =>
        let y := if second then count r.2 kFLW 0x1018 1 else r.2
        setTracker' y { t with stage := .record (entRec bs s) }
      | none => if second then keyMissing r.2 t else setTracker' r.2 { t with stage := .bucket2 }
    | _, _ => remoteRead r.2 t none (bucketAddr x false b)
  match t.stage with
  | .bucket1 => look hs.1 false
  | .bucket2 => look hs.2.1 true
  | .record i =>
    match victimOf x i with
    | some r => installFor x t i r true false
    | none =>
      let r := readRecord x i
      match r.1, err with
      | some rcd, false => installFor r.2 t i rcd false false
      | _, _ => remoteRead r.2 t (some i) (recordAddr x false i)
  | _ => x

def execFlowFetchReadDone (sl : SliceId) (trk : Nat) (err : Bool) (s : State) : Res :=
  onLink sl (fun x =>
    if !x.alive || !serves x kFLW then x
    else match trackerId x trk with
    | none => x
    | some t => fetchReadDone x t err) s

/-- KICK_READ_DONE: the ALT bucket of the chosen entry has been read (R263). -/
def kickReadDone (x : Slice) (t : Tracker) (ps : List KickPos) (b s : Nat) : Slice :=
  let hs := flowHash x t.fkey
  match (getBucket x false b).1 with
  | none => stashFor x t
  | some bs =>
    let alt := entAlt bs s
    let ps' := ps ++ [(b, s)]
    let r := getBucket x false alt
    let x := r.2
    match r.1 with
    | none => stashFor x t
    | some as =>
      match freeSlot as with
      | some f =>
        if !pathStands x false ps' alt || ((pathBuckets ps' alt).any fun c => x.inflight.any fun e => e.1 = c)
            || decide (256 < x.inflight.length + ps'.length + 1) then setTracker' x { t with stage := .insertWait }
        else match insertIndex x t with
          | none => overflow x t
          | some i =>
            let x := movePath x false ps' alt f
            finishInsert (placeKey x false hs.1 ((ps'.head?.map (·.2)).getD 0) t.fkey i hs.2.1) t i
      | none =>
        let next : KickPos := (alt, (s + 1) % 4)
        if ps'.length = 8 ∨ next ∈ ps' then stashFor x t
        else setTracker' x { t with stage := .kick ps' next.1 next.2 }

def execKickReadDone (sl : SliceId) (trk : Nat) (s : State) : Res :=
  onAlive sl (fun x =>
    match trackerId x trk with
    | none => x
    | some t =>
      match t.stage with
      | .kick ps b sl' => kickReadDone x t ps b sl'
      | _ => x) s

/-- The write of a bucket that a stash entry went back to is acknowledged: its tracker ends, and packets of the key go on
(R264). -/
def movedBack (x : Slice) (b : Nat) : Slice :=
  x.trackers.foldl (fun x t =>
    match trackerId x t.id with
    | some u => if u.stage = .moving b then rerunFetch x u else x
    | none => x) x

/-- BUCKET_WRITE_ACK: the bucket reaches DRAM and leaves the in-flight table (R264). -/
def execBucketWriteAck (sl : SliceId) (bucket : Nat) (s : State) : Res :=
  onStarted sl (fun x =>
    match x.inflight.find? fun e => e.1 = bucket with
    | none => x
    | some e =>
      let x := dramStore { x with inflight := x.inflight.filter fun e => e.1 ≠ bucket } portFwb (bucketAddr x false bucket) e.2
      retryInserts (movedBack x bucket)) s

/-- VICTIM_WRITEBACK_DONE: the oldest victim entry of a record reaches DRAM (R255). -/
def execVictimWritebackDone (sl : SliceId) (rec' : Nat) (s : State) : Res :=
  onStarted sl (fun x =>
    match x.victim.find? fun v => v.1 = rec' with
    | none => x
    | some v => retryWays (storeRecord { x with victim := x.victim.erase v } rec' v.2)) s

/-! ### Lookups (R256, R257) -/

def chainTotal (x : Slice) : Nat := x.trackers.foldl (fun n t => n + t.chain.length) 0

def mqFull (x : Slice) : Slice := flagRaise x kFLW 0x100 1 1

/-- Room for a tracker and a descriptor. -/
def trkRoom (x : Slice) : Bool := decide (x.trackers.length < 4096) && decide (chainTotal x < 16384)

/-- A new tracker for a key. -/
def allocTracker (x : Slice) (k : FKey) (op : TrkOp) (st : TrkStage) (ps : List Packet) : Tracker × Slice :=
  let t : Tracker := ⟨x.nextTrk, k.kp, k.klen, k.key, op, st, ps, none⟩
  let x := { x with trackers := x.trackers ++ [t], nextTrk := x.nextTrk + 1 }
  (t, if trkRoom x then x else mqFull x)

/-- A hot set hit is dispatched. -/
def dispatchHit (x : Slice) (p : Packet) (h : HotWay) : Slice :=
  let x := perf (count x kFLW 0x1000 1) 6 0 0 1
  readyPut (plruUse x h.set h.way) p h.idx (rProg h.rcd)

/-- A packet enters the flow engine; none where it waits for a tracker or a descriptor. -/
def lookupPacket (x : Slice) (p : Packet) : Option Slice :=
  match buildKey x p with
  | none => some (ovfFlag (flowDrop x p))
  | some k =>
    match trackerOf x k with
    | some t =>
      if chainTotal x < 16384 then
        let x := setTracker' x { t with chain := t.chain ++ [p] }
        some (if trkRoom x then x else mqFull x)
      else none
    | none =>
      match hotFind x k with
      | some h =>
        if stale x p h.rcd then (if trkRoom x then some (allocTracker x k .resolve .resolving [p]).2 else none)
        else if rProv h.rcd && decide (kpMode x (isOld x p.epoch) k.kp ≠ 0) then
          -- without a token the packet goes on at once, and needs no tracker (R222)
          let r := provTake x
          if !r.1 then some (dispatchHit r.2 p h) else if trkRoom x then some (allocTracker r.2 k .resolve .resolving [p]).2 else none
        else some (dispatchHit x p h)
      | none =>
        if !trkRoom x then none
        else
          let a := allocTracker x k .fetch .bucket1 [p]
          some (startFetch (perf (count a.2 kFLW 0x1008 1) 7 0 0 1) a.1)

/-- FLOW_LOOKUP: the oldest classified packet of a pipeline. -/
def execFlowLookup (sl : SliceId) (pipe : Pipe) (s : State) : Res :=
  onAlive sl (fun x =>
    if !accepts x kFLW || threadsFull x pipe.val then x
    else match x.flowIn.find? fun p => p.pipe = pipe with
    | none => x
    | some p =>
      match lookupPacket x p with
      | none => mqFull x
      | some y => pump { y with flowIn := y.flowIn.filter (·.id ≠ p.id) }) s

/-! ### Resolution (R219, R221) -/

/-- RESOLVE: FWD resolves the record of a tracker and writes F1; the chain is then dispatched. -/
def execResolve (sl : SliceId) (trk : Nat) (err : Bool) (s : State) : Res :=
  onAlive sl (fun x =>
    if !serves x kFWD then x
    else match trackerId x trk with
    | none => x
    | some t =>
      match t.stage, hotFind x t.fkey, t.chain with
      | .resolving, some h, p :: _ =>
        let r := resolvePacket x p t.kp err
        let h := { h with rcd := setNth h.rcd 1 (putF1 (rcdW h.rcd 1) r.1), dirty := true }
        completeRecord (setHot r.2 h) t h
      | _, _, _ => x) s

/-! ### Remote fetches (R280) -/

/-- First message of a kind in the inbox, and the rest. -/
def takeMsg {α : Type} (f : TwinMsg → Option α) : List TwinMsg → Option (α × List TwinMsg)
  | [] => none
  | m :: ms =>
    match f m with
    | some a => some (a, ms)
    | none => (takeMsg f ms).map fun r => (r.1, m :: r.2)

def asFetch : TwinMsg → Option (Nat × FKey)
  | .fetch t kp klen key _ => some (t, ⟨kp, klen, key⟩)
  | _ => none

def asReply : TwinMsg → Option (Nat × Option (Nat × List Dword))
  | .fetchReply t r => some (t, r)
  | _ => none

/-- REMOTE_FETCH_REQUEST: the twin's request is answered from the shadow. -/
def execRemoteFetchRequest (sl : SliceId) (s : State) : Res :=
  onLink sl (fun x =>
    match takeMsg asFetch x.inbox with
    | none => x
    | some ((t, k), ms) => sendTwin { shSearched x k with inbox := ms } (.fetchReply t (shLookup x k))) s

/-- A reply for a tracker: the record is installed at its index, or the key treated as absent. -/
def remoteReply (x : Slice) (t : Tracker) (r : Option (Nat × List Dword)) : Slice :=
  match t.stage, r with
  | .remote _, none => remoteFailed x t
  | .remote (some i), some (_, rcd) =>
    let rcd := remoteRecord rcd
    installFor (storeRecord x i rcd) t i rcd false false
  | .remote none, some g => insertFor x { t with got := some g }
  | _, _ => x

def execRemoteFetchReply (sl : SliceId) (s : State) : Res :=
  onStarted sl (fun x =>
    match takeMsg asReply x.inbox with
    | none => x
    | some ((n, r), ms) =>
      let x := { x with inbox := ms }
      match trackerId x n with
      | none => x
      | some t => remoteReply x t r) s

/-- REMOTE_FETCH_TIMEOUT: 12 µs have passed without a reply. -/
def execRemoteFetchTimeout (sl : SliceId) (trk : Nat) (s : State) : Res :=
  onStarted sl (fun x =>
    match trackerId x trk with
    | none => x
    | some t => remoteReply x t none) s

/-- The link went down, or the twin is lost: every remote fetch fails. -/
def failRemotes (x : Slice) : Slice :=
  x.trackers.foldl (fun x t => match trackerId x t.id with
    | some u => remoteReply x u none
    | none => x) x

/-! ### Promotion (R278, R480) -/

def hasLog (ms : List TwinMsg) : Bool := ms.any fun m => match m with
  | .log _ => true
  | _ => false

/-- PROMOTION_COMPLETE: every log entry received has been applied; waiting trackers go on. -/
def execPromotionComplete (sl : SliceId) (s : State) : Res :=
  onLink sl (fun x =>
    if shadState x ≠ shPromoting ∨ hasLog x.inbox then x
    else
      let x := raise (setShad x shPromoted) kFLW 4
      x.trackers.foldl (fun x t => match trackerId x t.id with
        | some u => if u.stage = .promotion then keyMissing x u else x
        | none => x) x) s

/-! ### Ageing and removal (R267 to R269) -/

/-- Nanoseconds from an F3 time to now on the flow engine's base; 0 for a time ahead of now. -/
def idleNs (x : Slice) (f3 : Dword) : Nat :=
  let n := stampNow x (flowTb x)
  let now := n.sec % 2 ^ 32 * 1000000000 + n.ns
  let then' := dbits f3 63 32 * 1000000000 + dbits f3 31 0
  let m := 2 ^ 32 * 1000000000
  let d := (now + m - then' % m) % m
  if 2 * d < m then d else 0

/-- Idle time-out selected by a record in ns; 0 for none. -/
def timeoutNs (x : Slice) (kp tsel : Nat) : Nat :=
  let w := tabGet x tKeyProf kp (2 + tsel / 2)
  let v := if tsel % 2 = 0 then fld w 31 16 else fld w 15 0
  v * (if wbit (tabGet x tKeyProf kp 4) 31 then 1000000000 else 1000000)

/-- The selected time-out has run out. -/
def idleOut (x : Slice) (r : List Dword) : Bool :=
  let t := timeoutNs x (rKp r) (rTsel r)
  decide (t ≠ 0) && decide (t ≤ idleNs x (rcdW r 3))

/-- A key's bucket write would have to wait. -/
def removeBusy (x : Slice) (k : FKey) : Bool :=
  (stashFind x k).isNone && (bucketFind x false k).any fun f => bucketBusy x f.1

/-- Removes a flow: its entry, its record, its index; exports it and tells the twin (R268). -/
def removeFlow (x : Slice) (k : FKey) (i : Nat) (r : List Dword) (kind : Nat) : Slice :=
  let x :=
    if (stashFind x k).isSome then { x with stash := x.stash.filter fun e => decide (e.fkey ≠ k) }
    else match bucketFind x false k with
      | some (b, s, bs) => putBucket x false b (clearEntry bs s)
      | none => x
  let x := { x with hot := x.hot.filter fun h => h.idx ≠ i, victim := x.victim.filter fun v => v.1 ≠ i,
                    recUsed := x.recUsed.filter (· ≠ i) }
  let x := if wbit (tabGet x tKeyProf k.kp 4) 30 then exportFlow x k i r kind else x
  logDelete x k i r (stampF3 (stampNow x (flowTb x)))

/-- KIND of an idle removal. -/
def idleKind (r : List Dword) : Nat := if rState r = 2 then exClosed else exIdle

/-- Steps 1 and 2 of a visit: the stale mark and the periodic export (R267). -/
def visitRecord (x : Slice) (k : Option FKey) (i : Nat) (r : List Dword) : List Dword × Bool × Slice :=
  let r1 := if rRepoch r = repochCur x then r else setNth r 1 (dset (rcdW r 1) 47 32 0xFFFF)
  let ei := fld (tabGet x tKeyProf (rKp r) 4) 15 0
  let now := (stampNow x (flowTb x)).sec % 65536
  match k with
  | some k =>
    if ei ≠ 0 ∧ ei ≤ (now + 65536 - rLastExp r) % 65536 then
      (setNth r1 0 (dset (rcdW r1 0) 47 32 now), true, exportFlow x k i r1 exPeriodic)
    else (r1, decide (r1 ≠ r), x)
  | none => (r1, decide (r1 ≠ r), x)

/-- A visit of an own record. -/
def visitOwn (x : Slice) (i : Nat) : Slice :=
  let k := keyOfRecord x false i
  let busy := inUse x i || (k.any fun k => (trackerOf x k).isSome)
    || x.trackers.any fun t => match t.stage with
        | .record j => decide (j = i)
        | .wayWait j _ _ => decide (j = i)
        | .remote j => decide (j = some i)
        | _ => false
  if i ∉ x.recUsed ∨ busy then x
  else match authRecord x i with
    | (none, x) => x
    | (some r, x) =>
      let v := visitRecord x k i r
      let x := if v.2.1 then putRecord v.2.2 i v.1 else v.2.2
      if !idleOut x v.1 then x
      else match k with
        | some k => if trkRoom x then (allocTracker x k .remove .recheck []).2 else x
        | none =>
          -- its bucket entry was lost with a pseudo-channel (R407)
          count { x with recUsed := x.recUsed.filter (· ≠ i), victim := x.victim.filter fun v => v.1 ≠ i,
                         logged := x.logged.filter (· ≠ i) } kFLW 0x1050 1

/-- A visit of a record of a promoted shadow (R267, R278). -/
def visitShadow (x : Slice) (i : Nat) : Slice :=
  if shadState x ≠ shPromoted then x
  else match shRecord x i, keyOfRecord x true i with
    | some r, some k =>
      let v := visitRecord x (some k) i r
      let x := if v.2.1 then dramStore v.2.2 portFwb (recordAddr x true i) (recordBytes v.1) else v.2.2
      if !idleOut x v.1 then x
      else
        let x := count (shRemove x k i) kFLW 0x1050 1
        if wbit (tabGet x tKeyProf k.kp 4) 30 then exportFlow x k i v.1 (idleKind v.1) else x
    | _, _ => x

/-- Moves the first stash entry that has room in a candidate bucket, unless its key has a tracker, under a SOFT tracker that
lasts until the bucket's write is acknowledged (R264). -/
def stashBack (x : Slice) : Slice :=
  let room := fun (e : KeyRec) =>
    let hs := flowHash x e.fkey
    let free := fun b => if bucketBusy x b then none else ((getBucket x false b).1).bind freeSlot
    if (trackerOf x e.fkey).isSome then none
    else match free hs.1, free hs.2.1 with
      | some s, _ => some (hs.1, s, hs.2.1)
      | none, some s => some (hs.2.1, s, hs.1)
      | none, none => none
  match x.stash.findSome? fun e => (room e).map fun r => (e, r) with
  | none => x
  | some (e, b, s, alt) =>
    if !trkRoom x then x
    else placeKey { (allocTracker x e.fkey .soft (.moving b) []).2 with stash := x.stash.erase e } false b s e.fkey e.idx alt

/-- FLOW_SWEEP_VISIT: the visit of the last record ends the pass. -/
def execFlowSweepVisit (sl : SliceId) (rec' : BitVec 24) (s : State) : Res :=
  onStarted sl (fun x =>
    if !regBit x kFLW 0x120 31 || !seqRuns x qSWP then x
    else
      let y := retryWays (visitShadow (visitOwn (stashBack x) rec'.toNat) rec'.toNat)
      if rec'.toNat = 2 ^ 24 - 1 then passEnd y rtFlow else y) s

/-- FLOW_REMOVE: under its REMOVE tracker the time-out is tested again. -/
def execFlowRemove (sl : SliceId) (trk : Nat) (s : State) : Res :=
  onStarted sl (fun x =>
    match trackerId x trk with
    | none => x
    | some t =>
      if t.op ≠ .remove ∨ t.stage ≠ .recheck then x
      else match keyIndex x t.fkey with
        | none => rerunFetch x t
        | some i =>
          match authRecord x i with
          | (none, x) => rerunFetch x t
          | (some r, x) =>
            if !idleOut x r || inUse x i then rerunFetch x t
            else if removeBusy x t.fkey || delWaits x i r then x
            else retryWays (rerunFetch (count (removeFlow x t.fkey i r (idleKind r)) kFLW 0x1050 1) t)) s

/-! ### Software commands (R281) -/

/-- Key of FLW_SKEY and FLW_SCMD. -/
def softKey (x : Slice) (v : Word) : FKey :=
  ⟨fld v 13 8, fld v 5 0 + 1, wordsBytes ((List.range 12).map fun i => regGet x kFLW (0x200 + 4 * i))⟩

/-- A write of FLW_SCMD: GO starts a command under a SOFT tracker. -/
def softCmd (x : Slice) (v : Word) : Slice :=
  if regBit x kFLW 0x230 31 then x
  else
    let op := fld v 17 16
    let go := wbit v 31 && (decide (op = 1) || decide (op = 2))
    let x := regSet x kFLW 0x230 (w32 (v.toNat &&& 0x00033F3F + (if go then 2 ^ 31 else 0)))
    if !go then x
    else
      let k := softKey x v
      let x := { x with soft := some (decide (op = 2), ⟨k.kp, k.klen, k.key, 0⟩) }
      if (trackerOf x k).isNone && trkRoom x then (allocTracker x k .soft .ready []).2 else x

/-- LOOKUP: a write of FLW_SCMD with GO and OP 0b01. -/
def execLookup (sl : SliceId) (v : Word) (s : State) : Res :=
  onStarted sl (fun x => if wbit v 31 && decide (fld v 17 16 = 1) then written (softCmd x v) kFLW 0x230 else x) s

/-- DELETE: a write of FLW_SCMD with GO and OP 0b10. -/
def execDelete (sl : SliceId) (v : Word) (s : State) : Res :=
  onStarted sl (fun x => if wbit v 31 && decide (fld v 17 16 = 2) then written (softCmd x v) kFLW 0x230 else x) s

/-- The command ends: FLW_SRES, GO and cause 7; packets of the key go on. The index of a key not found is not stated. -/
def softEnd (x : Slice) (k : FKey) (i : Option Nat) : Slice :=
  let x := match i with
    | some i => regSet x kFLW 0x234 (w32 (2 ^ 31 + i))
    | none => let f := freeW x; regSet f.2 kFLW 0x234 (w32 (f.1.toNat % 2 ^ 24))
  let x := raise (clrRegBit { x with soft := none } kFLW 0x230 31) kFLW 7
  match trackerOf x k with
  | some t => if t.op = .soft then rerunFetch x t else x
  | none => x

/-- A command runs under its SOFT tracker: of no effect while packets of the flow still run for a DELETE. -/
def softRun (x : Slice) (del : Bool) (k : FKey) : Slice :=
  match keyIndex x k with
  | none => softEnd x k none
  | some i =>
    match authRecord x i with
    | (none, x) => softEnd x k none
    | (some r, x) =>
      if del then
        if inUse x i || removeBusy x k || delWaits x i r then x
        else retryWays (softEnd (removeFlow x k i r exRemoved) k (some i))
      else
        let x := (List.range 32).foldl (fun x j =>
          regSet x kFLW (0x300 + 4 * j) (w32 (dbits (rcdW r (j / 2)) (if j % 2 = 0 then 63 else 31) (if j % 2 = 0 then 32 else 0)))) x
        softEnd x k (some i)

/-- SOFT_COMMAND_DONE: the command takes its tracker where it has none yet, and waits while another operation holds the key or
no tracker is free. -/
def softDone (x : Slice) : Slice :=
  match x.soft with
  | none => x
  | some (del, e) =>
    match trackerOf x e.fkey with
    | some t => if t.op = .soft ∧ t.stage = .ready then softRun x del e.fkey else x
    | none => if trkRoom x then softRun (allocTracker x e.fkey .soft .ready []).2 del e.fkey else x

def execSoftCommandDone (sl : SliceId) (s : State) : Res := onStarted sl softDone s

end Sys2Proof.Machine
end

