-- ==== Sys2Proof/Machine/Srg.lean ====
section
/-! DEFINITION. Serge: frame search, frames sent, overhead received, deskew, member handshakes, groups, protection pairs and
the message channel (R154 to R186). -/

namespace Sys2Proof.Machine

/-! Member codes (R159) and alignment states of SRG_MSTm. -/
def mcVoid : Nat := 0
def mcHold : Nat := 1
def mcJoin : Nat := 2
def mcCarry : Nat := 3
def mcTail : Nat := 4
def mcRest : Nat := 5

def alNoBlock : Nat := 0
def alHunt : Nat := 1
def alTrack : Nat := 2
def alLocked : Nat := 3
def alMissing : Nat := 4

def mstOff (l : Nat) : Nat := 0x2000 + 4 * l
def midOff (l : Nat) : Nat := 0x2040 + 4 * l
def protOff (n : Nat) : Nat := 0x1800 + 4 * n

def alignOf (x : Slice) (l : Nat) : Nat := regFld x kSRG (mstOff l) 31 29
def txCode (x : Slice) (l : Nat) : Nat := regFld x kSRG (mstOff l) 23 20
def rxCode (x : Slice) (l : Nat) : Nat := regFld x kSRG (mstOff l) 27 24
def rxSeq (x : Slice) (l : Nat) : Nat := regFld x kSRG (mstOff l) 19 16
def setTxCode (x : Slice) (l c : Nat) : Slice := regPut x kSRG (mstOff l) 23 20 c

/-- Aligned: LOCKED or MISSING. -/
def aligned (x : Slice) (l : Nat) : Bool := decide (alLocked ≤ alignOf x l)

/-! ### Members and groups -/

def Member.blank (l : Lane) : Member :=
  { lane := l, cands := [], fixed := 0, miss := 0, lastValid := false, prevOh := none, rxFrame := 0, rxLast := 0, seq := none,
    codeRun := 0, rxAck := 0, rlost := 0, ack := 0, ackSeen := false, lost := false, dropped := false, recS := 0, recP := 0,
    farS := none, farP := none, retRdsk := false, retRgid := false, rxGmc := [], gmcRx := [], gmcTx := [], txIdx := 255,
    txOh := [], txLast := 0, sent := none }

/-- A member that has left its group, or whose group comes up anew. -/
def Member.alone (m : Member) : Member :=
  { m with seq := none, ackSeen := false, lost := false, dropped := false, retRdsk := false, retRgid := false }

def serMember (x : Slice) (l : Lane) : Option Member := x.members.find? (·.lane = l)

def setMember (x : Slice) (m : Member) : Slice :=
  { x with members := x.members.map fun k => if k.lane = m.lane then m else k }

/-- The group that a lane belongs to. -/
def groupOfLane (x : Slice) (l : Nat) : Option Group := x.groups.find? fun g => g.seqs.any fun s => s.1 = l

def txSeq (g : Group) (l : Nat) : Nat := ((g.seqs.find? fun s => s.1 = l).map (·.2)).getD 0

/-- Members of a group. -/
def groupLanes (g : Group) : List Nat := g.seqs.map (·.1)

/-- Changes the member of a lane. -/
def modMember (x : Slice) (l : Nat) (f : Member → Member) : Slice :=
  { x with members := x.members.map fun m => if m.lane.val = l then f m else m }

/-- Members of a group whose blocks the receiver uses: aligned, of its GID, within the deskew limit and not lost (R166,
R170, R176). -/
def usable (x : Slice) (g : Group) : List Member :=
  x.members.filter fun m => decide (m.lane.val ∈ groupLanes g) && aligned x m.lane.val && !m.retRgid && !m.retRdsk && !m.lost
    && m.seq.isSome

/-- Lanes of a transmit map. -/
def txLanes (g : Group) : Nat :=
  g.seqs.foldl (fun a s => if bit g.txMap.toNat s.2 then a + 2 ^ s.1 else a) 0

/-- Members that carry in the receive map: they are identified by the sequence they receive. -/
def rxCarrying (x : Slice) (g : Group) : List Member := (usable x g).filter fun m => bit g.rxMap.toNat (m.seq.getD 16)

/-- Lanes of a receive map. -/
def rxLanes (x : Slice) (g : Group) : Nat := (rxCarrying x g).foldl (fun a m => a + 2 ^ m.lane.val) 0

/-- SRG_GSTn after a change of a map; cause 1 when it differs. -/
def showMaps (x : Slice) (g : Group) : Slice :=
  let x := setGroup x g
  let v := w32 (rxLanes x g * 65536 + txLanes g)
  if regGet x kSRG (0x100C + 16 * g.lane.val) = v then x
  else
    let was := txMapOf x g.lane.val
    let x := raise (regSet x kSRG (0x100C + 16 * g.lane.val) v) kSRG 1
    if was ≠ 0 ∧ txLanes g = 0 then portDown x g.lane.val else x

/-! ### Protection pairs (R181 to R185) -/

/-- 1 working, 2 protect, 0 none. -/
def protRole (x : Slice) (n : Nat) : Nat := fld (srgCfg x n) 30 29

def selOn (x : Slice) (n : Nat) : Bool := regBit x kSRG (protOff n) 23

/-- Changes SEL: cause 4. -/
def setSel (x : Slice) (n : Nat) (b : Bool) : Slice :=
  if selOn x n = b then x else raise (regPut x kSRG (protOff n) 23 23 b.toNat) kSRG 4

def rqNone : BitVec 4 := 0
def rqSf : BitVec 4 := 3
def rqSfp : BitVec 4 := 5
def rqTl : BitVec 4 := 8

/-- A protect group takes over with a request. -/
def protTake (x : Slice) (g : Group) (rq : BitVec 4) : Slice := setSel (setGroup x { g with protTx := rq }) g.lane.val true

/-- The twin is lost: every protect group selects with request TL (R184). -/
def protTwinLost (x : Slice) : Slice :=
  x.groups.foldl (fun x g => if protRole x g.lane.val = 2 then
    match groupOf x g.lane with
    | some g => protTake x g rqTl
    | none => x else x) x

/-- A group enters signal fail (R181, R184). -/
def enterSf (x : Slice) (g : Group) : Slice :=
  let g := { g with sf := true }
  match protRole x g.lane.val with
  | 1 =>
    let x := setSel (setGroup x { g with protTx := rqSf }) g.lane.val false
    if linkIsUp x then sendTwin x (.sf g.lane (BitVec.ofNat 16 g.gid)) else x
  | 2 => setGroup x { g with protTx := if g.protTx = rqNone then rqSfp else g.protTx }
  | _ => setGroup x g

/-- Request of a group that leaves signal fail: none in place of the one it made for it. -/
def sfEnded (x : Slice) (g : Group) : BitVec 4 :=
  let own := match protRole x g.lane.val with
    | 1 => rqSf
    | 2 => rqSfp
    | _ => rqNone
  if g.protTx = own then rqNone else g.protTx

/-- Judges signal fail: fewer members carry in the receive direction than MINMEM. A member that the sender treats as lost
in both directions does not count (R177, R181). -/
def judgeSf (x : Slice) (n : Lane) : Slice :=
  match groupOf x n with
  | none => x
  | some g =>
    let carrying := ((rxCarrying x g).filter fun m => !m.dropped).length
    let fail := decide (carrying < fld (srgCfg x n.val) 28 24)
    if fail && !g.sf then enterSf x g
    else if !fail && g.sf then setGroup x { g with sf := false, protTx := sfEnded x g } else x

def asSf : TwinMsg → Option (Nat)
  | .sf _ gid => some gid.toNat
  | _ => none

/-- PROT_SF_RECEIVE: the protect group of the same GID selects, with request SF. -/
def execProtSfReceive (sl : SliceId) (s : State) : Res :=
  onStarted sl (fun x =>
    match takeMsg asSf x.inbox with
    | none => x
    | some (gid, ms) =>
      let x := { x with inbox := ms }
      match x.groups.find? fun g => decide (g.gid = gid) && decide (protRole x g.lane.val = 2) with
      | some g => protTake x g rqSf
      | none => x) s

/-- Whether a write of SRG_PROTn selects: SELECT to a working group while the twin is not lost. -/
def selects (x : Slice) (n : Lane) (v : Word) : Bool :=
  decide (fld v 1 0 = 1) && decide (protRole x n.val = 1) && !x.twinLost

/-- The working group selects again. -/
def selectWorking (x : Slice) (n : Lane) : Slice :=
  match groupOf x n with
  | some g => setSel (setGroup x { g with protTx := rqNone }) n.val true
  | none => setSel x n.val true

/-- The protect group of a GID hands selection back. -/
def selectNotice (x : Slice) (gid : Nat) : Slice :=
  match x.groups.find? fun g => decide (g.gid = gid) && decide (protRole x g.lane.val = 2) with
  | some g => setSel (setGroup x { g with protTx := rqNone }) g.lane.val false
  | none => x

/-- SELECT: a write to SRG_PROTn; the notice reaches the twin while the link is up (R185). -/
def selectWrite (s : State) (sl : SliceId) (grp : Lane) (v : Word) : State :=
  let x := s.slice sl
  if !selects x grp v then s
  else
    let s' := s.setSlice sl (selectWorking x grp)
    if linkIsUp x then s'.setSlice (twin sl) (selectNotice (s'.slice (twin sl)) (fld (srgCfg x grp.val) 15 0)) else s'

def execSelect (sl : SliceId) (grp : Lane) (v : Word) (s : State) : Res :=
  if (s.slice sl).on then
    let s' := selectWrite s sl grp v
    .next (s'.setSlice sl { s'.slice sl with bus := .done })
  else .next s

/-! ### Losses (R176, R178) -/

/-- What a group's deskew store and reassembly hold is discarded; each Ethernet frame in it is counted as lost. -/
def Group.discard (g : Group) : Group :=
  let n := (g.rxq.flatMap (·.parts)).foldl (fun n p => n + ((p.pay.map starts).getD 0)) 0
  { g with rxq := [], rxCur := none, lostFrames := g.lostFrames + n + (if g.rxCur.isSome then 1 else 0) }

/-- A member is declared lost: RLOST on every member, cause 3, and the deskew store is discarded. -/
def declareLost (x : Slice) (l : Lane) : Slice :=
  match serMember x l, groupOfLane x l.val with
  | some m, some g =>
    if m.lost then x
    else
      let b := BitVec.ofNat 16 ((m.seq.map fun s => 2 ^ s).getD 0)
      let g := g.discard
      let x := setGroup (setMember x { m with lost := true }) { g with rlostOut := g.rlostOut ||| b, rxBar := g.rxBar ||| b }
      judgeSf (raise x kSRG 3) g.lane
  | _, _ => x

/-- Changes a lane's alignment state: cause 0. -/
def setAlign (x : Slice) (l : Lane) (st : Nat) : Slice :=
  if alignOf x l.val = st then x
  else
    let x := raise (regPut x kSRG (mstOff l.val) 31 29 st) kSRG 0
    setLaneUp x l.val (decide (alLocked ≤ st))

/-- Loss of alignment (R163, R176): nothing received before it counts for the overhead that follows. -/
def lossOfAlignment (x : Slice) (l : Lane) : Slice :=
  declareLost (modMember x l.val fun m =>
    { m with lastValid := false, prevOh := none, codeRun := 0, rxAck := 0, rlost := 0, retRdsk := false, retRgid := false,
             rxGmc := [], gmcRx := [] }) l

/-- A lane falls to NO_BLOCK. -/
def blockLost (x : Slice) (l : Lane) : Slice :=
  let was := aligned x l.val
  let x := setAlign x l alNoBlock
  if was then lossOfAlignment x l else x

/-- SERGE_BLOCK_LOCK (R163). A lane in a loopback gains none (R148). -/
def execSergeBlockLock (sl : SliceId) (lane : Lane) (gained : Bool) (s : State) : Res :=
  onLink sl (fun x =>
    match serMember x lane with
    | none => x
    | some m =>
      if !gained then blockLost x lane
      else if alignOf x lane.val = alNoBlock ∧ !looped x lane.val then setAlign (setMember x { m with cands := [] }) lane alHunt
      else x) s

/-- LOSS_OF_SIGNAL (R163). -/
def execLossOfSignal (sl : SliceId) (lane : Lane) (s : State) : Res :=
  onLink sl (fun x => if (serMember x lane).isSome then blockLost x lane else x) s

/-- FAP_SIGHTING: a pattern off every expected position (R163, R164). One whose CRC proves incorrect is dropped again. -/
def execFapSighting (sl : SliceId) (lane : Lane) (pos : BitVec 14) (crcOk : Bool) (s : State) : Res :=
  onStarted sl (fun x =>
    match serMember x lane with
    | none => x
    | some m =>
      if (alignOf x lane.val ≠ alHunt ∧ alignOf x lane.val ≠ alTrack) ∨ (m.cands.any fun c => c.pos = pos.toNat) then x
      else if 8 ≤ m.cands.length then satFld x kSRG (midOff lane.val) 19 16 1
      else
        let y := setAlign (setMember x { m with cands := m.cands ++ [⟨pos.toNat, 1⟩] }) lane alTrack
        if crcOk then y else setAlign (setMember y m) lane (if m.cands = [] then alHunt else alTrack)) s

/-! ### Requests (R173) -/

/-- Moves the members of a group as its target asks, while SOH runs (R446). -/
def applyTarget (x : Slice) (n : Lane) : Slice :=
  match groupOf x n with
  | none => x
  | some g =>
    let tgt := regFld x kSRG (0x1008 + 16 * n.val) 15 0
    if !seqRuns x qSOH then x
    else g.seqs.foldl (fun x s =>
      let c := txCode x s.1
      let want := bit tgt s.1
      let c' :=
        if want then (if c = mcHold ∨ c = mcRest then mcJoin else if c = mcTail then mcCarry else c)
        else (if c = mcJoin then mcHold else if c = mcCarry then mcTail else c)
      if c' = c then x else modMember (setTxCode x s.1 c') s.1 fun m => { m with ackSeen := false }) x

def targetWrite (x : Slice) (n : Lane) (v : Word) : Slice :=
  applyTarget (regSet x kSRG (0x1008 + 16 * n.val) (w32 (fld v 15 0))) n

/-- TARGET_WRITE: a write of SRG_GTGTn. -/
def execTargetWrite (sl : SliceId) (grp : Lane) (v : Word) (s : State) : Res :=
  onStarted sl (fun x => written (targetWrite x grp v) kSRG (0x1008 + 16 * grp.val)) s

/-! ### Overhead (R157 to R162, R171) -/

def fapPattern : Nat := 0xF62828F62828

/-- CRC-16 over overhead but for its own field (R161). -/
def ohCrc (a b c d : Dword) : Nat :=
  crc16Run 0xFFFF (dwordBytes a ++ dwordBytes b ++ dwordBytes c ++ (dwordBytes d).take 6)

/-- The overhead's FAP and CRC (R161). -/
def ohCrcOk (o : Overhead) : Bool := decide (ohCrc o.oh0 o.oh1 o.oh2 o.oh3 = dbits o.oh3 15 0)

def ohFap (o : Overhead) : Bool := o.fap && decide (dbits o.oh0 63 16 = fapPattern)

def ohValid (o : Overhead) : Bool := ohFap o && ohCrcOk o

/-- Adds to a raw count of a lane (R172). -/
def addRaw (x : Slice) (l i n : Nat) : Slice :=
  if n = 0 then x else { x with serRaw := sPut 0 x.serRaw (8 * l + i) (sGet 0 x.serRaw (8 * l + i) + n) }

/-- Difference of two running counts. -/
def countDiff (new : Nat) (old : Option (BitVec 16)) : Nat :=
  match old with
  | some o => (new + 65536 - o.toNat) % 65536
  | none => 0

/-- Bits of SBP and PBP that differ from this end's parities over the previous frame; none where its overhead was invalid
(R162). -/
def parityErrors (m : Member) (o : Overhead) : Nat × Nat :=
  match m.prevOh with
  | none => (0, 0)
  | some oh => (popCount (dbits o.oh2 63 56 ^^^ sectionParity oh o.payload) 8, popCount (dbits o.oh2 55 48 ^^^ pathParity o.payload) 8)

/-- OH2: parity errors found here and counts from the far end. -/
def takeOh2 (x : Slice) (m : Member) (o : Overhead) : Slice :=
  let e := parityErrors m o
  let rs := dbits o.oh2 47 32
  let rp := dbits o.oh2 31 16
  let l := m.lane.val
  let x := addRaw (addRaw (addRaw (addRaw x l 0 e.1) l 1 e.2) l 2 (countDiff rs m.farS)) l 3 (countDiff rp m.farP)
  setMember x { m with recS := m.recS + BitVec.ofNat 16 e.1, recP := m.recP + BitVec.ofNat 16 e.2,
                       farS := some (BitVec.ofNat 16 rs), farP := some (BitVec.ofNat 16 rp) }

/-- A reserved member code acts as HOLD. -/
def codeSense (c : Nat) : Nat := if c ≤ mcRest then c else mcHold

/-- The channel from its next start byte on (R186). -/
def gmcTrim (bs : Bytes) : Bytes := bs.dropWhile (· ≠ 0xA6)

/-- CRC of a message, over its length byte and body. -/
def gmcCrc (bs : Bytes) : Nat := crc32cRun 0xFFFFFFFF bs ^^^ 0xFFFFFFFF

/-- Four bytes of the channel arrive. -/
def takeGmc (m : Member) (bs : Bytes) : Member := { m with rxGmc := bs, gmcRx := gmcTrim (m.gmcRx ++ bs) }

/-- Whether the far end reports a transmit sequence lost in the last valid overhead of an aligned member of the group. -/
def farLost (x : Slice) (g : Group) (seq : Nat) : Bool :=
  x.members.any fun m => decide (m.lane.val ∈ groupLanes g) && aligned x m.lane.val && !m.retRgid && bit m.rlost.toNat seq

/-- RLOST of SRG_MSTm for every member of a group. -/
def showRlost (x : Slice) (g : Group) : Slice :=
  g.seqs.foldl (fun x s => regPut x kSRG (mstOff s.1) 28 28 (farLost x g s.2).toNat) x

/-- Members dropped after a failure return to HOLD once LOCKED and named by no RLOST bit, SOH running (R177). -/
def returnMembers (x : Slice) (g : Group) : Slice :=
  if !seqRuns x qSOH then x
  else g.seqs.foldl (fun x s =>
    match x.members.find? fun m => m.lane.val = s.1 with
    | some m =>
      if m.dropped && !m.lost && decide (alignOf x s.1 = alLocked) && !farLost x g s.2 then
        setTxCode (setMember x { m with dropped := false, ackSeen := false }) s.1 mcHold
      else x
    | none => x) x

/-! ### Deskew and reassembly (R167 to R170) -/

/-- Clocks after which a multiframe index stands for another frame: 128 frames at the highest rate. -/
def idxClocks : Nat := 1073741

/-- Notes the arrival of a multiframe index, and answers the arrivals in force. -/
def noteSeen (seen : List (Nat × Nat)) (idx clk : Nat) : List (Nat × Nat) :=
  let s := seen.filter fun e => clk < e.2 + idxClocks
  if s.any fun e => e.1 = idx then s else s ++ [(idx, clk)]

/-- Delay in ns behind the earliest member at a multiframe index. -/
def skewOf (seen : List (Nat × Nat)) (idx clk : Nat) : Nat :=
  ((seen.find? fun e => e.1 = idx).map fun e => (clk - e.2) * 5 / 4).getD 0

/-- Units of time of a block at a member rate (R154). -/
def blockUnits (rate : Nat) : Nat := nsUnits * 64000 / rate

/-- A member's payload since its last overhead joins the deskew store. -/
def fillPayload (x : Slice) (l : Lane) (ls : List Line) : Slice :=
  match serMember x l with
  | none => x
  | some m =>
    let pay := descramble m.rxLast ls
    let x := setMember x { m with rxLast := lastWord m.rxLast ls }
    match groupOfLane x l.val with
    | none => x
    | some g =>
      let put := fun (p : RxPart) => if p.lane = l ∧ p.pay = none then { p with pay := some pay } else p
      setGroup x { g with rxq := g.rxq.map fun f => if f.idx = m.rxFrame then { f with parts := f.parts.map put } else f }

/-- A member begins to deliver a frame. -/
def addPart (q : List RxFrame) (idx : Nat) (p : RxPart) : List RxFrame :=
  if q.any fun f => f.idx = idx then q.map fun f => if f.idx = idx then { f with parts := f.parts ++ [p] } else f
  else q ++ [⟨idx, [p], none, false⟩]

/-- Whether a usable member has delivered the overhead of a frame, or has gone past it. -/
def deliveredBy (f : RxFrame) (m : Member) : Bool :=
  f.parts.any (fun p => p.lane = m.lane) || decide (m.rxFrame ≠ f.idx ∧ (m.rxFrame + 256 - f.idx) % 256 < 128)

/-- The part of a frame that carries a sequence, from a usable member. -/
def partOf (ms : List Member) (f : RxFrame) (s : Nat) : Option RxPart :=
  f.parts.find? fun p => p.seq = s && ms.any fun m => m.lane = p.lane

/-- Sequences of a map, lowest first. -/
def mapSeqs (mp : BitVec 16) : List Nat := (List.range 16).filter (bit mp.toNat)

/-- MAP of a frame once every usable member has delivered its overhead (R168): that of the lowest sequence whose OH1 is
valid, else the last; and whether two valid ones differ. -/
def frameMap (ms : List Member) (g : Group) (f : RxFrame) : BitVec 16 × Bool :=
  let maps := (List.range 16).filterMap fun s => (partOf ms f s).bind (·.map)
  ((maps.head?).getD g.rxMap, maps.any fun a => maps.any fun b => a ≠ b)

/-- Takes the MAP of the oldest frame in the store. -/
def judgeMap (x : Slice) (g : Group) (f : RxFrame) : Slice :=
  let r := frameMap (usable x g) g f
  let q := { f with map := some r.1, conflict := r.2 } :: g.rxq.drop 1
  judgeSf (showMaps x { g with rxMap := r.1, rxq := q, rxBar := g.rxBar &&& r.1,
                               mapConflicts := g.mapConflicts + (if r.2 then 1 else 0) }) g.lane

/-- Ends the oldest frame: its payload is discarded, with the Ethernet frame it breaks, or reassembled. -/
def endFrame (x : Slice) (g : Group) (f : RxFrame) (mp : BitVec 16) : Slice :=
  let ms := usable x g
  let ss := mapSeqs mp
  let ps := ss.filterMap (partOf ms f)
  let q := g.rxq.drop 1
  if f.conflict then setGroup x { g with rxq := q, rxCur := none }
  else if mp &&& g.rxBar ≠ 0 ∨ ps.length < ss.length then
    let h := Group.discard { g with rxq := [f] }
    setGroup x { h with rxq := q }
  else
    let u := blockUnits g.rate
    let ls := weave u payPositions (ps.map fun p => (p.time + 4 * u, (p.pay).getD []))
    let d := ls.foldl Deframe.take ⟨g.rxCur, []⟩
    setGroup x { g with rxq := q, rxCur := d.cur, rxFrames := g.rxFrames ++ d.out }

/-- Moves on the oldest frame of a group's deskew store, none when it must wait. -/
def deskewStep (x : Slice) (n : Lane) : Option Slice :=
  match groupOf x n with
  | none => none
  | some g =>
    match g.rxq with
    | [] => none
    | f :: _ =>
      match f.map with
      | none => if (usable x g).all (deliveredBy f) then some (judgeMap x g f) else none
      | some mp =>
        if (mapSeqs mp).all fun s => ((partOf (usable x g) f s).map fun p => p.pay.isSome).getD true then some (endFrame x g f mp)
        else none

/-- Moves the store on as far as it goes. -/
def deskew (n : Lane) : Nat → Slice → Slice
  | 0, x => x
  | k + 1, x => match deskewStep x n with
    | some y => deskew n k y
    | none => x

/-- A frame of a usable member opens in the deskew store, and the store moves on. -/
def openPart (x : Slice) (l : Lane) (idx : Nat) (mp : Option (BitVec 16)) : Slice :=
  match groupOfLane x l.val with
  | none => x
  | some g =>
    match (usable x g).find? (·.lane = l) with
    | none => x
    | some m =>
      let g := { g with rxq := addPart g.rxq idx ⟨m.seq.getD 16, l, mp, baseNow x (portBase x g.lane.val).val, none⟩ }
      deskew g.lane (2 * g.rxq.length) (setGroup x g)

/-- What a group's member takes from valid overhead (R166, R170, R173, R176): identity, delay and losses. -/
def takeIdentity (x : Slice) (l : Lane) (m : Member) (g : Group) (o : Overhead) : Slice :=
  let idx := dbits o.oh0 15 8
  let badGid := decide (dbits o.oh1 63 48 ≠ g.gid)
  let seen := if badGid then g.rxSeen else noteSeen g.rxSeen idx x.clk
  let skew := skewOf seen idx x.clk
  let late := !badGid && decide (64000 < skew)
  let bad := badGid || late
  let seq := if badGid then m.seq else some (dbits o.oh1 43 40)
  let x := if badGid then x else
    regPut (regPut x kSRG (mstOff l.val) 15 0 (min 65535 skew)) kSRG (protOff g.lane.val) 31 24 (dbits o.oh1 31 24)
  let x := setMember x { m with seq := seq, retRdsk := late, retRgid := badGid, lost := m.lost && bad }
  let own := BitVec.ofNat 16 ((seq.map fun s => 2 ^ s).getD 0)
  let g := { g with rxSeen := seen, rlostOut := if bad then g.rlostOut else g.rlostOut &&& ~~~own }
  let x := setGroup x g
  let x := if bad then declareLost x l else x
  returnMembers (showRlost x g) g

/-- Valid overhead on an aligned lane is taken whole. -/
def takeOverhead (x : Slice) (l : Lane) (o : Overhead) : Slice :=
  match serMember x l with
  | none => x
  | some m =>
    let code := dbits o.oh1 39 36
    let ack := dbits o.oh1 35 32
    let run := if codeSense code = codeSense (rxCode x l.val) then m.codeRun + 1 else 1
    let x := regPut (regPut x kSRG (midOff l.val) 31 24 (dbits o.oh0 7 0)) kSRG (midOff l.val) 15 0 (dbits o.oh1 63 48)
    let x := regPut (regPut x kSRG (mstOff l.val) 27 24 code) kSRG (mstOff l.val) 19 16 (dbits o.oh1 43 40)
    let x := takeOh2 x m o
    let c := txCode x l.val
    let x := modMember x l.val fun m => takeGmc { m with
      lastValid := true, miss := 0, codeRun := run, rxFrame := dbits o.oh0 15 8, rxAck := BitVec.ofNat 4 ack,
      rlost := BitVec.ofNat 16 (dbits o.oh3 31 16), prevOh := some [o.oh0, o.oh1, o.oh2, o.oh3],
      ackSeen := m.ackSeen || (decide (ack = c) && (decide (c = mcJoin) || decide (c = mcTail))) } ((dwordBytes o.oh3).take 4)
    match serMember x l, groupOfLane x l.val with
    | some m, some g =>
      let x := takeIdentity x l m g o
      applyTarget (openPart x l (dbits o.oh0 15 8) (some (BitVec.ofNat 16 (dbits o.oh1 23 8)))) g.lane
    | _, _ => x

/-- Overhead at a candidate's expected position (R163). -/
def trackOverhead (x : Slice) (l : Lane) (m : Member) (pos : Nat) (o : Overhead) : Slice :=
  match m.cands.find? fun c => c.pos = pos with
  | none => x
  | some c =>
    if !ohValid o then
      let cs := m.cands.filter fun d => d.pos ≠ pos
      let x := addRaw (addRaw x l.val 5 1) l.val 4 (if ohFap o then 1 else 0)
      setAlign (setMember x { m with cands := cs }) l (if cs = [] then alHunt else alTrack)
    else if 2 ≤ c.count then
      let m := { m with cands := [], fixed := pos, miss := 0, prevOh := none, rxLast := lastWord 0 o.payload }
      takeOverhead (setAlign (setMember x m) l alLocked) l o
    else setMember x { m with cands := m.cands.map fun d => if d.pos = pos then { d with count := d.count + 1 } else d }

/-- Overhead at the fixed position of an aligned lane (R163). Where it is invalid, its fields count as unchanged but for the
frame's number, and payload is still taken (R165). -/
def lockedOverhead (x : Slice) (l : Lane) (m : Member) (o : Overhead) : Slice :=
  let x := fillPayload x l o.payload
  if ohValid o then takeOverhead (setAlign x l alLocked) l o
  else
    let x := addRaw (addRaw x l.val 5 1) l.val 4 (if ohFap o then 1 else 0)
    let idx := (m.rxFrame + 1) % 256
    let x := modMember x l.val fun m => takeGmc { m with miss := m.miss + 1, lastValid := false, prevOh := none, rxFrame := idx } m.rxGmc
    if m.miss < 3 then openPart (setAlign x l alMissing) l idx none
    else lossOfAlignment (setAlign (modMember x l.val fun m => { m with cands := [] }) l alHunt) l

/-- OVERHEAD_RECEIVE. -/
def execOverheadReceive (sl : SliceId) (lane : Lane) (pos : BitVec 14) (oh : Overhead) (s : State) : Res :=
  onLink sl (fun x =>
    match serMember x lane with
    | none => x
    | some m =>
      if looped x lane.val then x
      else if alignOf x lane.val = alTrack then trackOverhead x lane m pos.toNat oh
      else if aligned x lane.val && decide (pos.toNat = m.fixed) then lockedOverhead x lane m oh
      else x) s

/-! ### Frames sent (R155 to R162, R167, R169) -/

/-- Whether a member lane of group n sends frames. -/
def sends (x : Slice) (n l : Nat) : Bool :=
  enabled x kLNE && srgOn x && awake x && adminUp x n && decide (memberRate (portMode x l) ≠ 0) && !looped x l

/-- ACK for a member (R173). -/
def ackOf (x : Slice) (m : Member) : Nat :=
  let c := codeSense (rxCode x m.lane.val)
  if m.codeRun < 2 then 0
  else if c = mcJoin then
    (if alignOf x m.lane.val = alLocked ∧ m.seq.isSome ∧ !m.retRdsk ∧ !m.retRgid then mcJoin else 0)
  else if c = mcTail then mcTail else 0

/-- PROT of a group (R183): request, role and SEL. -/
def protOut (x : Slice) (g : Group) : Nat :=
  let r := protRole x g.lane.val
  if r = 0 then 0 else g.protTx.toNat * 16 + r * 4 + (selOn x g.lane.val).toNat * 2

/-- What the members of a group send alike: GID, PROT, MAP, RLOST and RSF. -/
structure GroupOut where
  gid : Nat
  prot : Nat
  map : Nat
  rlost : Nat
  rsf : Bool
  deriving DecidableEq, Repr

/-- The overhead of a member's next frame (R157 to R161). -/
def overheadOf (x : Slice) (m : Member) (seq : Nat) (g : GroupOut) : List Dword :=
  let l := m.lane.val
  let sbp := (m.sent.map fun f => sectionParity f.oh f.pay).getD 0
  let pbp := (m.sent.map fun f => pathParity f.pay).getD 0
  let a := d64 (fapPattern * 2 ^ 16 + m.txIdx % 256 * 2 ^ 8 + (16 * x.id.val + l))
  let b := d64 (g.gid % 2 ^ 16 * 2 ^ 48 + seq % 16 * 2 ^ 40 + txCode x l * 2 ^ 36 + m.ack.toNat * 2 ^ 32 + g.prot % 256 * 2 ^ 24
    + g.map % 2 ^ 16 * 2 ^ 8)
  let c := d64 (sbp * 2 ^ 56 + pbp * 2 ^ 48 + m.recS.toNat * 2 ^ 32 + m.recP.toNat * 2 ^ 16 + (!aligned x l).toNat * 2 ^ 15
    + m.retRdsk.toNat * 2 ^ 14 + m.retRgid.toNat * 2 ^ 13 + g.rsf.toNat * 2 ^ 12)
  let d := d64 (beAt m.gmcTx 0 4 * 2 ^ 32 + g.rlost % 2 ^ 16 * 2 ^ 16)
  [a, b, c, d64 (d.toNat + ohCrc a b c d)]

/-- The frame that a member is sending ends, with the blocks it carried. -/
def Member.endFrame (m : Member) (bs : List Line) : Member :=
  if m.txOh = [] then m
  else
    let pay := scramble m.txLast (payloadOf bs)
    { m with sent := some ⟨m.txOh, pay⟩, txLast := lastWord m.txLast pay }

/-- A member begins its next frame, or sends nothing. -/
def beginFrame (x : Slice) (m : Member) (n seq idx : Nat) (g : GroupOut) : Member :=
  if !sends x n m.lane.val then { m with txOh := [], sent := none }
  else
    let m := { m with txIdx := idx, ack := if seqRuns x qSOH then BitVec.ofNat 4 (ackOf x m) else m.ack }
    { m with txOh := overheadOf x m seq g, gmcTx := m.gmcTx.drop 4 }

/-- The frames under way of a group end: its stream is dealt over the members of its map (R167). -/
def endFrames (x : Slice) (g : Group) : Slice :=
  let ss := mapSeqs g.txMap
  let k := payBlocks * ss.length
  let under := x.members.any fun m => decide (m.lane.val ∈ groupLanes g) && decide (m.txOh ≠ [])
  if !under then x
  else
    let bs := g.txStream.take k
    let x := g.seqs.foldl (fun x s => modMember x s.1 fun m =>
      m.endFrame (match ss.idxOf? s.2 with
        | some r => strand ss.length r bs
        | none => [])) x
    setGroup x { g with txStream := g.txStream.drop k, count := g.count + 1 }

/-- Every member of a group begins a frame. -/
def beginFrames (x : Slice) (g : Group) : Slice :=
  let idx := (g.idx + 1) % 256
  let g := { g with idx := idx, protByte := if seqRuns x qSOH then BitVec.ofNat 8 (protOut x g) else g.protByte }
  let o : GroupOut := ⟨g.gid, g.protByte.toNat, g.txMap.toNat, g.rlostOut.toNat, g.sf⟩
  setGroup { x with members := x.members.map fun m =>
    if m.lane.val ∈ groupLanes g then beginFrame x m g.lane.val (txSeq g m.lane.val) idx o else m } g

/-- A lane in no group sends overhead with VOID. -/
def loneFrame (x : Slice) (l : Lane) : Slice :=
  modMember x l.val fun m =>
    let m := m.endFrame []
    beginFrame x m l.val 0 ((m.txIdx + 1) % 256) ⟨0, 0, 0, 0, false⟩

/-! ### Boundaries (R174, R177) -/

/-- SOH takes the staged message when GO stands and it runs (R186): it joins what the named member has to send. -/
def takeStaged (x : Slice) : Slice :=
  let v := regGet x kSRG 0x4004
  if wbit v 31 && seqRuns x qSOH then
    let n := fld v 7 0 + 1
    let m := BitVec.ofNat 8 (fld v 7 0) :: slab x.msgOut 0 n
    modMember { clrRegBit x kSRG 0x4004 31 with msgOut := [] } (fld v 19 16) fun k =>
      { k with gmcTx := k.gmcTx ++ 0xA6 :: (m ++ beBytes 4 (gmcCrc m)) }
  else x

/-- Carrying members that are lost leave MAP; they send VOID while SOH runs. -/
def dropMembers (x : Slice) (g : Group) : Slice :=
  let gone := g.seqs.filter fun s =>
    bit g.txMap.toNat s.2 && (farLost x g s.2 || x.members.any fun m => decide (m.lane.val = s.1) && m.lost)
  let x := gone.foldl (fun x s => modMember x s.1 fun m => { m with dropped := true, ackSeen := false }) x
  let x := if !seqRuns x qSOH then x else
    g.seqs.foldl (fun x s =>
      if x.members.any fun m => decide (m.lane.val = s.1) && m.dropped then setTxCode x s.1 mcVoid else x) x
  showMaps x { g with txMap := gone.foldl (fun a s => a &&& ~~~BitVec.ofNat 16 (2 ^ s.2)) g.txMap }

/-- Requests pending in a group. -/
def requests (x : Slice) (g : Group) : List (Nat × Nat) :=
  g.seqs.filter fun s => decide (txCode x s.1 = mcJoin) || decide (txCode x s.1 = mcTail)

/-- Those whose ACK has been received. -/
def acked (x : Slice) (g : Group) : List (Nat × Nat) :=
  (requests x g).filter fun s => x.members.any fun m => decide (m.lane.val = s.1) && m.ackSeen

/-- Every member's last overhead was valid and carried no RLOST bit. -/
def groupQuiet (x : Slice) (g : Group) : Bool :=
  g.seqs.all fun s => x.members.any fun m => decide (m.lane.val = s.1) && m.lastValid && decide (m.rlost = 0)

/-- This end sends valid overhead on every member. -/
def groupSends (x : Slice) (g : Group) : Bool := g.seqs.all fun s => sends x g.lane.val s.1

/-- Acknowledged requests are applied together, or deferred; a held SOH leaves them waiting (R174, R446). -/
def applyRequests (x : Slice) (g : Group) : Slice :=
  if requests x g = [] ∨ !groupSends x g ∨ !seqRuns x qSOH then x
  else if !groupQuiet x g then raise x kSRG 2
  else
    let rs := acked x g
    let join := fun (x : Slice) (s : Nat × Nat) => decide (txCode x s.1 = mcJoin)
    let mp := rs.foldl (fun a s => if join x s then a ||| BitVec.ofNat 16 (2 ^ s.2) else a &&& ~~~BitVec.ofNat 16 (2 ^ s.2)) g.txMap
    let x := rs.foldl (fun x s =>
      modMember (setTxCode x s.1 (if join x s then mcCarry else mcRest)) s.1 fun m => { m with ackSeen := false }) x
    showMaps x { g with txMap := mp }

/-- Acts on a group where it stands. -/
def onGroup (x : Slice) (n : Lane) (f : Slice → Group → Slice) : Slice :=
  match groupOf x n with
  | some g => f x g
  | none => x

/-- A group's frames end and the next ones begin, the first of a multiframe or not. -/
def nextFrames (x : Slice) (n : Lane) (multi : Bool) : Slice :=
  let x := onGroup (onGroup x n endFrames) n dropMembers
  let x := if multi then onGroup x n applyRequests else x
  let x := applyTarget (onGroup x n returnMembers) n
  onGroup (judgeSf x n) n beginFrames

/-- FRAME_BOUNDARY: carrying members that are lost leave MAP and send VOID. A group whose next frame begins a multiframe
waits for MULTIFRAME_BOUNDARY; a lane in no group sends its own frames. -/
def frameBoundary (x : Slice) (n : Lane) : Slice :=
  match groupOf x n with
  | some g => if g.idx % 32 = 31 then x else nextFrames x n false
  | none => if (groupOfLane x n.val).isSome then x else loneFrame x n

def execFrameBoundary (sl : SliceId) (grp : Lane) (s : State) : Res :=
  onLink sl (fun x => takeStaged (frameBoundary x grp)) s

/-- MULTIFRAME_BOUNDARY: frame 0 of a multiframe begins; acknowledged requests are applied together, or deferred. -/
def multiframeBoundary (x : Slice) (n : Lane) : Slice :=
  onGroup x n fun x g => if g.idx % 32 = 31 then nextFrames x n true else x

def execMultiframeBoundary (sl : SliceId) (grp : Lane) (s : State) : Res :=
  onLink sl (multiframeBoundary · grp) s

/-! ### Counters (R172) -/

/-- SERGE_COUNTER_LATCH: at a whole second of base 0, for every lane; none latches twice after a backward step (R372). -/
def execSergeCounterLatch (sl : SliceId) (s : State) : Res :=
  onStarted sl (fun x =>
    let sec := secOf (baseNow x 0)
    if sec ≤ (baseOf x 0).latched then x
    else
      let x := setBase x 0 { baseOf x 0 with latched := sec }
      let x := (List.range 16).foldl (fun x l =>
        let o := 0x3000 + 32 * l
        let x := (List.range 6).foldl (fun x i => regSet x kSRG (o + 4 * i) (w32 (sGet 0 x.serRaw (8 * l + i)))) x
        regSet x kSRG (o + 0x18) (w32 sec)) x
      raise { x with serRaw := [] } kSRG 7) s

/-! ### The message channel (R186) -/

/-- A write of SRG_MSGCTL; one made while GO reads 1 is ignored. -/
def msgCtlWrite (x : Slice) (v : Word) : Slice :=
  if regBit x kSRG 0x4004 31 then x else takeStaged (regSet x kSRG 0x4004 (w32 (v.toNat &&& 0x800F00FF)))

/-- MESSAGE_SEND: a write of SRG_MSGCTL with GO. -/
def execMessageSend (sl : SliceId) (v : Word) (s : State) : Res :=
  onStarted sl (fun x => if wbit v 31 then written (msgCtlWrite x v) kSRG 0x4004 else x) s

/-- A received message: delivered with a good CRC while fewer than 8 wait, else discarded and counted. -/
def takeMessage (x : Slice) (l : Lane) (body : Bytes) (crcOk : Bool) : Slice :=
  if !crcOk then raise (satFld x kSRG 0x400C 27 20 1) kSRG 6
  else if 8 ≤ x.msgIn.length then satFld x kSRG 0x400C 27 20 1
  else raise { x with msgIn := x.msgIn ++ [⟨l, body.length - 1, bytesWords body⟩] } kSRG 5

/-- MESSAGE_RECEIVE: SOH takes the first whole message of a lane's channel; the search for a start byte goes on from its
end. -/
def execMessageReceive (sl : SliceId) (lane : Lane) (s : State) : Res :=
  onStarted sl (fun x =>
    match serMember x lane with
    | none => x
    | some m =>
      let n := beAt m.gmcRx 1 1 + 1
      if m.gmcRx.length < n + 6 ∨ !seqRuns x qSOH then x
      else
        let x := setMember x { m with gmcRx := gmcTrim (m.gmcRx.drop (n + 6)) }
        takeMessage x lane (slab m.gmcRx 2 n) (decide (beAt m.gmcRx (n + 2) 4 = gmcCrc (slab m.gmcRx 1 (n + 1))))) s

/-- A read of SRG_MSGRX. -/
def msgRead (x : Slice) : Word × Slice :=
  match x.msgIn with
  | [] => (0, x)
  | m :: ms =>
    match m.words with
    | [] => (0, { x with msgIn := ms })
    | [w] => (w, { x with msgIn := ms })
    | w :: ws => (w, { x with msgIn := { m with words := ws } :: ms })

def execMessageRead (sl : SliceId) (s : State) : Res :=
  onStarted sl (fun x => { (msgRead x).2 with bus := .value (msgRead x).1 }) s

/-- SRG_MSGRST. -/
def msgStatus (x : Slice) : Word :=
  let m := x.msgIn.head?
  w32 (x.msgIn.length * 2 ^ 28 + regFld x kSRG 0x400C 27 20 * 2 ^ 20 + ((m.map (·.lane.val)).getD 0) * 2 ^ 16
    + ((m.map (·.len)).getD 0))

/-! ### Configuration changes (R166, R175) -/

/-- Lowest sequence that no member holds. -/
def lowSeq (ss : List (Nat × Nat)) : Nat := ((List.range 16).find? fun k => !ss.any fun s => s.2 = k).getD 15

/-- A group keeps running under the present configuration: no CARRY member has left it (R175). -/
def groupKeeps (x : Slice) (g : Group) : Bool :=
  decide (fld (srgCfg x g.lane.val) 15 0 = g.gid) && decide (memberRate (portMode x g.lane.val) = g.rate)
  && g.seqs.all fun s => decide (txCode x s.1 ≠ mcCarry) || bit (groupMembers x g.lane.val) s.1

/-- The member of a lane leaves its group. -/
def memberLeaves (x : Slice) (l : Nat) : Slice := setTxCode (modMember x l Member.alone) l mcVoid

/-- A group that the configuration no longer defines goes. -/
def groupGone (x : Slice) (g : Group) : Slice :=
  let x := regSet (portDown x g.lane.val) kSRG (0x100C + 16 * g.lane.val) 0
  let x := g.seqs.foldl (fun x s => memberLeaves x s.1) x
  { x with groups := x.groups.filter (·.lane ≠ g.lane) }

/-- A group goes down and begins anew: its port, its maps and what it has received; its members start again from HOLD and
keep their sequences (R139, R166, R175). -/
def groupFalls (x : Slice) (g : Group) : Slice :=
  onGroup (portDown x g.lane.val) g.lane fun x g =>
    let x := g.seqs.foldl (fun x s => setTxCode (modMember x s.1 Member.alone) s.1 mcHold) x
    showMaps x { g with gid := fld (srgCfg x g.lane.val) 15 0, rate := memberRate (portMode x g.lane.val), txMap := 0, rxMap := 0,
                        rlostOut := 0, rxSeen := [], rxq := [], rxBar := 0, rxCur := none }

/-- Members that are no longer in a group's set leave it; MAP and the deskew store go on without them. -/
def shedMembers (x : Slice) (g : Group) : Slice :=
  let mem := groupMembers x g.lane.val
  let out := g.seqs.filter fun s => !bit mem s.1
  if out = [] then x
  else
    let x := out.foldl (fun x s => memberLeaves x s.1) x
    let mp := out.foldl (fun a s => a &&& ~~~BitVec.ofNat 16 (2 ^ s.2)) g.txMap
    showMaps x { g with seqs := g.seqs.filter fun s => bit mem s.1, txMap := mp }

/-- Brings a standing group in step with its registers: it goes, falls, or sheds the members taken out. -/
def groupFollows (x : Slice) (n : Lane) : Slice :=
  onGroup x n fun x g =>
    if !isGroup x n.val then groupGone x g
    else onGroup (if groupKeeps x g then x else groupFalls x g) n shedMembers

/-- The lanes that LNE gives a Serge member mode run the searcher. -/
def syncMembers (x : Slice) : Slice :=
  let on := fun (l : Nat) => decide (memberRate (portMode x l) ≠ 0)
  let x := x.members.foldl (fun x m =>
    if on m.lane.val then x else regSet (regSet (setLaneUp x m.lane.val false) kSRG (mstOff m.lane.val) 0) kSRG (midOff m.lane.val) 0) x
  let kept := x.members.filter fun m => on m.lane.val
  let new := ((List.range 16).filter fun l => on l && !kept.any fun m => m.lane.val = l).map fun l => Member.blank (laneOf l)
  { x with members := kept ++ new }

/-- A group as it comes up. -/
def Group.blank (x : Slice) (n : Nat) : Group :=
  { lane := laneOf n, gid := fld (srgCfg x n) 15 0, rate := memberRate (portMode x n), seqs := [], idx := 255, count := 0,
    txStream := [], txMap := 0, rxMap := 0, rxSeen := [], rxq := [], rxBar := 0, rxCur := none, rxFrames := [], rlostOut := 0,
    sf := false, protTx := 0, protByte := 0, lostFrames := 0, mapConflicts := 0, protDrop := 0 }

/-- New members of a group take the lowest free sequence and start in HOLD (R166, R175). -/
def joinMembers (x : Slice) (g : Group) : Slice :=
  let new := (List.range 16).filter fun l => bit (groupMembers x g.lane.val) l && !g.seqs.any fun s => s.1 = l
  let seqs := new.foldl (fun ss l => ss ++ [(l, lowSeq ss)]) g.seqs
  let g := { g with seqs := seqs }
  let x := new.foldl (fun x l =>
    setTxCode (regPut (modMember x l Member.alone) kSRG (midOff l) 23 20 (txSeq g l)) l mcHold) x
  judgeSf (applyTarget (setGroup x g) g.lane) g.lane

/-- Forms a group where the registers define one, and takes in its new members. -/
def syncGroup (x : Slice) (n : Nat) : Slice :=
  if !isGroup x n then x
  else
    let x := if (groupOf x (laneOf n)).isSome then x else { x with groups := x.groups ++ [Group.blank x n] }
    onGroup x (laneOf n) joinMembers

/-- Brings members and groups in step with the configuration in force. -/
def srgSync (x : Slice) : Slice :=
  let x := (x.groups.map (·.lane)).foldl groupFollows x
  (List.range 16).foldl syncGroup (syncMembers x)

end Sys2Proof.Machine
end

