-- ==== Sys2Proof/Machine/Operands.lean ====
section
/-! DEFINITION. Operands of Twill instructions: instruction words, registers, immediates, metadata, the header window and
program tables (R285 to R292, R297, R298). -/

namespace Sys2Proof.Machine

/-! ### Instruction words (R289) -/

/-- The 64-bit word of an instruction. -/
def twWord (op : Nat) (f : TwFields) : Nat :=
  op * 2 ^ 56 + f.pe.toNat * 2 ^ 55 + f.pn.toNat * 2 ^ 52 + f.ps.toNat * 2 ^ 51 + f.d.toNat * 2 ^ 46 + f.a.toNat * 2 ^ 41
    + f.b.toNat * 2 ^ 36 + f.mod.toNat * 2 ^ 32 + f.imm.toNat

def progSize : Nat := 32768

/-- Slot s of bundle i of program memory as a packet's epoch sees it. -/
def bundleWord (x : Slice) (old : Bool) (i s : Nat) : Nat :=
  (tabGetEp x old tProg i (2 * s)).toNat * 2 ^ 32 + (tabGetEp x old tProg i (2 * s + 1)).toNat

/-- The instruction that a thread issues next. -/
def nextWord (x : Slice) (t : ThreadSt) : Option Nat :=
  if t.pc < progSize then some (bundleWord x (isOld x t.pkt.epoch) t.pc t.slot) else none

/-! ### Registers and predicates (R287, R288, R291) -/

/-- The registers that the instructions of the bundle read (R292). -/
def ThreadSt.now (t : ThreadSt) : Snap := ⟨t.g, t.f, t.p⟩

/-- Value of a register code: G0 reads 0. -/
def Snap.rd (v : Snap) (c : BitVec 5) : Dword :=
  if c = 0 then 0
  else if c.toNat < 16 then (v.g[c.toNat]?).getD 0
  else (v.f[c.toNat - 16]?).getD 0

def Snap.pred (v : Snap) (n : Nat) : Bool := (v.p[n % 8]?).getD false

/-- Writes a general destination: G0 and F0 to F5 discard writes, and so does every F register of a stateless packet. -/
def ThreadSt.wr (t : ThreadSt) (c : BitVec 5) (v : Dword) : ThreadSt :=
  if c = 0 then t
  else if c.toNat < 16 then { t with g := setNth t.g c.toNat v }
  else if 22 ≤ c.toNat ∧ t.idx.isSome then { t with f := setNth t.f (c.toNat - 16) v }
  else t

def ThreadSt.wrP (t : ThreadSt) (c : BitVec 5) (b : Bool) : ThreadSt := { t with p := setNth t.p (c.toNat % 8) b }

/-- IMM sign-extended. -/
def sextImm (f : TwFields) : Dword := f.imm.signExtend 64

/-- Second operand of add to maxu: register B, or sext(IMM) when MOD bit 0 is 1. -/
def operandB (v : Snap) (f : TwFields) : Dword := if f.mod.toNat % 2 = 1 then sextImm f else v.rd f.b

/-- An instruction takes effect when PE is 0 or P[PN] equals PS (R290). -/
def takesEffect (v : Snap) (f : TwFields) : Bool := !f.pe || (v.pred f.pn.toNat == f.ps)

/-! ### Metadata (R191) -/

/-- Header offsets k to k + 7, 0xFF where absent. -/
def hdrBytes (p : Packet) (k : Nat) : Nat :=
  (List.range 8).foldl (fun a i => a + ((p.hdrs[k + i]?).getD 0xFF) % 256 * 2 ^ (8 * i)) 0

def exvBits (p : Packet) : Nat :=
  (List.range 16).foldl (fun a s =>
    a + (if (List.range 4).all fun i => (p.xval[4 * s + i]?).getD false then 2 ^ s else 0)) 0

/-- M0 to M7 of a packet. -/
def metaReg (x : Slice) (p : Packet) : Nat → Dword
  | 0 => d64 ((16 * x.id.val + p.lane.val) * 2 ^ 57 + p.epoch.toNat * 2 ^ 53 + p.prof % 64 * 2 ^ 47 + p.pass2.toNat * 2 ^ 46
      + p.dex.toNat * 2 ^ 45 + p.lcf.toNat * 2 ^ 44 + p.hdrs.length % 32 * 2 ^ 39 + p.serge.toNat * 2 ^ 38
      + p.frame.length % 16384 * 2 ^ 16 + p.pbase % 65536)
  | 1 => d64 (hdrBytes p 0)
  | 2 => d64 (hdrBytes p 8)
  | 3 => d64 (p.cls.toNat * 2 ^ 32 + exvBits p * 2 ^ 16)
  | 4 => d64 (actKeyProf p.act * 2 ^ 58 + actProg p.act * 2 ^ 43 + actQClass p.act * 2 ^ 40 + p.eng.toNat * 2 ^ 38
      + p.mmatch.toNat * 2 ^ 37 + p.rule.toNat * 2 ^ 16 + actReason p.act * 2 ^ 8)
  | 5 =>
    let cam := if p.eng = 3 then (p.camHit.map (·.num)).getD 0 else 0
    let tree := match p.prim with | some (2, h) => h.num | _ => 0
    let range := match p.prim with | some (1, h) => h.num | _ => 0
    d64 (cam % 65536 * 2 ^ 48 + tree % 2 ^ 20 * 2 ^ 28 + range % 512 * 2 ^ 19)
  | 6 => d64 (beAt p.xbuf 0 8)
  | _ => d64 (beAt p.xbuf 8 8)

/-! ### The header window (R286) -/

/-- Whether window offset o lies in the window and the frame. -/
def inWin (t : ThreadSt) (o : Nat) : Bool := decide (o < 256) && decide (t.pkt.pbase + o < t.frame.length)

/-- `w` bytes from a window offset, a byte outside the window or the frame reading 0. -/
def winRead (t : ThreadSt) (o w : Nat) : Bytes :=
  (List.range w).map fun i => if inWin t (o + i) then (t.frame[t.pkt.pbase + o + i]?).getD 0 else 0

/-- Writes the bytes that lie in the window and the frame; `true` when every byte was carried out. -/
def winWrite (t : ThreadSt) (o : Nat) (bs : Bytes) : Bool × ThreadSt :=
  let ok := (List.range bs.length).all fun i => inWin t (o + i)
  let fr := (List.range bs.length).foldl (fun fr i =>
    if inWin t (o + i) then setNth fr (t.pkt.pbase + o + i) ((bs[i]?).getD 0) else fr) t.frame
  (ok, { t with frame := fr, rewritten := t.rewritten || (List.range bs.length).any fun i => inWin t (o + i) })

/-- Widths of hld and hst. -/
def headerWidth (mod : BitVec 4) : Nat :=
  match mod.toNat with | 0 => 1 | 1 => 2 | 2 => 4 | 3 => 6 | 4 => 8 | _ => 0

/-! ### Program tables (R297) -/

def tableOf (f : TwFields) : Nat := fld f.imm 31 24

def dataSize : Nat := 1048576

/-- index(r). -/
def tableIndex (f : TwFields) (r : Dword) : Nat := (r.toNat + fld f.imm 19 0) % 2 ^ 64

/-- Descriptor of a table in a packet's epoch. -/
def tblDesc (x : Slice) (old : Bool) (t : Nat) : Word := regGetEp x old kDMK (0x1000 + 4 * t)

/-- Word of program table memory that index i of table t names; none out of range. -/
def tableWord (x : Slice) (old : Bool) (t i : Nat) : Option Nat :=
  let d := tblDesc x old t
  if fld d 31 20 ≠ 0 ∧ i < 256 * fld d 31 20 ∧ fld d 19 0 + i < dataSize then some (fld d 19 0 + i) else none

/-- A 64-bit word of program table memory. -/
def dataWord (x : Slice) (w : Nat) : Dword := d64 ((tabGet x tData w 0).toNat * 2 ^ 32 + (tabGet x tData w 1).toNat)

def dataPut (x : Slice) (w : Nat) (v : Dword) : Slice :=
  tabSet (tabSet x tData w 0 (w32 (v.toNat >>> 32))) tData w 1 (w32 v.toNat)

/-- tadd's new word (R297). -/
def taddWord (mod : BitVec 4) (w b : Dword) : Dword :=
  match mod.toNat with
  | 0 => w + b
  | 1 => d64 (min (2 ^ 64 - 1) (w.toNat + b.toNat))
  | 2 => d64 ((w.toNat / 2 ^ 32 + b.toNat / 2 ^ 32) % 2 ^ 32 * 2 ^ 32 + (w.toNat + b.toNat) % 2 ^ 32)
  | 3 => if w.toNat < b.toNat then b else w
  | 4 => if b.toNat < w.toNat then b else w
  | 5 => w ||| b
  | _ => w

/-- A table access or template is out of range: counted, cause 3 at the first. -/
def toob (x : Slice) : Slice := flagRaise (count x kDMK 0x2020 1) kDMK 0x100 1 3

/-- A header write is not carried out in full: counted, cause 2 at the first. -/
def hwoob (x : Slice) : Slice := flagRaise (count x kDMK 0x2018 1) kDMK 0x100 0 2

end Sys2Proof.Machine
end

