-- ==== Sys2Proof/Machine/Flags.lean ====
section
/-! DEFINITION. Predicates, arithmetic, checksums and hashes of Twill instructions (R294, R296, chash). The part has no
arithmetic flags: comparisons write predicates. -/

namespace Sys2Proof.Machine

/-- Condition of cmp and cmpi. -/
def twCond (mod : BitVec 4) (a b : Dword) : Bool :=
  match mod.toNat with
  | 0 => decide (a = b)
  | 1 => decide (a ≠ b)
  | 2 => decide (a.toInt < b.toInt)
  | 3 => decide (b.toInt ≤ a.toInt)
  | 4 => decide (a.toNat < b.toNat)
  | 5 => decide (b.toNat ≤ a.toNat)
  | 6 => decide (a &&& b ≠ 0)
  | 7 => decide (a &&& b = 0)
  | _ => false

/-- Predicate operation of pop; `i` is IMM bit 0. -/
def twPopOp (mod : BitVec 4) (pa pb i : Bool) : Bool :=
  match mod.toNat with
  | 0 => pa && pb
  | 1 => pa || pb
  | 2 => pa != pb
  | 3 => pa && !pb
  | 4 => i
  | _ => false

/-- Shift distance. -/
def shAmount (b : Dword) : Nat := b.toNat % 64

def fieldPos (f : TwFields) : Nat := fld f.imm 13 8
def fieldMask (f : TwFields) : Nat := 2 ^ (fld f.imm 5 0 + 1) - 1

/-- bext: bits above 63 read as 0. -/
def bextVal (f : TwFields) (a : Dword) : Dword := d64 ((a.toNat >>> fieldPos f) &&& fieldMask f)

/-- bins: truncated to 64 bits. -/
def binsVal (f : TwFields) (a b : Dword) : Dword :=
  let m := d64 (fieldMask f <<< fieldPos f)
  (b &&& ~~~ m) ||| d64 ((a.toNat &&& fieldMask f) <<< fieldPos f)

/-- Folds a sum to 16 bits with end-around carry; three folds end any sum of a csum. -/
def fold16 (s : Nat) : Nat := Nat.repeat (fun s => s % 65536 + s / 65536) 3 s

/-- csum's new checksum over n 16-bit words, RFC 1624 equation 3. -/
def csumVal (hc n : Nat) (old new : Dword) : Nat :=
  let w := fun (d : Dword) (k : Nat) => (d.toNat >>> (16 * (n - 1 - k))) % 65536
  let s := (List.range n).foldl (fun s k => s + (65535 - w old k) + w new k) (65535 - hc)
  65535 - fold16 s

/-- crc: the n low bytes of a, most significant first, chained on b. -/
def crcVal (n : Nat) (a b : Dword) : Dword :=
  d64 ((crc32cRun (0xFFFFFFFF - b.toNat % 2 ^ 32) (beBytes n a.toNat)) ^^^ 0xFFFFFFFF)

/-- The loop of chash. -/
def chashLoop (n : Nat) : Nat → Nat → Nat → Nat → Nat
  | 0, _, bkt, _ => bkt
  | k + 1, key, bkt, j =>
    if n ≤ j then bkt
    else
      let key' := (key * 2862933555777941757 + 1) % 2 ^ 64
      chashLoop n k key' j ((j + 1) * 2 ^ 31 / (key' / 2 ^ 33 + 1))

/-- chash: a bucket in 0 to n − 1. -/
def chashVal (a b : Dword) : Dword :=
  let n := min 65536 (b.toNat % 2 ^ 17)
  if n = 0 then 0 else d64 (chashLoop n 65537 a.toNat 0 0)

end Sys2Proof.Machine
end

