-- ==== Sys2Proof/Machine/Twill.lean ====
section
/-! DEFINITION. The Twill instructions (R285 to R306): one meaning per opcode, over a shared issue operation. -/

namespace Sys2Proof.Machine

/-! ### Issue (R284, R292, R304) -/

def setThread (x : Slice) (t : ThreadSt) : Slice := { x with threads := x.threads.map fun u => if u.th = t.th then t else u }

/-- F3 to F5 after a packet (R252). -/
def countPacket (x : Slice) (p : Packet) (r : List Dword) : List Dword :=
  setNth (setNth (setNth r 3 (arrivalF3 x p)) 4 (rcdW r 4 + 1)) 5 (rcdW r 5 + d64 (p.frame.length + 4))

/-- Threads and packets to re-run, whose commits are still to come. -/
def uncommitted (x : Slice) : List ThreadSt := x.threads ++ x.rerunq

/-- The last packet of a flow placed before place `seq` and not yet committed. -/
def predecessor (x : Slice) (i seq : Nat) : Option ThreadSt :=
  ((uncommitted x).filter fun t => t.idx = some i && decide (t.seq < seq)).foldl (fun (b : Option ThreadSt) t =>
    match b with
    | none => some t
    | some u => if u.seq < t.seq then some t else b) none

/-- The input image of a packet at place `seq`: its predecessor's hand-off, else the record; none while the predecessor has not
passed its release point (R260). -/
def inputImage (x : Slice) (idx : Option Nat) (seq : Nat) : Option (List Dword) :=
  match idx with
  | none => some (List.replicate 16 0)
  | some i =>
    match predecessor x i seq with
    | some t => if t.released then some (countPacket x t.pkt t.relImage) else none
    | none => (hotByIdx x i).map (·.rcd)

/-- A thread's program starts on its input image. -/
def beginThread (t : ThreadSt) (img : List Dword) : ThreadSt :=
  let d := if t.idx.isSome then BitVec.ofNat 16 (rHandle img) else t.dflt
  { t with input := img, f := img, dflt := d, snap := { t.snap with f := img }, disp := .forward d t.qclass none, relImage := img,
           waits := false }

/-- A thread as it runs: one that waits starts once its image is there. -/
def runningThread (x : Slice) (t : ThreadSt) : Option ThreadSt :=
  if t.waits then (inputImage x t.idx t.seq).map (beginThread t) else some t

/-- The thread passes its release point: its image is what the flow's next packet starts from (R304). -/
def passRelease (t : ThreadSt) : ThreadSt :=
  if t.released then t
  else if t.rel = 511 ∨ t.entry + t.rel ≤ t.pc ∨ t.ending then { t with released := true, relImage := t.f } else t

/-- The bundle ends: the branch, the end or the next bundle. -/
def endBundle (t : ThreadSt) : ThreadSt :=
  let t := passRelease t
  if t.ending then { t with ended := true }
  else { t with pc := (t.branch.getD (t.pc + 1)), slot := 0, branch := none, snap := t.now }

/-- Counts a bundle that issues. -/
def countBundle (x : Slice) (t : ThreadSt) : Slice :=
  if t.slot = 0 then perf (count x kDMK 0x2008 1) 8 0 0 1 else x

/-- What an instruction does to its thread and the slice, from the values its bundle reads. -/
abbrev TwEffect := Snap → ThreadSt → Slice → ThreadSt × Slice

/-- A thread issues its next instruction, which must be the one named; slot 0 takes the values both slots read. -/
def issue (x : Slice) (t : ThreadSt) (op : Nat) (f : TwFields) (eff : TwEffect) : Slice :=
  if t.ended || decide (nextWord x t ≠ some (twWord op f)) then x
  else
    let x := countBundle x t
    let t := if t.slot = 0 then { t with snap := t.now } else t
    let r := if takesEffect t.snap f then eff t.snap t x else (t, x)
    setThread r.2 (if r.1.slot = 0 then { r.1 with slot := 1 } else endBundle r.1)

/-- The step of one Twill instruction. -/
def twStep (sl : SliceId) (th : Thread) (op : Nat) (f : TwFields) (eff : TwEffect) (s : State) : Res :=
  onAlive sl (fun x =>
    match (threadOf x th.val).bind (runningThread x) with
    | none => x
    | some t => if serves x kDMK then issue x t op f eff else x) s

/-- An effect that only writes a register. -/
def regEff (f : TwFields) (v : Snap → Dword) : TwEffect := fun sn t x => (t.wr f.d (v sn), x)

/-- An effect that only changes the thread. -/
def thrEff (g : Snap → ThreadSt → ThreadSt) : TwEffect := fun sn t x => (g sn t, x)

/-- A two-operand arithmetic effect. -/
def aluEff (f : TwFields) (op : Dword → Dword → Dword) : TwEffect := regEff f fun v => op (v.rd f.a) (operandB v f)

/-! ### Unit A: arithmetic, bitfields, predicates, metadata, time -/

def execTwNop (sl : SliceId) (th : Thread) (f : TwFields) (s : State) : Res := twStep sl th 0x00 f (fun _ t x => (t, x)) s
def execTwAdd (sl : SliceId) (th : Thread) (f : TwFields) (s : State) : Res := twStep sl th 0x01 f (aluEff f (· + ·)) s
def execTwSub (sl : SliceId) (th : Thread) (f : TwFields) (s : State) : Res := twStep sl th 0x02 f (aluEff f (· - ·)) s
def execTwAnd (sl : SliceId) (th : Thread) (f : TwFields) (s : State) : Res := twStep sl th 0x03 f (aluEff f (· &&& ·)) s
def execTwOr (sl : SliceId) (th : Thread) (f : TwFields) (s : State) : Res := twStep sl th 0x04 f (aluEff f (· ||| ·)) s
def execTwXor (sl : SliceId) (th : Thread) (f : TwFields) (s : State) : Res := twStep sl th 0x05 f (aluEff f (· ^^^ ·)) s
def execTwShl (sl : SliceId) (th : Thread) (f : TwFields) (s : State) : Res :=
  twStep sl th 0x06 f (aluEff f fun a b => a <<< shAmount b) s
def execTwShr (sl : SliceId) (th : Thread) (f : TwFields) (s : State) : Res :=
  twStep sl th 0x07 f (aluEff f fun a b => a >>> shAmount b) s
def execTwSar (sl : SliceId) (th : Thread) (f : TwFields) (s : State) : Res :=
  twStep sl th 0x08 f (aluEff f fun a b => a.sshiftRight (shAmount b)) s
def execTwMul (sl : SliceId) (th : Thread) (f : TwFields) (s : State) : Res := twStep sl th 0x09 f (aluEff f (· * ·)) s
def execTwMinu (sl : SliceId) (th : Thread) (f : TwFields) (s : State) : Res :=
  twStep sl th 0x0A f (aluEff f fun a b => if a.toNat < b.toNat then a else b) s
def execTwMaxu (sl : SliceId) (th : Thread) (f : TwFields) (s : State) : Res :=
  twStep sl th 0x0B f (aluEff f fun a b => if b.toNat < a.toNat then a else b) s
def execTwMovi (sl : SliceId) (th : Thread) (f : TwFields) (s : State) : Res := twStep sl th 0x0C f (regEff f fun _ => sextImm f) s
def execTwMovhi (sl : SliceId) (th : Thread) (f : TwFields) (s : State) : Res :=
  twStep sl th 0x0D f (regEff f fun v => d64 (f.imm.toNat * 2 ^ 32 + (v.rd f.a).toNat % 2 ^ 32)) s
def execTwBext (sl : SliceId) (th : Thread) (f : TwFields) (s : State) : Res :=
  twStep sl th 0x10 f (regEff f fun v => bextVal f (v.rd f.a)) s
def execTwBins (sl : SliceId) (th : Thread) (f : TwFields) (s : State) : Res :=
  twStep sl th 0x11 f (regEff f fun v => binsVal f (v.rd f.a) (v.rd f.b)) s
def execTwCmp (sl : SliceId) (th : Thread) (f : TwFields) (s : State) : Res :=
  twStep sl th 0x20 f (thrEff fun v t => t.wrP f.d (twCond f.mod (v.rd f.a) (v.rd f.b))) s
def execTwCmpi (sl : SliceId) (th : Thread) (f : TwFields) (s : State) : Res :=
  twStep sl th 0x21 f (thrEff fun v t => t.wrP f.d (twCond f.mod (v.rd f.a) (sextImm f))) s
def execTwPop (sl : SliceId) (th : Thread) (f : TwFields) (s : State) : Res :=
  twStep sl th 0x22 f (thrEff fun v t =>
    t.wrP f.d (twPopOp f.mod (v.pred f.a.toNat) (v.pred f.b.toNat) (wbit f.imm 0))) s
def execTwMrd (sl : SliceId) (th : Thread) (f : TwFields) (s : State) : Res :=
  twStep sl th 0x30 f (fun _ t x => (t.wr f.d (metaReg x t.pkt (fld f.imm 2 0)), x)) s

/-- The forms of time (R295). -/
def timeVal (mod : BitVec 4) (t : Stamp) : Dword :=
  match mod.toNat with
  | 0 => stampF3 t
  | 1 => d64 (t.sec * 1000000000 + t.ns)
  | _ => d64 t.frac

def execTwTime (sl : SliceId) (th : Thread) (f : TwFields) (s : State) : Res :=
  twStep sl th 0x31 f (fun _ t x => (t.wr f.d (timeVal f.mod t.pkt.stamp), x)) s

/-! ### Unit H: the header window (R286, R296) -/

/-- Window offset of hld and hst. -/
def winOff (v : Snap) (f : TwFields) : Nat := ((v.rd f.a).toNat + fld f.imm 15 0) % 2 ^ 64

def execTwHld (sl : SliceId) (th : Thread) (f : TwFields) (s : State) : Res :=
  twStep sl th 0x40 f (fun v t x => (t.wr f.d (d64 (beNat (winRead t (winOff v f) (headerWidth f.mod)))), x)) s

/-- hst: the low bytes of B, most significant first. -/
def hstEff (f : TwFields) : TwEffect := fun v t x =>
  let r := winWrite t (winOff v f) (beBytes (headerWidth f.mod) (v.rd f.b).toNat)
  (r.2, if r.1 then x else hwoob x)

def execTwHst (sl : SliceId) (th : Thread) (f : TwFields) (s : State) : Res := twStep sl th 0x41 f (hstEff f) s

/-- csum: the checksum field is corrected, or not at all. -/
def csumEff (f : TwFields) : TwEffect := fun v t x =>
  let off := fld f.imm 7 0
  let udp := bit f.mod.toNat 2
  let n := 2 ^ (f.mod.toNat % 4)
  if !inWin t off || !inWin t (off + 1) then (t, hwoob x)
  else
    let hc := beNat (winRead t off 2)
    if udp && decide (hc = 0) then (t, x)
    else
      let c := csumVal hc n (v.rd f.a) (v.rd f.b)
      ((winWrite t off (beBytes 2 (if udp && decide (c = 0) then 0xFFFF else c))).2, x)

def execTwCsum (sl : SliceId) (th : Thread) (f : TwFields) (s : State) : Res := twStep sl th 0x42 f (csumEff f) s

/-! ### Unit T: tables, selection, policers, emits -/

/-- A logged read: a re-run takes its result from the log while the log covers it (R305). -/
def logged (f : TwFields) (live : Snap → ThreadSt → Slice → Dword × Slice) : TwEffect := fun v t x =>
  match t.log[t.logPos]? with
  | some d => ({ t with logPos := t.logPos + 1 }.wr f.d d, x)
  | none =>
    let r := live v t x
    ({ t with log := t.log ++ [r.1], logPos := t.logPos + 1 }.wr f.d r.1, r.2)

/-- tld: the program's own last tst to the word, else the word of program table memory. -/
def tldRead (f : TwFields) (v : Snap) (t : ThreadSt) (x : Slice) : Dword × Slice :=
  let i := tableIndex f (v.rd f.a)
  match tableWord x (isOld x t.pkt.epoch) (tableOf f) i with
  | none => (0, toob x)
  | some w =>
    match t.tabs.reverse.find? fun e => e.op.isNone && decide (e.tbl = tableOf f) && decide (e.idx = i) with
    | some e => (e.val, x)
    | none => (dataWord x w, x)

def execTwTld (sl : SliceId) (th : Thread) (f : TwFields) (s : State) : Res := twStep sl th 0x50 f (logged f (tldRead f)) s

/-- tst and tadd record a table write for commit. -/
def tabEff (f : TwFields) (op : Option (BitVec 4)) : TwEffect := fun v t x =>
  let i := tableIndex f (v.rd f.a)
  let w := tableWord x (isOld x t.pkt.epoch) (tableOf f) i
  ({ t with tabs := t.tabs ++ [⟨tableOf f, i, v.rd f.b, op, w.isSome, w.getD 0⟩] }, x)

def execTwTst (sl : SliceId) (th : Thread) (f : TwFields) (s : State) : Res := twStep sl th 0x51 f (tabEff f none) s
def execTwTadd (sl : SliceId) (th : Thread) (f : TwFields) (s : State) : Res := twStep sl th 0x52 f (tabEff f (some f.mod)) s

/-- Outcome of a selection: a backend, none healthy, or a word out of range (R298). -/
inductive WselOut where
  | backend (n : Nat)
  | unhealthy
  | out
  deriving DecidableEq, Repr

/-- The probes of wsel from slot a + i, `n` of them left. -/
def wselProbe (word : Nat → Option Dword) (a s nb : Nat) : Nat → Nat → WselOut
  | 0, _ => .unhealthy
  | n + 1, i =>
    let k := (a + i) % s
    match word (5 + k / 4) with
    | none => .out
    | some w =>
      let bk := (w.toNat >>> (48 - 16 * (k % 4))) % 65536
      if nb ≤ bk then wselProbe word a s nb n (i + 1)
      else match word (1 + bk / 64) with
        | none => .out
        | some h => if bit h.toNat (bk % 64) then .backend bk else wselProbe word a s nb n (i + 1)

/-- The whole selection from a group's words. -/
def wselPick (word : Nat → Option Dword) (a : Nat) : WselOut :=
  match word 0 with
  | none => .out
  | some h =>
    let s := bits h.toNat 63 48
    let nb := bits h.toNat 47 40
    if s = 0 ∨ 4096 < s then .out else if nb = 0 then .unhealthy else wselProbe word a s nb 16 0

def wselNone (x : Slice) : Slice := flagRaise (count x kDMK 0x2028 1) kDMK 0x100 2 4

def wselRead (f : TwFields) (v : Snap) (t : ThreadSt) (x : Slice) : Dword × Slice :=
  let g := tableIndex f (v.rd f.b)
  let word := fun k => (tableWord x (isOld x t.pkt.epoch) (tableOf f) ((g + k) % 2 ^ 64)).map (dataWord x)
  match wselPick word (v.rd f.a).toNat with
  | .backend n => (d64 n, x)
  | .unhealthy => (0xFFFF, wselNone x)
  | .out => (0xFFFF, toob x)

def execTwWsel (sl : SliceId) (th : Thread) (f : TwFields) (s : State) : Res := twStep sl th 0x53 f (logged f (wselRead f)) s

def colourOf : Nat → Colour
  | 0 => .green | 1 => .yellow | _ => .red

def colourCode : Colour → Nat
  | .green => 0 | .yellow => 1 | .red => 2

/-- pol charges at issue (R299). The pre-colour 0b11 is not stated. -/
def polRead (f : TwFields) (v : Snap) (t : ThreadSt) (x : Slice) : Dword × Slice :=
  let c := (v.rd f.a).toNat % 4
  let p : Nat × Slice := if c = 3 then let w := freeW x; (w.1.toNat % 3, w.2) else (c, x)
  let r := polCharge p.2 (fld f.imm 13 0) t.pkt.frame.length (colourOf p.1)
  (d64 (colourCode r.1), r.2)

def execTwPol (sl : SliceId) (th : Thread) (f : TwFields) (s : State) : Res := twStep sl th 0x54 f (logged f (polRead f)) s

/-- emit records the template and its patch values (R302). -/
def emitEff (f : TwFields) : TwEffect := fun v t x =>
  let np := f.mod.toNat % 8
  let ps := (List.range np).map fun k => v.rd (f.a + BitVec.ofNat 5 k)
  ({ t with emits := t.emits ++ [⟨tableOf f, tableIndex f (v.rd f.b), t.pkt.epoch, ps⟩] }, x)

def execTwEmit (sl : SliceId) (th : Thread) (f : TwFields) (s : State) : Res := twStep sl th 0x55 f (emitEff f) s

/-! ### Unit X: hashes -/

def execTwCrc (sl : SliceId) (th : Thread) (f : TwFields) (s : State) : Res :=
  twStep sl th 0x60 f (regEff f fun v => crcVal (f.mod.toNat % 8 + 1) (v.rd f.a) (v.rd f.b)) s
def execTwChash (sl : SliceId) (th : Thread) (f : TwFields) (s : State) : Res :=
  twStep sl th 0x61 f (regEff f fun v => chashVal (v.rd f.a) (v.rd f.b)) s

/-! ### Unit K: flow control and actions (R300, R301) -/

/-- fctl changes F0 of the image; on a stateless packet it is discarded (R287). -/
def fctlEff (g : Dword → Dword) : TwEffect := fun _ t x =>
  (if t.idx.isSome then { t with f := setNth t.f 0 (g (rcdW t.f 0)) } else t, x)

def execFctlDset (sl : SliceId) (th : Thread) (f : TwFields) (s : State) : Res :=
  twStep sl th 0x70 { f with mod := 0 } (fctlEff fun d => d ||| d64 (f.imm.toNat &&& 0xFFFC)) s
def execFctlDclr (sl : SliceId) (th : Thread) (f : TwFields) (s : State) : Res :=
  twStep sl th 0x70 { f with mod := 1 } (fctlEff fun d => d &&& ~~~ d64 (f.imm.toNat &&& 0xFFFC)) s
def execFctlState (sl : SliceId) (th : Thread) (f : TwFields) (s : State) : Res :=
  twStep sl th 0x70 { f with mod := 2 } (fctlEff fun d => if fld f.imm 1 0 = 3 then d else dset d 62 61 (fld f.imm 1 0)) s
def execFctlTsel (sl : SliceId) (th : Thread) (f : TwFields) (s : State) : Res :=
  twStep sl th 0x70 { f with mod := 3 } (fctlEff fun d => dset d 60 59 (fld f.imm 1 0)) s
def execFctlSync (sl : SliceId) (th : Thread) (f : TwFields) (s : State) : Res :=
  twStep sl th 0x70 { f with mod := 4 } (thrEff fun _ t => if t.idx.isSome then { t with sync := true } else t) s

def fwdEff (f : TwFields) : TwEffect := thrEff fun v t =>
  let q := if bit f.mod.toNat 3 then BitVec.ofNat 3 (f.mod.toNat % 8) else t.qclass
  let h := if wbit f.imm 31 then BitVec.ofNat 16 ((v.rd f.a).toNat % 65536) else t.dflt
  let aq : Option (BitVec 14) := if wbit f.imm 30 then some (BitVec.ofNat 14 (fld f.imm 29 16)) else none
  { t with qclass := q, disp := .forward h q aq }

def execTwFwd (sl : SliceId) (th : Thread) (f : TwFields) (s : State) : Res := twStep sl th 0x80 f (fwdEff f) s
def execTwDrop (sl : SliceId) (th : Thread) (f : TwFields) (s : State) : Res :=
  twStep sl th 0x81 f (thrEff fun _ t => { t with disp := .drop (BitVec.ofNat 4 (fld f.imm 3 0)) }) s
def execTwPunt (sl : SliceId) (th : Thread) (f : TwFields) (s : State) : Res :=
  twStep sl th 0x82 f (thrEff fun _ t => { t with disp := .punt (BitVec.ofNat 8 (fld f.imm 7 0)) }) s
def execTwMirror (sl : SliceId) (th : Thread) (f : TwFields) (s : State) : Res :=
  twStep sl th 0x83 f (thrEff fun _ t => { t with mirror := some (BitVec.ofNat 4 (fld f.imm 3 0)) }) s
def execTwRecirc (sl : SliceId) (th : Thread) (f : TwFields) (s : State) : Res :=
  twStep sl th 0x84 f (thrEff fun _ t =>
    { t with disp := .recirc (BitVec.ofNat 8 (fld f.imm 7 0)) (bit f.mod.toNat 0) (BitVec.ofNat 8 (fld f.imm 15 8)) }) s

/-! ### Unit C: branches and the end -/

def execTwBr (sl : SliceId) (th : Thread) (f : TwFields) (s : State) : Res :=
  twStep sl th 0x90 f (thrEff fun _ t => { t with branch := some (t.pc + fld f.imm 8 0) }) s
def execTwEnd (sl : SliceId) (th : Thread) (f : TwFields) (s : State) : Res :=
  twStep sl th 0x91 f (thrEff fun _ t => { t with ending := true }) s

end Sys2Proof.Machine
end

