-- ==== Sys2Proof/Machine/Damask.lean ====
section
/-! DEFINITION. The Damask dispatcher and the commit unit: placement, hand-off, re-runs, commits, synchronous holds and
emitted frames (R260, R275, R282, R283, R302 to R305, R311, R320). -/

namespace Sys2Proof.Machine

def busyThreads (x : Slice) : Nat := x.threads.length

/-! ### Placement (R283, R285, R311) -/

/-- Whether the bundle before an entry is a seal with VER 1. -/
def sealBefore (x : Slice) (old : Bool) (e : Nat) : Bool :=
  decide (0 < e) && decide (e ≤ progSize) && decide ((bundleWord x old (e - 1) 0) >>> 48 = 0xFE01)

def sealRel (x : Slice) (old : Bool) (e : Nat) : Nat := bits (bundleWord x old (e - 1) 0) 38 30

/-- A packet whose entry has no seal is dropped; its mirror copy is made (R203, R311). -/
def badEntry (x : Slice) (p : Packet) : Slice := mirrorOnly (flagRaise (count x kDMK 0x2040 1) kDMK 0x100 3 5) p

/-- A thread placed for a packet; without an image it waits for its predecessor's. -/
def startThread (th seq rel : Nat) (r : Ready) (img : Option (List Dword)) : ThreadSt :=
  let q := BitVec.ofNat 3 (actQClass r.pkt.act)
  let g := List.replicate 16 (0 : Dword)
  let p := List.replicate 8 false
  let t : ThreadSt :=
    { th := th, pkt := r.pkt, idx := r.idx, seq := seq, entry := r.prog, rel := rel, input := g, dflt := r.handle, g := g, f := g,
      p := p, frame := r.pkt.frame, pc := r.prog, slot := 0, snap := ⟨g, g, p⟩, branch := none, ending := false,
      ended := false, qclass := q, disp := .forward r.handle q none, tabs := [], emits := [], mirror := none, sync := false,
      released := false, relImage := g, log := [], logPos := 0, rerun := false, rewritten := false, waits := true }
  match img with
  | some v => beginThread t v
  | none => t

/-- The flow of a packet: its record, or for a stateless packet its key. -/
def flowOf (x : Slice) (idx : Option Nat) (p : Packet) : Option Nat × Option FKey :=
  match idx with
  | some i => (some i, none)
  | none => (none, buildKey x p)

/-- The oldest packet of a pipeline that follows no packet of its flow that waits (R260). -/
def nextReady (x : Slice) (pipe : Pipe) : Option Ready :=
  (x.ready.filter fun r => r.pkt.pipe = pipe).find? fun r =>
    !((x.ready.takeWhile fun q => q.pkt.id ≠ r.pkt.id).any fun q => decide (flowOf x q.idx q.pkt = flowOf x r.idx r.pkt))

/-- DISPATCH: a packet of a pipeline is placed on a free thread. It starts its program once its predecessor has passed its
release point; a packet whose entry has no seal is dropped. -/
def dispatchNext (x : Slice) (pipe : Pipe) : Slice :=
  match nextReady x pipe, placeThread x with
  | some r, some th =>
    let y := { x with ready := x.ready.filter (·.pkt.id ≠ r.pkt.id) }
    let old := isOld x r.pkt.epoch
    if !sealBefore x old r.prog then retryWays (badEntry y r.pkt)
    else
      let t := startThread th y.seqNo (sealRel x old r.prog) r (inputImage x r.idx y.seqNo)
      let y := count { y with threads := y.threads ++ [t], seqNo := y.seqNo + 1 } kDMK 0x2000 1
      hwmFld y kDMK 0x120 31 23 (busyThreads y)
  | _, _ => x

def execDispatch (sl : SliceId) (pipe : Pipe) (s : State) : Res :=
  onAlive sl (fun x => if accepts x kDMK && decide (x.rerunq = []) then pump (dispatchNext x pipe) else x) s

/-- A packet runs again from its kept input, with its replay log (R305); its hand-off is not repeated (R304). -/
def restartThread (t : ThreadSt) (th : Nat) : ThreadSt :=
  let r : Ready := ⟨t.pkt, t.idx, t.dflt, t.entry⟩
  { startThread th t.seq t.rel r (if t.waits then none else some t.input) with released := t.released, relImage := t.relImage, log := t.log, rerun := true }

/-- RERUN_DISPATCH: the oldest packet of a fenced engine goes to another thread. -/
def execRerunDispatch (sl : SliceId) (s : State) : Res :=
  onAlive sl (fun x =>
    match x.rerunq, placeThread x with
    | t :: ts, some th =>
      if !serves x kDMK then x
      else
        let x := count { x with rerunq := ts, threads := x.threads ++ [restartThread t th] } kDMK 0x2010 1
        hwmFld x kDMK 0x120 31 23 (busyThreads x)
    | _, _ => x) s

/-! ### Commit: records and tables (R252, R272, R297, R303) -/

/-- The record after a commit: program words from the image, the rest from the record itself, then F3 to F5. -/
def commitRecord (x : Slice) (t : ThreadSt) (r : List Dword) : List Dword :=
  let f0 := rcdW r 0
  let i0 := rcdW t.f 0
  let f0' := dset (dset (dset f0 62 61 (dbits i0 62 61)) 60 59 (dbits i0 60 59)) 15 0 (dbits i0 15 0)
  let r' := f0' :: (r.drop 1).take 5 ++ t.f.drop 6
  match t.disp with
  | .recirc _ _ _ => if t.pkt.pass2 then countPacket x t.pkt r' else r'
  | _ => countPacket x t.pkt r'

/-- Durable words of a half that a commit changes. -/
def durableChange (old new : List Dword) (lo n : Nat) : Bool :=
  (List.range n).any fun k => bit (rDurable new) (lo + k) && decide (rcdW old (lo + k) ≠ rcdW new (lo + k))

/-- Whether a record is logged after a commit (R271). -/
def logsNow (x : Slice) (i : Nat) (r : List Dword) : Bool := decide (i ∈ x.logged) || decide (rDurable r >>> 2 ≠ 0)

/-- The halves of a record that a commit marks; none where it adds nothing to the log. -/
def logMarks (x : Slice) (i : Nat) (old new : List Dword) (sync : Bool) : Option (Bool × Bool) :=
  let first := decide (i ∉ x.logged)
  let a := durableChange old new 0 8 || first
  let b := durableChange old new 8 8 || (first && decide (rDurable new >>> 8 ≠ 0))
  if logsNow x i new && (a || b || sync) then some (a, b) else none

/-- The log's part in a commit. -/
def logCommit (x : Slice) (k : FKey) (i : Nat) (old new : List Dword) (sync : Bool) : Slice :=
  match logMarks x i old new sync with
  | none => x
  | some (a, b) => logMark { x with logged := insNat x.logged i } k i a b sync (stampF3 (stampNow x (flowTb x)))

/-- One table write of a commit. -/
def applyTab (x : Slice) (w : TabWrite) : Slice :=
  if !w.inRange then toob x
  else match w.op with
    | none => dataPut x w.word w.val
    | some m => dataPut x w.word (taddWord m (dataWord x w.word) w.val)

/-! ### Commit: dispositions (R301, R345, R356) -/

/-- The DEI bit of an outermost 802.1Q tag at frame offset 12; none where there is no tag. -/
def tagDei (bs : Bytes) : Option Bool :=
  if beAt bs 12 2 = 0x8100 ∨ beAt bs 12 2 = 0x88A8 then some (bit (beAt bs 14 1) 4) else none

def setDei (bs : Bytes) : Bytes :=
  if (tagDei bs).isSome then overlay bs 14 [BitVec.ofNat 8 (beAt bs 14 1 ||| 16)] else bs

/-- The classifier's policer: the frame to forward and whether it is green; none where it drops the frame. -/
def classPolice (x : Slice) (p : Packet) (bs : Bytes) : Option (Bytes × Bool) × Slice :=
  match actPol p.act with
  | none => (some (bs, true), x)
  | some n =>
    let r := polCharge x n p.frame.length (if tagDei bs = some true then .yellow else .green)
    let w0 := polW x n 0
    let act : Nat := match r.1 with
      | Colour.green => 0
      | Colour.yellow => fld w0 27 26
      | Colour.red => fld w0 25 24
    if 2 ≤ act then (none, count r.2 kTMG 0x4208 1)
    else (some (if act = 1 then setDei bs else bs, decide (r.1 = .green)), r.2)

/-- A packet's frame with the program's rewrites. -/
def programFrame (p : Packet) (bs : Bytes) : Frame := { packetFrame p with bytes := bs }

/-- A program's RECIRC: a second pass with the extraction buffer cleared, or its fallback (R196, R301). -/
def programRecirc (x : Slice) (p : Packet) (bs : Bytes) (stored : Option Nat) (mirrors : List Nat) (node : Nat) (fb : Bool)
    (reason : Byte) (q : Fin 8) : Slice :=
  if p.pass2 then
    let x := flagRaise (count x kCLS 0x1810 1) kCLS 0x100 3 3
    disposeStored x stored (programFrame p bs) mirrors (if fb then .punt q reason else .drop)
  else
    let x := match mirrors with
      | [] => x
      | ms => disposeFrame x (programFrame p bs) ms .drop
    { x with recirc := x.recirc ++ [{ p with frame := bs, again := some (node, 0, false) }] }

/-- Acts a disposition, with the mirror copies made before it; a frame kept for a mirror copy is the packet's own. -/
def actDisposition (x : Slice) (p : Packet) (bs : Bytes) (stored : Option Nat) (mirrors : List Nat) (d : Disp) (qc : Nat) :
    Slice :=
  match d with
  | .drop k => disposeStored (count x kDMK (0x2100 + 8 * k.toNat) 1) stored (programFrame p bs) mirrors .drop
  | .punt reason => disposeStored x stored (programFrame p bs) mirrors (.punt (clsOf qc) reason)
  | .recirc node fb reason => programRecirc x p bs stored mirrors node.toNat fb reason (clsOf qc)
  | .forward h q aq =>
    let r := classPolice x p bs
    match r.1 with
    | none => disposeStored r.2 stored (programFrame p bs) mirrors .drop
    | some (bs', green) =>
      let f := { programFrame p bs' with green := green }
      disposeStored r.2 stored f mirrors (.handle h.toNat q.toNat aq)

/-! ### Emitted frames (R302) -/

/-- Words of a template; none where one is out of range. -/
def templateWords (x : Slice) (e : EmitRec) (first n : Nat) : Option (List Dword) :=
  (List.range n).mapM fun k =>
    (tableWord x (isOld x e.epoch) e.tbl ((e.idx + first + k) % 2 ^ 64)).map (dataWord x)

/-- Patch k of a frame. -/
def patchFrame (w1 : Dword) (ps : List Dword) (bs : Bytes) (k : Nat) : Bytes :=
  let d := (w1.toNat >>> (48 - 16 * k)) % 65536
  let w := d % 16
  match ps[k]? with
  | some v => if 1 ≤ w ∧ w ≤ 8 then overlay bs (bits d 15 8) (beBytes w v.toNat) else bs
  | none => bs

/-- The handle and bytes of an emitted frame; none where the template is out of range or its LEN is not 60 to 256. -/
def emitFrame (x : Slice) (e : EmitRec) : Option (Nat × Bytes) :=
  match templateWords x e 0 2 with
  | some [w0, w1] =>
    let len := bits w0.toNat 63 48
    if len < 60 ∨ 256 < len then none
    else (templateWords x e 2 (cdiv len 8)).map fun ws =>
      let bs := (ws.flatMap dwordBytes).take len
      let bs := (List.range 4).foldl (patchFrame w1 e.patches) bs
      let bs := if bit w0.toNat 31 then overlay bs (bits w0.toNat 23 16 + 10) (beBytes 2 (ip4Checksum bs (bits w0.toNat 23 16))) else bs
      let bs := if bit w0.toNat 30 then overlay bs (bits w0.toNat 15 8) [0, 0] else bs
      (bits w0.toNat 47 32, bs)
  | _ => none

/-- Copies of an emitted frame into the reflex queues of a port list. -/
def reflexCopies (x : Slice) (frm len h : Nat) : List Nat → List Copy × Slice
  | [] => ([], x)
  | p :: ps =>
    let k := mkCopy x frm len (laneOf p) (.reflex (laneOf p))
    let r := reflexCopies k.2 frm len h ps
    ({ k.1 with vid := handleVid x h, dmac := handleDmac x h } :: r.1, r.2)

/-- Places an emitted frame where its handle says (R302, R365). -/
def sendEmitted (x : Slice) (h : Nat) (bs : Bytes) : Slice :=
  let w := handleW x h 0
  let t := fld w 15 0
  if !wbit w 31 then badHandle x
  else
    let d := draftFrame bs (if fld w 30 28 = 2 then 16 else 18) 2 none (some (stampNow x 0)) (curEpoch x)
    match fld w 30 28 with
    | 0 =>
      if 15 < t ∨ !isPort x t then badHandle x
      else
        let r := storeFrame x d
        let k := mkCopy r.2 r.1 bs.length (laneOf t) (.reflex (laneOf t))
        releaseFrame (admitReflex k.2 { k.1 with vid := handleVid x h, dmac := handleDmac x h }) r.1
    | 1 =>
      match copySet x t none with
      | [] => count x kSWC 0x1208 1
      | ps =>
        let r := storeFrame x d
        let c := reflexCopies r.2 r.1 bs.length h ps
        setFrame c.2 { d with id := r.1, copies := c.1 }
    | 2 =>
      let r := storeFrame x d
      releaseFrame (puntCopy r.2 r.1 bs.length 0 0 (BitVec.ofNat 8 (fld w 23 16))) r.1
    | _ => x

/-- One emit of a commit. -/
def applyEmit (x : Slice) (e : EmitRec) : Slice :=
  match emitFrame x e with
  | none => toob x
  | some (h, bs) => sendEmitted (count x kDMK 0x2030 1) h bs

/-! ### Holds (R275, R320) -/

/-- Steps 5 and 6 of a commit, the mirror copies made. -/
def finishCommit (x : Slice) (p : Packet) (bs : Bytes) (stored : Option Nat) (d : Disp) (qc : Nat) (es : List EmitRec) : Slice :=
  let x := actDisposition x p bs stored [] d qc
  es.foldl applyEmit (match stored with
    | some id => releaseFrame x id
    | none => x)

/-- Releases a held packet. -/
def releaseHeld (x : Slice) (h : Held) : Slice :=
  retryWays (finishCommit { x with held := x.held.filter (·.pkt.id ≠ h.pkt.id) } h.pkt h.frame h.frm h.disp h.qclass.toNat
    h.emits)

/-- A synchronous write that the twin cannot protect. -/
def unprotected (x : Slice) : Slice := raise (count x kFLW 0x1088 1) kFLW 3

/-- The link went down while synchronous writes waited: every held packet goes at once (R275). -/
def releaseAllHeld (x : Slice) : Slice := x.held.foldl (fun x h => releaseHeld (unprotected x) h) x

def asLogAck : TwinMsg → Option Nat
  | .logAck n => some n
  | _ => none

/-- SYNC_ACK: the twin's acknowledgement of a SYNC entry releases the packets that wait for it. -/
def execSyncAck (sl : SliceId) (s : State) : Res :=
  onStarted sl (fun x =>
    match takeMsg asLogAck x.inbox with
    | none => x
    | some (n, ms) =>
      (x.held.filter fun h => h.lseq = some n).foldl releaseHeld { x with inbox := ms }) s

/-- SYNC_TIMEOUT: 3 µs have passed since the commit. -/
def execSyncTimeout (sl : SliceId) (pkt : Nat) (s : State) : Res :=
  onStarted sl (fun x =>
    match x.held.find? (·.pkt.id = pkt) with
    | none => x
    | some h => releaseHeld (count x kFLW 0x1080 1) h) s

/-! ### Commit (R303) -/

/-- Two packets of one flow, or two stateless packets of one key (R260). -/
def sameFlow (x : Slice) (a b : ThreadSt) : Bool := decide (flowOf x a.idx a.pkt = flowOf x b.idx b.pkt)

/-- The commit would add its record to a full log queue (R272). -/
def logHolds (x : Slice) (t : ThreadSt) (i : Nat) : Bool :=
  replicates x && logFull x i
  && (hotByIdx x i).any fun h => (logMarks x i h.rcd (commitRecord x t h.rcd) t.sync).isSome

/-- A commit that must wait: for its predecessor, a packet of its flow held, the log queue or the hold buffer. -/
def commitWaits (x : Slice) (t : ThreadSt) : Bool :=
  ((uncommitted x).any fun u => decide (u.seq < t.seq) && sameFlow x u t)
  || (t.idx.any fun i => (x.held.any fun h => h.idx = i) || logHolds x t i)
  || (t.sync && replicates x && decide (1024 ≤ x.held.length))

/-- Mirror sessions of a committed packet: the classifier's, then the program's. -/
def commitMirrors (t : ThreadSt) : List Nat := mirrorsOf t.pkt.act ++ (t.mirror.map (·.toNat)).toList

/-- Where a thread's disposition sends its frame. -/
def commitDest (t : ThreadSt) : Dest :=
  let qc := clsOf t.qclass.toNat
  match t.disp with
  | .forward h q aq => .handle h.toNat q.toNat aq
  | .punt r => .punt qc r
  | .recirc _ fb r => if t.pkt.pass2 && fb then .punt qc r else .drop
  | .drop _ => .drop

/-- Whether the switch core takes what a commit offers it. -/
def commitTaken (x : Slice) (t : ThreadSt) : Bool :=
  offerTaken x (ingressSlot t.pkt) (commitMirrors t) (commitDest t)
  && (decide (t.emits = []) || (portTakes x 2 && accepts x kTMG))

/-- The mirror copies of a synchronous commit (step 4), and the frame stored where a copy shares its cells (R341). -/
def mirrorsFirst (x : Slice) (t : ThreadSt) : Option Nat × Slice :=
  match commitMirrors t with
  | [] => (none, x)
  | ms =>
    let r := storeMirrored x (programFrame t.pkt t.frame) ms (commitDest t)
    if (allCopies r.2).any (·.frm = r.1.id) then (some r.1.id, r.2) else (none, releaseFrame r.2 r.1.id)

/-- The effects of a commit, in order. -/
def commitThread (x : Slice) (t : ThreadSt) : Slice :=
  let x := { x with threads := x.threads.filter (·.th ≠ t.th) }
  let rec' := t.idx.bind (hotByIdx x)
  let x := match rec' with
    | some h =>
      let r := commitRecord x t h.rcd
      logCommit (setHot x { h with rcd := r, dirty := true }) h.fkey h.idx h.rcd r t.sync
    | none => x
  let x := t.tabs.foldl applyTab x
  let ms := commitMirrors t
  let qc := t.qclass.toNat
  if !t.sync then t.emits.foldl applyEmit (actDisposition x t.pkt t.frame none ms t.disp qc)
  else
    let x := count (count x kDMK 0x2038 1) kFLW 0x1078 1
    let (frm, x) := mirrorsFirst x t
    if !replicates x then finishCommit (unprotected x) t.pkt t.frame frm t.disp qc t.emits
    else
      let h : Held := ⟨t.pkt, t.idx.getD 0, t.seq, none, true, t.disp, t.qclass, t.emits, t.frame, frm⟩
      let x := { x with held := x.held ++ [h] }
      hwmFld x kDMK 0x140 26 16 x.held.length

/-- COMMIT. -/
def execCommit (sl : SliceId) (th : Thread) (s : State) : Res :=
  onAlive sl (fun x =>
    match threadOf x th.val with
    | none => x
    | some t =>
      if !t.ended || !serves x kDMK || commitWaits x t || !commitTaken x t then x else pump (retryWays (commitThread x t))) s

end Sys2Proof.Machine
end

