-- ==== Sys2Proof/Machine/Sync.lean ====
section
/-! DEFINITION. The state-sync log at both ends: sending an entry, the resync walk, and applying entries to the shadow
(R271 to R276, R483, R484). -/

namespace Sys2Proof.Machine

/-! ### TWN_RSST -/

def txst (x : Slice) : Nat := regFld x kTWN 0x130 31 30
def rxst (x : Slice) : Nat := regFld x kTWN 0x130 29 28
def setTxst (x : Slice) (v : Nat) : Slice := regPut x kTWN 0x130 31 30 v
def setRxst (x : Slice) (v : Nat) : Slice := regPut x kTWN 0x130 29 28 v

def txAwait : Nat := 1
def txWalking : Nat := 2
def txDone : Nat := 3
def rxClearing : Nat := 1
def rxReceiving : Nat := 2
def rxDone : Nat := 3

/-! ### Sending (R273, R274) -/

/-- Sends one entry under the next LOGSEQ. -/
def sendEntry (x : Slice) (e : LogEntry) : Slice :=
  let n := pairGet x kFLW 0x158 + 1
  sendTwin (pairSet (if e.walk then count x kTWN 0x1000 1 else count x kFLW 0x1068 1) kFLW 0x158 n) (.log { e with seq := n })

def keyBlock (key : Bytes) : List Dword := bytesDwords (pad48 key ++ List.replicate 16 0)

/-- A NEW entry of a record. -/
def newEntry (k : FKey) (i : Nat) (r : List Dword) (t : Dword) (walk : Bool) : LogEntry :=
  ⟨0, 1, false, i, rDurable r, k.kp, k.klen, k.key, t, some (keyBlock k.key), some (r.take 8), walk⟩

/-- An UPD entry of the halves that are dirty. -/
def updEntry (k : FKey) (i : Nat) (r : List Dword) (t : Dword) (a b sync walk : Bool) : LogEntry :=
  ⟨0, 2, sync, i, rDurable r, k.kp, k.klen, k.key, t, if a then some (r.take 8) else none,
    if b then some ((r.drop 8).take 8) else none, walk⟩

def delEntry (k : FKey) (i dmask : Nat) (t : Dword) : LogEntry :=
  ⟨0, 3, false, i, dmask, k.kp, k.klen, k.key, t, some (keyBlock k.key), none, false⟩

/-- Sets F0.SHADOWED, as the sending of a NEW entry does. -/
def markShadowed (x : Slice) (i : Nat) (r : List Dword) : List Dword × Slice :=
  let r' := setNth r 0 (dset (rcdW r 0) 51 51 1)
  (r', if rShadowed r then x else putRecord x i r')

/-- `n` entries that waited longer than 50 µs (R274). -/
def logLate (x : Slice) (t : Dword) (n : Nat) : Slice :=
  if 50000 < idleNs x t then flagRaise (count x kFLW 0x1070 n) kFLW 0x100 2 2 else x

/-- Sends a waiting entry with the record's contents at the moment of sending. -/
def sendLogItem (x : Slice) (e : LogItem) : Slice :=
  let k : FKey := ⟨e.kp, e.klen, e.key⟩
  let x := { x with logq := x.logq.erase e }
  if e.isDel then sendEntry (logLate x e.first 1) (delEntry k e.idx e.dmask e.tcommit)
  else match authRecord x e.idx with
    | (none, x) => x
    | (some r, x) =>
      let x := logLate x e.first (if !rShadowed r && e.dirtyB then 2 else 1)
      let x :=
        if rShadowed r then sendEntry x (updEntry k e.idx r e.tcommit e.dirtyA e.dirtyB e.sync false)
        else
          let m := markShadowed x e.idx r
          let x := sendEntry m.2 { newEntry k e.idx m.1 e.tcommit false with sync := e.sync && !e.dirtyB }
          if e.dirtyB then sendEntry x (updEntry k e.idx m.1 e.tcommit false true e.sync false) else x
      -- the packets that wait for this entry learn its number
      if e.sync then
        let n := pairGet x kFLW 0x158
        { x with held := x.held.map fun h => if h.idx = e.idx ∧ h.sync ∧ h.lseq = none then { h with lseq := some n } else h }
      else x

/-- The link carries the log: UP, and the twin's shadow cleared. -/
def logOpen (x : Slice) : Bool := linkIsUp x && decide (txWalking ≤ txst x)

/-- LOG_ENTRY_SEND: the entry at the head of the log is sent. -/
def execLogEntrySend (sl : SliceId) (s : State) : Res :=
  onLink sl (fun x =>
    match x.logq with
    | e :: _ => if logOpen x then sendLogItem x e else x
    | [] => x) s

/-! ### The resync walk (R483) -/

/-- The next record index at or after `i` whose record has durable words, with its key and record. -/
def nextLogged (x : Slice) (i : Nat) : Option (Nat × FKey × List Dword) :=
  x.recUsed.findSome? fun j =>
    if j < i then none
    else match (authRecord x j).1, keyOfRecord x false j with
      | some r, some k => if rDurable r / 4 ≠ 0 then some (j, k, r) else none
      | _, _ => none

/-- END goes out after the last index. -/
def endWalk (x : Slice) : Slice := raise (sendTwin (setTxst x txDone) .endResync) kFLT 5

/-- RESYNC_WALK: NEW and UPD of the next logged record, or END after the last index. -/
def execResyncWalk (sl : SliceId) (s : State) : Res :=
  onLink sl (fun x =>
    if !linkIsUp x || decide (txst x ≠ txWalking) then x
    else match nextLogged x (regFld x kTWN 0x130 23 0) with
      | some (i, k, r) =>
        let m := markShadowed x i r
        let t := rcdW r 3
        let x := sendEntry m.2 (newEntry k i m.1 t true)
        let x := sendEntry x (updEntry k i m.1 t false true false true)
        if i + 1 < 2 ^ 24 then regPut x kTWN 0x130 23 0 (i + 1) else endWalk x
      | none => endWalk x) s

/-! ### The shadow (R276, R277, R483) -/

def asLog : TwinMsg → Option LogEntry
  | .log e => some e
  | _ => none

def shRecAddr (x : Slice) (i : Nat) : Nat := recordAddr x true i

def putBlock (x : Slice) (i half : Nat) (b : Option (List Dword)) : Slice :=
  match b with
  | some ds => dramStore x portTws (shRecAddr x i + 64 * half) (recordBytes ds)
  | none => x

/-- A NEW or an entry that finds no room, or no readable bucket. -/
def shFull (x : Slice) : Slice := count x kFLW 0x1090 1

/-- A NEW entry that is discarded. -/
def refuseNew (x : Slice) (i : Nat) : Slice := { shFull x with shRefused := insNat x.shRefused i }

/-- Applies one entry; `err` where the read of a shadow bucket returns an error. -/
def applyEntry (x : Slice) (e : LogEntry) (err : Bool) : Slice :=
  let k : FKey := ⟨e.kp, e.klen, e.key⟩
  let y := { x with shRefused := x.shRefused.filter (· ≠ e.idx) }
  if e.kind = 1 then
    if err then refuseNew x e.idx
    else
      let r := shInsert y k e.idx
      if r.1 then putBlock r.2 e.idx 0 e.blockB else refuseNew r.2 e.idx
  else if e.kind = 2 then putBlock (putBlock x e.idx 0 e.blockA) e.idx 1 e.blockB
  else if err then y
  else shRemove y k e.idx

/-- The shadow takes entries: FOLLOWING, PROMOTING, or being resynced. -/
def shTakes (x : Slice) : Bool :=
  decide (shadState x = shFollowing) || decide (shadState x = shPromoting) || decide (rxst x = rxReceiving)

/-- LOG_ENTRY_APPLY: the oldest entry received is applied, and a SYNC entry acknowledged unless the shadow does not hold its
key (R275, R279). -/
def execLogEntryApply (sl : SliceId) (err : Bool) (s : State) : Res :=
  onLink sl (fun x =>
    if !shTakes x then x
    else match takeMsg asLog x.inbox with
      | none => x
      | some (e, ms) =>
        let x := pairSet (applyEntry { x with inbox := ms } e err) kFLW 0x168 e.seq
        if e.sync && decide (e.idx ∉ x.shRefused) && linkIsUp x then sendTwin x (.logAck e.seq) else x) s

/-- Clears a DRAM region. -/
def clearRegion (x : Slice) (lo n : Nat) : Slice :=
  { x with dram := x.dram.filter fun p => !(decide (lo ≤ p.1) && decide (p.1 < lo + n)),
           poison := x.poison.filter fun w => !(decide (lo ≤ 32 * w) && decide (32 * w + 32 ≤ lo + n)) }

/-- Shadow buckets, stash and records become empty. -/
def clearShadow (x : Slice) : Slice :=
  clearRegion (clearRegion { x with shStash := [], shRefused := [] } (region x kFLW 0x138) (2 ^ 22 * 256)) (region x kFLW 0x13C) (2 ^ 24 * 128)

/-- SHADOW_CLEAR_DONE: the shadow is clear, and CLEARED is sent. -/
def execShadowClearDone (sl : SliceId) (s : State) : Res :=
  onLink sl (fun x =>
    if linkIsUp x && decide (rxst x = rxClearing) then sendTwin (setRxst (clearShadow x) rxReceiving) .cleared else x) s

def asCleared : TwinMsg → Option Unit
  | .cleared => some ()
  | _ => none

/-- CLEARED: the twin's shadow is clear, so that it holds none, and the walk starts. -/
def execCleared (sl : SliceId) (s : State) : Res :=
  onLink sl (fun x =>
    match takeMsg asCleared x.inbox with
    | none => x
    | some (_, ms) =>
      let x := { x with inbox := ms }
      if linkIsUp x then regPut (regPut (setTxst x txWalking) kTWN 0x130 23 0 0) kTWN 0x130 26 26 0 else x) s

/-- END with no log entry before it. -/
def takeEnd : List TwinMsg → Option (List TwinMsg)
  | [] => none
  | .endResync :: ms => some ms
  | .log _ :: _ => none
  | m :: ms => (takeEnd ms).map (m :: ·)

/-- END_OF_RESYNC: every entry before END has been applied, and the shadow follows. -/
def execEndOfResync (sl : SliceId) (s : State) : Res :=
  onLink sl (fun x =>
    if rxst x ≠ rxReceiving then x
    else match takeEnd x.inbox with
      | none => x
      | some ms => raise (setShad (setRxst { x with inbox := ms } rxDone) shFollowing) kFLT 6) s

/-- A held promoted shadow is discarded, and resync proceeds from the clear (R485). -/
def releaseShadow (x : Slice) : Slice := setShad (setRxst (clrRegBit x kTWN 0x130 27) rxClearing) shFrozen

/-- A write of TWN_RJCTL. -/
def rjctlWrite (x : Slice) (v : Word) : Slice :=
  let x := regSet x kTWN 0x120 (w32 (v.toNat &&& 0xA01F0000))
  if wbit v 30 && regBit x kTWN 0x130 27 then releaseShadow x else x

def execRelease (sl : SliceId) (v : Word) (s : State) : Res :=
  onStarted sl (fun x => { rjctlWrite x v with bus := .done }) s

end Sys2Proof.Machine
end

