-- ==== Sys2Proof/Machine/Twn.lean ====
section
/-! DEFINITION. The twin link: bring-up, loss, heartbeats, transfers, and the loss of the twin (R12, R13, R149 to R153,
R278, R479, R483, R485). -/

namespace Sys2Proof.Machine

/-! ### TWN_LINK -/

def lsDown : Nat := 0
def lsTraining : Nat := 1
def lsAligning : Nat := 2
def lsUp : Nat := 3
def lsUp3 : Nat := 4
def lsUnpaired : Nat := 5
def lsPeerDisabled : Nat := 6

def linkState (x : Slice) : Nat := regFld x kTWN 0x100 31 28
def setLink (x : Slice) (st : Nat) : Slice := regPut x kTWN 0x100 31 28 st
def linkLanes (x : Slice) : Nat := regFld x kTWN 0x100 27 24
def lastDown (x : Slice) : Nat := regFld x kTWN 0x100 23 16

/-- LAST_DOWN codes. -/
def downCode : DownCause → Nat
  | .localDisable => 1 | .peerDisable => 2 | .lanes => 3 | .resends => 4 | .helloMismatch => 5 | .peerSleep => 6
  | .localSleep => 7

def beingTrained (x : Slice) : Bool := decide (linkState x = lsTraining) || decide (linkState x = lsAligning)

/-- What stays received when the link goes down: entries that a promotion still applies, and a DECLARED notice. -/
def keptMsg : TwinMsg → Bool
  | .log _ => true
  | .declared => true
  | _ => false

/-- TWIN trackers lose their source (R374, R482). -/
def twinHoldover (x : Slice) : Slice :=
  (List.range 8).foldl (fun x i =>
    if srcOf x (i / 2) (i % 2) = 2 ∧ trkState x (i / 2) (i % 2) ≠ tkLoop then setTrkState x (i / 2) (i % 2) tkHoldover else x) x

/-- The shadow freezes unless it is promoted or being promoted (R12, R277). -/
def freezeShadow (x : Slice) : Slice :=
  if shadState x = shPromoting ∨ shadState x = shPromoted then x else setShad x shFrozen

/-- Replication stops (R12): the log is discarded, resync ends, remote fetches fail, held packets go on unprotected. -/
def stopReplication (x : Slice) : Slice :=
  let x := { x with logq := [], unacked := [], inbox := x.inbox.filter keptMsg }
  let x := setRxst (setTxst x 0) 0
  releaseAllHeld (failRemotes (twinHoldover (freezeShadow x)))

/-- The link goes down in a state and with a cause; code 0 where R13 finds a link fault. -/
def linkDown (x : Slice) (st code : Nat) : Slice :=
  let up := linkIsUp x
  let x := regPut (setLink x st) kTWN 0x100 23 16 code
  let x := if code = 3 then x else regPut x kTWN 0x100 27 24 0
  if up then raise (stopReplication x) kTWN 1 else { x with unacked := [], inbox := x.inbox.filter keptMsg }

/-- The link goes down for a cause; DOWN and SLEEP notices go out before the lanes idle (R152). -/
def linkLost (x : Slice) (c : DownCause) : Slice :=
  let had := linkIsUp x
  let st := match c with
    | .peerDisable => lsPeerDisabled
    | .peerSleep => lsPeerDisabled
    | _ => lsDown
  let x := linkDown x st (downCode c)
  match c with
  | .localDisable => if had then sendTwin x .down else x
  | .localSleep => if had then sendTwin x .sleep else x
  | _ => x

/-- TWIN_LINK_DOWN. -/
def execTwinLinkDown (sl : SliceId) (c : DownCause) (s : State) : Res :=
  onLink sl (fun x => if linkIsUp x || beingTrained x then linkLost x c else x) s

def asNotice : TwinMsg → Option Bool
  | .down => some false
  | .sleep => some true
  | _ => none

/-- PEER_DOWN_NOTICE: the twin disabled the link or goes to sleep (R152). -/
def execPeerDownNotice (sl : SliceId) (s : State) : Res :=
  onStarted sl (fun x =>
    match takeMsg asNotice x.inbox with
    | none => x
    | some (z, ms) => linkLost { x with inbox := ms } (if z then .peerSleep else .peerDisable)) s

/-! ### Bring-up (R151) -/

/-- Both ends have TWN enabled and PAIRED. -/
def bothEnabled (s : State) (sl : SliceId) : Bool :=
  paired s sl && paired s (twin sl) && (s.slice sl).on && (s.slice (twin sl)).on
  && enabled (s.slice sl) kTWN && enabled (s.slice (twin sl)) kTWN

/-- The lanes of one end begin training, from a link that is not up. -/
def trainEnd (x : Slice) : Slice := if linkIsUp x then x else { setLink x lsTraining with unacked := [] }

/-- TWN became ENABLED at one end: at the later of the two enables both ends begin training; an unpaired slice sends
nothing. -/
def linkEnabled (s : State) (sl : SliceId) : State :=
  if !paired s sl then s.setSlice sl (setLink (s.slice sl) lsUnpaired)
  else if bothEnabled s sl then
    let s := s.setSlice sl (trainEnd (s.slice sl))
    s.setSlice (twin sl) (trainEnd (s.slice (twin sl)))
  else s.setSlice sl (setLink (s.slice sl) lsDown)

/-- A slice that holds a promoted shadow at link UP (R485). -/
def holdsShadow (x : Slice) : Bool := decide (shadState x = shPromoted) && regBit x kTWN 0x120 31

/-- TWIN_LINK_TRAINING_DONE: lanes locked and aligned; this end sends its hello. A link that fell for want of lanes or
acknowledgements, or after heartbeats stopped, trains again by itself. -/
def execTwinLinkTrainingDone (sl : SliceId) (s : State) : Res :=
  if bothEnabled s sl && !linkIsUp (s.slice sl) && !(decide (linkState (s.slice sl) = lsDown) && decide (lastDown (s.slice sl) = 5)) then
    onLink sl (fun x =>
      let x := regPut (setLink x lsAligning) kTWN 0x100 27 24 15
      sendTwin x (.hello sl.val true (holdsShadow x))) s
  else .next s

def asHello : TwinMsg → Option (Nat × Bool × Bool)
  | .hello n p h => some (n, p, h)
  | _ => none

/-- The next heartbeat (R153). -/
def sendHeartbeat (x : Slice) : Slice :=
  let n := (x.hbSeq + 1) % 2 ^ 32
  sendTwin { x with hbSeq := n }
    (.heartbeat x.id.val x.report (BitVec.ofNat 2 (regFld x kSLC 0x100 7 6)) n (pairGet x kFLW 0x158))

/-- The link reaches UP: the first heartbeat, and resync (R483, R485). -/
def linkComesUp (x : Slice) (peerHeld : Bool) : Slice :=
  let x := raise (setLink x (if popCount (linkLanes x) 4 = 4 then lsUp else lsUp3)) kTWN 0
  let x := { x with twinLost := false, inbox := x.inbox.filter fun m => (asLog m).isNone }
  let x := regPut x kTWN 0x110 27 24 0
  let x := regPut (setTxst x (if peerHeld then 0 else txAwait)) kTWN 0x130 26 26 peerHeld.toNat
  let x := if holdsShadow x then setRegBit (setRxst x 0) kTWN 0x130 27
    else releaseShadow x
  sendHeartbeat x

/-- HELLO: the twin's hello arrives while this end is aligning; the link needs three locked lanes (R150). -/
def execHello (sl : SliceId) (s : State) : Res :=
  onLink sl (fun x =>
    if linkState x ≠ lsAligning then x
    else match takeMsg asHello x.inbox with
      | none => x
      | some ((n, p, h), ms) =>
        let x := { x with inbox := ms }
        if popCount (linkLanes x) 4 < 3 then linkLost x .lanes
        else if n = (twin sl).val ∧ p then linkComesUp x h
        else linkLost x .helloMismatch) s

/-- HELLO_RETRY: 10 ms after a mismatch. -/
def execHelloRetry (sl : SliceId) (s : State) : Res :=
  if bothEnabled s sl then
    onStarted sl (fun x =>
      if linkState x = lsDown ∧ lastDown x = 5 then { setLink x lsTraining with unacked := [] } else x) s
  else .next s

/-! ### Transfers and lanes (R149, R150) -/

/-- TRANSFER_ACK. -/
def execTransferAck (sl : SliceId) (seq : Nat) (s : State) : Res :=
  onStarted sl (fun x => { x with unacked := x.unacked.filter (·.seq ≠ seq) }) s

/-- TRANSFER_RESEND: 2 µs without an acknowledgement; after 8 resends the link goes down. A link whose lanes idle resends
nothing. -/
def execTransferResend (sl : SliceId) (seq : Nat) (s : State) : Res :=
  onLink sl (fun x =>
    if !(linkIsUp x || beingTrained x) then x
    else match x.unacked.find? (·.seq = seq) with
    | none => x
    | some t =>
      if 8 ≤ t.resends then linkLost x .resends
      else satFld { x with unacked := x.unacked.map fun u => if u.seq = seq then { u with resends := u.resends + 1 } else u }
        kTWN 0x100 15 0 1) s

/-- A lane of the twin link loses or regains lock; below three lanes the link goes down. -/
def laneLock (x : Slice) (k : Nat) (locked : Bool) : Slice :=
  if regBit x kTWN 0x100 (24 + k) = locked then x
  else
    let x := raise (regPut x kTWN 0x100 (24 + k) (24 + k) locked.toNat) kTWN 2
    if !linkIsUp x then
      (if linkState x = lsAligning ∧ popCount (linkLanes x) 4 < 3 then linkLost x .lanes else x)
    else match popCount (linkLanes x) 4 with
      | 4 => setLink x lsUp
      | 3 => setLink x lsUp3
      | _ => linkLost x .lanes

/-- TWIN_LANE_LOCK. -/
def execTwinLaneLock (sl : SliceId) (k : Fin 4) (locked : Bool) (s : State) : Res := onLink sl (laneLock · k.val locked) s

/-! ### Heartbeats and the loss of the twin (R13, R153, R278, R479) -/

/-- Ways a loss is found: DETAIL of fault code 0x14. -/
def lostByHeartbeats : Nat := 0
def lostByHub : Nat := 1
def lostByBit : Nat := 2

/-- The slice declares its twin lost. -/
def declareTwinLost (x : Slice) (detail : Nat) : Slice :=
  if x.twinLost then x
  else
    let x := { x with twinLost := true }
    let x := raise (faultLog x fcSoft kTWN wholeBlock 0x14 detail) kTWN 4
    let x := if shadState x = shPromoted then x else setRxst (setShad x shPromoting) 0
    let x := protTwinLost (failRemotes (twinHoldover x))
    let x := if linkIsUp x then sendTwin x .declared else x
    { x with toHub := x.toHub ++ [⟨0x0009, d64 detail, none⟩] }

/-- HEARTBEAT_SEND: a slice whose time base domain runs. -/
def execHeartbeatSend (sl : SliceId) (s : State) : Res :=
  onLink sl (fun x => if linkIsUp x && !napping x then sendHeartbeat x else x) s

def asHeartbeat : TwinMsg → Option (Nat × Bool)
  | .heartbeat n f _ _ _ => some (n, f)
  | _ => none

/-- HEARTBEAT_RECEIVE. -/
def execHeartbeatReceive (sl : SliceId) (s : State) : Res :=
  onLink sl (fun x =>
    match takeMsg asHeartbeat x.inbox with
    | none => x
    | some ((n, f), ms) =>
      let x := { x with inbox := ms }
      if !linkIsUp x || decide (n ≠ (twin sl).val) then x
      else
        let x := regPut x kTWN 0x110 27 24 0
        if f then declareTwinLost x lostByBit else x) s

/-- The link was taken down by a third missed heartbeat while the hub showed the twin running. -/
def fellSilent (x : Slice) : Bool := decide (lastDown x = 0) && decide (3 ≤ regFld x kTWN 0x110 27 24)

/-- Heartbeats are expected: the link is up, or fell without a notice from either end. -/
def supervised (x : Slice) : Bool :=
  linkIsUp x
  || (enabled x kTWN && decide (linkState x = lsDown)
    && (decide (lastDown x = 3) || decide (lastDown x = 4) || fellSilent x))

/-- The hub answers and shows a slice running. -/
def hubShowsRunning (s : State) (sl : SliceId) : Bool :=
  hubUp s && ((s.hub.slices[sl.val]?).map (·.run)).getD false

/-- HEARTBEAT_INTERVAL: an interval without a valid heartbeat; at three the slice decides. -/
def execHeartbeatInterval (sl : SliceId) (s : State) : Res :=
  let running := hubShowsRunning s (twin sl)
  onLink sl (fun x =>
    if !supervised x then x
    else
      let m := min 15 (regFld x kTWN 0x110 27 24 + 1)
      let x := satFld (regPut x kTWN 0x110 27 24 m) kTWN 0x110 23 0 1
      let x := if m = 1 then raise x kTWN 3 else x
      if m < 3 then x
      else if running then (if linkIsUp x then linkDown x lsDown 0 else x)
      else declareTwinLost x lostByHeartbeats) s

/-- HUB_FAULT_REPORT: the hub passes on a fault report of the twin. -/
def execHubFaultReport (sl : SliceId) (s : State) : Res :=
  match s.hub.slices[(twin sl).val]? with
  | none => .next s
  | some h =>
    if h.fbits && hubUp s && paired s sl then
      let hub := { s.hub with slices := modNth s.hub.slices (twin sl).val fun h => { h with fbits := false } }
      onLink sl (fun x => declareTwinLost x lostByHub) { s with hub }
    else .next s

def asDeclared : TwinMsg → Option Unit
  | .declared => some ()
  | _ => none

/-- DECLARED: the notice comes over the link, or through the hub from a twin that has declared this slice lost. -/
def execDeclared (sl : SliceId) (s : State) : Res :=
  let byHub := (s.slice (twin sl)).twinLost && hubUp s
  onStarted sl (fun x =>
    match takeMsg asDeclared x.inbox, byHub with
    | none, false => x
    | r, _ =>
      let x := { x with inbox := (r.map (·.2)).getD x.inbox }
      if x.lost then x else raise (faultLog x fcLost kTWN wholeBlock 0x15 0) kFLT 7) s

end Sys2Proof.Machine
end

