-- ==== Sys2Proof/Machine/Flt.lean ====
section
/-! DEFINITION. Units with spares, pipelines, whole blocks fenced and their recovery (R103, R104, R305, R468 to R478). -/

namespace Sys2Proof.Machine

/-- _STAT.UNITS_FENCED counts a fenced unit that a spare replaces (R102). -/
def unitFenced (x : Slice) (blk : Nat) : Slice := satFld x blk 8 15 8 1

/-! ### Damask engines (R305, R473) -/

/-- Fences an engine: its packets are dispatched again, and a spare takes its place while one is left. -/
def fenceEngine (x : Slice) (e code : Nat) (detail : Option Nat) : Slice :=
  if !engineActive x e then x
  else
    let hit := x.threads.filter fun t => decide (t.th / 4 = e)
    let x := { x with threads := x.threads.filter fun t => decide (t.th / 4 ≠ e), rerunq := x.rerunq ++ hit }
    let x := setRegBit x kDMK (0x110 + 4 * (e / 32)) (e % 32)
    let d := detail.getD hit.length
    if spFree x = 0 then
      raise (faultLog (regPut x kDMK 0x120 22 16 (regFld x kDMK 0x120 22 16 - 1)) fcDegraded kDMK e code d) kDMK 1
    else raise (faultLog (unitFenced (regPut x kDMK 0x120 2 0 (spFree x - 1)) kDMK) fcSpared kDMK e code d) kDMK 0

def execEngineFault (sl : SliceId) (e : Fin 68) (s : State) : Res :=
  onStarted sl (fun x => fenceEngine x e.val 0x09 none) s

/-! ### CAM banks (R474) -/

/-- Fences a bank: searches pause while the spare is loaded; a second bank fault fences the block. -/
def fenceBank (x : Slice) (b code detail : Nat) : Slice :=
  if b ∈ x.banksFenced ∨ fenced x kCAM then x
  else if x.banksFenced = [] then
    let x := { x with banksFenced := [b], camBusy := decide (b < 32) }
    let x := if b < 32 then unitFenced (regPut (setRegBit x kCAM 0x100 31) kCAM 0x100 4 0 b) kCAM else x
    raise (faultLog x fcSpared kCAM b code detail) kCAM 0
  else
    let x := { x with banksFenced := x.banksFenced ++ [b] }
    raise (faultLog (setState x kCAM stFenced) fcLost kCAM b code detail) kCAM 0

def execCamBankFault (sl : SliceId) (bank : Fin 33) (s : State) : Res :=
  onStarted sl (fun x => fenceBank x bank.val 0x0A bank.val) s

/-- CAM_SPARE_LOADED. -/
def execCamSpareLoaded (sl : SliceId) (s : State) : Res := onStarted sl (fun x => { x with camBusy := false }) s

/-! ### Hot set ways and cells (R475, R476) -/

/-- HOT_SET_WAY_FAULT: the way is fenced; a record that differed from its DRAM copy is lost here. -/
def execHotSetWayFault (sl : SliceId) (set' : BitVec 14) (way : Fin 16) (s : State) : Res :=
  onStarted sl (fun x =>
    let n := set'.toNat
    if (n, way.val) ∈ x.waysFenced then x
    else
      let x := { x with waysFenced := x.waysFenced ++ [(n, way.val)] }
      let x := match x.hot.find? fun h => decide (h.set = n) && decide (h.way = way.val) with
        | some h => { x with hot := x.hot.erase h, lostRecs := if h.dirty then insNat x.lostRecs h.idx else x.lostRecs }
        | none => x
      faultLog x fcSpared kFLW way.val 0x0B (n * 16 + way.val)) s

/-- The scene frame in a cell is lost: its slot is passed over. -/
def loseSceneCell (r : SceneRun) (k : Nat) : SceneRun :=
  match r.cells.findIdx? (· = k) with
  | none => r
  | some j =>
    { r with cells := r.cells.erase k, slots := match (liveSlots r)[j]? with | some i => setNth r.slots i none | none => r.slots }

/-- CELL_FAULT: the frame is bad, and the cell's index retired. -/
def execCellFault (sl : SliceId) (cell : Nat) (s : State) : Res :=
  onStarted sl (fun x =>
    if cellTotal ≤ cell ∨ cell ∈ x.cellsRetired then x
    else
      let x := match x.frames.find? fun f => decide (cell ∈ f.cells) with
        | some f => stompFrame x f.id
        | none =>
          if x.scenes.any fun r => decide (cell ∈ r.cells) then
            freeCell { x with scenes := x.scenes.map fun r => loseSceneCell r cell } cell
          else x
      faultLog { x with cellsRetired := insNat x.cellsRetired cell } fcSoft kBUF wholeBlock 0x04 cell) s

/-! ### Pipelines (R477) -/

/-- Block that the fault log names for a pipeline. -/
def pipeBlock (egress : Bool) : Nat := if egress then kSWC else kPRS

/-- Fences a pipeline; the other of the same direction serves all lanes. A fault of the second is LOST. -/
def fencePipe (x : Slice) (egress : Bool) (p : Pipe) (code : Nat) (detail : Option Nat) : Slice :=
  if (egress, p) ∈ x.pipesFenced then x
  else
    let second := x.pipesFenced.any fun q => q.1 == egress
    let inside := if egress then 0 else (x.win.filter fun e => decide (e.pkt.pipe = p)).length
    let x := { x with pipesFenced := x.pipesFenced ++ [(egress, p)] }
    let x := if egress then ((List.range 8).map (8 * p.val + ·)).foldl stompPort x
      else { x with win := x.win.filter fun e => decide (e.pkt.pipe ≠ p) }
    faultLog x (if second then fcLost else fcDegraded) (pipeBlock egress) p.val code
      (detail.getD inside)

def execPipelineFault (sl : SliceId) (egress : Bool) (pipe : Pipe) (s : State) : Res :=
  onStarted sl (fun x => fencePipe x egress pipe 0x0C none) s

/-! ### Whole blocks (R104, R468, R478) -/

/-- A whole block is fenced. Groups of a fenced SRG are down, and working groups of a protection pair send SF. -/
def fenceWhole (x : Slice) (blk code detail : Nat) : Slice :=
  let x := fenceBlock x blk code detail
  if blk ≠ kSRG then x
  else x.groups.foldl (fun x g =>
    let x := portDown x g.lane.val
    if protRole x g.lane.val = 1 ∧ linkIsUp x then sendTwin x (.sf g.lane (BitVec.ofNat 16 g.gid)) else x) x

/-! ### Parity (R103, R104) -/

/-- A configuration mismatch: _PERR and cause 14. -/
def perrNote (x : Slice) (blk off : Nat) : Slice :=
  let x := if regBit x blk 0x14 31 then satFld x blk 0x14 27 20 1
    else regSet x blk 0x14 (w32 (2 ^ 31 + 2 ^ 20 + off))
  raise x blk 14

/-- A mismatch within one second of the last of the same register in the same copy. -/
def recurs (x : Slice) (key : Nat) (u : ParityUnit) : Bool :=
  x.mism.any fun m => m.1 = key && decide (m.2.1 = u) && decide (x.clk < m.2.2 + 800000000)

/-- A permanent fault: the unit whose copy it is, or the whole block. -/
def permanentFault (x : Slice) (blk off : Nat) (h : ParityHit) : Slice :=
  if h.imageBad then fenceWhole x blk 0x02 off
  else match h.unit with
    | .engine e => fenceEngine x e.val 0x02 (some off)
    | .bank b => fenceBank x b.val 0x02 off
    | .ingress p => fencePipe x false p 0x02 (some off)
    | .egress p => fencePipe x true p 0x02 (some off)
    | .block => fenceWhole x blk 0x02 off

/-- A parity check finds a mismatch. -/
def parityMismatch (x : Slice) (h : ParityHit) : Slice :=
  let blk := h.addr.toNat / 0x100000
  let off := h.addr.toNat % 0x100000
  match rowAt blk off with
  | none => x
  | some r =>
    if r.rw = 0 ∨ fenced x blk then x
    else
      let key := regKey blk off
      let again := recurs x key h.unit
      let x := { x with mism := x.mism.filter (fun m => !(decide (m.1 = key) && decide (m.2.1 = h.unit))) ++ [(key, h.unit, x.clk)] }
      let x := perrNote x blk off
      if again || h.imageBad then permanentFault x blk off h
      else faultLog (setRegBit x blk 8 4) fcSoft blk wholeBlock 0x01 off

/-- PARITY_SCAN: a read's check or the background scan. -/
def execParityScan (sl : SliceId) (hit : Option ParityHit) (s : State) : Res :=
  onLink sl (fun x => match hit with | some h => parityMismatch x h | none => x) s

/-- Every RW register of a block takes its committed value. -/
def reloadImage (x : Slice) (blk : Nat) : Slice :=
  let lo := regKey blk 0
  (x.image.filter fun e => decide (lo ≤ e.1) && decide (e.1 < lo + 0x100000)).foldl (fun x e =>
    match rowAt blk (e.1 - lo) with
    | some r => regSet x blk (e.1 - lo) (w32 ((regGet x blk (e.1 - lo)).toNat &&& (all32 - r.rw) ||| ((sGet e.2 x.image e.1).toNat &&& r.rw)))
    | none => x) x

/-- RELOAD_DONE: the block has reloaded from its committed image (R103). -/
def execReloadDone (sl : SliceId) (blk : Block) (s : State) : Res :=
  onStarted sl (fun x => if reloading x blk.val then resume (clrRegBit (reloadImage x blk.val) blk.val 8 4) else x) s

/-! ### Recovery (R478) -/

/-- Every RW register of a block and its committed image take their reset values. -/
def resetRw (x : Slice) (blk : Nat) : Slice :=
  let lo := regKey blk 0
  let mine := fun (e : Nat × Word) => decide (lo ≤ e.1) && decide (e.1 < lo + 0x100000)
  let x := (x.regs.filter mine).foldl (fun x e =>
    match rowAt blk (e.1 - lo) with
    | some r => regSet x blk (e.1 - lo)
        (w32 ((regGet x blk (e.1 - lo)).toNat &&& (all32 - r.rw) ||| ((resetOf x.id.val blk (e.1 - lo)).toNat &&& r.rw)))
    | none => x) x
  { x with image := x.image.filter (!mine ·) }

/-- RESULT codes of FLT_RCMD. -/
def rcRecovered : Nat := 1
def rcFailed : Nat := 2
def rcRefused : Nat := 3

/-- A write of FLT_RCMD. -/
def rcmdWrite (x : Slice) (v : Word) : Slice :=
  if regBit x kFLT 0x110 31 then x
  else
    let b := fld v 4 0
    let x := regPut x kFLT 0x110 4 0 b
    if !wbit v 31 then x
    else if 22 ≤ b ∨ b ∈ lostBlocks ∨ !fenced x b then regPut x kFLT 0x110 30 28 rcRefused
    else { regPut (setRegBit x kFLT 0x110 31) kFLT 0x110 30 28 0 with recovering := some b }

def execBlockRecovery (sl : SliceId) (v : Word) (s : State) : Res :=
  onStarted sl (fun x => { rcmdWrite x v with bus := .done }) s

/-- RECOVERY_DONE: BST has tested the block. -/
def execRecoveryDone (sl : SliceId) (ok : Bool) (s : State) : Res :=
  onLink sl (fun x =>
    match x.recovering with
    | none => x
    | some b =>
      let x := { clrRegBit x kFLT 0x110 31 with recovering := none }
      let x := if ok then
          let x := setState (resetRw x b) b stDisabled
          regPut (if b = kSRG then srgSync x else x) kFLT 0x110 30 28 rcRecovered
        else regPut x kFLT 0x110 30 28 rcFailed
      raise x kFLT 4) s

/-! ### The SRAM patrol (R442, R470) -/

/-- SRAM_PATROL_PASS: what the pass found, in order. -/
def execSramPatrolPass (sl : SliceId) (found : List SramFinding) (s : State) : Res :=
  onStarted sl (fun x =>
    if !seqRuns x qBST then x
    else found.foldl (fun x f => match f with
      | .corrected b w => faultLog x fcSoft b.val wholeBlock 0x03 w.toNat
      | .uncorrectable b w => faultLog x fcSoft b.val wholeBlock 0x04 w.toNat) x) s

end Sys2Proof.Machine
end

