-- ==== Sys2Proof/Machine/Dram.lean ====
section
/-! DEFINITION. DRAM: refresh, power-down, error correction, retraining, retirement and rebuild (R390 to R408). -/

namespace Sys2Proof.Machine

/-! States of DRC_PCSTATp. -/
def psActive : Nat := 0
def psSpare : Nat := 1
def psTraining : Nat := 2
def psRetired : Nat := 3

def pcState (x : Slice) (p : Nat) : Nat := regFld x kDRC (0x1100 + 4 * p) 31 29

def setPcState (x : Slice) (p st : Nat) : Slice := regPut x kDRC (0x1100 + 4 * p) 31 29 st

/-- The logical pseudo-channel a physical one serves (R392). -/
def servesL (x : Slice) (p : Nat) : Option Nat :=
  (List.range 30).find? fun l => decide (regFld x kDRC (0x1000 + 4 * l) 26 22 = p) && decide (pcmState x l ≠ pcLost)

/-! ### Refresh and power-down (R398 to R400) -/

def rankKey (pc : Fin 32) (rank : Fin 3) : Nat := 3 * pc.val + rank.val

/-- REFRESH_DUE: made up in a catch-up burst with 8 already owed, postponed behind waiting requests, or issued (R398). -/
def execRefreshDue (sl : SliceId) (pc : Fin 32) (rank : Fin 3) (waiting : Option (BitVec 3)) (s : State) : Res :=
  onStarted sl (fun x =>
    let k := rankKey pc rank
    let owed := sGet 0 x.owed k
    if 8 ≤ owed then raise (satFld { x with owed := sPut 0 x.owed k 0 } kDRC 0x128 31 16 1) kDRC 5
    else match waiting with
    | none => x
    | some p =>
      if p.toNat < regFld x kDRC 0x124 2 0 then x
      else satFld { x with owed := sPut 0 x.owed k (owed + 1) } kDRC 0x128 15 0 1) s

/-- RANK_POWER_DOWN: a rank with no request for IDLE enters power-down; IDLE 0 allows none outside DOZE. -/
def execRankPowerDown (sl : SliceId) (pc : Fin 32) (rank : Fin 3) (s : State) : Res :=
  onStarted sl (fun x =>
    if regFld x kDRC 0x12C 15 0 = 0 ∨ (pc, rank) ∈ x.rankDown then x
    else { x with rankDown := x.rankDown ++ [(pc, rank)] }) s

/-! ### Errors (R401) -/

/-- Whether an offset lies in the region of a base register, `size` bytes long. -/
def inRegion (x : Slice) (blk off size o : Nat) : Bool :=
  decide (region x blk off ≤ o) && decide (o < region x blk off + size)

/-- Frames with bytes in a 32-byte word of the deep buffer become bad (R337, R401). -/
def spoilFrames (x : Slice) (o : Nat) : Slice :=
  if inRegion x kBUF 0x120 (10 * 2 ^ 30) o then
    let p := (o - region x kBUF 0x120) / 4096
    { x with frames := x.frames.map fun f => if p ∈ f.pages then { f with bad := true } else f }
  else x

/-- An uncorrectable read of a word: poisoned, counted, latched and logged; mirrored core memory heals from its copy. -/
def ueRead (x : Slice) (addr port : Nat) : Slice :=
  let o := addr - dramBase
  let x := ueLatch x addr port
  let x := faultLog x fcSoft kDRC (pcOf x o) 0x06 (addr / 256)
  if inLower x o then x else spoilFrames { x with poison := insNat x.poison (o / 32) } o
where
  /-- Physical pseudo-channel of an offset. -/
  pcOf (x : Slice) (o : Nat) : Nat := regFld x kDRC (0x1000 + 4 * (blockLoc (o / 256)).1) 26 22

/-- UNCORRECTABLE_READ. -/
def execUncorrectableRead (sl : SliceId) (addr : BitVec 40) (port : BitVec 3) (s : State) : Res :=
  onStarted sl (fun x => if mapped addr.toNat 1 then ueRead x addr.toNat port.toNat else x) s

/-- A corrected read: counted, and recorded as a soft fault. -/
def correctedRead (x : Slice) (addr : Nat) : Slice :=
  let p := regFld x kDRC (0x1000 + 4 * (blockLoc ((addr - dramBase) / 256)).1) 26 22
  let x := count { x with drcCe := sPut 0 x.drcCe p (sGet 0 x.drcCe p + 1) } kDRC 0x2000 1
  faultLog x fcSoft kDRC p 0x05 (addr / 256)

/-- Every rank. -/
def allRanks : List (Fin 32 × Fin 3) := (List.finRange 32).flatMap fun p => (List.finRange 3).map fun r => (p, r)

/-- A whole second ends: DRC_PCSTATp.CE1S shows its corrected errors. -/
def ceLatch (x : Slice) : Slice :=
  { (List.range 32).foldl (fun x p => regPut x kDRC (0x1100 + 4 * p) 25 16 (min 1023 (sGet 0 x.drcCe p))) x with drcCe := [] }

/-- SCRUB_PASS: BST patrols all mapped DRAM, correcting what it can and reporting poisoned words (R401). -/
def execScrubPass (sl : SliceId) (corrected : List (BitVec 40)) (s : State) : Res :=
  onStarted sl (fun x =>
    if !seqRuns x qBST || !regBit x kDRC 0x134 31 then x
    else
      let x := portQuarters x false portMnt (4 * (dramSize / 256))
      let x := (corrected.filter fun a => mapped a.toNat 1).foldl (fun x a => correctedRead x a.toNat) x
      passEnd (x.poison.foldl (fun x w => faultLog x fcSoft kDRC wholeBlock 0x06 ((dramBase + 32 * w) / 256)) x) rtScrub) s

/-! ### Retraining and retirement (R402 to R405) -/

/-- RETRAIN: TRN fences one pseudo-channel at a time for an attempt. -/
def execRetrain (sl : SliceId) (pc : Fin 32) (s : State) : Res :=
  onStarted sl (fun x =>
    if x.training.isSome || !seqRuns x qTRN || decide (pcState x pc.val = psRetired) then x
    else count (setPcState { x with training := some pc } pc.val psTraining) kDRC 0x2010 1) s

/-- The lowest-numbered free spare. -/
def freeSpare (x : Slice) : Option Nat := (List.range 32).find? fun p => pcState x p = psSpare

/-- A pseudo-channel that serves logical l is retired: remapped to a spare and rebuilt, or LOST (R403, R405). -/
def retire (x : Slice) (p l : Nat) : Slice :=
  let x := setPcState x p psRetired
  match freeSpare x with
  | some sp =>
    let x := regSet (setPcState x sp psActive) kDRC (0x1000 + 4 * l) (w32 (pcRebuild * 2 ^ 30 + sp * 2 ^ 22))
    let x := { x with rebuilds := x.rebuilds ++ [l],
                      written := x.written.filter fun w => (blockLoc (w / 8)).1 ≠ l }
    raise (faultLog x fcSpared kDRC p 0x07 l) kDRC 2
  | none =>
    let x := regPut { x with lostChans := insNat x.lostChans l } kDRC (0x1000 + 4 * l) 31 30 pcLost
    raise (faultLog x fcDegraded kDRC p 0x08 l) kDRC 3

/-- RETRAIN_ATTEMPT_DONE. -/
def execRetrainAttemptDone (sl : SliceId) (pc : Fin 32) (ok : Bool) (s : State) : Res :=
  onStarted sl (fun x =>
    if x.training ≠ some pc then x
    else
      let p := pc.val
      let x := { x with training := none }
      let x := setPcState x p (if (servesL x p).isSome then psActive else psSpare)
      if ok then regPut x kDRC (0x1100 + 4 * p) 28 26 0
      else
        let x := raise (count x kDRC 0x2018 1) kDRC 1
        let f := regFld x kDRC (0x1100 + 4 * p) 28 26 + 1
        let x := regPut x kDRC (0x1100 + 4 * p) 28 26 f
        if f < 3 then x
        else match servesL x p with
          | some l => retire x p l
          | none => setPcState x p psRetired) s

/-! ### Rebuild (R406 to R408) -/

/-- Blocks of a logical pseudo-channel: w runs to 3 × 1,048,576. -/
def chanBlocks : Nat := 3145728

/-- The block with index w of logical pseudo-channel l. -/
def blockAt (l w : Nat) : Nat := 30 * w + (l + 30 - w % 30) % 30

/-- Writes a block of zero or source bytes in the words no write has covered. -/
def rebuildWith (x : Slice) (blk : Nat) (src : Bytes) : Slice :=
  portQuarters ((List.range 8).foldl (fun x i =>
    let w := 8 * blk + i
    if w ∈ x.written then x else dramPut x (32 * w) ((src.drop (32 * i)).take 32)) x) true portMnt 4

/-- Writes a block poisoned in the words no write has covered. -/
def rebuildPoison (x : Slice) (blk : Nat) : Slice :=
  (List.range 8).foldl (fun x i =>
    let w := 8 * blk + i
    if w ∈ x.written then x else { x with poison := insNat x.poison w, written := insNat x.written w }) x

/-- The own records in a block (two of 128 bytes) as the hot set or the victim buffer hold them. -/
def residentRecord (x : Slice) (idx : Nat) : Option Bytes :=
  match x.hot.find? fun h => h.idx = idx with
  | some h => some (h.rcd.flatMap dwordBytes)
  | none => (x.victim.find? fun v => v.1 = idx).map fun v => v.2.flatMap dwordBytes

/-- Link to the twin is up: TWN_LINK.STATE 3 or 4. -/
def linkUp (x : Slice) : Bool := decide (regFld x kTWN 0x100 31 28 = 3) || decide (regFld x kTWN 0x100 31 28 = 4)

/-- A twin-sourced block: copied from the twin, or poisoned with PARTIAL set while the link is down (R408). -/
def fromTwin (x tw : Slice) (blk off : Nat) : Slice :=
  if linkUp x then rebuildWith x blk (dramGet tw off 256) else setRegBit (rebuildPoison x blk) kDRC 0x13C 31

/-- Rebuilds one block from the source its region names (R406). -/
def rebuildOne (x tw : Slice) (blk : Nat) : Slice :=
  let o := 256 * blk
  let zeros := List.replicate 256 (0 : Byte)
  if inRegion x kFLW 0x134 (2 * 2 ^ 30) o then
    let i := (o - region x kFLW 0x134) / 128
    let tw' := if linkUp x then some (dramGet tw (region tw kFLW 0x13C + (o - region x kFLW 0x134)) 256) else none
    match residentRecord x i, residentRecord x (i + 1), tw' with
    | some a, some b, _ => rebuildWith x blk (a ++ b)
    | ra, rb, some t => rebuildWith x blk (ra.getD (t.take 128) ++ rb.getD (t.drop 128))
    | ra, rb, none =>
      let x := setRegBit (rebuildPoison x blk) kDRC 0x13C 31
      let x := match ra with | some a => dramPut x o a | none => x
      match rb with | some b => dramPut x (o + 128) b | none => x
  else if inRegion x kFLW 0x130 (2 ^ 30) o then rebuildWith x blk zeros
  else if inRegion x kFLW 0x138 (2 ^ 30) o || inRegion x kFLW 0x13C (2 * 2 ^ 30) o then rebuildWith x blk zeros
  else if inRegion x kDRC 0x110 (256 * 2 ^ 20) o then
    if regBit x kDRC 0x138 31 then fromTwin x tw blk (region tw kDRC 0x110 + (o - region x kDRC 0x110))
    else rebuildPoison x blk
  else if inRegion x kDRC 0x114 (512 * 2 ^ 20) o then rebuildPoison x blk
  else if inRegion x kBUF 0x120 (10 * 2 ^ 30) o then rebuildWith (spoilFrames x o) blk zeros
  else if inLower x o then rebuildWith (portQuarters x false portMnt 4) blk (dramGet x (o + 2 ^ 30) 256)
  else if inUpper x o then rebuildWith (portQuarters x false portMnt 4) blk (dramGet x (o - 2 ^ 30) 256)
  else rebuildPoison x blk

/-- REBUILD_BLOCK: TRN rebuilds the next block of the range at the head of its list. -/
def rebuildNext (x tw : Slice) : Slice :=
  match x.rebuilds with
  | [] => x
  | l :: _ =>
    if !seqRuns x qTRN then x
    else
    let w := regFld x kDRC (0x1000 + 4 * l) 21 0
    if chanBlocks ≤ w then x
    else
      let x := regPut (rebuildOne x tw (blockAt l w)) kDRC (0x1000 + 4 * l) 21 0 (w + 1)
      regPut x kDRC 0x13C 4 0 l

def execRebuildBlock (sl : SliceId) (s : State) : Res :=
  onStarted sl (fun x => rebuildNext x (s.slice (twin sl))) s

/-- REBUILD_DONE: the whole range is rebuilt; STATE returns to NORMAL, cause 4, and HOLD begins (R407, R408). -/
def rebuildDone (x : Slice) : Slice :=
  match x.rebuilds with
  | [] => x
  | l :: ls =>
    if regFld x kDRC (0x1000 + 4 * l) 21 0 < chanBlocks then x
    else
      let x := regPut x kDRC (0x1000 + 4 * l) 31 30 pcNormal
      let x := { x with rebuilds := ls, written := if ls = [] then [] else x.written,
                        rebuilt := insNat x.rebuilt l }
      raise x kDRC 4

def execRebuildDone (sl : SliceId) (s : State) : Res := onStarted sl rebuildDone s

/-- HOLD_EXPIRY: remote fetches before insert stop for the range (R407). -/
def execHoldExpiry (sl : SliceId) (l : Fin 30) (s : State) : Res :=
  onStarted sl (fun x => { x with rebuilt := x.rebuilt.filter (· ≠ l.val) }) s

end Sys2Proof.Machine
end

