-- ==== Sys2Proof/Machine/Verify.lean ====
section
/-! DEFINITION. The verifier's rules and the seal (R306 to R308, R495). -/

namespace Sys2Proof.Machine

/-- Opcode and fields of an instruction word (R289). -/
def twOpcode (w : Nat) : Nat := bits w 63 56

def twFields (w : Nat) : TwFields :=
  { pe := bit w 55, pn := BitVec.ofNat 3 (w >>> 52), ps := bit w 51, d := BitVec.ofNat 5 (w >>> 46),
    a := BitVec.ofNat 5 (w >>> 41), b := BitVec.ofNat 5 (w >>> 36), mod := BitVec.ofNat 4 (w >>> 32), imm := w32 w }

/-! ### Fields of one instruction -/

/-- Fields of an instruction as numbers. -/
structure TwNums where
  d : Nat
  a : Nat
  b : Nat
  m : Nat
  i : Nat
  deriving DecidableEq, Repr

def twNums (f : TwFields) : TwNums := ⟨f.d.toNat, f.a.toNat, f.b.toNat, f.mod.toNat, f.imm.toNat⟩

/-- Bits of a number that a mask leaves out are 0. -/
def within (n m : Nat) : Bool := decide (n ||| m = m)

/-- The IMM bits of Tn[off]: 23:20 are 0. -/
def tblMask : Nat := 0xFF0FFFFF

/-- Unused fields and reserved codes of an opcode (rule 1); none for an opcode outside R294. -/
def twForm (op : Nat) (n : TwNums) : Option Bool :=
  if op = 0x00 then some (n.d = 0 ∧ n.a = 0 ∧ n.b = 0 ∧ n.m = 0 ∧ n.i = 0)
  else if 0x01 ≤ op ∧ op ≤ 0x0B then some ((n.m = 0 ∧ n.i = 0) ∨ (n.m = 1 ∧ n.b = 0))
  else if op = 0x0C then some (n.a = 0 ∧ n.b = 0 ∧ n.m = 0)
  else if op = 0x0D then some (n.b = 0 ∧ n.m = 0)
  else if op = 0x10 then some (n.b = 0 ∧ n.m = 0 ∧ within n.i 0x3F3F)
  else if op = 0x11 then some (n.m = 0 ∧ within n.i 0x3F3F)
  else if op = 0x20 then some (n.m ≤ 7 ∧ n.i = 0)
  else if op = 0x21 then some (n.b = 0 ∧ n.m ≤ 7)
  else if op = 0x22 then some ((n.m ≤ 3 ∧ n.i = 0) ∨ (n.m = 4 ∧ n.a = 0 ∧ n.b = 0 ∧ n.i ≤ 1))
  else if op = 0x30 then some (n.a = 0 ∧ n.b = 0 ∧ n.m = 0 ∧ n.i ≤ 7)
  else if op = 0x31 then some (n.a = 0 ∧ n.b = 0 ∧ n.i = 0 ∧ n.m ≤ 2)
  else if op = 0x40 then some (n.b = 0 ∧ n.m ≤ 4 ∧ n.i ≤ 0xFFFF)
  else if op = 0x41 then some (n.d = 0 ∧ n.m ≤ 4 ∧ n.i ≤ 0xFFFF)
  else if op = 0x42 then some (n.d = 0 ∧ n.m ≤ 6 ∧ n.m ≠ 3 ∧ n.i ≤ 0xFF)
  else if op = 0x50 then some (n.b = 0 ∧ n.m = 0 ∧ within n.i tblMask)
  else if op = 0x51 then some (n.d = 0 ∧ n.m = 0 ∧ within n.i tblMask)
  else if op = 0x52 then some (n.d = 0 ∧ n.m ≤ 5 ∧ within n.i tblMask)
  else if op = 0x53 then some (n.m = 0 ∧ within n.i tblMask)
  else if op = 0x54 then some (n.b = 0 ∧ n.m = 0 ∧ n.i ≤ 0x3FFF)
  else if op = 0x55 then some (n.d = 0 ∧ n.m ≤ 4 ∧ within n.i tblMask ∧ (n.m ≠ 0 ∨ n.a = 0))
  else if op = 0x60 then some (n.m ≤ 7 ∧ n.i = 0)
  else if op = 0x61 then some (n.m = 0 ∧ n.i = 0)
  else if op = 0x70 then
    some (n.d = 0 ∧ n.a = 0 ∧ n.b = 0 ∧ n.m ≤ 4
      ∧ within n.i (if n.m ≤ 1 then 0xFFFC else if n.m ≤ 3 then 3 else 0))
  else if op = 0x80 then
    some (n.d = 0 ∧ n.b = 0 ∧ n.i % 65536 = 0 ∧ (bit n.i 31 ∨ n.a = 0) ∧ (bit n.i 30 ∨ bits n.i 29 16 = 0)
      ∧ (8 ≤ n.m ∨ n.m = 0))
  else if op = 0x81 ∨ op = 0x83 then some (n.d = 0 ∧ n.a = 0 ∧ n.b = 0 ∧ n.m = 0 ∧ n.i ≤ 0xF)
  else if op = 0x82 then some (n.d = 0 ∧ n.a = 0 ∧ n.b = 0 ∧ n.m = 0 ∧ n.i ≤ 0xFF)
  else if op = 0x84 then some (n.d = 0 ∧ n.a = 0 ∧ n.b = 0 ∧ n.m ≤ 1 ∧ n.i ≤ 0xFFFF)
  else if op = 0x90 then some (n.d = 0 ∧ n.a = 0 ∧ n.b = 0 ∧ n.m = 0 ∧ n.i ≤ 0x1FF)
  else if op = 0x91 then some (n.d = 0 ∧ n.a = 0 ∧ n.b = 0 ∧ n.m = 0 ∧ n.i = 0)
  else none

/-- Rule 1 for one instruction. -/
def twLegal (op : Nat) (f : TwFields) : Bool :=
  (f.pe || (decide (f.pn = 0) && !f.ps)) && (twForm op (twNums f)).getD false

/-- Units of R293. -/
inductive TwUnit where
  | a | h | t | x | k | c
  deriving DecidableEq, Repr

def twUnit (op : Nat) : TwUnit :=
  if op < 0x40 then .a else if op < 0x50 then .h else if op < 0x60 then .t else if op < 0x70 then .x
  else if op < 0x90 then .k else .c

/-- Whether D is a general destination. -/
def hasDest (op : Nat) : Bool :=
  (decide (0x01 ≤ op) && decide (op ≤ 0x11)) || decide (op ∈ [0x30, 0x31, 0x40, 0x50, 0x53, 0x54, 0x60, 0x61])

def predDest (op : Nat) : Bool := decide (op ∈ [0x20, 0x21, 0x22])

/-- What an instruction writes: a register code, or 32 + a predicate; G0 is exempt (rule 6). -/
def twWrites (op : Nat) (f : TwFields) : Option Nat :=
  if hasDest op then (if f.d = 0 then none else some f.d.toNat)
  else if predDest op then some (32 + f.d.toNat % 8)
  else if op = 0x70 ∧ f.mod.toNat < 4 then some 16
  else none

/-- Whether an instruction writes the record (R304). -/
def recordWrite (op : Nat) (f : TwFields) : Bool :=
  match twWrites op f with | some k => decide (16 ≤ k) && decide (k < 32) | none => false

/-- Rule 8. -/
def rule8 (op : Nat) (f : TwFields) : Bool :=
  if op = 0x55 then decide (f.mod.toNat = 0 ∧ f.a = 0) || (decide (f.mod.toNat ≠ 0) && decide (f.a.toNat + f.mod.toNat ≤ 16))
  else if op = 0x20 ∨ op = 0x21 then decide (f.d.toNat < 8)
  else if op = 0x22 then decide (f.d.toNat < 8) && decide (f.a.toNat < 8) && decide (f.b.toNat < 8)
  else true

/-! ### Bundles -/

/-- The two instructions of a bundle. -/
abbrev Bundle := (Nat × TwFields) × (Nat × TwFields)

def bundleOf (w0 w1 : Nat) : Bundle := ((twOpcode w0, twFields w0), (twOpcode w1, twFields w1))

def Bundle.both (b : Bundle) (p : Nat → TwFields → Bool) : Bool := p b.1.1 b.1.2 && p b.2.1 b.2.2

def Bundle.either (b : Bundle) (p : Nat → TwFields → Bool) : Bool := p b.1.1 b.1.2 || p b.2.1 b.2.2

def Bundle.sum (b : Bundle) (p : Nat → Bool) : Nat := (p b.1.1).toNat + (p b.2.1).toNat

/-- Rule 3 for bundle i of n. -/
def rule3 (n i : Nat) (b : Bundle) : Bool :=
  b.both (fun op f => decide (op ≠ 0x90) || (decide (1 ≤ f.imm.toNat % 512) && decide (i + f.imm.toNat % 512 < n)))
  && !(decide (twUnit b.1.1 = .c) && decide (twUnit b.2.1 = .c))

/-- Rule 5. -/
def rule5 (b : Bundle) : Bool := decide (twUnit b.1.1 ≠ twUnit b.2.1) || decide (twUnit b.1.1 = .a)

/-- Rule 6. -/
def rule6 (b : Bundle) : Bool :=
  match twWrites b.1.1 b.1.2, twWrites b.2.1 b.2.2 with | some k, some l => decide (k ≠ l) | _, _ => true

/-- Rule 7. -/
def rule7 (op : Nat) (f : TwFields) : Bool := !hasDest op || decide (f.d.toNat < 16) || decide (22 ≤ f.d.toNat)

/-- What the paths from a bundle to their ends come to: whether every one reaches an end, the longest in bundles, and the
greatest numbers of emit, recirc, mirror, table writes and logged reads on one path. -/
structure PathSum where
  ends : Bool
  long : Nat
  emits : Nat
  recircs : Nat
  mirrors : Nat
  writes : Nat
  reads : Nat
  deriving DecidableEq, Repr

/-- No bundle follows. -/
def PathSum.stop : PathSum := ⟨true, 0, 0, 0, 0, 0, 0⟩
/-- The program is left without an end. -/
def PathSum.off : PathSum := ⟨false, 0, 0, 0, 0, 0, 0⟩

def PathSum.join (p q : PathSum) : PathSum :=
  ⟨p.ends && q.ends, max p.long q.long, max p.emits q.emits, max p.recircs q.recircs, max p.mirrors q.mirrors,
    max p.writes q.writes, max p.reads q.reads⟩

/-- Puts a bundle before the paths that follow it. -/
def PathSum.before (b : Bundle) (p : PathSum) : PathSum :=
  ⟨p.ends, p.long + 1, p.emits + b.sum (· = 0x55), p.recircs + b.sum (· = 0x84), p.mirrors + b.sum (· = 0x83),
    p.writes + b.sum (fun op => op = 0x51 || op = 0x52), p.reads + b.sum (fun op => op = 0x50 || op = 0x53 || op = 0x54)⟩

/-- Paths that a branch k bundles ahead takes; `later` sums the paths from the bundles that follow. -/
def branchTo (later : List PathSum) (f : TwFields) : PathSum :=
  if f.imm.toNat % 512 = 0 then .off else (later[f.imm.toNat % 512 - 1]?).getD .off

/-- Paths from one bundle. -/
def pathsFrom (b : Bundle) (later : List PathSum) : PathSum :=
  let next := (later.head?).getD .off
  let is := fun (k : Nat) (pred : Bool) => fun op (f : TwFields) => decide (op = k) && (f.pe == pred)
  let go :=
    if b.either (is 0x91 false) then .stop
    else if is 0x90 false b.1.1 b.1.2 then branchTo later b.1.2
    else if is 0x90 false b.2.1 b.2.2 then branchTo later b.2.2
    else if is 0x90 true b.1.1 b.1.2 then next.join (branchTo later b.1.2)
    else if is 0x90 true b.2.1 b.2.2 then next.join (branchTo later b.2.2)
    else next
  go.before b

/-- Paths from every bundle of a program, first bundle first. -/
def pathSums (bs : List Bundle) : List PathSum := bs.foldr (fun b later => pathsFrom b later :: later) []

/-- LONG and the counts of a program. -/
def programPaths (bs : List Bundle) : PathSum := ((pathSums bs).head?).getD .off

/-- REL: the highest bundle with a record write, 0x1FF for none (R307). -/
def programRel (bs : List Bundle) : Nat :=
  bs.zipIdx.foldl (fun r p => if p.1.either recordWrite then p.2 else r) 0x1FF

/-- The first rule of R306 that a program breaks; `fits` is rule 2 for the LEN its seal names. -/
def brokenRule (bs : List Bundle) (fits : Bool) : Option Nat :=
  let p := programPaths bs
  if !bs.all (·.both twLegal) then some 1
  else if !fits then some 2
  else if !bs.zipIdx.all (fun b => rule3 bs.length b.2 b.1) then some 3
  else if !p.ends then some 4
  else if !bs.all rule5 then some 5
  else if !bs.all rule6 then some 6
  else if !bs.all (·.both rule7) then some 7
  else if !bs.all (·.both rule8) then some 8
  else if 2 < p.emits ∨ 1 < p.recircs ∨ 1 < p.mirrors ∨ 8 < p.writes ∨ 16 < p.reads then some 9
  else none

/-! ### The seal (R307) -/

/-- The bundles of program memory from an index. -/
def bundlesFrom (x : Slice) (e n : Nat) : List Bundle :=
  (List.range n).map fun k => bundleOf (bundleWord x false (e + k) 0) (bundleWord x false (e + k) 1)

/-- CRC over the bundles as stored. -/
def programCrc (x : Slice) (e n : Nat) : Nat :=
  (crc32cRun 0xFFFFFFFF ((List.range n).flatMap fun k => wordsBytes (tabRow x tProg (e + k) 4))) ^^^ 0xFFFFFFFF

/-- Slot 0 of the seal of a program. -/
def sealWord (len rel long : Nat) : Nat := 0xFE * 2 ^ 56 + 2 ^ 48 + len * 2 ^ 39 + rel * 2 ^ 30 + long * 2 ^ 21

/-- VRULE of the first test of R495 that entry e fails over program memory, none when its program passes. -/
def entryFails (x : Slice) (e : Nat) : Option Nat :=
  let w := bundleWord x false (e - 1) 0
  if e = 0 ∨ twOpcode w ≠ 0xFE then some 0xB
  else
    let len := bits w 47 39
    let fits := decide (1 ≤ len) && decide (len ≤ 256) && decide (e + len ≤ progSize)
    let bs := bundlesFrom x e (min len (progSize - e))
    match brokenRule bs fits with
    | some r => some r
    | none =>
      if w = sealWord len (programRel bs) (programPaths bs).long ∧ bundleWord x false (e - 1) 1 = programCrc x e len
      then none else some 0xA

/-- The seal and bundles of an entry's program. -/
def entrySpan (x : Slice) (e : Nat) : List Nat :=
  let lo := e - 1
  (List.range (min (1 + bits (bundleWord x false lo 0) 47 39) (progSize - lo))).map (lo + ·)

end Sys2Proof.Machine
end

