-- ==== Sys2Proof/Machine/Check.lean ====
section
/-! DEFINITION. CHECK of a muslin buffer: the general rules and the block rules over the configuration that would result
(R116, R117, R121, R122, R308, R497). -/

namespace Sys2Proof.Machine

/-! ### Items and the configuration they lead to (R116, R117) -/

/-- Bits of a register that a muslin item can change. -/
def itemBits (blk off : Nat) : Nat := match rowAt blk off with | some r => r.rw ||| r.lv | none => 0

/-- Entries of a versioned table and bytes of an entry. -/
def tableShape : Nat → Option (Nat × Nat)
  | 0x0400 => some (255, 36)
  | 0x0401 => some (2048, 8)
  | 0x0500 => some (64, 64)
  | 0x0501 => some (1024, 8)
  | 0x0502 => some (512, 32)
  | 0x0503 => some (262144, 64)
  | 0x0600 => some (65536, 64)
  | 0x0700 => some (4194304, 8)
  | 0x0800 => some (64, 64)
  | 0x0900 => some (32768, 16)
  | _ => none

/-- What an item writes. -/
inductive Touch where
  | reg (blk off : Nat)
  | tab (tid idx : Nat)
  deriving DecidableEq, Repr

def itemTouch (it : Item) : Touch :=
  if itemKind it = 1 then .reg (itemReg it / 0x100000) (itemReg it % 0x100000) else .tab (itemTable it) (itemIndex it)

def Touch.block : Touch → Nat
  | .reg b _ => b
  | .tab t _ => t / 256

/-- New value of a register item over the present one. -/
def itemNew (it : Item) (m : Nat) (old : Word) : Word :=
  let k := m &&& itemMask it
  w32 (old.toNat &&& (all32 - k) ||| (itemValue it &&& k))

/-- Applies one item to plain values. -/
def stageItem (x : Slice) (it : Item) : Slice :=
  match itemTouch it with
  | .reg b o => regSet x b o (itemNew it (itemBits b o) (regGet x b o))
  | .tab t i => tabPutRow x t i (bytesWords (itemData it))

/-- The configuration that results from applying items to the committed one. -/
def staged (x : Slice) (items : List Item) : Slice := items.foldl stageItem x

/-! ### General rules (R121, R497) -/

/-- Registers that change by direct writes only. -/
def notMuslin (blk off : Nat) : Bool :=
  decide (off < 0x18) || decide (blk ∈ [kRIF, kSLC, kTIM, kDRC, kDMA, kTSK, kICN, kMCS, kPRF, kTWN, kFLT])
  || (decide (blk = kFLW) && decide (off ∈ [0x130, 0x134, 0x138, 0x13C, 0x140, 0x144]))
  || (decide (blk = kFWD) && decide (off ∈ [0x170, 0x174])) || (decide (blk = kBUF) && decide (off = 0x120))

/-- ADDR lies in the register space. -/
def inRegs (a : Nat) : Bool := decide (0x40000000 ≤ a) && decide (a ≤ 0x4FFFFFFF)

/-- The first general rule an item fails. -/
def itemRule (it : Item) : Option Nat :=
  let len := itemLen it
  if itemKind it = 1 then
    if len ≠ 16 then some 7
    else
      let b := itemReg it / 0x100000
      let o := itemReg it % 0x100000
      match (if inRegs (itemAddr it) then rowAt b o else none) with
      | none => some 1
      | some r => if r.rw ||| r.lv = 0 then some 2 else if r.slow then some 3 else if notMuslin b o then some 4 else none
  else if itemKind it = 2 then
    if len < 16 ∨ 140 < len ∨ len % 4 ≠ 0 then some 7
    else match tableShape (itemTable it) with
      | none => some 5
      | some (n, sz) => if n ≤ itemIndex it then some 6 else if len - 12 ≠ sz then some 7 else none
  else some 7

/-- Block that an item names, none where it names none. -/
def namedBlock (it : Item) : Option Nat :=
  if itemKind it = 1 ∧ 8 ≤ itemLen it ∧ inRegs (itemAddr it) then some (itemReg it / 0x100000 % 256)
  else if itemKind it = 2 ∧ 8 ≤ itemLen it then some (itemTable it / 256)
  else none

/-! ### Block rules (R122) -/

/-- A failing test of a block rule: the block, the rule and what the test reads. -/
structure Failing where
  blk : Nat
  rule : Nat
  reads : List Touch
  chkf : Option Word
  deriving DecidableEq, Repr

/-- A failing test of a rule, where the test fails. -/
def failIf (bad : Bool) (blk rule : Nat) (reads : List Touch) : List Failing := if bad then [⟨blk, rule, reads, none⟩] else []

def rdPort (l : Nat) : Touch := .reg kLNE (0x1000 + 4 * l)
def rdMembers (n : Nat) : Touch := .reg kSRG (0x1004 + 16 * n)
def rdSrg (n : Nat) : Touch := .reg kSRG (0x1000 + 16 * n)

def lanes16 : List Nat := List.range 16

/-- Ethernet ports whose lanes include l. -/
def ethOwners (y : Slice) (l : Nat) : List Nat :=
  lanes16.filter fun p => isEth y p && decide (p ≤ l) && decide (l < p + modeLanes (portMode y p))

/-- Serge groups whose members include l. -/
def groupOwners (y : Slice) (l : Nat) : List Nat := lanes16.filter fun n => isGroup y n && bit (groupMembers y n) l

/-- Rate family of lane l: that of the port that covers it, else that of its own mode. -/
def laneFamily (y : Slice) (l : Nat) : Nat :=
  match ethOwners y l with
  | p :: _ => modeFamily (portMode y p)
  | [] => modeFamily (portMode y l)

def checkLne (y : Slice) : List Failing :=
  (lanes16.flatMap fun l =>
    let es := ethOwners y l
    let gs := groupOwners y l
    failIf (decide (1 < es.length + gs.length) || (es.any fun p => decide (p ≠ l)) && decide (portMode y l ≠ 0))
      kLNE 1 (rdPort l :: es.map rdPort ++ gs.flatMap fun n => [rdSrg n, rdMembers n]))
  ++ (lanes16.flatMap fun p =>
    failIf (decide (12 ≤ portMode y p) || (isEth y p && decide (p % modeLanes (portMode y p) ≠ 0))) kLNE 2 [rdPort p])
  ++ ((List.range 4).flatMap fun g =>
    let ls := (List.range 4).map (4 * g + ·)
    failIf ((ls.any fun l => decide (laneFamily y l = 1)) && ls.any fun l => decide (laneFamily y l = 2))
      kLNE 3 (ls.flatMap fun l => rdPort l :: (ethOwners y l).map rdPort))

def checkSrg (y : Slice) (pairedOk : Bool) : List Failing :=
  let gs := lanes16.filter (isGroup y)
  (gs.flatMap fun n =>
    let ms := lanes16.filter (bit (groupMembers y n))
    let rates := ms.map fun l => memberRate (portMode y l)
    failIf (decide (ms = []) || rates.any fun r => decide (r ≠ (rates.head?).getD 0)) kSRG 1
      (rdSrg n :: rdMembers n :: ms.map rdPort))
  ++ (gs.flatMap fun n => gs.flatMap fun m =>
    failIf (decide (n < m) && decide (fld (srgCfg y n) 15 0 = fld (srgCfg y m) 15 0)) kSRG 2 [rdSrg n, rdSrg m])
  ++ (gs.flatMap fun n => failIf (decide (fld (srgCfg y n) 30 29 ≠ 0) && !pairedOk) kSRG 3 [rdSrg n])

/-! #### The parse graph -/

def nodeWd (y : Slice) (n i : Nat) : Word := tabGet y tNode n i

def prsValid (y : Slice) (n : Nat) : Bool := decide (n < 255) && wbit (nodeWd y n 0) 31

/-- Transitions in a node's range. -/
def nodeRange (y : Slice) (n : Nat) : List Nat :=
  ((List.range (min 16 (fld (nodeWd y n 4) 4 0))).map (fld (nodeWd y n 4) 15 5 + ·)).filter (· < 2048)

/-- Targets a node names, each with its DEFER bit and the entry that names it. -/
def nodeEdges (y : Slice) (n : Nat) : List (Nat × Bool × Touch) :=
  (((nodeRange y n).filter fun t => wbit (tabGet y tTrans t 1) 31).map fun t =>
    (fld (tabGet y tTrans t 1) 7 0, wbit (tabGet y tTrans t 1) 30, Touch.tab tTrans t))
  ++ [(fld (nodeWd y n 2) 7 0, wbit (nodeWd y n 0) 24, .tab tNode n)]

/-- Valid nodes that follow a set of nodes by edges not deferred. -/
def nodeNext (y : Slice) (ns : List Nat) : List Nat :=
  ns.foldl (fun acc n => (nodeEdges y n).foldl (fun acc e =>
    if !e.2.1 && prsValid y e.1 then insNat acc e.1 else acc) acc) []

/-- The node sets of the 1st to 17th header of the paths from a node. -/
def pathLevels (y : Slice) : Nat → List Nat → List (List Nat)
  | 0, ns => [ns]
  | k + 1, ns => ns :: pathLevels y k (nodeNext y ns)

def checkPrs (y : Slice) : List Failing :=
  let vs := validEntries y tNode 255
  (vs.flatMap fun n => (nodeEdges y n).flatMap fun e =>
    failIf (decide (e.1 ≠ 0xFF) && !prsValid y e.1) kPRS 1 [.tab tNode n, e.2.2, .tab tNode e.1])
  ++ (vs.flatMap fun n =>
    let ls := pathLevels y 16 [n]
    failIf ((ls.getLast?).getD [] ≠ []) kPRS 2
      (ls.flatMap fun ns => ns.flatMap fun m => .tab tNode m :: (nodeRange y m).map (Touch.tab tTrans)))
  ++ (vs.flatMap fun n => [5, 6, 7, 8].flatMap fun i =>
    let w := nodeWd y n i
    failIf (wbit w 23 && decide (256 < fld w 7 0 + fld w 16 13 + 1)) kPRS 3 [.tab tNode n])

/-! #### The classifier -/

/-- A node of a decision tree, on die or in the overflow region. -/
def checkNode (y : Slice) (a : Nat) : List Word :=
  if treeInDram a then bytesWords (dramGet y (region y kDRC 0x114 + 64 * bits a 22 0) 64)
  else if a < 262144 then tabRow y tTree a 16
  else []

/-- Children of a valid inner node that name nodes. -/
def treeKids (y : Slice) (a : Nat) : List Nat :=
  let n := checkNode y a
  if nodeValid n && decide (nodeType n = 0) then
    ((List.range (fld (nodeW n 0) 2 0 + 1)).map fun i => fld (nodeW n (5 + i)) 23 0).filter (· ≠ treeNone)
  else []

/-- Valid inner nodes and leaves of the trees, level by level from a root. -/
def treeLevels (y : Slice) : Nat → List Nat → List (List Nat)
  | 0, as => [as]
  | k + 1, as =>
    as :: treeLevels y k ((as.foldl (fun acc a => (treeKids y a).foldl insNat acc) []).filter fun a =>
      nodeValid (checkNode y a) && decide (nodeType (checkNode y a) < 2))

/-- Root of a profile's tree, none where it names no tree. -/
def profRoot (y : Slice) (p : Nat) : Option Nat :=
  let r := fld (profW y false p 4) 23 0
  if fld (profW y false p 3) 31 30 = 2 ∧ r ≠ treeNone then some r else none

def profTree (y : Slice) (p : Nat) : List (List Nat) :=
  match profRoot y p with
  | some r => if nodeValid (checkNode y r) && decide (nodeType (checkNode y r) < 2) then treeLevels y 24 [r] else []
  | none => []

/-- Leaves of a profile's tree. -/
def profLeaves (y : Slice) (p : Nat) : List Nat := ((profTree y p).flatten).filter fun a => decide (nodeType (checkNode y a) = 1)

/-- Rule nodes that a profile's tree reaches. -/
def profRules (y : Slice) (p : Nat) : List Nat :=
  ((profLeaves y p).foldl (fun acc a => (leafRules (checkNode y a)).foldl insNat acc) []).filter fun a =>
    decide (a ≠ treeNone) && nodeValid (checkNode y a) && decide (nodeType (checkNode y a) = 2)

/-- Actions of the classifier: the entry that holds each, and its words. -/
def clsActions (y : Slice) : List (Touch × List Word) :=
  (validEntries y tProf 64).flatMap (fun p =>
    [(.tab tProf p, profAct y false p 8), (.tab tProf p, profAct y false p 12)]
    ++ (profRules y p).map fun a => (.tab tTree a, (List.range 4).map fun i => nodeW (checkNode y a) (8 + i)))
  ++ (validEntries y tRule 512).map fun r => (.tab tRule r, (List.range 4).map fun i => tabGet y tRule r (4 + i))

/-- What the test of an entry's program reads. -/
def entryReads (y : Slice) (e : Nat) : List Touch := (entrySpan y e).map (Touch.tab tProg)

def checkCls (y : Slice) : List Failing :=
  let ps := validEntries y tProf 64
  (ps.flatMap fun p =>
    failIf (decide (fld (profW y false p 3) 27 26 = 3)
      || (match profRoot y p with | some r => !treeInDram r && decide (262144 ≤ r) | none => false)) kCLS 1 [.tab tProf p])
  ++ ((validEntries y tRule 512).flatMap fun r => failIf (decide (4 < fld (tabGet y tRule r 0) 26 24)) kCLS 2 [.tab tRule r])
  ++ (ps.flatMap fun p =>
    let ls := profTree y p
    failIf (decide (ls.length = 25) && decide ((ls.getLast?).getD [] ≠ [])) kCLS 3
      (.tab tProf p :: ls.flatten.map (Touch.tab tTree)))
  ++ (ps.flatMap fun p => (profLeaves y p).flatMap fun a =>
    failIf (decide (8 < fld (nodeW (checkNode y a) 0) 3 0)) kCLS 3 [.tab tTree a])
  ++ ((clsActions y).flatMap fun t =>
    let e := actProg t.2
    failIf (decide (e ≠ 0) && (entryFails y e).isSome) kCLS 4 (t.1 :: entryReads y e))

/-! #### CAM, FWD, FLW -/

def checkCam (y : Slice) : List Failing :=
  (validEntries y tCam 65536).flatMap fun i =>
    let w := fld (tabGet y tCam i 0) 30 29
    let n := 2 ^ w
    failIf ((decide (w = 1) || decide (w = 2)) &&
      (decide (i / 2048 % n ≠ 0) || ((List.range n).any fun k => decide (k ≠ 0) &&
        !(wbit (tabGet y tCam (i + 2048 * k) 0) 31 && decide (fld (tabGet y tCam (i + 2048 * k) 0) 30 29 = 3)))))
      kCAM 1 ((List.range n).map fun k => .tab tCam (i + 2048 * k))

/-- Trie entries that hold something. -/
def trieListed (y : Slice) : List Nat :=
  (y.tabs.filterMap fun e =>
    if tabKey tTrie 0 0 ≤ e.1 ∧ e.1 < tabKey tTrie trieSize 0 then some (e.1 / 64 - tTrie * 2 ^ 24) else none).foldl insNat []

/-- Entries reached from the roots of a family, stage by stage: a list per stage. -/
def trieStages (y : Slice) (all : List Nat) : List Nat → List Nat → List (List Nat)
  | [], is => [is]
  | s :: ss, is =>
    let kids := (is.filter fun i => decide (trieKind (trieEnt y false i) = 1) || decide (trieKind (trieEnt y false i) = 3)).map
      fun i => fld (trieEnt y false i).1 21 0
    is :: trieStages y all ss (all.filter fun j => kids.any fun c => decide (c ≤ j) && decide (j < c + 2 ^ s))

def famStages (y : Slice) (fam : Nat) : List (List Nat) :=
  let all := trieListed y
  trieStages y all (strides fam) (all.filter fun i => decide (i / 256 = fam))

def checkFwd (y : Slice) : List Failing :=
  let st := fun fam => famStages y fam
  let ents := fun fam => (st fam).flatten.foldl insNat []
  let orig := fun fam => ((ents fam).filter fun i => wbit (trieEnt y false i).1 29).length
  ([0, 1].flatMap fun fam => (((st fam).getLast?).getD []).flatMap fun i =>
    failIf (decide (trieKind (trieEnt y false i) = 1) || decide (trieKind (trieEnt y false i) = 3)) kFWD 1 [.tab tTrie i])
  ++ failIf (decide (2 * 2 ^ 20 < orig 0 + 4 * orig 1)) kFWD 2 ((ents 0 ++ ents 1).map (Touch.tab tTrie))
  ++ ([0, 1].flatMap fun fam => (ents fam).flatMap fun i =>
    failIf (decide (2 ≤ trieKind (trieEnt y false i)) && !wbit (handleW y (fld (trieEnt y false i).2 15 0) 0) 31)
      kFWD 3 [.tab tTrie i])

/-- The DRAM regions of the slice, base and size in bytes; `true` for those of FLW. -/
def dramRegions (y : Slice) : List (Bool × Nat × Nat × Touch) :=
  let gi := 2 ^ 30
  let r := fun flw blk off size => (flw, region y blk off, size, Touch.reg blk off)
  [r true kFLW 0x130 gi, r true kFLW 0x134 (2 * gi), r true kFLW 0x138 gi, r true kFLW 0x13C (2 * gi),
   r false kDRC 0x110 (gi / 4), r false kDRC 0x114 (gi / 2), r false kDRC 0x118 (2 * gi), r false kBUF 0x120 (10 * gi),
   r false kPRF 0x120 (3 * gi)]

def checkFlw (y : Slice) : List Failing :=
  let ks := validEntries y tKeyProf 64
  (ks.flatMap fun k =>
    let cs := (List.range 8).map fun i => let w := tabGet y tKeyProf k (6 + i / 2); if i % 2 = 0 then fld w 31 16 else fld w 15 0
    let n := (cs.map fun c => if bit c 15 then bits c 5 0 + 1 else 0).foldl (· + ·) 0
    failIf (decide (48 < n)) kFLW 1 [.tab tKeyProf k])
  ++ (ks.flatMap fun k => failIf (decide (2 ≤ fld (tabGet y tKeyProf k 0) 30 29)) kFLW 2 [.tab tKeyProf k])
  ++ ((dramRegions y).zipIdx.flatMap fun p =>
    let a := p.1
    if !a.1 then []
    else failIf (decide (dramSize < a.2.1 + a.2.2.1) || (dramRegions y).zipIdx.any fun q =>
        decide (q.2 ≠ p.2) && decide (a.2.1 < q.1.2.1 + q.1.2.2.1) && decide (q.1.2.1 < a.2.1 + a.2.2.1))
      kFLW 3 [a.2.2.2])

/-! #### DMK -/

/-- Entry points that actions name; PROG 0 names no program. -/
def actionEntries (y : Slice) : List (Nat × Touch) :=
  (((clsActions y).map fun t => (actProg t.2, t.1))
  ++ ((validEntries y tCam 65536).filter fun i => fld (tabGet y tCam i 0) 30 29 ≠ 3).map (fun i =>
    (actProg (camAct y false i), Touch.tab tCam i))).filter (·.1 ≠ 0)

/-- Entry points that the configuration names, each with what names it (R308, R312). -/
def namedEntries (y : Slice) : List (Nat × Touch) :=
  actionEntries y
  ++ ((List.range 64).filter fun k => regBit y kDMK (0x1400 + 4 * k) 31).map fun k =>
    (regFld y kDMK (0x1400 + 4 * k) 14 0, Touch.reg kDMK (0x1400 + 4 * k))

/-- LEN of the seal that a bundle holds. -/
def sealLen (y : Slice) (i : Nat) : Option Nat :=
  let w := bundleWord y false i 0
  if twOpcode w = 0xFE then some (bits w 47 39) else none

/-- Bundles of program memory that hold something. -/
def progListed (y : Slice) : List Nat :=
  (y.tabs.filterMap fun e =>
    if tabKey tProg 0 0 ≤ e.1 ∧ e.1 < tabKey tProg progSize 0 then some (e.1 / 64 - tProg * 2 ^ 24) else none).foldl insNat []

/-- Rule 2: no sealed program exceeds 256 bundles or program memory, whether an entry names it or not. -/
def programTooLong (y : Slice) (i : Nat) : Bool :=
  match sealLen y i with
  | some len => decide (256 < len) || decide (progSize < i + 1 + len)
  | none => false

def checkDmk (y : Slice) : List Failing :=
  let ns := namedEntries y
  (((ns.map (·.1)).foldl insNat []).flatMap fun e =>
    match entryFails y e with
    | none => []
    | some v =>
      [⟨kDMK, 1, (ns.filter fun n => n.1 = e).map (·.2) ++ entryReads y e, some (w32 (v * 2 ^ 28 + e))⟩])
  ++ (progListed y).flatMap fun i => failIf (programTooLong y i) kDMK 2 (entryReads y (i + 1))

/-! #### BUF, SWC, TMG -/

def total (l : List Nat) : Nat := l.foldl (· + ·) 0

def checkBuf (y : Slice) : List Failing :=
  let rd := fun k o => Touch.reg kBUF (0x1000 + 16 * o + 4 * k)
  failIf (decide (cellTotal < total ((List.range 22).map (minC y)))) kBUF 1 ((List.range 22).map (rd 1))
  ++ failIf (decide (pageTotal < total ((List.range 21).map (minP y)))) kBUF 1 ((List.range 21).map (rd 3))
  ++ ((List.range 22).flatMap fun o => failIf (decide (limC y o < minC y o)) kBUF 2 [rd 0 o, rd 1 o])
  ++ ((List.range 21).flatMap fun o => failIf (decide (limP y o < minP y o)) kBUF 2 [rd 2 o, rd 3 o])

def checkSwc (y : Slice) : List Failing :=
  (List.range 16).flatMap fun n =>
    let w := regGet y kSWC (0x100 + 8 * n)
    failIf (wbit w 31 && !wbit w 30 && !isPort y (fld w 29 26)) kSWC 1
      [.reg kSWC (0x100 + 8 * n), rdPort (fld w 29 26), rdSrg (fld w 29 26)]

/-- What gives a port's rate. -/
def rdRate (y : Slice) (p : Nat) : List Touch := if isGroup y p then [rdPort p, rdSrg p, rdMembers p] else [rdPort p]

def checkTmg (y : Slice) : List Failing :=
  let rd := fun p o => Touch.reg kTMG (tmgOff p + o)
  let aqs := validEntries y tAq 16384
  (lanes16.flatMap fun p => (List.range 8).flatMap fun c =>
    failIf (decide (fld (ccfg y p c) 15 0 = 0)) kTMG 1 [rd p (0x20 + 16 * c)])
  ++ (aqs.flatMap fun n => failIf (decide (fld (aqW y n 0) 15 0 = 0)) kTMG 1 [.tab tAq n])
  ++ ((lanes16.filter (isPort y)).flatMap fun p =>
    failIf (decide (portRate y p < regFld y kTMG (tmgOff p + 4) 19 0)) kTMG 2 (rd p 4 :: rdRate y p)
    ++ ((List.range 8).flatMap fun c =>
      failIf (decide (portRate y p < regFld y kTMG (tmgOff p + 0x24 + 16 * c) 19 0)) kTMG 2
        (rd p (0x24 + 16 * c) :: rdRate y p))
    ++ failIf (decide (portRate y p < minTotal y p)) kTMG 3
      (((List.range 8).map fun c => rd p (0x2C + 16 * c)) ++ rdRate y p))
  ++ ((aqs.filter fun n => isPort y (aqPort y n)).flatMap fun n =>
    failIf (decide (portRate y (aqPort y n) < fld (aqW y n 1) 19 0)) kTMG 2 (.tab tAq n :: rdRate y (aqPort y n)))
  ++ (aqs.flatMap fun n => failIf (!isPort y (aqPort y n)) kTMG 4 (.tab tAq n :: rdRate y (aqPort y n)))

/-! ### The verdict -/

/-- Failing tests of one block. -/
def checkBlock (y : Slice) (pairedOk : Bool) (b : Nat) : List Failing :=
  if b = kLNE then checkLne y else if b = kSRG then checkSrg y pairedOk else if b = kPRS then checkPrs y
  else if b = kCLS then checkCls y else if b = kCAM then checkCam y else if b = kFWD then checkFwd y
  else if b = kFLW then checkFlw y else if b = kDMK then checkDmk y else if b = kBUF then checkBuf y
  else if b = kSWC then checkSwc y else if b = kTMG then checkTmg y
  else []

/-- Blocks a muslin touches, rising. -/
def touchedBlocks (items : List Item) : List Nat := (items.map itemBlock).foldl insNat []

/-- Blocks whose rules are tested: those touched, and DMK where an action may name a program (R308). -/
def testedBlocks (items : List Item) : List Nat :=
  let bs := touchedBlocks items
  if kCLS ∈ bs ∨ kCAM ∈ bs then insNat bs kDMK else bs

/-- The item a failing test is reported against. -/
def blamed (items : List Item) (f : Failing) : Nat :=
  ((items.findIdx? fun it => decide (itemTouch it ∈ f.reads)).orElse fun _ =>
    items.findIdx? fun it => decide (itemBlock it = f.blk)).getD 0

/-- The order of failures: item, then block, then rule. -/
def failRank (items : List Item) (f : Failing) : Nat := (blamed items f * 256 + f.blk) * 256 + f.rule

/-- The first of the failing tests. -/
def firstFailing (items : List Item) (fs : List Failing) : Option Failing :=
  fs.foldl (fun b f =>
    match b with
    | none => some f
    | some g => if failRank items f < failRank items g then some f else b) none

/-- RIF_MFAIL value. -/
def mfail (item blk rule : Nat) : Word := w32 (item % 65536 * 65536 + blk * 256 + rule)

/-- The outcome of a CHECK issued now: RIF_MFAIL (0 when it passes), and DMK_CHKF when DMK rule 1 fails. The BLOCK of an
item that names no block is not stated. -/
def checkVerdict (x : Slice) (pairedOk : Bool) (items : List Item) (incomplete : Bool) : (Word × Option Word) × Slice :=
  match items.zipIdx.findSome? fun p => (itemRule p.1).map fun r => (p.1, p.2, r) with
  | some (it, i, r) =>
    match namedBlock it with
    | some b => ((mfail i b r, none), x)
    | none => let f := freeW x; ((mfail i (f.1.toNat % 256) r, none), f.2)
  | none =>
    if incomplete then ((mfail items.length 0 7, none), x)
    else
      let y := staged x items
      let fs := (testedBlocks items).flatMap (checkBlock y pairedOk)
      match firstFailing items fs with
      | none => ((0, none), x)
      | some f =>
        ((mfail (blamed items f) f.blk (0x10 + f.rule),
          (firstFailing items (fs.filter (·.blk = kDMK))).bind (·.chkf)), x)

end Sys2Proof.Machine
end

