-- ==== Sys2Proof/Machine/Effects.lean ====
section
/-! DEFINITION. What a write does beside storing its value, in the blocks that muslins configure; committed images
(R101, R103, R139, R364, R389). -/

namespace Sys2Proof.Machine

/-- Stores a value in an RW register and its committed image. -/
def putRw (x : Slice) (blk off : Nat) (v : Word) : Slice :=
  let y := regSet x blk off v
  { y with image := sPut (resetOf x.id.val blk off) y.image (regKey blk off) v }

/-- A write of LNE_ADMIN: a port whose bit is cleared goes down. -/
def adminWrite (x : Slice) (v : Word) : Slice :=
  let gone := (List.range 16).filter fun p => portUp x p && !wbit v p
  regSet (gone.foldl portDown x) kLNE 0x1080 (w32 (fld v 15 0))

/-- A write of a port's gate admin register, ignored while a change is pending (R364). -/
def gateAdminWrite (x : Slice) (off : Nat) (v : Word) : Slice :=
  let p := off / 0x100 % 16
  if gatePend x p then setRegBit x kTMG (gstatOff p) 29
  else regSet x kTMG off (if off % 0x100 = 0xD4 then w32 (v.toNat &&& 0x7FF) else v)

/-- A write of a base word of a ring, the other word keeping its value. -/
def ringWordWrite (x : Slice) (r k : Nat) (v : Word) : Slice :=
  if k = 0 then ringBaseWrite x r v.toNat (pairGet x kSWC (0x400 + 16 * r) / 2 ^ 32)
  else ringBaseWrite x r (regGet x kSWC (0x400 + 16 * r)).toNat v.toNat

/-- A write to a register of LNE to TMG that does something of its own; none for a register that just takes the value. -/
def ownWrite (x : Slice) (blk off : Nat) (v : Word) : Option Slice :=
  if blk = kLNE then (if off = 0x1080 then some (adminWrite x v) else none)
  else if blk = kSRG then
    if 0x1000 ≤ off ∧ off < 0x1100 ∧ off % 16 = 8 then some (targetWrite x (laneOf (off / 16)) v)
    else if off = 0x4004 then some (msgCtlWrite x v)
    else none
  else if blk = kCAM then (if off = 0x250 then some (camCmd x v) else none)
  else if blk = kFWD then
    if off = 0x120 then some (lfstWrite x v) else if off = 0x140 then some (repochWrite x v) else if off = 0x210 then some (hcmdWrite x v) else none
  else if blk = kFLW then (if off = 0x230 then some (softCmd x v) else none)
  else if blk = kSWC then
    match ringReg off with
    | some (r, 8) => some (ringCfgWrite x r v)
    | some (r, k) => some (ringWordWrite x r k v)
    | none => if off = 0x48C then some (txTail x 0 v) else if off = 0x49C then some (txTail x 1 v) else none
  else if blk = kTMG then
    if off = 0x124 then some (polCmd x v)
    else if off = 0x310 then some (aqCmd x v)
    else if off = 0x208 then some (glWrite x v)
    else if 0x1000 ≤ off ∧ off < 0x2000 ∧ off % 0x100 = 0xC0 then some (gctlWrite x (off / 0x100 % 16) v)
    else if isGateAdmin off then some (gateAdminWrite x off v)
    else none
  else none

/-- Configuration that Serge members and groups follow has been written. -/
def afterConfig (x : Slice) (blks : List Nat) : Slice := if kLNE ∈ blks ∨ kSRG ∈ blks then srgSync x else x

end Sys2Proof.Machine
end

