-- ==== Sys2Proof/Machine/Muslin.lean ====
section
/-! DEFINITION. Muslin buffers: staging, CHECK, arming, readiness, commit and drain (R114 to R130, R133, R134). -/

namespace Sys2Proof.Machine

/-! ### RIF_MSTATn -/

def mrOk : Nat := 0
def mrFail : Nat := 1
def mrBusyDraining : Nat := 2
def mrNotReady : Nat := 3
def mrTooLate : Nat := 4
def mrNotChecked : Nat := 5
def mrFull : Nat := 6
def mrOtherArmed : Nat := 7
def mrNoTwin : Nat := 8
def mrTwinNotReady : Nat := 9
def mrCancelled : Nat := 10
def mrUnconfirmed : Nat := 11
def mrBadState : Nat := 12

def mstatOff (n : Nat) : Nat := 0x110 + 4 * n
def setMState (x : Slice) (n st : Nat) : Slice := regPut x kRIF (mstatOff n) 31 28 st
def setMResult (x : Slice) (n r : Nat) : Slice := regPut x kRIF (mstatOff n) 27 24 r
def setMEpoch (x : Slice) (n e : Nat) : Slice := regPut x kRIF (mstatOff n) 23 20 e
def setBuf (x : Slice) (n : Nat) (b : MusBuf) : Slice :=
  regPut { x with bufs := x.bufs.setIfInBounds n b } kRIF (mstatOff n) 16 0 b.items.length

/-! ### Staging (R114, R115) -/

/-- A whole item arrives for a buffer. -/
def musEnter (x : Slice) (n : Nat) (it : Item) : Slice :=
  let st := musState x n
  let b := musBuf x n
  if st = msArmed ∨ st = msPolling then raise (setMResult x n mrBadState) kRIF 6
  else if 65536 ≤ b.items.length then raise (setMResult x n mrFull) kRIF 6
  else
    let x := setBuf x n { b with items := b.items ++ [it], checkOk := false }
    setMState (if st = msChecking then setMResult x n mrNotChecked else x) n msBuilding

/-- Words of an item whose first word is w. -/
def itemWords (w : Word) : Nat := max 1 (cdiv (fld w 15 0) 4)

/-- A word written to RIF_MDATAn. -/
def musWord (x : Slice) (req : Requester) (n : Buf) (w : Word) : Slice :=
  let mine := fun (a : Assembly) => decide (a.req = req) && decide (a.buf = n)
  let ws := ((x.asm.find? mine).map (·.words)).getD [] ++ [w]
  let x := { x with asm := x.asm.filter (!mine ·) }
  if itemWords ((ws.head?).getD 0) ≤ ws.length then musEnter x n.val (wordsBytes ws)
  else { x with asm := x.asm ++ [⟨req, n, ws⟩] }

def execMuslinStageWord (sl : SliceId) (req : Requester) (buf : Buf) (w : Word) (s : State) : Res :=
  onStarted sl (fun x => { musWord x req buf w with bus := .done }) s

/-! ### CLEAR, CHECK, ARM, CANCEL (R118, R119, R123) -/

def musClear (x : Slice) (n : Nat) : Slice :=
  if musState x n = msArmed ∨ musState x n = msPolling then setMResult x n mrBadState
  else
    let x := setBuf { x with asm := x.asm.filter (·.buf.val ≠ n) } n MusBuf.empty
    setMResult (setMState x n msEmpty) n mrOk

/-- CHECK: its outcome is that of the configuration committed now. -/
def musCheck (x : Slice) (pairedOk : Bool) (n : Nat) : Slice :=
  let st := musState x n
  if st ≠ msBuilding ∧ st ≠ msChecked ∧ st ≠ msAborted then setMResult x n mrBadState
  else
    let r := checkVerdict x pairedOk (musBuf x n).items (x.asm.any (·.buf.val = n))
    setMState (setBuf r.2 n { musBuf r.2 n with verdict := r.1.1, chkf := r.1.2 }) n msChecking

def execCheckDone (sl : SliceId) (buf : Buf) (s : State) : Res :=
  onStarted sl (fun x =>
    let n := buf.val
    if musState x n ≠ msChecking then x
    else
      let b := musBuf x n
      let x := regSet x kRIF (0x118 + 4 * n) b.verdict
      let x := match b.chkf with | some v => regSet x kDMK 0x130 v | none => x
      let x := setBuf x n { b with checkOk := decide (b.verdict = 0) }
      raise (setMResult (setMState x n msChecked) n (if b.verdict = 0 then mrOk else mrFail)) kRIF 0) s

/-! #### The ARM operand -/

def opHi (b : MusBuf) : Nat := b.op.toNat / 2 ^ 32
def opLo (b : MusBuf) : Nat := b.op.toNat % 2 ^ 32
def opBase (b : MusBuf) : Nat := bits (opHi b) 31 30
def opNext (b : MusBuf) : Bool := bit (opHi b) 29
def opTwin (b : MusBuf) : Bool := bit (opHi b) 28

def usUnits : Nat := 1000 * nsUnits

/-- The time on a base, within 2^27 s of its present time u, whose seconds match 28 bits; the later of two. -/
def instantOf (u sec28 ns : Nat) : Int :=
  let s : Int := (secOf u / 2 ^ 28 * 2 ^ 28 + sec28 : Nat)
  let at' := fun (k : Int) => (s + k * 2 ^ 28) * secUnits + ns * nsUnits
  let far : Int := 2 ^ 27 * secUnits
  let ok := fun (t : Int) => decide (-far < t - u) && decide (t - u ≤ far)
  if ok (at' 1) then at' 1 else if ok (at' 0) then at' 0 else at' (-1)

/-- RESULT of a refused ARM, in the order of R123. -/
def armRefusal (x : Slice) (twinOk : Bool) (n : Nat) (b : MusBuf) : Option Nat :=
  let other := musState x (1 - n)
  let u := baseNow x (opBase b)
  if musState x n ≠ msChecked ∨ !b.checkOk then some mrNotChecked
  else if other = msArmed ∨ other = msPolling then some mrOtherArmed
  else if regBit x kRIF 0x130 23 then some mrBusyDraining
  else if (opNext b ∧ opTwin b) ∨ (!opNext b ∧ 999999999 < opLo b) then some mrBadState
  else if !opNext b ∧ instantOf u (bits (opHi b) 27 0) (opLo b) < u + 20 * usUnits then some mrTooLate
  else if opTwin b ∧ !(twinOk && linkIsUp x) then some mrNoTwin
  else none

/-- ARM with an operand. -/
def musArm (x : Slice) (twinOk : Bool) (n : Nat) (op : Dword) : Slice :=
  let b := { musBuf x n with op := op, tag := regGet x kRIF 0x104 }
  match armRefusal x twinOk n b with
  | some r => raise (setMResult x n r) kRIF 4
  | none =>
    let t := if opNext b then 0
      else (instantOf (baseNow x (opBase b)) (bits (opHi b) 27 0) (opLo b)).toNat % timeMod
    let x := setBuf x n { b with instant := t, passed := false, preloaded := [], answers := [], twinReady := none,
                                 twinAck := false, sentReady := false }
    setMEpoch (setMResult (setMState x n msArmed) n mrOk) n (regFld x kRIF 0x130 31 28 + 1)

/-- CHANGED of the blocks a buffer touches is cleared when it leaves ARMED and POLLING. -/
def clearChanged (x : Slice) (n : Nat) : Slice :=
  (touchedBlocks (musBuf x n).items).foldl (fun x b => clrRegBit x b 8 5) x

def musCancel (x : Slice) (n : Nat) : Slice :=
  if musState x n ≠ msArmed then setMResult x n mrBadState
  else setMResult (setMState (clearChanged x n) n msChecked) n mrCancelled

/-- A MUSLIN_CMD or a write of RIF_MCMD; a code outside R118 is ignored. -/
def musCommand (x : Slice) (pairedOk : Bool) (n code : Nat) (op : Dword) : Slice :=
  match code with
  | 1 => musClear x n
  | 2 => musCheck x pairedOk n
  | 3 => musArm x pairedOk n op
  | 4 => musCancel x n
  | _ => x

/-- The ARM operand that RIF_MOP_HI and RIF_MOP_LO hold. -/
def mopOf (x : Slice) : Dword := d64 (pairGet x kRIF 0x108)

/-! ### The commit (R127, R129) -/

/-- Value of a register once every item of a buffer has changed it. -/
def finalReg (x : Slice) (items : List Item) (blk off : Nat) : Word :=
  (items.filter fun it => decide (itemTouch it = .reg blk off)).foldl (fun v it => itemNew it (itemBits blk off) v)
    (regGet x blk off)

/-- The registers a muslin names. -/
def touchedRegs (items : List Item) : List (Nat × Nat) :=
  items.foldl (fun l it =>
    match itemTouch it with
    | .reg b o => if (b, o) ∈ l then l else l ++ [(b, o)]
    | .tab _ _ => l) []

/-- Ethernet ports whose mode, lanes or FEC a muslin changes. -/
def changedPorts (x : Slice) (items : List Item) : List Nat :=
  lanes16.filter fun p =>
    let v := finalReg x items kLNE (0x1000 + 4 * p)
    isEth x p && decide ((fld v 3 0, fld v 23 22) ≠ (fld (lnePort x p) 3 0, fld (lnePort x p) 23 22))

/-- Keeps the versions that packets of the old epoch read. -/
def keepOld (x : Slice) (items : List Item) : Slice :=
  items.foldl (fun y it =>
    match itemTouch it with
    | .reg b o => { y with regsOld := sIns y.regsOld (regKey b o) (regGet x b o) }
    | .tab t i =>
      let ws := List.range (cdiv (itemLen it - 12) 4)
      { y with tabsOld := ws.foldl (fun m w => sIns m (tabKey t i w) (tabGet x t i w)) y.tabsOld })
    { x with regsOld := [], tabsOld := [] }

/-- Writes the registers a muslin names: plain values, then the registers whose write does something. -/
def commitRegs (x : Slice) (items : List Item) : Slice :=
  let rs := (touchedRegs items).map fun r => (r.1, r.2, finalReg x items r.1 r.2)
  let plain := fun (r : Nat × Nat × Word) => (ownWrite x r.1 r.2.1 r.2.2).isNone
  let y := (rs.filter plain).foldl (fun y r =>
    if ((rowAt r.1 r.2.1).map (·.rw)).getD 0 = 0 then regSet y r.1 r.2.1 r.2.2 else putRw y r.1 r.2.1 r.2.2) x
  (rs.filter (!plain ·)).foldl (fun y r => (ownWrite y r.1 r.2.1 r.2.2).getD y) y

/-- Writes the table entries a muslin names; a change of the trie requests a route epoch bump (R241). -/
def commitTabs (x : Slice) (items : List Item) : Slice :=
  let y := items.foldl (fun y it =>
    match itemTouch it with
    | .tab t i => tabPutRow y t i (bytesWords (itemData it))
    | .reg _ _ => y) x
  if items.any fun it => decide (itemKind it = 2) && decide (itemTable it = tTrie) then bumpRequest y else y

/-- The other buffer loses its CHECK. -/
def uncheckOther (x : Slice) (n : Nat) : Slice :=
  let o := 1 - n
  if musState x o = msChecked ∨ musState x o = msChecking then
    setMResult (setMState (setBuf x o { musBuf x o with checkOk := false }) o msBuilding) o mrNotChecked
  else x

/-- The epoch advances, and the previous one starts draining. -/
def nextEpoch (x : Slice) : Slice :=
  let cur := regFld x kRIF 0x130 31 28
  regPut (regPut (regPut x kRIF 0x130 27 24 cur) kRIF 0x130 31 28 (cur + 1)) kRIF 0x130 23 23 1

/-- The commit applies. -/
def applyMuslin (x : Slice) (n : Nat) : Slice :=
  let b := musBuf x n
  let y := (changedPorts x b.items).foldl portDown x
  let y := keepOld y b.items
  let y := commitTabs (commitRegs y b.items) b.items
  let y := clearChanged (afterConfig y (touchedBlocks b.items)) n
  let y := nextEpoch y
  let y := uncheckOther (setMState y n msCommitted) n
  let y := raise (setMEpoch y n (regFld y kRIF 0x130 31 28)) kRIF 1
  if opTwin b && !b.twinAck then raise (setMResult y n mrUnconfirmed) kRIF 5 else y

/-- The commit is aborted: nothing is applied. -/
def abortMuslin (x : Slice) (n r : Nat) : Slice :=
  raise (setMResult (setMState (clearChanged x n) n msAborted) n r) kRIF 2

/-- At the instant with every answer in: commit, or abort for want of the twin's READY (R133). -/
def commitNow (x : Slice) (n : Nat) : Slice :=
  let b := musBuf x n
  if opTwin b ∧ b.twinReady ≠ some (true, b.tag) then abortMuslin x n mrTwinNotReady else applyMuslin x n

/-! ### Pre-load and readiness (R124 to R126, R130, R133) -/

/-- The buffer in a state, if any. -/
def bufIn (x : Slice) (st : Nat) : Option Nat := (List.range 2).find? fun n => decide (musState x n = st)

def execPreloadDone (sl : SliceId) (blk : Block) (s : State) : Res :=
  onStarted sl (fun x =>
    match (bufIn x msArmed).orElse fun _ => bufIn x msPolling with
    | none => x
    | some n =>
      let b := musBuf x n
      if blk.val ∈ touchedBlocks b.items ∧ blk.val ∉ b.preloaded then
        setBuf x n { b with preloaded := b.preloaded ++ [blk.val] }
      else x) s

/-- The readiness poll begins; `move` places the instant 10 µs later. -/
def pollNow (x : Slice) (n : Nat) (move : Bool) : Slice :=
  let b := musBuf x n
  let t := if move then (baseNow x (opBase b) + 10 * usUnits) % timeMod else b.instant
  setMState (setBuf x n { b with instant := t }) n msPolling

/-- The base stands `us` µs before the instant or later. -/
def instantWithin (x : Slice) (b : MusBuf) (us : Nat) : Bool :=
  decide (timeDiff b.instant (baseNow x (opBase b)) ≤ ((us * usUnits : Nat) : Int))

/-- READINESS_POLL: 10 µs before the instant, or with NEXT once every pre-load is finished (R124, R126). -/
def execReadinessPoll (sl : SliceId) (s : State) : Res :=
  onStarted sl (fun x =>
    match bufIn x msArmed with
    | none => x
    | some n =>
      let b := musBuf x n
      if opNext b then
        (if (touchedBlocks b.items).all (· ∈ b.preloaded) then pollNow x n true else x)
      else if instantWithin x b 10 then pollNow x n false else x) s

/-- A block's answer to the poll. -/
def blockReady (x : Slice) (b : MusBuf) (blk : Nat) : Bool :=
  decide (blk ∈ b.preloaded) && decide (blkState x blk < stDraining) && !reloading x blk && !regBit x blk 8 5
  && !(decide (blk = kDMK) && decide (regFld x kDMK 0x120 22 16 < 64))

/-- Tells the twin of a coordinated commit. -/
def tellTwin (x : Slice) (b : MusBuf) (ok : Bool) : Slice :=
  if opTwin b && linkIsUp x then sendTwin x (.ready ok b.tag) else x

/-- A block answers: not ready aborts; the last ready answer makes the twin hear READY, and commits when a STEP has
passed the instant. -/
def pollAnswer (x : Slice) (n blk : Nat) : Slice :=
  let b := musBuf x n
  let bs := touchedBlocks b.items
  if blk ∉ bs ∨ b.answers.any (·.1 = blk) then x
  else
    let ok := blockReady x b blk
    let b := { b with answers := b.answers ++ [(blk, ok)] }
    let x := setBuf x n b
    if !ok then abortMuslin (tellTwin x b false) n mrNotReady
    else if b.answers.length < bs.length then x
    else
      let x := setBuf (tellTwin x b true) n { b with sentReady := true }
      if b.passed then commitNow x n else x

def execReadinessAnswer (sl : SliceId) (blk : Block) (s : State) : Res :=
  onLink sl (fun x => match bufIn x msPolling with | none => x | some n => pollAnswer x n blk.val) s

def asReady : TwinMsg → Option (Bool × Word)
  | .ready ok t => some (ok, t)
  | _ => none

def asReadyAck : TwinMsg → Option Unit
  | .readyAck => some ()
  | _ => none

/-- The twin's answer counts until 2 µs before the instant, and while a passed instant waits for answers. -/
def readyInTime (x : Slice) (n : Nat) : Bool :=
  let b := musBuf x n
  b.passed || decide ((2 * usUnits : Nat) ≤ timeDiff b.instant (baseNow x (opBase b)))

def execTwinReady (sl : SliceId) (s : State) : Res :=
  onLink sl (fun x =>
    match takeMsg asReady x.inbox with
    | none => x
    | some (r, ms) =>
      let x := if linkIsUp x then sendTwin { x with inbox := ms } .readyAck else { x with inbox := ms }
      match (bufIn x msArmed).orElse fun _ => bufIn x msPolling with
      | none => x
      | some n =>
        let b := musBuf x n
        if opTwin b && readyInTime x n then setBuf x n { b with twinReady := some r } else x) s

def execTwinReadyAck (sl : SliceId) (s : State) : Res :=
  onStarted sl (fun x =>
    match takeMsg asReadyAck x.inbox with
    | none => x
    | some (_, ms) =>
      let x := { x with inbox := ms }
      match bufIn x msPolling with
      | none => x
      | some n =>
        let b := musBuf x n
        if b.sentReady then setBuf x n { b with twinAck := true } else x) s

/-- Every affected block has answered. -/
def allAnswered (b : MusBuf) : Bool := decide (b.answers.length = (touchedBlocks b.items).length)

/-- COMMIT_INSTANT: the base has reached the instant (R127). -/
def execCommitInstant (sl : SliceId) (s : State) : Res :=
  onLink sl (fun x =>
    match bufIn x msPolling with
    | none => x
    | some n => if allAnswered (musBuf x n) && instantWithin x (musBuf x n) 0 then commitNow x n else x) s

/-- A STEP of base k forward to u1 (R130). -/
def musStep (x : Slice) (k u1 : Nat) : Slice :=
  match bufIn x msArmed, bufIn x msPolling with
  | some n, _ =>
    let b := musBuf x n
    if !opNext b && decide (opBase b = k) && decide (timeDiff b.instant u1 ≤ ((10 * usUnits : Nat) : Int)) then pollNow x n true else x
  | none, some n =>
    let b := musBuf x n
    if opBase b ≠ k ∨ 0 < timeDiff b.instant u1 then x
    else if allAnswered b then commitNow x n
    else setBuf x n { b with passed := true }
  | none, none => x

/-! ### The drain (R128) -/

/-- Packets of an epoch that have not passed their last versioned read. -/
def epochCount (x : Slice) (e : BitVec 4) : Nat :=
  let ps := x.win.map (·.pkt) ++ x.recirc ++ x.flowIn ++ x.trackers.flatMap (·.chain) ++ x.ready.map (·.pkt)
    ++ (x.threads ++ x.rerunq).map (·.pkt) ++ x.held.map (·.pkt)
  (ps.filter fun p => decide (p.epoch = e)).length

/-- OLD_CNT. -/
def oldCount (x : Slice) : Nat :=
  if regBit x kRIF 0x130 23 then epochCount x (BitVec.ofNat 4 (regFld x kRIF 0x130 27 24)) else 0

def execOldEpochDrained (sl : SliceId) (s : State) : Res :=
  onStarted sl (fun x =>
    if regBit x kRIF 0x130 23 && decide (oldCount x = 0) then
      raise { regPut x kRIF 0x130 23 23 0 with regsOld := [], tabsOld := [] } kRIF 3
    else x) s

end Sys2Proof.Machine
end

