-- ==== Sys2Proof/Machine/Timestep.lean ====
section
/-! DEFINITION. The base control word: STEP, and the choice of the active tracker (R130, R369 to R372). -/

namespace Sys2Proof.Machine

/-- What a forward step of a base from u0 to u1 sets off (R372). -/
def stepForward (x : Slice) (b u0 u1 : Nat) : Slice :=
  let x := sceneStep x b u0 u1
  let x := (List.range 16).foldl (fun x p => if (portBase x p).val = b then gateStep x p u1 else x) x
  let x := if b = 0 then stepWindows x u1 else x
  musStep x b u1

/-- What STEP does: res becomes 0, and the base jumps to its active tracker. -/
def stepBase (x : Slice) (b : Nat) : Slice :=
  let u0 := baseNow x b
  let x := raise (setBase x b { baseOf x b with res := 0 }) kTIM 3
  let u1 := baseNow x b
  if 0 < timeDiff u1 u0 then stepForward x b u0 u1 else x

/-- STEP: the base command of TIM_BCFG. -/
def execStep (sl : SliceId) (b : BaseId) (s : State) : Res := timCommand sl (timOff b.val) (withCmd · (timOff b.val) 1 2) s

/-- ASEL_SWITCH: the ASEL bit of a write of TIM_BCFG. -/
def execAselSwitch (sl : SliceId) (b : BaseId) (v : Word) (s : State) : Res :=
  timCommand sl (timOff b.val) (fun x => setFld (withCmd x (timOff b.val) 1 0) 31 31 (fld v 31 31)) s

/-- A write of TIM_BCFG: ASEL and SLEW, then CMD. -/
def bcfgWrite (x : Slice) (b : Nat) (v : Word) : Slice :=
  let x := selectTracker x b (fld v 31 31)
  let x := regPut x kTIM (timOff b) 26 17 (fld v 26 17)
  match fld v 1 0 with
  | 1 => captureBase x b
  | 2 => stepBase x b
  | _ => x

end Sys2Proof.Machine
end

