-- ==== Sys2Proof/Machine/Power.lean ====
section
/-! DEFINITION. Power states of a slice: SLC_PWR, entries and wakes, the temperature steps, and PLL unlock (R44, R45, R48,
R55, R56, R97). -/

namespace Sys2Proof.Machine

/-! ### SLC_PWR -/

def pwCur (x : Slice) : Nat := regFld x kSLC 0x100 7 6
def pwReq (x : Slice) : Nat := regFld x kSLC 0x100 1 0
def pwMax (x : Slice) : Nat := regFld x kSLC 0x100 3 2

def cuActive : Nat := 0
def cuDoze : Nat := 1
def cuNap : Nat := 2

/-- SLC_BOOT.TRY is the hub's to clear, at the start that reads it (R71): it outlives the slice's other state. -/
def keepTry (x y : Slice) : Slice :=
  if regBit x kSLC 0x140 14 then setRegBit y kSLC 0x140 14 else y

/-- The slice goes OFF: every register and memory of it is lost; what it has told the hub stays told. -/
def goOff (x : Slice) : Slice :=
  keepTry x { Slice.blank x.id .off with free := x.free, toHub := x.toHub, bus := x.bus }

/-- NAP entry begins: ingress and the sequencers stop, and the twin link, if it is up or training, goes down with a SLEEP notice
(R44, R152, R447). -/
def enterNap (x : Slice) : Slice :=
  let x := seqSleep { x with move := .enterNap } true
  if linkIsUp x || beingTrained x then linkLost x .localSleep else x

/-- A REQ that has been stored takes effect. A slice that waits for the hub to run again stays ACTIVE (R15). -/
def actOnReq (x : Slice) : Slice :=
  match pwReq x with
  | 3 => goOff x
  | 2 => if pwCur x = cuNap ∨ x.move ≠ .none ∨ x.stayActive then x else enterNap x
  | _ => x

/-- A write of SLC_PWR: a REQ deeper than MAXDEEP takes effect as MAXDEEP and sets CLAMPED. -/
def pwrWrite (x : Slice) (v : Word) : Slice :=
  let r := fld v 1 0
  let x := if wbit v 5 then clrRegBit x kSLC 0x100 5 else x
  let x := regPut (regPut x kSLC 0x100 23 16 (fld v 23 16)) kSLC 0x100 8 8 (fld v 8 8)
  let x := if pwMax x < r then setRegBit x kSLC 0x100 5 else x
  actOnReq (regPut x kSLC 0x100 1 0 (min r (pwMax x)))

/-- A write that changes REQ alone. -/
def reqWrite (x : Slice) (r : Nat) : Slice := pwrWrite x (setFld (setBit (regGet x kSLC 0x100) 5 false) 1 0 r)

/-! ### Entries and wakes (R44, R45) -/

/-- Every lane is down or in low-power idle, and pipelines, engines and queues are empty. -/
def dozeQuiet (x : Slice) : Bool :=
  ((List.range 16).all fun l => !laneUp x l || regBit x kLNE 0x1040 (16 + l))
  && x.fifo.isEmpty && x.win.isEmpty && x.recirc.isEmpty && x.flowIn.isEmpty && x.trackers.isEmpty && x.ready.isEmpty
  && x.threads.isEmpty && x.rerunq.isEmpty && x.held.isEmpty && x.queues.isEmpty && x.puntFrames.isEmpty
  && x.sending.isEmpty

/-- LAST_WAKE code of a cause. -/
def wakeCode : WakeCause → Nat
  | .laneTraffic => 1 | .feltAlarm => 2 | .hostCommand => 3 | .signalDetect => 4 | .feltLoss => 5 | .coreRequest => 6
  | .scheduled => 7

/-- A wake cause: held during an entry, and otherwise the start of a wake from DOZE or NAP. -/
def wakeBy (x : Slice) (c : WakeCause) : Slice :=
  match x.move with
  | .waking _ => x
  | .none => if pwCur x = cuActive then x else { x with move := .waking c }
  | _ => if x.heldWake.isSome then x else { setRegBit x kSLC 0x100 31 with heldWake := some c }

/-- An entry completes; a held cause then wakes the slice at once. DOZE holds every rank of DRAM in power-down, and in NAP
the ranks are in self-refresh (R400). -/
def entryDone (x : Slice) (cur : Nat) : Slice :=
  let m := match x.heldWake with | some c => PwrMove.waking c | none => .none
  { clrRegBit (regPut x kSLC 0x100 7 6 cur) kSLC 0x100 31 with move := m, heldWake := none,
                                                               rankDown := if cur = cuDoze then allRanks else [] }

/-- NAP_ENTRY_DONE. -/
def execNapEntryDone (sl : SliceId) (s : State) : Res :=
  onStarted sl (fun x => if x.move = .enterNap then entryDone x cuNap else x) s

/-- In DOZE, or on the way into it. -/
def dozing (x : Slice) : Bool := decide (x.move = .enterDoze) || (decide (pwCur x = cuDoze) && decide (x.move ≠ .enterNap))

/-- In NAP, or on the way into it. -/
def inNap (x : Slice) : Bool := decide (x.move = .enterNap) || napping x

/-- DOZE_WAKE: of the causes, only signal detect wakes from NAP alone. -/
def execDozeWake (sl : SliceId) (c : WakeCause) (s : State) : Res :=
  onStarted sl (fun x => if dozing x ∧ c ≠ .signalDetect then wakeBy x c else x) s

/-- The causes that wake a slice from NAP. -/
def wakesNap (x : Slice) : WakeCause → Bool
  | .feltAlarm => true
  | .hostCommand => true
  | .feltLoss => true
  | .signalDetect => regBit x kSLC 0x100 8
  | _ => false

/-- NAP_WAKE. -/
def execNapWake (sl : SliceId) (c : WakeCause) (s : State) : Res :=
  onStarted sl (fun x => if inNap x && wakesNap x c then wakeBy x c else x) s

/-! ### Wake alarms and the felt clock (R15, R97, R98) -/

/-- The wake times a slice posts, with their bases: armed scenes, armed muslins, pending gate list switches, and the
times that software keeps in hub window page 0. -/
def wakeTimes (x : Slice) (soft : Sparse Word) : List (Nat × Nat) :=
  let scenes := ((x.tabs.filter fun e => decide (e.1 / 2 ^ 30 = tScene) && decide (e.1 % 64 = 0)).map fun e =>
    e.1 / 64 % 2 ^ 24).filter fun n => sceneState x n = scArmed
  let muslins := (List.range 2).filter fun n => musState x n = msArmed ∧ !opNext (musBuf x n)
  let ports := (List.range 16).filter (gatePend x)
  let word := fun (o n : Nat) => sGet 0 soft (o + 16 * n)
  scenes.map (fun n => (sceneT x n, sceneBase x n))
  ++ muslins.map (fun n => ((musBuf x n).instant, opBase (musBuf x n)))
  ++ ports.map (fun p => ((gateOf x p).base, (portBase x p).val))
  ++ ((List.range 4).filter fun n => wbit (word 0x48 n) 31).map fun n =>
      (unitsOf (fld (word 0x44 n) 15 0 * 2 ^ 32 + (word 0x40 n).toNat) (fld (word 0x48 n) 29 0), fld (word 0x44 n) 17 16)

/-- How long until a time on a base. -/
def dueIn (x : Slice) (t : Nat × Nat) : Int := timeDiff t.1 (baseNow x t.2)

/-- The lead of an alarm: 500 µs. -/
def alarmLead : Int := 500000 * nsUnits

/-- Inserts a time among times in the order in which they fall due. -/
def insertDue (x : Slice) (t : Nat × Nat) : List (Nat × Nat) → List (Nat × Nat)
  | [] => [t]
  | u :: l => if dueIn x t < dueIn x u then t :: u :: l else u :: insertDue x t l

/-- The wake times a slice posts: those that have not passed, the 16 earliest (R97). -/
def postedTimes (x : Slice) (soft : Sparse Word) : List (Nat × Nat) :=
  (((wakeTimes x soft).filter fun t => decide (0 ≤ dueIn x t)).foldl (fun l t => insertDue x t l) []).take 16

/-- A slice in DOZE or NAP loses the felt clock: it wakes, and stays ACTIVE until the hub runs again. -/
def feltLost (x : Slice) : Slice :=
  if x.on && (dozing x || inNap x) then { wakeBy x .feltLoss with stayActive := true } else x

/-- FELT_CLOCK_LOSS. -/
def execFeltClockLoss (s : State) : Res := .next (s.eachSlice feltLost)

/-! ### Temperature (R55, R56) -/

/-- Degrees in units of 0.125 °C. -/
def deg (n : Int) : Int := 8 * n

/-- Whether a step stands: entered at its threshold, left 3 °C below it. -/
def stepStands (thr : Int) (was : Bool) (t : Int) : Bool := decide (deg thr ≤ t) || (was && decide (deg (thr - 3) ≤ t))

/-- CAM step that a reading gives. -/
def camStep (cur : Nat) (t : Int) : Nat :=
  if stepStands 103 (decide (3 ≤ cur)) t then 3 else if stepStands 100 (decide (2 ≤ cur)) t then 2
  else if stepStands 95 (decide (1 ≤ cur)) t then 1 else 0

/-- Highest of readings in two's complement. -/
def hottest (ts : List (BitVec 16)) : Int := ts.foldl (fun m t => max m t.toInt) (-32768)

/-- A reading of a started slice: step, warning, TJ and PEAK. -/
def thermalStep (x : Slice) (t : Int) : Slice :=
  let cur := regFld x kSLC 0x110 31 30
  let warn := regBit x kSLC 0x110 29
  let peak := max (signed 8 (regFld x kSLC 0x110 23 16)) (min 127 (t / 8))
  let x := regPut (regPut x kSLC 0x110 15 0 (toSigned 16 t)) kSLC 0x110 23 16 (toSigned 8 peak)
  let n := camStep cur t
  let x := if n = cur then x else raise (regPut x kSLC 0x110 31 30 n) kSLC 0
  let w := stepStands 105 warn t
  if w = warn then x else if w then raise (setRegBit x kSLC 0x110 29) kSLC 1 else clrRegBit x kSLC 0x110 29

/-! ### PLL unlock (R48, R470) -/

/-- Lanes of a transmit group go down as links. -/
def groupPllLost (x : Slice) (g : Nat) : Slice :=
  let mine := fun (l : Nat) => decide (l / 4 = g)
  let ports := (List.range 16).filter fun p => isEth x p && (portLanes x p).any mine && laneUp x p
  let x := ports.foldl portDown x
  (x.members.map (·.lane)).foldl (fun x l => if mine l.val then blockLost x l else x) x

/-- Fault log entry of an unlock: class by the domain. -/
def pllFault (x : Slice) (dom : Nat) : Slice :=
  let f := fun c => faultLog x c kSLC wholeBlock 0x11 (regFld x kSLC 0x120 11 0)
  if dom < 4 then f fcLost else if dom = 4 then f fcDegraded
  else if 6 ≤ dom ∧ dom ≤ 10 then f fcSoft else x

/-- PLL_UNLOCK: domain n + 1 in the order of R47. -/
def execPllUnlock (sl : SliceId) (dom : Fin 12) (s : State) : Res :=
  onLink sl (fun x =>
    let d := dom.val
    if !regBit x kSLC 0x120 d then x
    else
      let x := raise (setRegBit (clrRegBit x kSLC 0x120 d) kSLC 0x120 (16 + d)) kSLC 2
      let x := pllFault x d
      if 6 ≤ d ∧ d ≤ 9 then groupPllLost x (d - 6)
      else if d = 10 then (List.range 4).foldl (fun x k => laneLock x k false) x
      else x) s

end Sys2Proof.Machine
end

