-- ==== Sys2Proof/Machine/Blocks.lean ====
section
/-! DEFINITION. Block states: writes of _CTL, drains, held _CTL writes; ports coming up and going down, low-power idle
(R99, R100, R126, R139 to R142, R148, R152, R347). -/

namespace Sys2Proof.Machine

/-! ### Work in flight (R99, R100) -/

/-- Trackers that wait for FWD. -/
def resolvingTrackers (x : Slice) : List Tracker := x.trackers.filter fun t => decide (t.stage = .resolving)

/-- Items in flight in a block: what _STAT.INFLIGHT counts. -/
def inflight (x : Slice) (blk : Nat) : Nat :=
  if blkState x blk = stDisabled then 0
  else if blk = kLNE then (x.sending.filter fun e => isEth x e.lane.val).length
  else if blk = kCLS then x.win.length + x.recirc.length + x.flowIn.length
  else if blk = kCAM then (x.win.filter (·.inCam)).length
  else if blk = kFWD then (resolvingTrackers x).length
  else if blk = kFLW then (x.trackers.map (·.chain.length)).foldl (· + ·) 0 + x.ready.length
  else if blk = kDMK then x.threads.length + x.rerunq.length + x.held.length
  else if blk = kBUF then (x.frames.filter fun f => f.need ≠ 0).length
  else if blk = kSWC then (x.frames.filter fun f => f.copies ≠ []).length + x.puntFrames.length
  else if blk = kTMG then (x.queues.flatMap Queue.all).length + x.sending.length
  else if blk = kTIM then x.scenes.length
  else if blk = kDMA then (x.dma.toList.filter fun c => c.desc.isSome).length
  else if blk = kTWN then x.unacked.length
  else 0

/-- Drops trackers, with their packets. -/
def dropTrackers (x : Slice) (p : Tracker → Bool) : Slice := { x with trackers := x.trackers.filter (!p ·) }

/-- A block that drains with DRAIN = 0 discards its work in flight, each item counted (R100). -/
def discardWork (x : Slice) (blk : Nat) : Slice :=
  let x := discarded x blk (inflight x blk)
  if blk = kLNE then (List.range 16).foldl stompPort x
  else if blk = kCLS then { x with win := [], recirc := [], flowIn := [] }
  else if blk = kCAM then { x with win := x.win.filter (!·.inCam) }
  else if blk = kFWD then dropTrackers x fun t => decide (t.stage = .resolving)
  else if blk = kFLW then retryWays { dropTrackers x (fun _ => true) with ready := [] }
  else if blk = kDMK then
    (x.held.filterMap (·.frm)).foldl releaseFrame (retryWays { x with threads := [], rerunq := [], held := [] })
  else if blk = kBUF then (x.frames.filter fun f => f.need ≠ 0).foldl discardNoCell x
  else if blk = kSWC then
    let fs := (x.frames.filter fun f => f.copies ≠ []).map (·.id)
    let ps := x.puntFrames.map (·.frm)
    let x := { x with frames := x.frames.map fun f => { f with copies := [] }, puntFrames := [] }
    (fs ++ ps).foldl releaseFrame x
  else if blk = kTMG then (List.range 16).foldl (fun x p => flushPort (stompPort x p) p) x
  else if blk = kTIM then x.scenes.foldl (fun x r => endRun (setScene x r.scene scCancelled) r.scene) x
  else if blk = kDMA then { x with dma := x.dma.map fun c => { c with desc := none, flight := none } }
  else x

/-- LNE leaves ENABLED: every Ethernet port goes down, what it sends apart, and members lose their blocks (R100). -/
def lanesStop (x : Slice) : Slice :=
  let ports := (List.range 16).filter fun p => isEth x p && laneUp x p
  let x := ports.foldl (fun x p => flushPort (setLanesUp x (portLanes x p) false) p) x
  (x.members.map (·.lane)).foldl blockLost x

/-- TWN is disabled: the log is sent or discarded, then the link goes down with a DOWN notice (R152). Answers the slice
and what it sends to the twin. -/
def twnStop (x : Slice) (drain : Bool) : Slice × List TwinMsg :=
  let y := if drain && linkIsUp x then x.logq.foldl sendLogItem { x with logq := [] }
    else { discarded x kTWN x.logq.length with logq := [] }
  let z := linkLost y .localDisable
  (z, sentSince x y ++ sentSince y z)

/-! ### Writes of _CTL (R99) -/

/-- The state that a write of EN leads to. -/
def ctlNext (st : Nat) (en : Bool) : Nat :=
  if st = stDisabled ∧ en then stEnabled
  else if st = stEnabled ∧ !en then stDraining
  else if st = stDraining ∧ en then stPending
  else if st = stPending ∧ !en then stDraining
  else st

/-- A write of _CTL within the slice. -/
def ctlSlice (x : Slice) (blk : Nat) (v : Word) : Slice × List TwinMsg :=
  let was := blkState x blk
  let st := ctlNext was (wbit v 0)
  let drain := wbit v 1
  let x := setState (regSet x blk 4 (w32 (fld v 1 0))) blk st
  let x := if was = stEnabled ∧ st = stDraining ∧ blk = kLNE then lanesStop x else x
  let x := if st = stDraining ∧ !drain then discardWork x blk else x
  if was = stEnabled ∧ st = stDraining ∧ blk = kTWN then twnStop x drain
  else (resume x, [])

/-- A write of _CTL; TWN becoming ENABLED may start the bring-up of the link at both ends (R151). -/
def ctlApply (s : State) (sl : SliceId) (blk : Nat) (v : Word) : State :=
  let was := blkState (s.slice sl) blk
  let r := ctlSlice (s.slice sl) blk v
  let s := (s.setSlice sl r.1).deliver (twin sl) r.2
  if blk = kTWN ∧ was ≠ stEnabled ∧ enabled (s.slice sl) kTWN then linkEnabled s sl else s

/-- A muslin in POLLING affects the block, whose _CTL writes wait (R126). -/
def ctlHeld (x : Slice) (blk : Nat) : Bool :=
  match bufIn x msPolling with
  | some n => decide (blk ∈ touchedBlocks (musBuf x n).items)
  | none => false

/-- A _CTL write as the bus delivers it. -/
def ctlWrite (s : State) (sl : SliceId) (blk : Nat) (v : Word) : State :=
  let x := s.slice sl
  if ctlHeld x blk then s.setSlice sl { x with heldCtl := x.heldCtl ++ [(blk, v)] } else ctlApply s sl blk v

/-- The bus completes a write. -/
def State.busDone (s : State) (sl : SliceId) : State := s.setSlice sl { s.slice sl with bus := .done }

/-- CTL_WRITE. -/
def execCtlWrite (sl : SliceId) (blk : Block) (v : Word) (s : State) : Res :=
  .next (if (s.slice sl).on then (ctlWrite s sl blk.val v).busDone sl else s)

/-- HELD_CTL_APPLY: the poll is over, and the held writes take effect in order (R126). -/
def execHeldCtlApply (sl : SliceId) (s : State) : Res :=
  let x := s.slice sl
  .next (if x.on && (bufIn x msPolling).isNone then
      x.heldCtl.foldl (fun s w => ctlApply s sl w.1 w.2) (s.setSlice sl { x with heldCtl := [] })
    else s)

/-- Work in flight has reached zero: the block is DISABLED, or ENABLED where an enable was pending. The groups of a
disabled SRG are down. -/
def drainedTo (x : Slice) (blk : Nat) : Slice :=
  if inflight x blk ≠ 0 then x
  else if blkState x blk = stPending then
    resume (setState x blk stEnabled)
  else if blkState x blk = stDraining then
    let x := setState x blk stDisabled
    if blk = kSRG then (x.groups.map (·.lane.val)).foldl portDown x else x
  else x

/-- BLOCK_DRAINED. -/
def execBlockDrained (sl : SliceId) (blk : Block) (s : State) : Res :=
  let x := s.slice sl
  if x.on then
    let y := drainedTo x blk.val
    let s := s.setSlice sl y
    .next (if blk.val = kTWN ∧ !enabled x kTWN ∧ enabled y kTWN then linkEnabled s sl else s)
  else .next s

/-! ### Ports (R139 to R142, R148) -/

/-- FEC codes that a mode lists (R140); 0, what the standard requires, is every mode's. -/
def fecListed (mode c : Nat) : Bool :=
  decide (c = 0) || (decide (mode = 1) && decide (c = 1)) || (decide (mode = 2) && decide (c ≤ 2)) || decide (mode = 3)

/-- Auto-negotiation is on. -/
def negotiates (x : Slice) (p : Nat) : Bool := wbit (lnePort x p) 25

/-- FEC in use: the negotiated one with auto-negotiation, else the configured one, else the standard's (R141). -/
def fecInUse (x : Slice) (p : Nat) (negotiated : Nat) : Nat :=
  let c := if negotiates x p then negotiated else fld (lnePort x p) 23 22
  if fecListed (portMode x p) c then c else 0

/-- An Ethernet port that may come up. -/
def mayComeUp (x : Slice) (p : Nat) : Bool :=
  x.alive && enabled x kLNE && isEth x p && adminUp x p && !laneUp x p && !napping x && !(portLanes x p).any (looped x)

/-- PORT_LINK_UP: training and negotiation of the port have ended: the FEC negotiated, whether the partner offers the
port's mode, and whether it agreed to low-power idle. A port whose partner offers no common mode stays down. -/
def execPortLinkUp (sl : SliceId) (lane : Lane) (fec : BitVec 2) (offered eee : Bool) (s : State) : Res :=
  onStarted sl (fun x =>
    let p := lane.val
    if !mayComeUp x p then x
    else if negotiates x p && !offered then { x with negFails := sPut 0 x.negFails p (sGet 0 x.negFails p + 1) }
    else
      let x := { x with eeeAgreed := if negotiates x p && eee then insNat x.eeeAgreed p else x.eeeAgreed.filter (· ≠ p) }
      setLanesUp (regSet x kLNE (0x1100 + 4 * p) (w32 (fecInUse x p fec.toNat))) (portLanes x p) true) s

/-- PORT_LINK_DOWN. -/
def execPortLinkDown (sl : SliceId) (lane : Lane) (s : State) : Res :=
  onStarted sl (fun x => if isEth x lane.val && laneUp x lane.val then portDown x lane.val else x) s

/-- The Ethernet port that owns a lane. -/
def lanePort (x : Slice) (l : Nat) : Option Nat :=
  (List.range 16).find? fun p => isEth x p && decide (l ∈ portLanes x p)

/-- LPI_ENTER: a lane of a port that offers low-power idle and whose partner has agreed (R142). -/
def execLpiEnter (sl : SliceId) (lane : Lane) (s : State) : Res :=
  onStarted sl (fun x =>
    match lanePort x lane.val with
    | some p => if laneUp x lane.val && wbit (lnePort x p) 26 && decide (p ∈ x.eeeAgreed) then setRegBit x kLNE 0x1040 (16 + lane.val) else x
    | none => x) s

/-- LPI_EXIT. -/
def execLpiExit (sl : SliceId) (lane : Lane) (s : State) : Res :=
  onStarted sl (fun x => clrRegBit x kLNE 0x1040 (16 + lane.val)) s

/-- A landed write of LNE_SDSn: a lane in a loopback is down, and with it its Ethernet port. -/
def sdsLand (x : Slice) (l : Nat) : Slice :=
  let v := regGet x kLNE (0x2000 + 4 * l)
  -- the checker sees the lane's own PRBS31 in a near-end or PCS loopback
  let x := regPut x kLNE (0x2000 + 4 * l) 28 28 (wbit v 29 && decide (fld v 31 30 = 1 ∨ fld v 31 30 = 3)).toNat
  if !looped x l then x
  else
    let x := match lanePort x l with
      | some p => if laneUp x p then portDown x p else x
      | none => x
    blockLost x (laneOf l)

end Sys2Proof.Machine
end

