-- ==== Sys2Proof/Machine/HraFrame.lean ====
section
/-! DEFINITION. Frames of the management port and the layout of HRA frames (R80, R81, R87). -/

namespace Sys2Proof.Machine

/-! ### Tags and EtherType (R80, R81) -/

def tagged (f : Bytes) : Bool := decide (beAt f 12 2 = 0x8100)

def tagVid (f : Bytes) : Nat := beAt f 14 2 % 4096

/-- Offset of the EtherType behind a tag. -/
def typeAt (f : Bytes) : Nat := if tagged f then 16 else 12

def hraType : Nat := 0x88B5

/-- HRA frames. -/
def isHra (f : Bytes) : Bool := decide (beAt f (typeAt f) 2 = hraType)

/-- A frame tagged with a VLAN; the priority bits of the tag it had are kept. -/
def retag (f : Bytes) (vid : Nat) : Bytes :=
  let pcp := if tagged f then beAt f 14 2 / 2 ^ 13 else 0
  f.take 12 ++ beBytes 2 0x8100 ++ beBytes 2 (pcp * 2 ^ 13 + vid) ++ f.drop (typeAt f)

/-- Source address of a frame. -/
def srcMac (f : Bytes) : Bytes := slab f 6 6

/-! ### HRA frames (R87) -/

/-- Frame types. -/
def htOpen : Nat := 1
def htAccept : Nat := 2
def htRequest : Nat := 3
def htReply : Nat := 4
def htEvent : Nat := 5
def htEventAck : Nat := 6
def htClose : Nat := 7
def htClaim : Nat := 8
def htReject : Nat := 15

/-- Bytes 0 to 11 + LEN: what the tag covers. -/
def HraFrame.plain (f : HraFrame) : Bytes :=
  beBytes 1 (0x10 + f.type) ++ [0] ++ beBytes 2 f.ses ++ beBytes 4 f.seq ++ beBytes 2 f.body.length ++ beBytes 1 f.nops
    ++ [f.status] ++ f.body

/-- The frame with its tag: under a key, or 0 outside a session. -/
def HraFrame.bytes (f : HraFrame) (key : Option Bytes) : Bytes :=
  f.plain ++ match key with
    | some k => beBytes 16 (aesCmac k f.plain).toNat
    | none => List.replicate 16 0

/-- An Ethernet frame of the hub's to a host: the tag of a VLAN, where it is not 0, then the EtherType and the payload. -/
def etherHra (mac : Bytes) (vlan : Nat) (payload : Bytes) : Bytes :=
  mac ++ beBytes 6 Config.hubMac ++ (if vlan = 0 then [] else beBytes 2 0x8100 ++ beBytes 2 vlan) ++ beBytes 2 hraType ++ payload

/-- What follows the EtherType of a received frame. -/
def hraPart (f : Bytes) : Bytes := f.drop (typeAt f + 2)

/-- Fields of the payload of an HRA frame. -/
def hraKind (p : Bytes) : Nat := beAt p 0 1 % 16
def hraSes (p : Bytes) : Nat := beAt p 2 2
def hraSeq (p : Bytes) : Nat := beAt p 4 4
def hraLen (p : Bytes) : Nat := beAt p 8 2
def hraNops (p : Bytes) : Nat := beAt p 10 1
def hraBody (p : Bytes) : Bytes := slab p 12 (hraLen p)
def hraTag (p : Bytes) : BitVec 128 := BitVec.ofNat 128 (beAt p (12 + hraLen p) 16)

/-- Version 1, and the frame holds what its LEN says. -/
def hraFormed (p : Bytes) : Bool := decide (beAt p 0 1 / 16 = 1) && decide (28 + hraLen p ≤ p.length)

/-- The tag verifies under a key. -/
def hraTagOk (key p : Bytes) : Bool := decide (aesCmac key (p.take (12 + hraLen p)) = hraTag p)

end Sys2Proof.Machine
end

