-- ==== Sys2Proof/Machine/Hub.lean ====
section
/-! DEFINITION. What the hub keeps: targets, events, its log, the NVM map, images and the starts it is asked for
(R39, R63 to R66, R95, R96, R494). -/

namespace Sys2Proof.Machine

/-! ### Targets: slices 0 to 7, and 8 for the hub -/

def hubTarget : Nat := 8

def Hub.tgt (h : Hub) (n : Nat) : HubSlice := if n < 8 then (h.slices[n]?).getD HubSlice.blank else h.hubTgt

def Hub.setTgt (h : Hub) (n : Nat) (t : HubSlice) : Hub :=
  if n < 8 then { h with slices := setNth h.slices n t } else { h with hubTgt := t }

def Hub.modTgt (h : Hub) (n : Nat) (f : HubSlice → HubSlice) : Hub := h.setTgt n (f (h.tgt n))

/-- A command that acts on the hub. -/
def onHub (f : Hub → Hub) (s : State) : Res := .next { s with hub := f s.hub }

/-- A free 64-bit value of the hub's. -/
def Hub.freeD (h : Hub) : Dword × Hub := (Config.freeDword 8 h.free, { h with free := h.free + 1 })

/-- The hub answers: its rails are up and its ROM or firmware runs. -/
def Hub.answers (h : Hub) : Bool := decide (h.phase ≠ .off)

def Hub.running (h : Hub) : Bool := decide (h.phase = .running)

/-- The hub's NVM event and fault log (R63). -/
def Hub.note (h : Hub) (n : Nat) (a b : Word) : Hub := { h with log := h.log ++ [(n, a, b)] }

/-! ### Events (R95, R96) -/

def evBootDone : Nat := 1
def evBootFailed : Nat := 2
def evBootFallback : Nat := 3
def evCharterRejected : Nat := 4
def evSupplyWarning : Nat := 5
def evThermalWarning : Nat := 6
def evThermalShutdown : Nat := 7
def evSliceFault : Nat := 8
def evTwinLost : Nat := 9
def evOverflow : Nat := 10

/-- The VLAN of a target's frames, 0 for none (R80, R87); the hub's as of the last hub start. -/
def Hub.targetVlan (h : Hub) (n : Nat) : Nat := if n < 8 then chVlan h.charter n else chHubVlan h.hubChar

/-- Queues a frame for the management port: the sender is a slice, or 8 for the hub (R82). -/
def Hub.queueTx (h : Hub) (n : Nat) (f : Bytes) : Hub := { h with tx := h.tx ++ [(n, f)] }

/-- A frame of the hub's in a session, under the session's key. -/
def Hub.sessionBytes (h : Hub) (t : Session) (f : HraFrame) : Bytes :=
  etherHra t.mac (h.targetVlan t.target) (f.bytes (some t.hubKey))

/-- The hub's next SEQ of a session. -/
def Hub.bumpOut (h : Hub) (id : Nat) : Hub :=
  { h with sessions := h.sessions.map fun s => if s.id = id then { s with out := s.out + 1 } else s }

/-- The frame that carries an event in a session under a SEQ (R95). -/
def eventFrame (ses seq : Nat) (e : EventRec) : HraFrame :=
  { type := htEvent, ses := ses, seq := seq, nops := 0, status := 0,
    body := beBytes 2 e.code ++ beBytes 1 e.slice ++ dwordBytes e.felt ++ dwordBytes e.data }

/-- Sends an event to every open session of its target. -/
def Hub.sendEvent (h : Hub) (n : Nat) (e : EventRec) : EventRec × Hub :=
  (h.sessions.filter (·.target = n)).foldl (fun r s =>
    ({ r.1 with copies := r.1.copies ++ [(s.id, s.out + 1, 0)] },
     (r.2.bumpOut s.id).queueTx s.target (r.2.sessionBytes s (eventFrame s.id (s.out + 1) e)))) (e, h)

/-- Queues an event of a target, or discards and counts it with 256 unacknowledged. -/
def Hub.event (h : Hub) (n code slice : Nat) (data : Dword) : Hub :=
  if 256 ≤ (h.tgt n).events.length then h.modTgt n fun t => { t with evLost := t.evLost + 1 }
  else
    let f := h.freeD
    let r := f.2.sendEvent n ⟨code, slice, f.1, data, []⟩
    r.2.modTgt n fun t => { t with events := t.events ++ [r.1] }

/-- An event whose data no rule states. -/
def Hub.eventOpen (h : Hub) (n code slice : Nat) : Hub :=
  let f := h.freeD
  f.2.event n code slice f.1

/-- The slice byte of an event about the hub itself. -/
def hubSliceByte : Nat := 0xFF

/-- Space has freed in a queue that discarded events: one OVERFLOW event with their count. -/
def Hub.overflow (h : Hub) (n : Nat) : Hub :=
  let k := (h.tgt n).evLost
  if k = 0 ∨ 256 ≤ (h.tgt n).events.length then h
  else (h.modTgt n fun t => { t with evLost := 0 }).event n evOverflow (if n < 8 then n else hubSliceByte) (d64 k)

/-- Sends the events queued while a target had no session. -/
def Hub.sendQueued (h : Hub) (n : Nat) : Hub :=
  (h.tgt n).events.zipIdx.foldl (fun h p =>
    if p.1.copies ≠ [] then h
    else
      let r := h.sendEvent n p.1
      r.2.modTgt n fun t => { t with events := setNth t.events p.2 r.1 }) h

/-! ### Starts (R39, R62, R494) -/

/-- A start is asked for; the first start after a reset of the package or a supply failure keeps its cause. -/
def HubSlice.ask (t : HubSlice) (cause : BitVec 4) : HubSlice :=
  { t with start := true, policy := false, cause := if t.started then cause else t.cause }

/-- OFF for heat, and not yet below 95 °C: no command starts the slice (R55). -/
def HubSlice.tooHot (t : HubSlice) : Bool := t.thermal && t.hot

def rstHost : BitVec 4 := 2
def rstSelf : BitVec 4 := 3
def rstThermal : BitVec 4 := 4
def rstUnconfirmed : BitVec 4 := 5
def rstCharter : BitVec 4 := 6
def rstPolicy : BitVec 4 := 7

def State.modHub (s : State) (f : Hub → Hub) : State := { s with hub := f s.hub }

def State.modHubSlice (s : State) (n : Nat) (f : HubSlice → HubSlice) : State := s.modHub (·.modTgt n f)

/-- The slice goes OFF, as the hub sees it too. -/
def State.sliceOff (s : State) (sl : SliceId) : State := s.setSlice sl (goOff (s.slice sl))

/-- A slice reset: through OFF to a full boot (R62). A slice held OFF for heat is not asked to start (R55). -/
def State.restartSlice (s : State) (sl : SliceId) (cause : BitVec 4) : State :=
  (s.sliceOff sl).modHubSlice sl.val fun t => if t.tooHot then t else t.ask cause

/-! ### NVM (R63 to R66) -/

def nvmSize : Nat := 2 ^ 29
def nvmBank (b : Bool) : Nat := if b then 0x10100000 else 0x200000
def hubPartSize : Nat := 31 * 2 ^ 20
def slicePartSize : Nat := 28 * 2 ^ 20
def slicePart (b : Bool) (n : Nat) : Nat := nvmBank b + 0x1F00000 + n * 0x1C00000
def charterSlot (k : Nat) : Nat := k * 0x80000

def Hub.nvmGet (h : Hub) (o n : Nat) : Bytes := sGetBytes h.nvm o n

def Hub.nvmPut (h : Hub) (o : Nat) (bs : Bytes) : Hub := { h with nvm := sPutBytes h.nvm o bs }

/-- Erases a span. -/
def Hub.nvmErase (h : Hub) (o n : Nat) : Hub := { h with nvm := h.nvm.filter fun e => !(decide (o ≤ e.1) && decide (e.1 < o + n)) }

/-- The charter stored in a copy slot: its plain length, or that of a transfer charter. -/
def Hub.charterCopy (h : Hub) (k : Nat) : Bytes :=
  let n := beAt (h.nvmGet (charterSlot k + 6) 2) 0 2
  h.nvmGet (charterSlot k) (if n = 0x05C0 then 0x5C0 else 0x540)

/-- Fields of an image header (R65). -/
def imgVer (hd : Bytes) : Nat := beAt hd 8 4
def imgLen (hd : Bytes) : Nat := beAt hd 0xC 4
def imgLoad (hd : Bytes) : Nat := beAt hd 0x10 8
def imgEntry (hd : Bytes) : Nat := beAt hd 0x18 8
def imgKey (hd : Bytes) : Bytes := slab hd 0x40 64

/-- What R66 asks of an image's header: its fields, the fingerprint of its partition's owner, and its signature. -/
def headerValid (hd : Bytes) (kind size minver : Nat) (ownerFp : Bytes) : Bool :=
  decide (beAt hd 0 4 = 0x4E494D47) && decide (beAt hd 4 2 = 1) && decide (beAt hd 6 1 = kind)
  && decide (imgLen hd ≤ size - 256) && decide (minver ≤ imgVer hd) && decide (sha256 (imgKey hd) = ownerFp)
  && ecdsaVerify (imgKey hd) (slab hd 0 0x80) (slab hd 0x80 64)

/-- DIGEST matches the payload. -/
def payloadValid (hd payload : Bytes) : Bool := decide (sha256 payload = slab hd 0x20 32)

def Hub.sliceHeader (h : Hub) (b : Bool) (n : Nat) : Bytes := h.nvmGet (slicePart b n) 256

/-- A slice's image in a bank is valid under the charter in force. -/
def Hub.sliceImageOk (h : Hub) (b : Bool) (n : Nat) : Bool :=
  let hd := h.sliceHeader b n
  headerValid hd 0 slicePartSize (chMinver h.charter n) (chOwnFp h.charter n)
  && payloadValid hd (h.nvmGet (slicePart b n + 256) (imgLen hd))

/-- The hub image in a bank is valid. -/
def Hub.hubImageOk (h : Hub) (b : Bool) : Bool :=
  let hd := h.nvmGet (nvmBank b) 256
  headerValid hd 1 hubPartSize (chHubMinver h.charter) (chHubFp h.charter)
  && payloadValid hd (h.nvmGet (nvmBank b + 256) (imgLen hd))

/-- An entry of a pair of marks, for banks A and B. -/
def bankMark (l : List Bool) (b : Bool) : Bool := (l[b.toNat]?).getD false
def setMark (l : List Bool) (b v : Bool) : List Bool := setNth l b.toNat v

end Sys2Proof.Machine
end

