-- ==== Sys2Proof/Machine/Wake.lean ====
section
/-! DEFINITION. Wake times posted to the felt domain, and the power commands that post them (R25, R44, R45, R97, R98). -/

namespace Sys2Proof.Machine

/-- A slice posts its wake times to the felt domain; one less than 500 µs away raises its alarm at once (R97, R98). Without
the hub none is kept (R14). -/
def State.postWakes (s : State) (sl : SliceId) : State :=
  if s.hub.felt && hubUp s then
    let x := s.slice sl
    let ts := postedTimes x (s.hub.tgt sl.val).soft
    let soon := fun t => decide (dueIn x t < alarmLead)
    let s := s.modHubSlice sl.val fun t => { t with wakes := ts.filter (!soon ·) }
    if ts.any soon && (dozing x || inNap x) then s.setSlice sl (wakeBy x .feltAlarm) else s
  else s

/-- After a change of a slice: one that has begun an entry posts its wake times. -/
def State.posting (s : State) (sl : SliceId) (was : PwrMove) : State :=
  let m := (s.slice sl).move
  if m ≠ was ∧ (m = .enterDoze ∨ m = .enterNap) then s.postWakes sl else s

/-- A command on a slice of which an entry may come. -/
def State.andPost (s : State) (sl : SliceId) (r : Res) : Res :=
  match r with
  | .next t => .next (t.posting sl (s.slice sl).move)
  | o => o

/-- REQ_NAP. -/
def execReqNap (sl : SliceId) (s : State) : Res := s.andPost sl (onLink sl (fun x => { reqWrite x 2 with bus := .done }) s)

/-- REQ_OFF. -/
def execReqOff (sl : SliceId) (s : State) : Res := s.andPost sl (onLink sl (fun x => { reqWrite x 3 with bus := .done }) s)

/-- DOZE_ENTRY: the quiet has lasted DOZE_DLY. -/
def execDozeEntry (sl : SliceId) (s : State) : Res :=
  s.andPost sl (onStarted sl (fun x =>
    if pwCur x = cuActive ∧ x.move = .none ∧ !x.stayActive ∧ pwReq x = 1 ∧ regFld x kSLC 0x100 23 16 ≠ 0 ∧ dozeQuiet x then
      { x with move := .enterDoze }
    else x) s)

/-- DOZE_ENTRY_DONE; a REQ of NAP written during the entry now takes effect. -/
def execDozeEntryDone (sl : SliceId) (s : State) : Res :=
  s.andPost sl (onLink sl (fun x => if x.move = .enterDoze then actOnReq (entryDone x cuDoze) else x) s)

/-- FELT_WAKE_ALARM: 500 µs before a posted time, raised by the hub while it runs (R14). -/
def execFeltWakeAlarm (sl : SliceId) (s : State) : Res :=
  let x := s.slice sl
  let due := fun t => decide (dueIn x t ≤ alarmLead)
  if s.hub.felt && hubUp s && x.on && (s.hub.tgt sl.val).wakes.any due then
    let s := s.modHubSlice sl.val fun t => { t with wakes := t.wakes.filter (!due ·) }
    .next (if dozing x || inNap x then s.setSlice sl (wakeBy x .feltAlarm) else s)
  else .next s

/-- A wake has completed: CUR and LAST_WAKE; REQ returns to 0b01 on a wake from NAP, and a REQ of NAP written during a wake
from DOZE now takes effect. The sequencers go on (R447), and windows are latched again (R457). -/
def wakeComplete (x : Slice) (c : WakeCause) : Slice :=
  let x := seqSleep (if napping x then wakeWindows (regPut x kSLC 0x100 1 0 1) else x) false
  actOnReq (raise { regPut (regPut x kSLC 0x100 7 6 cuActive) kSLC 0x100 27 24 (wakeCode c) with move := .none } kSLC 3)

/-- The slice has woken: it is ACTIVE and posts its wake times again (R97). -/
def State.woken (s : State) (sl : SliceId) (c : WakeCause) : State :=
  let x := s.slice sl
  let y := wakeComplete x c
  ((s.setSlice sl y).deliver (twin sl) (sentSince x y)).postWakes sl

end Sys2Proof.Machine
end

