-- ==== Sys2Proof/Machine/Boot.lean ====
section
/-! DEFINITION. Supply and resets of the package, the hub's start, the start and boot of a slice, temperatures and the test
port (R36, R38 to R42, R53 to R57, R61, R66 to R73, R391, R494). -/

namespace Sys2Proof.Machine

/-! ### Resets of the hub and the package (R16, R61) -/

/-- What a hub reset leaves: its NVM, its fuses and the felt domain's policy; sessions, events, buffers, posted wake times and
the hub window registers are lost. -/
def Hub.resetHub (h : Hub) : Hub :=
  let clr := fun (t : HubSlice) => { t with soft := [], wakes := [], events := [], evLost := 0, rx := [], denied := 0 }
  { h with phase := .off, sessions := [], nvmSets := List.replicate 9 NvmSet.blank, tout := 0, timeFlag := false,
           f10m := false, shadow := none, tx := [], mgtCur := 0, mgtDef := [], slices := h.slices.map clr, hubTgt := clr h.hubTgt }

/-- Every slice OFF, as a loss of supply leaves it. -/
def State.slicesLost (s : State) : State := s.eachSlice fun x => { Slice.blank x.id .off with free := x.free }

/-- First start causes after a reset of the package or a supply failure. -/
def rstPower : BitVec 4 := 0
def rstSupply : BitVec 4 := 1

/-- A whole package reset: the NVM, the anchor fuses and the model's counters remain. -/
def Hub.resetPackage (h : Hub) (vin : Word) : Hub :=
  let b := HubSlice.blank
  { Hub.reset with free := h.free, nextSes := h.nextSes, vin := vin, imgFailed := h.imgFailed, anchors := h.anchors,
                   nvm := h.nvm, log := h.log, module := h.module, trst := h.trst, twoWire := h.twoWire,
                   slices := h.slices.map fun t => { b with active := t.active, failed := t.failed } }

def mvWord (mv : BitVec 16) : Word := w32 mv.toNat

/-! ### Supply (R38 to R42) -/

/-- POWER_UP: the felt domain starts if it has stopped, and the hub's rails come up. -/
def execPowerUp (mv : BitVec 16) (s : State) : Res :=
  onHub (fun h => if h.ov then { h with vin := mvWord mv } else { h with vin := mvWord mv, felt := true, powered := true }) s

/-- Word of the hub's log for a supply event: the event code and the voltage follow. -/
def evWord (code : Nat) : Word := w32 code

/-- SUPPLY_WARNING: logged, and an event to the hub owner. While the hub does not answer nothing is logged or sent, and the
warning stands all the same. -/
def execSupplyWarning (mv : BitVec 16) (s : State) : Res :=
  onHub (fun h =>
    let h := { h with vin := mvWord mv }
    if !h.powered || h.warn then h
    else if !h.answers then { h with warn := true }
    else
      let h := { h with warn := true }.note hubTarget (evWord evSupplyWarning) (mvWord mv)
      h.eventOpen hubTarget evSupplyWarning hubSliceByte) s

/-- SUPPLY_WARNING_END: the hub begins the starts it deferred (R39). -/
def execSupplyWarningEnd (mv : BitVec 16) (s : State) : Res :=
  onHub (fun h =>
    { h with vin := mvWord mv, warn := false,
             slices := h.slices.map fun t => { t with start := t.start || t.deferred, deferred := false } }) s

/-- SUPPLY_FAILURE: slices and hub switch off, and the felt domain runs on; the failure is logged first. -/
def execSupplyFailure (mv : BitVec 16) (s : State) : Res :=
  let h := if s.hub.answers then s.hub.note hubTarget 0 (mvWord mv) else s.hub
  let h := { h.resetHub with vin := mvWord mv, powered := false, warn := false, hubChar := [] }
  let h := { h with slices := h.slices.map fun t =>
    { t with cause := rstSupply, started := false, start := false, policy := false, deferred := false, zeroing := false, run := false,
             faulted := false, fbits := false } }
  .next { s.slicesLost with hub := h }

/-- PACKAGE_RESET. -/
def execPackageReset (mv : BitVec 16) (s : State) : Res :=
  .next { s.slicesLost with hub := s.hub.resetPackage (mvWord mv) }

/-- OVERVOLTAGE: every regulator is switched off, the felt regulator included. -/
def execOvervoltage (mv : BitVec 16) (s : State) : Res :=
  .next { s.slicesLost with hub := { s.hub.resetPackage (mvWord mv) with ov := true } }

/-- OVERVOLTAGE_RESTART: the package starts again from reset. -/
def execOvervoltageRestart (mv : BitVec 16) (s : State) : Res :=
  if s.hub.ov then
    .next { s.slicesLost with hub := { s.hub.resetPackage (mvWord mv) with felt := true, powered := true } }
  else .next s

/-! ### The hub's start (R68, R69, R77, R78) -/

/-- A charter copy that the hub may take at its start: R76 but for rule 4, with HUB_FP the current anchor. -/
def copyValid (anchors : List Bytes) (c : Bytes) : Bool :=
  (chFails anchors 0 c [1, 3, 5, 6, 7, 8]).isNone && decide (sha256 (chHubKey c) = chHubFp c)
  && decide (some (chHubFp c) = anchors.getLast?)

/-- The valid copy with the higher SERIAL. -/
def Hub.pickCharter (h : Hub) : Option Bytes :=
  let c0 := h.charterCopy 0
  let c1 := h.charterCopy 1
  match copyValid h.anchors c0, copyValid h.anchors c1 with
  | true, true => some (if chSerial c0 < chSerial c1 then c1 else c0)
  | true, false => some c0
  | false, true => some c1
  | false, false => none

/-- The management medium (R36, R74). -/
def Hub.setMedium (h : Hub) : Hub :=
  { h with sfp := match chMgtMode h.hubChar with | 1 => true | 2 => false | _ => h.module }

/-- The hub image to run: the charter's bank, else the other; none for ROM-only mode (R69). -/
def Hub.pickImage (h : Hub) : Option Bool :=
  let ok := fun b => !bankMark h.imgFailed b && h.hubImageOk b
  let first := chHubBank h.charter
  if ok first then some first else if ok (!first) then some (!first) else none

/-- The power policy asks for a start of each slice that is OFF, but not of one that heat or a change of owner holds. -/
def State.policyStarts (s : State) : State :=
  (List.finRange 8).foldl (fun s sl =>
    let t := s.hub.tgt sl.val
    if (s.slice sl).on || !chStart s.hub.charter sl.val || t.thermal || t.zeroing then s
    else s.modHubSlice sl.val fun t => { t.ask rstPolicy with policy := true }) s

/-- Slices that waited for the hub to run again no longer stay ACTIVE; a REQ of NAP written meanwhile takes effect (R15). -/
def State.feltBack (s : State) : State :=
  (List.finRange 8).foldl (fun s sl =>
    let x := s.slice sl
    if x.stayActive then
      let y := actOnReq { x with stayActive := false }
      ((s.setSlice sl y).deliver (twin sl) (sentSince x y)).posting sl x.move
    else s) s

/-- The hub as its start leaves it: unclaimed without an anchor, else with the charter's image, another count of watchdog
restarts for another image (R69), or in ROM-only mode. -/
def Hub.startUp (h : Hub) : Hub :=
  if h.anchors = [] then { h with phase := .unclaimed, charter := [], hubChar := [] }.setMedium
  else
    let c := h.pickCharter.getD []
    let h := { h with charter := c, hubChar := c, wdRestarted := false }.setMedium
    match h.pickImage with
    | none => { h with phase := .romOnly }
    | some b => { h with phase := .running, bank := b, wdCount := if b = h.bank then h.wdCount else 0 }

/-- HUB_START. -/
def execHubStart (s : State) : Res :=
  if !s.hub.felt || !s.hub.powered || s.hub.answers then .next s
  else
    let s := { s with hub := s.hub.startUp }.feltBack
    .next (if s.hub.running then s.policyStarts else s)

/-- HUB_WATCHDOG_EXPIRY: after two in a row with one image, the image is marked failed (R69). -/
def execHubWatchdogExpiry (s : State) : Res :=
  if !s.hub.running then .next s
  else .next (s.hubDown fun h =>
    let h := h.resetHub
    if h.wdCount + 1 < 2 then { h with wdCount := h.wdCount + 1, wdRestarted := true }
    else { h with wdCount := 0, wdRestarted := true, imgFailed := setMark h.imgFailed h.bank true })

/-- The hub restarts on a command. -/
def Hub.restartHub (h : Hub) : Hub := { h.resetHub with wdCount := 0, wdRestarted := true }

/-- A session whose target is the hub. -/
def Hub.hubSession (h : Hub) (ses : Nat) : Bool := h.sessions.any fun t => decide (t.id = ses) && decide (t.target = hubTarget)

/-- HUB_RESTART: commanded by the hub owner over a hub session. -/
def execHubRestart (ses : Nat) (s : State) : Res :=
  .next (if s.hub.answers && s.hub.hubSession ses then s.hubDown Hub.restartHub else s)

/-- What a slice has told the hub: log entries and events. -/
def Hub.takeNotes (h : Hub) (n : Nat) (ns : List HubNote) : Hub :=
  ns.foldl (fun h k =>
    let h := match k.log with | some (a, b) => h.note n a b | none => h
    h.event n k.code n k.data) h

/-- The hub flags a selected slice that is OFF. -/
def State.timeFlags (s : State) : State :=
  let v := s.hub.tout
  let n : SliceId := ⟨fld v 6 4 % 8, Nat.mod_lt _ (by decide)⟩
  { s with hub := { s.hub with timeFlag := wbit v 31 && !(s.slice n).on } }

/-- HUB_STATUS_REFRESH: the status of each slice, its fault copies and its notices (R13, R471). -/
def execHubStatusRefresh (s : State) : Res :=
  if !s.hub.answers then .next s
  else
    let s := (List.finRange 8).foldl (fun s sl =>
      let x := s.slice sl
      let new := x.report && !(s.hub.tgt sl.val).faulted
      let s := s.modHub (·.takeNotes sl.val x.toHub)
      let s := s.modHubSlice sl.val fun t =>
        { t with run := x.alive, faulted := x.report, fbits := t.fbits || new }
      s.setSlice sl { s.slice sl with toHub := [] }) s
    .next s.timeFlags

/-- MGT_MEDIUM_SWITCH. -/
def execMgtMediumSwitch (present : Bool) (s : State) : Res :=
  onHub (fun h => if h.answers then { h with module := present }.setMedium else { h with module := present }) s

/-! ### A slice's start (R39, R68, R70, R72) -/

/-- What a start tries, in order. -/
def bootPlan (h : Hub) (n : Nat) (tryOther : Bool) : List BootStep :=
  let act := (h.tgt n).active
  let first := if tryOther then !act else act
  let ok := fun b => !bankMark (h.tgt n).failed b && h.sliceImageOk b n
  let banks := ([first, !first].filter ok).map fun b => BootStep.bank b (b != first)
  if chNetfirst h.charter n then .net :: banks else if chNetboot h.charter n then banks ++ [.net] else banks

/-- A slice as its start leaves it while training runs: values from the charter, clocks locked, spared rows logged. -/
def startedSlice (h : Hub) (x : Slice) (cause : BitVec 4) (spared : List Word) (plan : List BootStep) : Slice :=
  let n := x.id.val
  let md := chMaxdeep h.charter n
  let y := { Slice.blank x.id (.training plan) with free := x.free, toHub := x.toHub }
  let y := regPut (regPut y kSLC 0x100 3 2 md) kSLC 0x100 1 0 (if md = 0 then 0 else 1)
  let y := regPut y kSLC 0x140 23 20 cause.toNat
  let y := regPut y kSLC 0x120 11 0 0xFFF
  let y := regPut y kRIF 0x140 31 31 (chStrict h.charter n).toNat
  spared.foldl (fun y w => faultLog y fcSoft kMCS wholeBlock 0x12 w.toNat) y

/-- The slice stays OFF for want of an image. -/
def State.bootFailed (s : State) (sl : SliceId) : State :=
  (s.sliceOff sl).modHub (·.eventOpen sl.val evBootFailed sl.val)

/-- A start that the power policy asks for waits for those of lower slices (R40). -/
def Hub.startWaits (h : Hub) (n : Nat) : Bool :=
  (h.tgt n).policy && (List.range n).any fun m => (h.tgt m).start && (h.tgt m).policy && !(h.tgt m).zeroing && !(h.tgt m).tooHot

/-- SLICE_START: of a slice that is OFF and whose start has been asked for; deferred under a supply warning. TRY is
cleared at the start that reads it. -/
def execSliceStart (sl : SliceId) (spared : List Word) (s : State) : Res :=
  let n := sl.val
  let x := s.slice sl
  let t := s.hub.tgt n
  if x.on || !s.hub.running || !t.start || t.zeroing || t.tooHot || s.hub.startWaits n then .next s
  else if s.hub.warn then .next (s.modHubSlice n fun t => { t with start := false, deferred := true })
  else
    let plan := bootPlan s.hub n (regBit x kSLC 0x140 14)
    let cause := if t.thermal then rstThermal else t.cause
    let s := s.setSlice sl (clrRegBit x kSLC 0x140 14)
    match plan with
    | [] => .next ((s.modHubSlice n fun t => { t with start := false }).bootFailed sl)
    | _ =>
      let s := s.setSlice sl (startedSlice s.hub (s.slice sl) cause spared plan)
      .next (s.modHubSlice n fun t =>
        { t with start := false, policy := false, started := true, thermal := false, streaming := none, wakes := [] })

/-- What the core boot ROM of a slice asks the network with (R73). -/
def netRequest (h : Hub) (n : Nat) : NetRequest :=
  { vlan := chVlan h.charter n, client := [0x6D, 0x69, 0x72, 0x6B, 0x6F, 0x72, 0x2D, 0x53, BitVec.ofNat 8 (0x30 + n)],
    blksize := 1468 }

/-- The next thing a start tries. -/
def State.nextBoot (s : State) (sl : SliceId) (plan : List BootStep) : State :=
  let x := s.slice sl
  match plan with
  | [] => s.bootFailed sl
  | .bank b fb :: rest =>
    (s.setSlice sl { x with phase := .streaming b fb rest }).modHubSlice sl.val fun t => { t with streaming := some b }
  | .net :: rest => s.setSlice sl { x with phase := .netboot 0 rest, netReq := some (netRequest s.hub sl.val) }

/-- The map after initial training: the failed pseudo-channels of 0 to 29 take the passing spares in order (R391). -/
def trainedMap (pass : Word) : List Nat × List Nat :=
  (((List.range 30).filter fun p => !wbit pass p), [30, 31].filter fun p => wbit pass p)

/-- Initial training has ended with at least 30 pseudo-channels. -/
def mapTrained (x : Slice) (pass : Word) : Slice :=
  let m := trainedMap pass
  let x := (List.range 32).foldl (fun x p =>
    setPcState x p (if !wbit pass p then psRetired else if p < 30 then psActive else psSpare)) x
  (m.1.zip m.2).foldl (fun x q => regPut (setPcState x q.2 psActive) kDRC (0x1000 + 4 * q.1) 26 22 q.2) x

/-- DRAM_TRAINING_DONE: with fewer than 30 pseudo-channels the fault is logged and the slice stays OFF. -/
def execDramTrainingDone (sl : SliceId) (pass : Word) (s : State) : Res :=
  let x := s.slice sl
  match x.phase with
  | .training plan =>
    if popCount pass.toNat 32 < 30 then
      let l := ((trainedMap pass).1[(trainedMap pass).2.length]?).getD 0
      .next ((s.setSlice sl (faultLog x fcDegraded kDRC l 0x08 l)).sliceOff sl)
    else .next ((s.setSlice sl (mapTrained x pass)).nextBoot sl plan)
  | _ => .next s

/-- Places an image's payload at its load address; DRAM is zero elsewhere. -/
def loadPayload (x : Slice) (load : Nat) (payload : Sparse Byte) : Slice :=
  payload.foldl (fun x e => (dramLand x (load + e.1) [e.2]).getD x) x

/-- The listed bytes of a span of the NVM, from offset 0. -/
def Hub.payload (h : Hub) (o n : Nat) : Sparse Byte :=
  (h.nvm.filter fun e => decide (o ≤ e.1) && decide (e.1 < o + n)).map fun e => (e.1 - o, e.2)

/-- Software starts: C0 jumps to ENTRY, and the confirm time-out runs. -/
def coreStart (x : Slice) (hd : Bytes) (confirmTo : Nat) : Slice :=
  let x := regSet x kSLC 0x144 (w32 (imgVer hd))
  { x with phase := .running, started := [(0, d64 (imgEntry hd))], confirmAt := some (x.clk + confirmTo * 800000000) }

/-- IMAGE_CHECKED: the image runs, or the next step of the start is tried. -/
def execImageChecked (sl : SliceId) (s : State) : Res :=
  let n := sl.val
  let x := s.slice sl
  let h := s.hub
  match x.phase with
  | .streaming b fb rest =>
    if !h.answers then .next s
    else if h.sliceImageOk b n then
      let hd := h.sliceHeader b n
      let x := loadPayload x (imgLoad hd) (h.payload (slicePart b n + 256) (imgLen hd))
      let x := regPut (regPut x kSLC 0x140 8 8 b.toNat) kSLC 0x140 9 9 fb.toNat
      let s := s.setSlice sl (coreStart x hd (chConfirmTo h.charter n))
      let h := s.hub.eventOpen n evBootDone n
      .next { s with hub := if fb then h.eventOpen n evBootFallback n else h }
    else .next ((s.modHubSlice n fun t => { t with streaming := none }).nextBoot sl rest)
  | _ => .next s

/-- The image of a file fetched from the network is valid (R66, R73). -/
def fileOk (h : Hub) (n : Nat) (file : Bytes) : Bool :=
  decide (256 + imgLen file ≤ file.length)
  && headerValid (slab file 0 256) 0 slicePartSize (chMinver h.charter n) (chOwnFp h.charter n)
  && payloadValid file (slab file 256 (imgLen file))

/-- The file of a whole TFTP transfer: blocks of the block size, and a shorter one that ends it (RFC 1350). -/
def tftpFile (blksize : Nat) : List Bytes → Option Bytes
  | [] => none
  | [b] => if b.length < blksize then some b else none
  | b :: bs => if b.length = blksize then (tftpFile blksize bs).map (b ++ ·) else none

/-- The file an attempt brings: none without an answer or a whole transfer, and none where no frame of the slice passes the
management port: without a VLAN, or while the hub does not answer. -/
def fetched (h : Hub) (n : Nat) (r : NetBoot) : Option Bytes :=
  let q := netRequest h n
  match r with
  | .file blocks => if q.vlan = 0 ∨ h.answers = false then none else tftpFile q.blksize blocks
  | .noAnswer => none

/-- NETWORK_BOOT: one attempt; the third that brings no file, or a file that is no valid image, ends it (R73). -/
def execNetworkBoot (sl : SliceId) (r : NetBoot) (s : State) : Res :=
  let n := sl.val
  let x := s.slice sl
  match x.phase with
  | .netboot tries rest =>
    match fetched s.hub n r with
    | none => .next (if tries + 1 < 3 then s.setSlice sl { x with phase := .netboot (tries + 1) rest } else s.nextBoot sl rest)
    | some file =>
      if fileOk s.hub n file then
        let pay := slab file 256 (imgLen file)
        let x := loadPayload x (imgLoad file) (pay.zipIdx.map fun p => (p.2, p.1))
        let x := setRegBit x kSLC 0x140 10
        let s := s.setSlice sl (coreStart x file (chConfirmTo s.hub.charter n))
        .next (s.modHub (·.eventOpen n evBootDone n))
      else .next (s.nextBoot sl rest)
  | _ => .next s

/-! ### Confirmation and self-reset (R71) -/

/-- The bank a running slice booted from; none for a boot from the network. -/
def bootBank (x : Slice) : Option Bool := if regBit x kSLC 0x140 10 then none else some (regBit x kSLC 0x140 8)

/-- The boot is confirmed: the bank becomes the active bank. -/
def State.confirmBoot (s : State) (sl : SliceId) : State :=
  let x := s.slice sl
  let s := s.setSlice sl { setRegBit x kSLC 0x140 15 with confirmAt := none }
  s.modHubSlice sl.val fun t =>
    match bootBank x with
    | some b => { t with active := b, streaming := none }
    | none => t

/-- The confirm time-out has not yet ended. -/
def inConfirmTime (x : Slice) : Bool := match x.confirmAt with | some t => decide (x.clk < t) | none => false

/-- A write of SLC_BOOT: TRY takes the value, and a CONFIRM of 1 within the time-out confirms the boot once. -/
def State.bootWrite (s : State) (sl : SliceId) (v : Word) : State :=
  let x := regPut (s.slice sl) kSLC 0x140 14 14 (fld v 14 14)
  let s := s.setSlice sl x
  if wbit v 15 && decide (x.phase = .running) && !regBit x kSLC 0x140 15 && inConfirmTime x then s.confirmBoot sl else s

/-- BOOT_CONFIRM: a write of 1 to CONFIRM that leaves TRY. -/
def execBootConfirm (sl : SliceId) (s : State) : Res :=
  if (s.slice sl).on then
    .next ((s.bootWrite sl (setBit (regGet (s.slice sl) kSLC 0x140) 15 true)).busDone sl)
  else .next s

/-- CONFIRM_TIMEOUT: the image is marked failed and the slice restarts. -/
def execConfirmTimeout (sl : SliceId) (s : State) : Res :=
  let x := s.slice sl
  if x.confirmAt.isNone || inConfirmTime x || !s.hub.running then .next s
  else
    let s := s.modHubSlice sl.val fun t =>
      match bootBank x with
      | some b => { t with failed := setMark t.failed b true, streaming := none }
      | none => t
    .next (s.restartSlice sl rstUnconfirmed)

/-- A write of SLC_RST: 0xA5 resets the slice. -/
def State.rstWrite (s : State) (sl : SliceId) (v : Word) : State :=
  if fld v 7 0 = 0xA5 then s.restartSlice sl rstSelf else s

/-- SLICE_SELF_RESET. -/
def execSliceSelfReset (sl : SliceId) (key : Word) (s : State) : Res :=
  if (s.slice sl).on then .next ((s.rstWrite sl key).busDone sl) else .next s

/-- Whole seconds left before the confirm deadline: CONF_LEFT. -/
def confLeft (x : Slice) : Nat :=
  match x.confirmAt with
  | some t => min 255 ((t - x.clk) / 800000000)
  | none => 0

/-! ### Temperature (R55, R57) -/

/-- A reading of a slice: its steps, and a shutdown at 112 °C. -/
def State.sliceHeat (s : State) (sl : SliceId) (t : Int) : State :=
  let n := sl.val
  let x := s.slice sl
  let warm := fun (h : HubSlice) => { h with hot := h.hot && decide (deg 95 ≤ t) }
  if !x.on then s.modHubSlice n warm
  else
    let y := thermalStep x t
    let s := s.setSlice sl y
    let s := if regBit y kSLC 0x110 29 && !regBit x kSLC 0x110 29 then
        s.modHub (·.eventOpen hubTarget evThermalWarning n) else s
    if t < deg 112 then s
    else
      let s := (s.sliceOff sl).modHubSlice n fun h => { h with thermal := true, hot := true }
      s.modHub fun h => (h.note n (evWord evThermalShutdown) (w32 (toSigned 32 t))).eventOpen hubTarget evThermalShutdown n

/-- The hub's own reading: at 112 °C it shuts itself down (R57). -/
def State.hubHeat (s : State) (t : Int) : State :=
  let s := s.modHub fun h => { h with hubTj := w32 (toSigned 32 t) }
  if t < deg 112 then s else s.hubDown fun h => { h.resetHub with powered := false }

/-- THERMAL_READ. -/
def execThermalRead (sl : SliceId) (t0 t1 t2 t3 h0 h1 : BitVec 16) (s : State) : Res :=
  if s.hub.answers then
    .next ((s.sliceHeat sl (hottest [t0, t1, t2, t3])).hubHeat (hottest [h0, h1]))
  else .next s

/-! ### Test port (R52 to R54, R61) -/

/-- Every TAP back at IDCODE. -/
def Hub.tapClear (h : Hub) : Hub :=
  let clr := fun (t : HubSlice) => { t with tap := .idcode }
  { h with tap := .idcode, slices := h.slices.map clr }

/-- TAP_RESET: the levels of TST_TRST_N, which low holds the port in reset, and of TST_SEL, high for two-wire. -/
def execTapReset (low sel : Bool) (s : State) : Res :=
  onHub (fun h => { (if low then h.tapClear else h) with trst := low, twoWire := sel }) s

/-- The TAPs of the scan chain in order: the hub's, then those of the slices that are not OFF (R53). -/
def tapChain (s : State) : List Nat := hubTarget :: ((List.finRange 8).filter fun sl => (s.slice sl).on).map (·.val)

/-- Loads the instruction register of a TAP. -/
def Hub.tapLoad (h : Hub) (n : Nat) (i : TapInstr) : Hub :=
  if n < 8 then h.modTgt n fun t => { t with tap := i } else { h with tap := i }

/-- Whether an instruction of the hub's TAP takes the boundary-scan register. -/
def takesCells : TapInstr → Bool
  | .samplePreload | .extest => true
  | _ => false

/-- TAP_INSTRUCTION: an instruction for each TAP of the chain in order; one that none is given for takes BYPASS. An instruction
of the hub's TAP that shifts the boundary-scan register loads its cells. -/
def execTapInstruction (irs : List TapInstr) (cells : List Bool) (s : State) : Res :=
  if s.hub.trst then .next s
  else
    let s := (tapChain s).zipIdx.foldl (fun s p => s.modHub (·.tapLoad p.1 ((irs[p.2]?).getD .bypass))) s
    onHub (fun h => if takesCells h.tap && decide (cells.length = h.bsr.length) then { h with bsr := cells } else h) s

/-- The instruction that a TAP acts on: a debug instruction acts as BYPASS while the slice's charter does not permit debug, and
at the hub's TAP (R54); an OFF slice has none. -/
def tapActs (s : State) (n : Nat) : Option TapInstr :=
  if n ∉ tapChain s then none
  else
    let i := if n < 8 then (s.hub.tgt n).tap else s.hub.tap
    some (if i = .debug ∧ !(decide (n < 8) && chDebug s.hub.charter n) then .bypass else i)

/-- What drives the lands of the boundary-scan register under EXTEST and CLAMP: its cells (R53). -/
def landsDriven (s : State) : Option (List Bool) :=
  match tapActs s hubTarget with
  | some .extest | some .clamp => some s.hub.bsr
  | _ => none

end Sys2Proof.Machine
end

