-- ==== Sys2Proof/Machine/Dma.lean ====
section
/-! DEFINITION. The DMA engine: rings, descriptors, copies, fences, bucket locks, pause and resume (R429 to R441). -/

namespace Sys2Proof.Machine

/-! Descriptor operations and completion codes (R432). -/
def opNop : Nat := 0
def opCopy : Nat := 1
def opFence : Nat := 2
def opLock : Nat := 3
def opUnlock : Nat := 4

def dsOk : Nat := 1
def dsError : Nat := 2
def dsBadDesc : Nat := 3
def dsLockBusy : Nat := 4
def dsNotLocked : Nat := 5
def dsAborted : Nat := 6

/-! Channel states of DMA_CHSTn. -/
def chIdle : Nat := 0
def chRunning : Nat := 1
def chPaused : Nat := 2
def chHalted : Nat := 3


def chOff (n : Nat) : Nat := 0x1000 + 0x40 * n

def chReg (x : Slice) (n o : Nat) : Word := regGet x kDMA (chOff n + o)

def setChReg (x : Slice) (n o : Nat) (v : Word) : Slice := regSet x kDMA (chOff n + o) v

def chState (x : Slice) (n : Nat) : Nat := fld (chReg x n 0x18) 31 29

def setChState (x : Slice) (n st : Nat) : Slice := setChReg x n 0x18 (setFld (chReg x n 0x18) 31 29 st)

def chEntries (x : Slice) (n : Nat) : Nat := fld (chReg x n 0x08) 15 0

def chHead (x : Slice) (n : Nat) : Nat := (chReg x n 0x0C).toNat

def chTail (x : Slice) (n : Nat) : Nat := (chReg x n 0x10).toNat

def chCnt (x : Slice) (n : Nat) : Nat := (chReg x n 0x1C).toNat

def chSrc (x : Slice) (n : Nat) : Nat := pairGet x kDMA (chOff n + 0x20)

def chDst (x : Slice) (n : Nat) : Nat := pairGet x kDMA (chOff n + 0x28)

def chDescending (x : Slice) (n : Nat) : Bool := wbit (chReg x n 0x18) 28

def dmaCh (x : Slice) (n : Nat) : DmaCh := (x.dma[n]?).getD (DmaCh.idle n)

def setDma (x : Slice) (n : Nat) (c : DmaCh) : Slice := { x with dma := x.dma.setIfInBounds n c }

/-- RUNNING while there is a descriptor to execute, else IDLE. -/
def dmaSettle (x : Slice) (n : Nat) : Slice := setChState x n (if chHead x n = chTail x n then chIdle else chRunning)

/-- A write of DMA_TAILn (R430). -/
def dmaTail (x : Slice) (n : Nat) (v : Word) : Slice :=
  if chEntries x n ≤ fld v 14 0 then raise (setRegBit x kDMA (chOff n + 0x3C) 1) kDMA 3
  else
    let x := setChReg x n 0x10 (w32 (fld v 14 0))
    if chState x n = chIdle then dmaSettle x n else x

def execDmaTailWrite (sl : SliceId) (ch : Fin 16) (v : Word) (s : State) : Res :=
  onStarted sl (fun x => { dmaTail x ch.val v with bus := .done }) s

/-! ### Descriptors -/

def descAddr (x : Slice) (n : Nat) : Nat := pairGet x kDMA (chOff n) + 32 * chHead x n

def dOp (d : Bytes) : Nat := beAt d 0 1
def dFlag (d : Bytes) (i : Nat) : Bool := bit (beAt d 1 1) i
def dLen (d : Bytes) : Nat := beAt d 4 4
def dSrc (d : Bytes) : Nat := beAt d 8 8
def dDst (d : Bytes) : Nat := beAt d 16 8

/-- Buckets of the table a lock descriptor names. -/
def dBuckets (d : Bytes) : Nat := if dFlag d 0 then 2097152 else 131072

/-- A descriptor that completes with BADDESC (R432). -/
def badDesc (d : Bytes) : Bool :=
  decide (opUnlock < dOp d)
  || decide (beAt d 1 1 &&& 0x3E ≠ 0) || decide (beAt d 3 1 ≠ 0)
  || (dFlag d 0 && decide (dOp d < opLock))
  || (if dOp d = opCopy then decide (dLen d = 0) || decide (16777216 < dLen d) || decide (2 ^ 40 ≤ dSrc d)
        || decide (2 ^ 40 ≤ dDst d)
      else decide (dLen d ≠ 0))
  || (decide (opLock ≤ dOp d) && decide (dBuckets d ≤ dDst d))

/-- Halts a channel: cause 1, DMA_EPEND (R438). -/
def halt (x : Slice) (n : Nat) : Slice :=
  raise (setRegBit (setChState x n chHalted) kDMA 0x114 n) kDMA 1

/-- The channel enters PAUSED: cause 2 (R441). -/
def enterPaused (x : Slice) (n : Nat) : Slice :=
  let x := setDma x n { dmaCh x n with pauseReq := false }
  raise (setChState x n chPaused) kDMA 2

/-- Completes the current descriptor with a status: writeback, HEAD, DMA_CPEND, cause 0 (R437). -/
def complete (x : Slice) (n status : Nat) : Slice :=
  match (dmaCh x n).desc with
  | none => x
  | some d =>
    let a := descAddr x n
    let x := dramStore x portDma (a + 2) [BitVec.ofNat 8 status]
    let x := dramStore x portDma (a + 24) (beBytes 4 (chCnt x n))
    let x := setChReg x n 0x0C (w32 ((chHead x n + 1) % max 1 (chEntries x n)))
    let x := setRegBit x kDMA 0x110 n
    let x := if dFlag d 7 then raise x kDMA 0 else x
    let x := count x kDMA (0x2080 + 8 * n) 1
    let x := if status = dsError then count x kDMA 0x2100 1 else x
    let c := dmaCh x n
    let x := setDma x n { c with desc := none, flight := none, fencing := false, badWrite := none }
    if status = dsError ∨ status = dsAborted then halt x n
    else if c.pauseReq ∨ dFlag d 6 = true then enterPaused x n
    else dmaSettle x n

/-- Completes with ERROR at a failing address (R438). -/
def fail (x : Slice) (n addr : Nat) : Slice := complete (pairSet x kDMA (chOff n + 0x30) addr) n dsError

/-- Whether the block lets a channel go on with the descriptor it has. -/
def dmaGoes (x : Slice) : Bool :=
  (enabled x kDMA || decide (blkState x kDMA = stDraining) || decide (blkState x kDMA = stPending)) && !reloading x kDMA

/-- Takes up the descriptor at HEAD when the channel is free to; a fetch that fails halts the channel (R429). -/
def fetchDesc (x : Slice) (n : Nat) : Slice :=
  let c := dmaCh x n
  if c.desc.isSome || !accepts x kDMA || decide (chState x n ≠ chRunning) || decide (chHead x n = chTail x n) then x
  else
    let r := dramRead x (descAddr x n) 32 portDma
    match r.1 with
    | none => halt (pairSet r.2 kDMA (chOff n + 0x30) (descAddr x n)) n
    | some d =>
      let x := setDma r.2 n { c with desc := some d, flight := none, fencing := false, badWrite := none }
      let x := setChReg x n 0x18 (setFld (setFld (chReg x n 0x18) 7 0 (dOp d)) 28 28 0)
      setChReg x n 0x1C 0

/-- The descriptor a command of an operation finds: taken up when none is, and completed with BADDESC when R432 says so. -/
def withDesc (op : Nat) (n : Nat) (f : Bytes → Slice → Slice) (x : Slice) : Slice :=
  if !dmaGoes x then x
  else
    let r := dramRead x (descAddr x n) 32 portDma
    let front := match (dmaCh x n).desc with
      | some d => some d
      | none => r.1
    match front with
    | none => fetchDesc x n
    | some d =>
      if dOp d = op ∨ (op = opNop ∧ opUnlock < dOp d) then
        let x := fetchDesc x n
        match (dmaCh x n).desc with
        | none => x
        | some d => if badDesc d then complete x n dsBadDesc else f d x
      else x

/-- DESC_NOP (R432). -/
def execDescNop (sl : SliceId) (ch : Fin 16) (s : State) : Res :=
  onStarted sl (withDesc opNop ch.val fun _ x => complete x ch.val dsOk) s

/-! ### COPY (R433 to R438) -/

/-- Largest access of R434 at an aligned address that ends by `hi`: 256, 128 or 64 bytes. -/
def upSize (a hi : Nat) : Nat :=
  if a % 256 = 0 ∧ a + 256 ≤ hi then 256 else if a % 128 = 0 ∧ a + 128 ≤ hi then 128 else 64

/-- The accesses of R434 over a rounded span, ascending: address and size. -/
def accesses : Nat → Nat → Nat → List (Nat × Nat)
  | 0, _, _ => []
  | k + 1, a, hi => if hi ≤ a then [] else (a, upSize a hi) :: accesses k (a + upSize a hi) hi

def roundDown (a : Nat) : Nat := a / 64 * 64

def roundUp (a : Nat) : Nat := cdiv a 64 * 64

/-- Accesses that cover a span of n bytes. -/
def spanAccesses (a n : Nat) : List (Nat × Nat) := accesses (n / 64 + 2) (roundDown a) (roundUp (a + n))

/-- One write access: the bytes of `data` (at `dst`) that fall into it, or none where it fails (R433, R404, R310). -/
def writeAccess (x : Slice) (dst : Nat) (data : Bytes) (acc : Nat × Nat) : Option Slice :=
  let lo := max dst acc.1
  let hi := min (dst + data.length) (acc.1 + acc.2)
  let bs := (data.drop (lo - dst)).take (hi - lo)
  if inWindow acc.1 acc.2 then
    if inProgMem (acc.1 - winBase) then none else some (winPut x (lo - winBase) bs)
  else if mapped acc.1 acc.2 then dramWrite x portDma lo bs
  else none

/-- The write accesses of read bytes in order; stops at the first that fails, answering its address. -/
def writeAll (n : Nat) (dst : Nat) (data : Bytes) : List (Nat × Nat) → Slice → Option Nat × Slice
  | [], x => (none, x)
  | a :: as, x =>
    match writeAccess x dst data a with
    | none => (some a.1, x)
    | some x =>
      let w := min (dst + data.length) (a.1 + a.2) - max dst a.1
      writeAll n dst data as (count x kDMA (0x2000 + 8 * n) w)

/-- Lets the bytes read leave the engine; answers the failing address of a write refused at issue. -/
def flush (x : Slice) (n : Nat) : Option Nat × Slice :=
  match (dmaCh x n).flight with
  | none => (none, x)
  | some (dst, data) =>
    let as := spanAccesses dst data.length
    let r := writeAll n dst data (if chDescending x n then as.reverse else as) x
    (r.1, setDma r.2 n { dmaCh r.2 n with flight := none })

/-- Starts a COPY: count, spans and direction (R435, R438). -/
def startCopy (x : Slice) (n : Nat) (d : Bytes) : Slice :=
  let s := dSrc d
  let t := dDst d
  let down := decide (s < t) && decide (t < s + dLen d)
  let x := setChReg x n 0x1C (w32 (dLen d))
  let x := pairSet (pairSet x kDMA (chOff n + 0x20) s) kDMA (chOff n + 0x28) t
  setChReg x n 0x18 (setBit (chReg x n 0x18) 28 down)

/-- The next read access of a COPY, and the bytes of the span it covers. -/
def nextAccess (x : Slice) (n : Nat) : Nat × Nat × Nat × Nat :=
  let s := chSrc x n
  let k := chCnt x n
  let as := spanAccesses s k
  let a := (if chDescending x n then as.getLast? else as.head?).getD (roundDown s, 64)
  let lo := max s a.1
  let hi := min (s + k) (a.1 + a.2)
  (a.1, a.2, lo, hi)

/-- Takes the bytes of an issued read off the remaining span. -/
def takeOff (x : Slice) (n lo hi : Nat) : Slice :=
  let k := hi - lo
  let x' := setChReg x n 0x1C (w32 (chCnt x n - k))
  if chDescending x n then x'
  else pairSet (pairSet x' kDMA (chOff n + 0x20) (chSrc x n + k)) kDMA (chOff n + 0x28) (chDst x n + k)

/-- Reads n bytes of an access for the DMA port; `none` where the access fails. -/
def dmaRead (x : Slice) (a n : Nat) : Option Bytes × Slice :=
  if inWindow a n then (some (winGet x (a - winBase) n), x) else dramRead x a n portDma

/-- Issues one read access of a COPY, after the writes of the access before it have left (R434, R438). -/
def copyMove (x : Slice) (n : Nat) : Slice :=
  let f := flush x n
  match f.1 with
  | some a => fail f.2 n a
  | none =>
    let x := f.2
    let p := nextAccess x n
    let dst := chDst x n + (p.2.2.1 - chSrc x n)
    let x := takeOff x n p.2.2.1 p.2.2.2
    let r := dmaRead x p.1 p.2.1
    match r.1 with
    | none => fail r.2 n p.1
    | some bs =>
      let data := (bs.drop (p.2.2.1 - p.1)).take (p.2.2.2 - p.2.2.1)
      setDma r.2 n { dmaCh r.2 n with flight := some (dst, data), acc := p.1 + 1 }

/-- COPY: takes the descriptor up, then moves the bytes of one source access. -/
def execCopy (sl : SliceId) (ch : Fin 16) (s : State) : Res :=
  onStarted sl (fun x =>
    let fresh := (dmaCh x ch.val).desc.isNone
    withDesc opCopy ch.val (fun d x =>
      let n := ch.val
      let x := if fresh then startCopy x n d else x
      if chState x n ≠ chRunning ∨ (dmaCh x n).pauseReq = true ∨ chCnt x n = 0 then x else copyMove x n) x) s

/-- COPY_COMPLETE: the last write access leaves the engine (R437). -/
def execCopyComplete (sl : SliceId) (ch : Fin 16) (s : State) : Res :=
  onStarted sl (fun x =>
    let n := ch.val
    match (dmaCh x n).desc with
    | none => x
    | some d =>
      if dOp d ≠ opCopy ∨ chState x n ≠ chRunning ∨ chCnt x n ≠ 0 ∨ !dmaGoes x then x
      else
        let f := flush x n
        match f.1 with
        | some a => fail f.2 n a
        | none => complete f.2 n dsOk) s

/-- DMA_READ_ERROR: the outstanding read of a COPY returns an error; its bytes are not written (R438). -/
def execDmaReadError (sl : SliceId) (ch : Fin 16) (lastBeat : Bool) (s : State) : Res :=
  onStarted sl (fun x =>
    let n := ch.val
    match (dmaCh x n).flight with
    | none => x
    | some _ =>
      let a := (dmaCh x n).acc - 1
      let x := if lastBeat && decide (chCnt x n = 0) then setRegBit x kDMA (chOff n + 0x3C) 2 else x
      fail (setDma x n { dmaCh x n with flight := none }) n a) s

/-! ### FENCE, LOCK and UNLOCK (R439, R440) -/

def execFence (sl : SliceId) (ch : Fin 16) (s : State) : Res :=
  onStarted sl (withDesc opFence ch.val fun _ x => setDma x ch.val { dmaCh x ch.val with fencing := true }) s

def execFenceComplete (sl : SliceId) (ch : Fin 16) (s : State) : Res :=
  onStarted sl (fun x =>
    let n := ch.val
    if !(dmaCh x n).fencing || !dmaGoes x then x
    else match (dmaCh x n).badWrite with
      | some a => fail x n a
      | none => complete x n dsOk) s

/-- The lock bit of a bucket: `some b` its value, `none` where the word cannot be read. -/
def lockBit (x : Slice) (t : FwdTable) (b : Nat) : Option Bool × Slice :=
  match t with
  | .l2 => (some (wbit (tabGet x tL2 (4 * b) 0) 31), x)
  | .endpoint =>
    let r := dramRead x (dramBase + region x kDRC 0x110 + 128 * b) 4 portDma
    (r.1.map fun bs => bit (beNat bs) 31, r.2)

/-- Changes a bucket's lock bit. -/
def setLock (x : Slice) (t : FwdTable) (b : Nat) (v : Bool) : Slice :=
  let x := match t with
    | .l2 => tabSet x tL2 (4 * b) 0 (setBit (tabGet x tL2 (4 * b) 0) 31 v)
    | .endpoint =>
      let a := dramBase + region x kDRC 0x110 + 128 * b
      dramStore x portDma a (beBytes 4 (putBits (beNat (dramGet x (a - dramBase) 4)) 31 31 v.toNat))
  { x with locks := if v then x.locks ++ [(t, b)] else x.locks.filter (· ≠ (t, b)) }

def dTable (d : Bytes) : FwdTable := if dFlag d 0 then .endpoint else .l2

/-- LOCK: an indivisible test and set (R440). -/
def execLock (sl : SliceId) (ch : Fin 16) (s : State) : Res :=
  onStarted sl (withDesc opLock ch.val fun d x =>
    let r := lockBit x (dTable d) (dDst d)
    match r.1 with
    | none => fail r.2 ch.val (dramBase + region x kDRC 0x110 + 128 * dDst d)
    | some true => complete r.2 ch.val dsLockBusy
    | some false => complete (setLock r.2 (dTable d) (dDst d) true) ch.val dsOk) s

/-- UNLOCK: an indivisible test and clear (R440). -/
def execUnlock (sl : SliceId) (ch : Fin 16) (s : State) : Res :=
  onStarted sl (withDesc opUnlock ch.val fun d x =>
    let r := lockBit x (dTable d) (dDst d)
    match r.1 with
    | none => fail r.2 ch.val (dramBase + region x kDRC 0x110 + 128 * dDst d)
    | some true => complete (setLock r.2 (dTable d) (dDst d) false) ch.val dsOk
    | some false => complete r.2 ch.val dsNotLocked) s

/-! ### Channel commands (R441) -/

def pauseCh (x : Slice) (n : Nat) : Slice :=
  if chState x n = chIdle then enterPaused x n
  else if chState x n = chRunning then setDma x n { dmaCh x n with pauseReq := true }
  else x

def execPause (sl : SliceId) (ch : Fin 16) (s : State) : Res := onStarted sl (pauseCh · ch.val) s

/-- DMA_PAUSED: the accesses already read are written and the channel enters PAUSED. -/
def execDmaPaused (sl : SliceId) (ch : Fin 16) (s : State) : Res :=
  onStarted sl (fun x =>
    let n := ch.val
    if chState x n ≠ chRunning ∨ (dmaCh x n).pauseReq = false ∨ (dmaCh x n).fencing = true then x
    else
      let f := flush x n
      match f.1 with
      | some a => fail f.2 n a
      | none => enterPaused f.2 n) s

def resumeCh (x : Slice) (n : Nat) : Slice :=
  if chState x n ≠ chPaused then x
  else if (dmaCh x n).desc.isSome then setChState x n chRunning else dmaSettle x n

def execResume (sl : SliceId) (ch : Fin 16) (s : State) : Res := onStarted sl (resumeCh · ch.val) s

def abortCh (x : Slice) (n : Nat) : Slice :=
  if chState x n ≠ chPaused then x
  else if (dmaCh x n).desc.isSome then complete x n dsAborted else halt x n

def execAbort (sl : SliceId) (ch : Fin 16) (s : State) : Res := onStarted sl (abortCh · ch.val) s

def clearCh (x : Slice) (n : Nat) : Slice := if chState x n ≠ chHalted then x else dmaSettle x n

def execDmaClear (sl : SliceId) (ch : Fin 16) (s : State) : Res := onStarted sl (clearCh · ch.val) s

/-- A write of DMA_CTLn. -/
def dmaCtl (x : Slice) (n : Nat) (v : Word) : Slice :=
  match fld v 2 0 with
  | 1 => pauseCh x n
  | 2 => resumeCh x n
  | 3 => abortCh x n
  | 4 => clearCh x n
  | _ => x

end Sys2Proof.Machine
end

