-- ==== Sys2Proof/Machine/Icn.lean ====
section
/-! DEFINITION. The interrupt concentrator: raises, claims, completions, hardware signals, timers and started CPUs
(R413, R415 to R420). -/

namespace Sys2Proof.Machine

/-- Whether a source is offered to CPU c at a level (R417). -/
def offered (x : Slice) (c : Nat) (sup : Bool) (src : Nat) : Bool :=
  let r := regGet x kICN (0x1000 + 4 * src)
  pending x src && wbit r 31 && !wbit r 30 && (wbit r 29 == sup) && decide (fld r 28 26 ≠ 0)
    && decide (regFld x kICN (0x240 + 4 * c) 2 0 < fld r 28 26) && wbit r (20 + c)
    && !x.claims.any (fun k => k.src = src)

/-- The offered source of highest priority, the lowest number among equals (R417). -/
def bestOffer (x : Slice) (c : Nat) (sup : Bool) : Option Nat :=
  ((List.range 512).filter (offered x c sup)).foldl (fun best s =>
    match best with
    | none => some s
    | some b => if regFld x kICN (0x1000 + 4 * b) 28 26 < regFld x kICN (0x1000 + 4 * s) 28 26 then some s else some b) none

/-- ICN_CLAIM reads NONE. -/
def claimNone : Word := 0x80000000

/-- A read of ICN_CLAIMMc or ICN_CLAIMSc (R417). -/
def claimRead (x : Slice) (req : Requester) (c : Cpu) (sup : Bool) : Word × Slice :=
  if req ≠ .cpu c then (claimNone, x)
  else match bestOffer x c.val sup with
    | none => (claimNone, x)
    | some s => (w32 s, { setPending x s false with claims := x.claims ++ [⟨s, c, sup⟩] })

/-- A write of ICN_CLAIMMc or ICN_CLAIMSc: completes the claim it names, or is ignored (R417). -/
def claimWrite (x : Slice) (req : Requester) (c : Cpu) (sup : Bool) (v : Word) : Slice :=
  if req ≠ .cpu c then x
  else { x with claims := x.claims.filter fun k => !(k.src = fld v 8 0 ∧ k.cpu = c ∧ k.sup = sup) }

/-- INTERRUPT_RAISE: a source of an implemented block is raised (R416). -/
def execInterruptRaise (sl : SliceId) (src : BitVec 9) (s : State) : Res :=
  onStarted sl (fun x => if src.toNat / 16 < 22 then raiseSrc x src.toNat else x) s

/-- HW_SIGNAL_ISSUE: a pending raise in event mode is a SIGNAL of its EVENT; while TSK refuses it, it waits (R418). -/
def execHwSignalIssue (sl : SliceId) (src : BitVec 9) (s : State) : Res :=
  onStarted sl (fun x =>
    let n := src.toNat
    let r := regGet x kICN (0x1000 + 4 * n)
    if pending x n && wbit r 31 && wbit r 30 then
      if signalRefused x (fld r 11 0) then
        if n ∈ x.hwWait then x else retryFlag { x with hwWait := insNat x.hwWait n }
      else
        let x := setPending { x with hwWait := x.hwWait.filter (· ≠ n) } n false
        (signalEvent x (fld r 11 0)).2
    else x) s

/-- INTERRUPT_CLAIM (R417). -/
def execInterruptClaim (sl : SliceId) (req : Requester) (c : Cpu) (sup : Bool) (s : State) : Res :=
  onStarted sl (fun x => let r := claimRead x req c sup; { r.2 with bus := .value r.1 }) s

/-- INTERRUPT_COMPLETE (R417). -/
def execInterruptComplete (sl : SliceId) (req : Requester) (c : Cpu) (sup : Bool) (v : Word) (s : State) : Res :=
  onStarted sl (fun x => { claimWrite x req c sup v with bus := .done }) s

/-- ICN_MTIME has reached the compare value of a CPU (R419). -/
def mtimeDue (x : Slice) (c : Nat) : Bool := decide (pairGet x kICN (0x110 + 8 * c) ≤ pairGet x kICN 0x100)

/-- MTIME_COMPARE: the CPU takes its machine timer interrupt (R419). -/
def execMtimeCompare (sl : SliceId) (c : Cpu) (s : State) : Res :=
  onStarted sl (fun x => if mtimeDue x c.val then { x with mtip := insNat x.mtip c.val } else x) s

/-- A write of ICN_MSIPc: sets the software interrupt; 1 starts a parked CPU at ICN_STARTc (R413). -/
def msipWrite (x : Slice) (c : Nat) (v : Word) : Slice :=
  let x := regSet x kICN (0x140 + 4 * c) (w32 (fld v 0 0))
  if wbit v 0 && decide (cpuState x c = cpuParked) then
    let x := setCpuState x c cpuRunning
    { x with started := x.started ++ [(c, d64 (bits (pairGet x kICN (0x160 + 8 * c)) 39 0))] }
  else x

def execMsipWrite (sl : SliceId) (c : Cpu) (v : Word) (s : State) : Res :=
  onStarted sl (fun x => { msipWrite x c.val v with bus := .done }) s

/-- Clears a fenced CPU from every route; a route left with no CPU takes the lowest-numbered survivor (R420). -/
def rerouteSources (x : Slice) (c : Nat) : Slice :=
  (List.range 512).foldl (fun x s =>
    let r := regGet x kICN (0x1000 + 4 * s)
    if wbit r (20 + c) then
      let r := setBit r (20 + c) false
      let r := if fld r 23 20 = 0 then
          (match survivors x with | [] => r | k :: _ => setBit r (20 + k) true)
        else r
      regSet x kICN (0x1000 + 4 * s) r
    else x) x

/-- Completes and sets pending again the sources a fenced CPU had claimed (R420). -/
def dropClaims (x : Slice) (c : Nat) : Slice :=
  (x.claims.filter (·.cpu.val = c)).foldl (fun x k => setPending x k.src true)
    { x with claims := x.claims.filter (·.cpu.val ≠ c) }

/-- LOCKSTEP_MISMATCH: the pair is fenced and its work moved (R415, R420, R425). -/
def execLockstepMismatch (sl : SliceId) (c : Cpu) (s : State) : Res :=
  onStarted sl (fun x =>
    let n := c.val
    if cpuState x n = cpuFenced then x
    else
      let x := setCpuState x n cpuFenced
      let x := faultLog x fcDegraded kTSK n 0x0D n
      let x := raise x kTSK 4
      let x := dropClaims (rerouteSources x n) n
      loseCurrent x n) s

/-- LOST_CPU_AFF_CLEAR: TSK clears the lost CPUs from every slot's AFF (R425). -/
def execLostCpuAffClear (sl : SliceId) (s : State) : Res := onStarted sl clearLostAff s

end Sys2Proof.Machine
end

