-- ==== Sys2Proof/Machine/RegRead.lean ====
section
/-! DEFINITION. What a read of a slice register returns and does (R4, R102 to R109, R422, R462, R489). -/

namespace Sys2Proof.Machine

/-! ### Values that follow the machine (R489) -/

/-- FWD_LFIFO0 to 3 and FWD_LFST.DEPTH. -/
def fwdValue (x : Slice) (off : Nat) (v : Word) : Word :=
  if 0x110 ≤ off ∧ off < 0x120 then lfifoWord x ((off - 0x110) / 4)
  else if off = 0x120 then setFld v 12 0 x.notices.length
  else v

/-- µs that the oldest log entry has waited. -/
def logAge (x : Slice) : Nat :=
  x.logq.foldl (fun n e => max n (min 65535 (idleNs x e.first / 1000))) 0

/-- FLW_MQ and FLW_LOG. -/
def flwValue (x : Slice) (off : Nat) (v : Word) : Word :=
  if off = 0x110 then w32 (chainTotal x * 2 ^ 16 + x.trackers.length)
  else if off = 0x150 then w32 (x.logq.length * 2 ^ 16 + logAge x)
  else v

/-- Cells of frames that wait for the mover. -/
def moverBacklog (x : Slice) : Nat :=
  let waits := fun (f : Frame) => x.queues.any fun q => q.s.any fun c => decide (c.frm = f.id) && !c.moved
  ((x.frames.filter waits).map (·.cells.length)).foldl (· + ·) 0

/-- BUF_FREEC to BUF_SHAREDP and BUF_SPILLST. -/
def bufValue (x : Slice) (off : Nat) (v : Word) : Word :=
  match off with
  | 0x100 => w32 (freeC x)
  | 0x104 => w32 (sharedC x)
  | 0x108 => w32 (freeP x)
  | 0x10C => w32 (sharedP x)
  | 0x160 => w32 (min 16383 (x.queues.filter fun q => q.s ≠ []).length * 2 ^ 18 + min (2 ^ 18 - 1) (moverBacklog x))
  | _ => v

/-- TMG_RSDEPp, TMG_CDEPp_c, TMG_GLDATA0 and TMG_GLDATA1. -/
def tmgValue (x : Slice) (off : Nat) (v : Word) : Word :=
  if off = 0x204 then w32 (glGet x).gates.toNat
  else if off = 0x208 then w32 (glGet x).interval
  else if 0x1000 ≤ off ∧ off < 0x2000 then
    let l := laneOf (off / 0x100)
    let o := off % 0x100
    if o = 0x14 then w32 (min 511 (queueLen x (.scene l)) * 2 ^ 16 + min 127 (queueLen x (.reflex l)))
    else if 0xE0 ≤ o then w32 (queueLen x (.cls l (clsOf ((o - 0xE0) / 4))))
    else v
  else v

/-- A residual in ns, saturating at ±(2^31 − 1). -/
def resNs (r : Int) : Word :=
  let n := r.tdiv (nsUnits : Int)
  w32 (toSigned 32 (max (-(2 ^ 31 - 1)) (min (2 ^ 31 - 1) n)))

/-- TIM_BSTATb and TIM_RESb. -/
def timValue (x : Slice) (off : Nat) (v : Word) : Word :=
  if 0x1000 ≤ off ∧ off < 0x1400 then
    let r := (baseOf x (off / 0x100 % 16)).res
    if off % 0x100 = 4 then
      w32 ((if r = 0 then 0 else 2 ^ 31) + (if secUnits < r.natAbs then 2 ^ 30 else 0))
    else if off % 0x100 = 8 then resNs r
    else v
  else v

/-- MCS_ROMREV and MCS_TRDATA0 to 3. -/
def mcsValue (x : Slice) (off : Nat) (v : Word) : Word :=
  if off = 0x100 then Config.romRev
  else if 0x210 ≤ off ∧ off < 0x220 then traceWord x ((off - 0x210) / 4)
  else v

/-- The value an implemented register reads as. -/
def regValue (x : Slice) (blk off : Nat) : Word :=
  let v := regGet x blk off
  if off = 8 then setFld v 31 16 (min 0xFFFF (inflight x blk))
  else if blk = kRIF ∧ off = 0x130 then setFld v 21 0 (oldCount x)
  else if blk = kSLC ∧ off = 0x140 then setFld v 7 0 (confLeft x)
  else if blk = kSRG ∧ off = 0x4008 then (msgRead x).1
  else if blk = kSRG ∧ off = 0x400C then msgStatus x
  else if blk = kCLS ∧ (off = 0x110 ∨ off = 0x114) then setFld v 10 0 (camDepth x ((off - 0x110) / 4))
  else if blk = kFWD then fwdValue x off v
  else if blk = kFLW then flwValue x off v
  else if blk = kDMK ∧ off = 0x120 then setFld v 15 7 (busyThreads x)
  else if blk = kDMK ∧ off = 0x140 then setFld v 10 0 x.held.length
  else if blk = kBUF then bufValue x off v
  else if blk = kTMG then tmgValue x off v
  else if blk = kTIM then timValue x off v
  else if blk = kDRC ∧ 0x200 ≤ off ∧ off < 0x220 then setFld v 18 16 (fld v 26 24)
  else if blk = kDRC ∧ 0x4000 ≤ off then Config.phySetting ((off - 0x4000) / 0x100)
  else if blk = kMCS then mcsValue x off v
  else v

/-! ### Effects of a read -/

/-- Clears the RCL bits of a register that has been read. -/
def rclClear (x : Slice) (blk off : Nat) (r : RegRow) : Slice :=
  if r.rcl = 0 then x else regSet x blk off (w32 ((regGet x blk off).toNat &&& (all32 - r.rcl)))

/-- What reading a register does. -/
def readEffect (x : Slice) (blk off : Nat) (r : RegRow) : Slice :=
  if blk = kSRG ∧ off = 0x4008 then (msgRead x).2
  else if blk = kFWD ∧ off = 0x11C then { x with notices := x.notices.drop 1 }
  else if blk = kTMG ∧ off = 0x208 then (glRead x).2
  else if blk = kMCS ∧ off = 0x21C then (traceRead x).2
  else rclClear x blk off r

/-! ### Writes of the slow domains (R105 to R107) -/

/-- W1C, LV and RW bits of a register take a written value; the others keep theirs. -/
def maskedNew (r : RegRow) (old v : Word) : Word :=
  let m := r.rw ||| r.lv
  w32 ((old.toNat &&& (all32 - m) &&& (all32 - (v.toNat &&& r.w1c))) ||| (v.toNat &&& m))

/-- Stores a written value. -/
def storeMasked (x : Slice) (blk off : Nat) (r : RegRow) (v : Word) : Slice :=
  regSet x blk off (maskedNew r (regGet x blk off) v)

/-- A write reaches TIM. -/
def timLand (x : Slice) (off : Nat) (r : RegRow) (v : Word) : Slice :=
  if off = 0x430 then sceneCmd x v
  else if 0x1000 ≤ off ∧ off < 0x1400 then
    let b := off / 0x100 % 16
    let o := off % 0x100
    if o = 0 then bcfgWrite x b v
    else if o < 0x40 then storeMasked x kTIM off r v
    else
      let k := o / 0x40 - 1
      if o % 0x40 = 0 then tctlWrite x b k v
      else if o % 0x40 = 8 then setFadj x b k (signed 32 v.toNat)
      else if o % 0x40 = 0xC then phaseAdd x b k v
      else storeMasked x kTIM off r v
  else storeMasked x kTIM off r v

/-- A posted write takes effect. -/
def postedLand (x : Slice) (blk off : Nat) (v : Word) : Slice :=
  match rowAt blk off with
  | none => x
  | some r =>
    if blk = kTIM then timLand x off r v
    else
      let y := storeMasked x blk off r v
      if blk = kLNE then sdsLand y ((off - 0x2000) / 4) else y

/-- The slow domain of a block takes what is posted, and BUSY falls. -/
def slowLand (x : Slice) (blk : Nat) : Slice :=
  let mine := x.posted.filter (·.1 = blk)
  let x := { x with posted := x.posted.filter (·.1 ≠ blk) }
  clrRegBit (mine.foldl (fun x p => postedLand x blk p.2.1 p.2.2) x) blk 0x10 31

/-- A read waits for a reload of an RW register's block and for a posted write of a slow register's (R103, R107). -/
def settleRead (x : Slice) (blk : Nat) (r : RegRow) : Slice :=
  let x := if decide (r.rw ≠ 0) && reloading x blk then resume (clrRegBit (reloadImage x blk) blk 8 4) else x
  if r.slow && pendBusy x blk then slowLand x blk else x

/-! ### Reads (R109, R417, R422) -/

/-- A register of another CPU's TSK operations, or of any CPU's for the HRA engine. -/
def tskForeign (req : Requester) (blk off : Nat) : Bool :=
  decide (blk = kTSK) && decide (0x1000 ≤ off) && decide (off < 0x1100)
  && (match req with
      | .cpu c => decide ((off - 0x1000) / 0x40 ≠ c.val)
      | .hra => true)

/-- The CPU and level of a claim register. -/
def claimReg (blk off : Nat) : Option (Cpu × Bool) :=
  if blk = kICN ∧ 0x200 ≤ off ∧ off < 0x220 then some (⟨(off - 0x200) / 8 % 4, Nat.mod_lt _ (by decide)⟩, decide (off % 8 = 4))
  else none

/-- Offset of the low word whose pair a register belongs to, where it is a pair's word. -/
def pairLow (blk off : Nat) : Option Nat :=
  match rowAt blk off with
  | some r =>
    if r.sh then some (off - 4)
    else if decide (off % 8 = 0) && ((rowAt blk (off + 4)).map (·.sh)).getD false then some off
    else none
  | none => none

/-- Places a word in a requester's shadow or holding register of a block. -/
def tagPut (l : List (Requester × Nat × Word)) (req : Requester) (key : Nat) (v : Word) : List (Requester × Nat × Word) :=
  l.filter (fun e => !(decide (e.1 = req) && decide (e.2.1 / 0x100000 = key / 0x100000))) ++ [(req, key, v)]

/-- The word a requester holds for a tag. -/
def tagFind (l : List (Requester × Nat × Word)) (req : Requester) (key : Nat) : Option Word :=
  (l.find? fun e => decide (e.1 = req) && decide (e.2.1 = key)).map (·.2.2)

/-- A requester reads an implemented register. -/
def readReg (x : Slice) (req : Requester) (blk off : Nat) (r : RegRow) : Word × Slice :=
  if tskForeign req blk off then (0, x)
  else match claimReg blk off with
    | some (c, sup) => claimRead x req c sup
    | none =>
      let x := settleRead x blk r
      let v := regValue x blk off
      match pairLow blk off with
      | some lo =>
        if lo = off then (v, { x with shadow := tagPut x.shadow req (regKey blk off) (regValue x blk (off + 4)) })
        else ((tagFind x.shadow req (regKey blk lo)).getD v, x)
      | none => (v, readEffect x blk off r)

/-! ### Who may use PRF (R462, R463) -/

/-- The counter that PRF_CNTn, PRF_SNAPn, PRF_WINn or PRF_WINTn belongs to. -/
def prfCounter (off : Nat) : Option Nat :=
  if 0x1000 ≤ off ∧ off < 0x1C00 then some (off % 0x400 / 8 % 64)
  else if 0x1C00 ≤ off ∧ off < 0x1D00 then some ((off - 0x1C00) / 4)
  else none

/-- A U-mode access that PRF refuses. -/
def prfRefuses (x : Slice) (req : Requester) (mode : Priv) (blk off : Nat) (read : Bool) : Bool :=
  decide (blk = kPRF) && decide (req ≠ .hra) && decide (mode = .u)
  && !(read && match prfCounter off with | some n => wbit (selOf x n) 28 | none => false)

/-- UDENY. -/
def prfDeny (x : Slice) : Slice := setRegBit x kPRF 0x100 27

/-- An HRA read that PRF denies. -/
def prfHidden (x : Slice) (req : Requester) (blk off : Nat) : Bool :=
  decide (blk = kPRF) && decide (req = .hra)
  && match prfCounter off with | some n => !wbit (selOf x n) 27 | none => false

/-- An HRA write, in the bits of a mask, that PRF denies. -/
def prfLocked (x : Slice) (req : Requester) (blk off : Nat) (v m : Word) : Bool :=
  decide (blk = kPRF) && decide (req = .hra)
  && (if !regBit x kPRF 0x100 28 then !(decide (off = 0x100) && decide (m = 0x80000000))
      else decide (off = 0x100) && wbit m 28 && !wbit v 28)

end Sys2Proof.Machine
end

