-- ==== Sys2Proof/Machine/RegWrite.lean ====
section
/-! DEFINITION. What a write of a slice register does (R4, R5, R101, R105, R106, R108 to R110, R429 to R431, R456 to R465,
R469). -/

namespace Sys2Proof.Machine

/-! ### The common rules -/

/-- An RW write is ignored for the block's state: _WIGN and cause 13 (R101). -/
def writeIgnored (x : Slice) (blk off : Nat) : Slice :=
  let x := if regBit x blk 0xC 31 then setRegBit x blk 0xC 30 else regSet x blk 0xC (w32 (2 ^ 31 + off))
  raise x blk 13

/-- Whether a register takes writes at all. -/
def RegRow.writable (r : RegRow) : Bool := decide (r.rw ||| r.lv ||| r.w1c ≠ 0) || decide (r.ro ||| r.rcl = 0)

/-- Fields that go with a sticky bit when it is cleared. -/
def w1cFields (x : Slice) (blk off : Nat) (v : Word) : Slice :=
  if off = 0xC then (if wbit v 31 then regSet x blk 0xC 0 else x)
  else if off = 0x10 then (if wbit v 30 then regPut x blk 0x10 19 0 0 else x)
  else if off = 0x14 then (if wbit v 31 then regSet x blk 0x14 0 else x)
  else if blk = kRIF ∧ off = 0x140 then (if wbit v 30 then regPut x kRIF 0x140 27 0 0 else x)
  else if blk = kDRC ∧ off = 0x148 then (if wbit v 31 then pairSet x kDRC 0x140 0 else x)
  else x

/-! ### Blocks whose writes do something of their own -/

/-- A write of PRF_CTL. -/
def prfCtlWrite (x : Slice) (req : Requester) (r : RegRow) (v : Word) : Slice :=
  -- HOSTCFG is written by cores only (R463)
  let v := if req = .hra then setBit v 28 (regBit x kPRF 0x100 28) else v
  let y := storeMasked x kPRF 0x100 r v
  if wbit v 31 then snapCounters y else y

/-- A write of PRF_SELn that sets WINDOW mode with a length that does not divide a second is ignored (R456). -/
def prfSelWrite (x : Slice) (n : Nat) (v : Word) : Slice :=
  let w := parOf x n % 2 ^ 20
  if fld v 30 29 = 2 ∧ (w = 0 ∨ 1000000 % w ≠ 0) then setRegBit x kPRF 0x100 26
  else windowSet x (regSet x kPRF (0x400 + 4 * n) v) n

/-- A write of PRF_TRCFGr that enables a ring which does not fit is ignored (R464). -/
def trCfgWrite (x : Slice) (r : Nat) (v : Word) : Slice :=
  if wbit v 31 && !trFits x (pairGet x kPRF (trOff r)) (fld v 4 0) then x
  else regSet x kPRF (trOff r + 8) (w32 (v.toNat &&& 0x8000001F))

/-- A write of FLT_TAIL consumes entries; one that would pass HEAD is ignored (R469). -/
def fltTailWrite (x : Slice) (v : Word) : Slice :=
  let t := fld v 8 0
  let k := (t + 512 - regFld x kFLT 0x104 8 0) % 512
  if fltCount x < k then x else regPut (regSet x kFLT 0x104 (w32 t)) kFLT 0x100 9 0 (fltCount x - k)

/-- A write of a register of RIF, MSGTX or a register of DMA to FLT that does something of its own. -/
def coreWrite (x : Slice) (req : Requester) (mode : Priv) (pairedOk : Bool) (blk off : Nat) (r : RegRow) (v : Word) :
    Option Slice :=
  if blk = kRIF then
    if off = 0x100 then
      some (musCommand (regSet x kRIF 0x100 (w32 (v.toNat &&& 0x10F))) pairedOk (fld v 8 8) (fld v 3 0) (mopOf x))
    else if off = 0x120 then some (musWord x req 0 v)
    else if off = 0x124 then some (musWord x req 1 v)
    else none
  else if blk = kSLC then (if off = 0x100 then some (pwrWrite x v) else none)
  else if blk = kSRG then
    if off = 0x4000 then some { x with msgOut := (x.msgOut ++ wordBytes v).take 256 } else none
  else if blk = kDMA then
    if 0x1000 ≤ off ∧ off < 0x1400 then
      let n := (off - 0x1000) / 0x40
      match off % 0x40 with
      | 0x08 =>
        if chState x n = chIdle ∨ chState x n = chHalted then none else some (setRegBit x kDMA (chOff n + 0x3C) 0)
      | 0x10 => some (dmaTail x n v)
      | 0x14 => some (dmaCtl x n v)
      | _ => none
    else none
  else if blk = kTSK then
    if 0x1000 ≤ off ∧ off < 0x1100 ∧ off % 0x40 = 0 then
      let c := (off - 0x1000) / 0x40
      some (if cpuState x c = cpuRunning then tskOperate x c mode (fld v 3 0) else x)
    else none
  else if blk = kICN then
    if 0x140 ≤ off ∧ off < 0x150 then some (msipWrite x ((off - 0x140) / 4) v)
    else match claimReg blk off with
      | some (c, sup) => some (claimWrite x req c sup v)
      | none => none
  else if blk = kMCS then
    if 0x120 ≤ off ∧ off < 0x130 then some (seqHold x ((off - 0x120) / 4) v)
    else if off = 0x300 then some (romRead x v)
    else none
  else if blk = kPRF then
    if off = 0x100 then some (prfCtlWrite x req r v)
    else if 0x400 ≤ off ∧ off < 0x500 then some (prfSelWrite x ((off - 0x400) / 4) v)
    else if 0x600 ≤ off ∧ off < 0x700 then some (windowSet x (regSet x kPRF off v) ((off - 0x600) / 4))
    else if 0x3000 ≤ off ∧ off % 0x20 = 0x08 then some (trCfgWrite x ((off - 0x3000) / 0x20) v)
    else if 0x3000 ≤ off ∧ off % 0x20 = 0x10 then some (trTailWrite x ((off - 0x3000) / 0x20) v)
    else if 0x3000 ≤ off ∧ off % 0x20 = 0x14 then some (trIntWrite x ((off - 0x3000) / 0x20) v)
    else none
  else if blk = kTWN then (if off = 0x120 then some (rjctlWrite x v) else none)
  else if blk = kFLT then
    if off = 0x104 then some (fltTailWrite x v) else if off = 0x110 then some (rcmdWrite x v) else none
  else none

/-- A write of one register that is not of RW type. -/
def liveWrite (x : Slice) (req : Requester) (mode : Priv) (pairedOk : Bool) (blk off : Nat) (r : RegRow) (v : Word) : Slice :=
  match (coreWrite x req mode pairedOk blk off r v).orElse fun _ => ownWrite x blk off v with
  | some y => noteReg y blk off
  | none => noteReg (w1cFields (storeMasked x blk off r v) blk off v) blk off

/-- A write of an RW register of a block that is DISABLED, and of its committed image (R101, R103). -/
def rwWrite (x : Slice) (blk off : Nat) (r : RegRow) (v : Word) : Slice :=
  afterConfig (noteReg (putRw x blk off (maskedNew r (regGet x blk off) v)) blk off) [blk]

/-- A requester writes one register. -/
def writeOne (x : Slice) (req : Requester) (mode : Priv) (pairedOk : Bool) (blk off : Nat) (r : RegRow) (v : Word) : Slice :=
  if tskForeign req blk off ∨ r.writable = false then x
  else if r.slow then postWrites x blk off [(off, v)]
  else if r.rw = 0 then liveWrite x req mode pairedOk blk off r v
  else if blkState x blk = stDisabled then rwWrite x blk off r v
  else writeIgnored (storeMasked x blk off { r with rw := 0 } v) blk off

/-! ### Writable pairs (R108, R110) -/

/-- ICN_MTIME or a compare value has been written: the interrupt stands while the time has reached it (R419). -/
def timerSettle (x : Slice) : Slice := { x with mtip := x.mtip.filter (mtimeDue x) }

/-- Both words of a pair are committed. -/
def pairCommit (x : Slice) (blk off : Nat) (rl rh : RegRow) (lo hi : Word) : Slice :=
  if rl.slow then postWrites x blk off [(off + 4, hi), (off, lo)]
  else if blk = kSWC then
    match ringReg off with
    | some (r, _) => ringBaseWrite x r lo.toNat hi.toNat
    | none => x
  else if blk = kDMA ∧ (chState x ((off - 0x1000) / 0x40) ≠ chIdle ∧ chState x ((off - 0x1000) / 0x40) ≠ chHalted) then
    setRegBit x kDMA (off + 0x3C) 0
  else
    let y := storeMasked (storeMasked x blk off rl lo) blk (off + 4) rh hi
    if blk = kICN then timerSettle y else y

/-- A write of the low word: both halves where the requester holds the pair's high word, else the low word alone, with
what the requester holds discarded. -/
def lowWrite (x : Slice) (req : Requester) (blk off : Nat) (rl rh : RegRow) (v : Word) : Slice :=
  let held := tagFind x.holding req (regKey blk off)
  let x := { x with holding := x.holding.filter fun e => !(decide (e.1 = req) && decide (e.2.1 / 0x100000 = blk)) }
  match held with
  | some hi => noteReg (noteReg (pairCommit x blk off rl rh v hi) blk off) blk (off + 4)
  | none =>
    noteReg (if rl.slow then postWrites x blk off [(off, v)] else pairCommit x blk off rl rh v (regGet x blk (off + 4))) blk off

/-- A requester writes an implemented register. -/
def writeReg (x : Slice) (req : Requester) (mode : Priv) (pairedOk : Bool) (blk off : Nat) (r : RegRow) (v : Word) : Slice :=
  if r.sh then
    (if r.lv = 0 then x else { x with holding := tagPut x.holding req (regKey blk (off - 4)) v })
  else match pairLow blk off, rowAt blk (off + 4) with
    | some _, some rh =>
      if r.lv = 0 ∨ rh.lv = 0 then writeOne x req mode pairedOk blk off r v else lowWrite x req blk off r rh v
    | _, _ => writeOne x req mode pairedOk blk off r v

/-- A write as the control bus delivers it to a block. -/
def State.regWrite (s : State) (sl : SliceId) (req : Requester) (mode : Priv) (blk off : Nat) (r : RegRow) (v : Word) : State :=
  let x := s.slice sl
  if off = 4 then ctlWrite s sl blk v
  else if blk = kSRG ∧ 0x1800 ≤ off ∧ off < 0x1840 then selectWrite s sl (laneOf ((off - 0x1800) / 4)) v
  else if blk = kSLC ∧ off = 0x130 then s.rstWrite sl v
  else if blk = kSLC ∧ off = 0x140 then s.bootWrite sl v
  else
    let y := writeReg x req mode (paired s sl) blk off r v
    ((s.setSlice sl y).deliver (twin sl) (sentSince x y)).posting sl x.move

end Sys2Proof.Machine
end

