-- ==== Sys2Proof/Machine/HubWindow.lean ====
section
/-! DEFINITION. The hub window: its pages, the NVM staging sets and the time output (R67, R82, R83, R97, R109, R376, R490,
R491). -/

namespace Sys2Proof.Machine

/-- Target number of a user of the hub window. -/
def userNum : HubUser → Nat
  | .slice sl => sl.val
  | .hub => hubTarget

/-- Whether a user may reach a page (R83, R490). -/
def pagePermitted (h : Hub) (u : HubUser) (p : Nat) : Bool :=
  match u with
  | .hub => true
  | .slice sl => decide (p = 0) || bit (chHubwin h.charter sl.val) p

/-! ### NVM (R67, R491) -/

def Hub.nvmSet (h : Hub) (n : Nat) : NvmSet := (h.nvmSets[n]?).getD NvmSet.blank

def Hub.modNvm (h : Hub) (n : Nat) (f : NvmSet → NvmSet) : Hub := { h with nvmSets := modNth h.nvmSets n f }

/-- STATUS codes of HWIN_NVCMD. -/
def nvOk : BitVec 2 := 0
def nvDenied : BitVec 2 := 1
def nvRange : BitVec 2 := 2

def pageWords : Nat := 1024

/-- A word written to HWIN_NVDATA; discarded while BUSY, and once a page is staged. -/
def NvmSet.stage (v : NvmSet) (w : Word) : NvmSet :=
  if v.op.isSome ∨ pageWords ≤ v.words.length then v else { v with words := v.words ++ [w] }

/-- Whether a page lies in a partition at an offset. -/
def pageIn (a base size : Nat) : Bool := decide (base ≤ a) && decide (a < base + size)

/-- The charter copy slot with the lower serial, which takes a new charter (R77). -/
def Hub.lowerCopy (h : Hub) : Nat := if chSerial (h.charterCopy 1) < chSerial (h.charterCopy 0) then 1 else 0

/-- A page that a PROGRAM of a user may name: its partitions in both banks, and for the hub owner the charter copy slot
that takes a new charter. -/
def Hub.inRange (h : Hub) (n a : Nat) : Bool :=
  if n < 8 then [false, true].any fun b => pageIn a (slicePart b n) slicePartSize
  else ([false, true].any fun b => pageIn a (nvmBank b) hubPartSize) || pageIn a (charterSlot h.lowerCopy) 0x80000

/-- R67 refuses a page of the active bank, and of a bank that a boot is trying. -/
def Hub.writeRefused (h : Hub) (n a : Nat) : Bool :=
  decide (n < 8) && [false, true].any fun b =>
    pageIn a (slicePart b n) slicePartSize && (decide ((h.tgt n).active = b) || decide ((h.tgt n).streaming = some b))

/-- PROGRAM. -/
def Hub.nvmProgram (h : Hub) (n : Nat) : Hub :=
  let v := h.nvmSet n
  let a := v.addr.toNat
  if v.op.isSome then h.modNvm n fun v => { v with ign := true }
  else if !h.inRange n a then h.modNvm n fun v => { v with status := nvRange, words := [] }
  else if h.writeRefused n a then h.modNvm n fun v => { v with status := nvDenied, words := [] }
  else h.modNvm n fun v => { v with status := nvOk, op := some (true, a) }

/-- READ. -/
def Hub.nvmRead (h : Hub) (n : Nat) : Hub :=
  let v := h.nvmSet n
  if v.op.isSome then h.modNvm n fun v => { v with ign := true }
  else h.modNvm n fun v => { v with status := nvOk, words := [], op := some (false, v.addr.toNat) }

/-- `k` words of the hub's whose value no rule states. -/
def Hub.freeWords : Nat → Hub → List Word × Hub
  | 0, h => ([], h)
  | k + 1, h =>
    let f := h.freeD
    let r := Hub.freeWords k f.2
    (w32 f.1.toNat :: r.1, r.2)

/-- A page is programmed: words that were not staged are not stated. A mark of a failed image in a bank goes with the
image it marked. -/
def Hub.pageDone (h : Hub) (n a : Nat) : Hub :=
  let v := h.nvmSet n
  let r := Hub.freeWords (pageWords - v.words.length) h
  let h := r.2.nvmPut a (wordsBytes (v.words ++ r.1))
  if n < 8 then
    h.modTgt n fun t => { t with failed := setMark t.failed (pageIn a (slicePart true n) slicePartSize) false }
  else if pageIn a (nvmBank false) hubPartSize ∨ pageIn a (nvmBank true) hubPartSize then
    { h with imgFailed := setMark h.imgFailed (pageIn a (nvmBank true) hubPartSize) false }
  else h

/-- The command in progress ends. -/
def Hub.nvmDone (h : Hub) (n : Nat) : Hub :=
  match (h.nvmSet n).op with
  | none => h
  | some (true, a) => (h.pageDone n a).modNvm n fun v => { v with op := none, words := [] }
  | some (false, a) =>
    h.modNvm n fun v => { v with op := none, page := (bytesWords (h.nvmGet a 4096)).take pageWords }

/-- Counts an access to a page that is not permitted. -/
def State.pageRefused (s : State) (sl : SliceId) : State := s.modHubSlice sl.val fun t => { t with denied := t.denied + 1 }

/-- How an access of a user ends, for a slice's. -/
def State.userBus (s : State) (u : HubUser) (b : BusReply) : State :=
  match u with
  | .slice sl => s.setSlice sl { s.slice sl with bus := b }
  | .hub => s

/-- A write of the NVM page of the hub window by a user: refused and counted where its HUBWIN bit is 0 (R83). -/
def nvmAccess (u : HubUser) (f : Hub → Hub) (s : State) : Res :=
  if !s.hub.answers then .next (s.userBus u .done)
  else if pagePermitted s.hub u 2 then .next ((s.modHub f).userBus u .done)
  else
    match u with
    | .slice sl => .next ((s.pageRefused sl).userBus u .accessFault)
    | .hub => .next s

def execNvmDataWrite (u : HubUser) (w : Word) (s : State) : Res := nvmAccess u (·.modNvm (userNum u) (·.stage w)) s

def execNvmProgram (u : HubUser) (s : State) : Res := nvmAccess u (·.nvmProgram (userNum u)) s

def execNvmRead (u : HubUser) (s : State) : Res := nvmAccess u (·.nvmRead (userNum u)) s

/-- NVM_COMMAND_DONE. -/
def execNvmCommandDone (u : HubUser) (s : State) : Res := onHub (fun h => if h.answers then h.nvmDone (userNum u) else h) s

/-- HWIN_NVCMD. -/
def NvmSet.cmdWord (v : NvmSet) : Word :=
  w32 (v.op.isSome.toNat * 2 ^ 31 + v.ign.toNat * 2 ^ 30 + v.status.toNat * 2 ^ 28
    + (match v.op with | some (true, _) => 1 | some (false, _) => 2 | none => 0))

/-- A write of HWIN_NVCMD. -/
def Hub.nvmCmd (h : Hub) (n : Nat) (v : Word) : Hub :=
  let h := if wbit v 30 then h.modNvm n fun t => { t with ign := false } else h
  match fld v 1 0 with
  | 1 => h.nvmProgram n
  | 2 => h.nvmRead n
  | _ => h

/-- A read of HWIN_NVRD: the next word of the page read; none left reads a value that is not stated. -/
def Hub.nvmPop (h : Hub) (n : Nat) : Word × Hub :=
  match (h.nvmSet n).page with
  | w :: ws => (w, h.modNvm n fun v => { v with page := ws })
  | [] => let f := h.freeD; (w32 f.1.toNat, f.2)

/-! ### The time output (R376) -/

/-- A write of HWIN_TOUT, by a hub session. -/
def State.selectOutput (s : State) (v : Word) : State :=
  State.timeFlags { s with hub := { s.hub with tout := w32 (v.toNat &&& 0x80000073) } }

/-- TIME_OUTPUT_SELECT: from a slice it is discarded. -/
def execTimeOutputSelect (u : HubUser) (v : Word) (s : State) : Res :=
  .next (if s.hub.answers && decide (u = .hub) then s.selectOutput v else s)

/-! ### Reads of the window (R490) -/

/-- Tag of a hub window register in shadow and holding registers. -/
def winTag (off : Nat) : Nat := 0x10000000 + off

/-- Latches a high word for the reader. -/
def State.latchHigh (s : State) (u : HubUser) (req : Requester) (off : Nat) (v : Word) : State :=
  match u with
  | .hub => { s with hub := { s.hub with shadow := some (winTag off, v) } }
  | .slice sl => s.setSlice sl { s.slice sl with shadow := tagPut (s.slice sl).shadow req (winTag off) v }

/-- The shadow of the reader for a low word's offset. -/
def State.latched (s : State) (u : HubUser) (req : Requester) (off : Nat) : Option Word :=
  match u with
  | .hub => (s.hub.shadow.filter fun e => decide (e.1 = winTag off)).map (·.2)
  | .slice sl => tagFind (s.slice sl).shadow req (winTag off)

def softGet (h : Hub) (n o : Nat) : Word := sGet 0 (h.tgt n).soft o

/-- A word of page 0 with no effect: the high words of pairs too. -/
def pageZero (h : Hub) (n o : Nat) : Word :=
  if o = 0 then w32 (Config.hubRev.toNat * 2 ^ 24 + (if n < 8 then n else 0xFF))
  else if o = 8 then w32 (chSerial h.charter)
  else if o = 0xC then w32 (chSerial h.charter / 2 ^ 32)
  else if 0x40 ≤ o ∧ o < 0x80 ∧ o % 4 = 0 ∧ o % 16 < 12 then softGet h n o
  else if 0x100 ≤ o ∧ o < 0x140 ∧ o % 4 = 0 then w32 (beAt deviceKey (o - 0x100) 4)
  else if o = 0x200 then w32 (h.tgt n).events.length
  else 0

/-- Low words of the pairs of page 0. -/
def pairZero (o : Nat) : Bool := decide (o = 8) || (decide (0x40 ≤ o) && decide (o < 0x80) && decide (o % 16 = 0))

/-- Reads a word of a page; the hub must answer. -/
def State.hubRead (s : State) (u : HubUser) (req : Requester) (p o : Nat) : Word × State :=
  let h := s.hub
  let n := userNum u
  if p = 0 then
    if pairZero o then (pageZero h n o, s.latchHigh u req o (pageZero h n (o + 4)))
    else if o ≥ 4 ∧ pairZero (o - 4) then ((s.latched u req (o - 4)).getD (pageZero h n o), s)
    else (pageZero h n o, s)
  else if p = 1 then (if o = 0 then h.vin else if o = 4 then h.hubTj else 0, s)
  else if p = 2 then
    if o = 0 then ((h.nvmSet n).addr, s)
    else if o = 8 then ((h.nvmSet n).cmdWord, s)
    else if o = 0xC then let r := h.nvmPop n; (r.1, { s with hub := r.2 })
    else (0, s)
  else if p = 3 then (if o = 0 then h.tout else 0, s)
  else if p = 4 then (if o < 0x5C0 ∧ o % 4 = 0 then w32 (beAt h.charter o 4) else 0, s)
  else (0, s)

/-! ### Writes of the window -/

/-- Bits of a word changed under a mask. -/
def mixWord (old v m : Word) : Word := (old &&& ~~~m) ||| (v &&& m)

/-- A write of a wake time of a slice (R97). -/
def State.wakeTimeWrite (s : State) (sl : SliceId) (req : Requester) (o : Nat) (v m : Word) : State :=
  let put := fun (s : State) (o : Nat) (w : Nat) => s.modHubSlice sl.val fun t => { t with soft := sPut 0 t.soft o (w32 w) }
  let new := mixWord (softGet s.hub sl.val o) v m
  if o % 16 = 8 then put s o (new.toNat &&& 0xBFFFFFFF)
  else if o % 16 = 4 then s.setSlice sl { s.slice sl with holding := tagPut (s.slice sl).holding req (winTag (o - 4)) new }
  else
    let x := s.slice sl
    let held := tagFind x.holding req (winTag o)
    let y := { x with holding := x.holding.filter fun e => !(decide (e.1 = req) && decide (0x10000000 ≤ e.2.1)) }
    let s := put (s.setSlice sl y) o new.toNat
    match held with
    | some hi => put s (o + 4) (hi.toNat &&& 0x3FFFF)
    | none => s

/-- Writes a word of a page; the hub must answer. -/
def State.hubWrite (s : State) (u : HubUser) (req : Requester) (p o : Nat) (v m : Word) : State :=
  let n := userNum u
  if p = 0 then
    match u with
    | .slice sl => if 0x40 ≤ o ∧ o < 0x80 ∧ o % 4 = 0 ∧ o % 16 < 12 then s.wakeTimeWrite sl req o v m else s
    | .hub => s
  else if p = 2 then
    if o = 0 then
      s.modHub (·.modNvm n fun t => { t with addr := w32 ((mixWord t.addr v m).toNat &&& 0x1FFFF000) })
    else if o = 4 then s.modHub (·.modNvm n (·.stage (v &&& m)))
    else if o = 8 then s.modHub (·.nvmCmd n (v &&& m))
    else s
  else if p = 3 then (if o = 0 ∧ u = .hub then s.selectOutput (mixWord s.hub.tout v m) else s)
  else s

end Sys2Proof.Machine
end

