-- ==== Sys2Proof/Machine/Access.lean ====
section
/-! DEFINITION. Accesses to the slice registers, the hub window and the on-die memories window (R83, R109 to R113, R411,
R412, R462, R463). -/

namespace Sys2Proof.Machine

/-- How an access ends: a value (0 for a write), a bus error of strict decode, a refusal by PRF, a hub window page that
HUBWIN does not permit, or an address without a register. -/
inductive Access where
  | ok (v : Word)
  | busError
  | denied
  | page
  | bad
  deriving DecidableEq, Repr

/-! ### Decode (R112, R113) -/

def inRegSpace (a : Nat) : Bool := decide (0x40000000 ≤ a) && decide (a < 0x50000000)

def inHubWindow (a : Nat) : Bool := decide (0x50000000 ≤ a) && decide (a < 0x50010000)

def inBootRom (a : Nat) : Bool := decide (a < 0x40000)

def strictDecode (x : Slice) : Bool := regBit x kRIF 0x140 31

/-- The register an offset from 0x4000_0000 reaches: `none` where it reads as 0 and takes no write. -/
def regAt (x : Slice) (o : Nat) : Option (Nat × Nat × RegRow) :=
  let blk := o / 0x100000
  let off := o % 0x100000
  if strictDecode x then (rowAt blk off).map fun r => (blk, off, r)
  else (decodeOff blk off).bind fun f => (rowAt blk f).map fun r => (blk, f, r)

/-- A bus error: the first offset is kept (R113). -/
def busErr (x : Slice) (o : Nat) : Slice :=
  if regBit x kRIF 0x140 30 then x else regPut (setRegBit x kRIF 0x140 30) kRIF 0x140 27 0 o

/-- A read of a register address. -/
def State.regsRead (s : State) (sl : SliceId) (req : Requester) (mode : Priv) (o : Nat) : Access × State :=
  let x := s.slice sl
  match regAt x o with
  | none => if strictDecode x then (.busError, s.setSlice sl (busErr x o)) else (.ok 0, s)
  | some (blk, off, r) =>
    if prfRefuses x req mode blk off true then (.ok 0, s.setSlice sl (prfDeny x))
    else if prfHidden x req blk off then (.denied, s)
    else
      let y := readReg x req blk off r
      (.ok y.1, (s.setSlice sl y.2).deliver (twin sl) (sentSince x y.2))

/-- A write of the bits of a mask to a register address: the other bits keep their value, and a sticky bit outside the mask
is not cleared. -/
def State.regsWrite (s : State) (sl : SliceId) (req : Requester) (mode : Priv) (o : Nat) (v m : Word) : Access × State :=
  let x := s.slice sl
  match regAt x o with
  | none => if strictDecode x then (.busError, s.setSlice sl (busErr x o)) else (.ok 0, s)
  | some (blk, off, r) =>
    if prfRefuses x req mode blk off false then (.ok 0, s.setSlice sl (prfDeny x))
    else if prfLocked x req blk off v m then (.denied, s)
    else
      let old := w32 ((regGet x blk off).toNat &&& (all32 - r.w1c))
      (.ok 0, s.regWrite sl req mode blk off r (mixWord old v m))

/-! ### The hub window (R83, R490) -/

/-- A read of the hub window by a slice or its hosts; a hub that does not answer returns a value no rule states. -/
def State.winRead (s : State) (sl : SliceId) (req : Requester) (o : Nat) : Access × State :=
  if !s.hub.answers then let f := s.hub.freeD; (.ok (w32 f.1.toNat), { s with hub := f.2 })
  else if !pagePermitted s.hub (.slice sl) (o / 4096) then (.page, s.pageRefused sl)
  else let r := s.hubRead (.slice sl) req (o / 4096) (o % 4096); (.ok r.1, r.2)

def State.winWrite (s : State) (sl : SliceId) (req : Requester) (o : Nat) (v m : Word) : Access × State :=
  if !s.hub.answers then (.ok 0, s)
  else if !pagePermitted s.hub (.slice sl) (o / 4096) then (.page, s.pageRefused sl)
  else (.ok 0, s.hubWrite (.slice sl) req (o / 4096) (o % 4096) v m)

/-! ### Accesses of a core or of the HRA engine -/

/-- A 4-byte read at an address. -/
def State.readWord (s : State) (sl : SliceId) (req : Requester) (mode : Priv) (a : Nat) : Access × State :=
  if inRegSpace a then s.regsRead sl req mode (a - 0x40000000)
  else if inHubWindow a then s.winRead sl req (a - 0x50000000)
  else if inBootRom a && decide (req ≠ .hra) then
    let f := freeW (s.slice sl)
    (.ok f.1, s.setSlice sl f.2)
  else (.bad, s)

/-- A 4-byte write of the bits of a mask. -/
def State.writeWord (s : State) (sl : SliceId) (req : Requester) (mode : Priv) (a : Nat) (v m : Word) : Access × State :=
  if inRegSpace a then s.regsWrite sl req mode (a - 0x40000000) v m
  else if inHubWindow a then s.winWrite sl req (a - 0x50000000) v m
  else (.bad, s)

def allOnes : Word := 0xFFFFFFFF

/-- How the bus answers an access. -/
def busReply (r : Access) (read : Bool) : BusReply :=
  match r with
  | .ok v => if read then .value v else .done
  | .busError => .busError
  | .denied => .denied
  | .page | .bad => .accessFault

def State.setBus (s : State) (sl : SliceId) (b : BusReply) : State := s.setSlice sl { s.slice sl with bus := b }

/-- A 4-byte read by a requester of a started slice. -/
def busRead (sl : SliceId) (req : Requester) (mode : Priv) (addr : Word) (s : State) : Res :=
  if (s.slice sl).on then
    let r := s.readWord sl req mode addr.toNat
    .next (r.2.setBus sl (busReply r.1 true))
  else .next s

/-- A 4-byte write by a requester of a started slice. -/
def busWrite (sl : SliceId) (req : Requester) (mode : Priv) (addr v : Word) (s : State) : Res :=
  if (s.slice sl).on then
    let r := s.writeWord sl req mode addr.toNat v allOnes
    .next (r.2.setBus sl (busReply r.1 false))
  else .next s

/-- The mismatch that the parity check of a read finds in the register the read reaches (R103, R104): the unit whose copy
mismatches, and whether the committed image has an uncorrectable error. A read that PRF refuses reaches no register. -/
def readMismatch (x : Slice) (req : Requester) (mode : Priv) (addr : Nat) (hit : Option (ParityUnit × Bool)) : Option ParityHit :=
  match hit, (if inRegSpace addr then regAt x (addr - 0x40000000) else none) with
  | some h, some (blk, off, _) =>
    if prfRefuses x req mode blk off true || prfHidden x req blk off then none
    else some ⟨BitVec.ofNat 28 (blk * 0x100000 + off), h.1, h.2⟩
  | _, _ => none

/-- A 4-byte read checks parity; one that finds a mismatch waits for the reload (R103). -/
def checkedRead (sl : SliceId) (req : Requester) (mode : Priv) (addr : Word) (hit : Option (ParityUnit × Bool)) (s : State) : Res :=
  match readMismatch (s.slice sl) req mode addr.toNat hit with
  | none => busRead sl req mode addr s
  | some h =>
    match onLink sl (fun x => parityMismatch x h) s with
    | .next t => busRead sl req mode addr t
    | o => o

/-- REGISTER_READ: of a register by its address, or of a CSR by a CPU. -/
def execRegisterRead (sl : SliceId) (req : Requester) (mode : Priv) (p : RegPlace) (hit : Option (ParityUnit × Bool)) (s : State) : Res :=
  match p with
  | .mem addr => checkedRead sl req mode addr hit s
  | .csr r => onCsr sl req (fun x c => csrRead x c mode r) s

/-- REGISTER_WRITE. -/
def execRegisterWrite (sl : SliceId) (req : Requester) (mode : Priv) (p : RegPlace) (v : Word) (s : State) : Res :=
  match p with
  | .mem addr => busWrite sl req mode addr v s
  | .csr r => onCsr sl req (fun x c => csrWrite x c mode r v) s

/-- Goes on after an access of a sequence that ended well; any other ends the sequence. -/
def onOk (r : Access × State) (f : Word → State → Access × State) : Access × State :=
  match r.1 with
  | .ok v => f v r.2
  | _ => r

/-- An 8-byte load: the low word and then the high word, with no access of another requester between (R111). -/
def busRead64 (sl : SliceId) (req : Requester) (mode : Priv) (addr : Word) (s : State) : Res :=
  if (s.slice sl).on then
    let lo := s.readWord sl req mode addr.toNat
    let hi := onOk lo fun _ s => s.readWord sl req mode (addr.toNat + 4)
    .next (hi.2.setBus sl (match lo.1, hi.1 with
      | .ok l, .ok h => .pair h l
      | _, r => busReply r true))
  else .next s

/-- An 8-byte store: the high word and then the low word (R111). -/
def busWrite64 (sl : SliceId) (req : Requester) (mode : Priv) (addr v hi : Word) (s : State) : Res :=
  if (s.slice sl).on then
    let r := onOk (s.writeWord sl req mode (addr.toNat + 4) hi allOnes) fun _ s => s.writeWord sl req mode addr.toNat v allOnes
    .next (r.2.setBus sl (busReply r.1 false))
  else .next s

/-- LOW_WORD_READ: latches the pair's high word for the requester (R109); `wide`, an 8-byte load (R111). -/
def execLowWordRead (sl : SliceId) (req : Requester) (mode : Priv) (addr : Word) (wide : Bool) (s : State) : Res :=
  if wide then busRead64 sl req mode addr s else busRead sl req mode addr s

/-- HIGH_WORD_WRITE: stages the word for the requester (R110). -/
def execHighWordWrite (sl : SliceId) (req : Requester) (mode : Priv) (addr : Word) (v : Word) (s : State) : Res :=
  busWrite sl req mode addr v s

/-- LOW_WORD_WRITE: commits the pair, or the low word alone (R110); with `hi`, an 8-byte store (R111). -/
def execLowWordWrite (sl : SliceId) (req : Requester) (mode : Priv) (addr : Word) (v : Word) (hi : Option Word) (s : State) : Res :=
  match hi with
  | some h => busWrite64 sl req mode addr v h s
  | none => busWrite sl req mode addr v s

/-- SLOW_WRITE_LAND: the slow domain of a block takes the posted write (R105). -/
def execSlowWriteLand (sl : SliceId) (blk : Block) (s : State) : Res :=
  onLink sl (fun x => if pendBusy x blk.val then slowLand x blk.val else x) s

/-! ### The on-die memories window (R412) -/

/-- Offset of the L2 entry an offset of the window lies in. -/
def l2Entry (o : Nat) : Option Nat := if 0x5000000 ≤ o ∧ o < 0x5800000 then some (o / 16 * 16) else none

/-- An aligned 8-byte store of a CPU to the L2 area: the upper half is held; the lower half lands with it. -/
def l2Store (x : Slice) (c : Cpu) (o e : Nat) (bs : Bytes) : Slice :=
  let held := (x.winHold.find? fun h => decide (h.1 = c) && decide (h.2.1 = e)).map (·.2.2)
  let x := { x with winHold := x.winHold.filter (·.1 ≠ c) }
  if o % 16 = 8 then { x with winHold := x.winHold ++ [(c, e, d64 (beNat bs))] }
  else match held with
    | some d => winPut x e (bs ++ dwordBytes d)
    | none => winPut x o bs

/-- A store of a CPU to the window: 4 or 8 aligned bytes; false where it faults. A store elsewhere than to the entry whose
half the CPU holds discards that half when it is to another L2 entry. -/
def winStore (x : Slice) (c : Cpu) (o : Nat) (bs : Bytes) : Bool × Slice :=
  let n := bs.length
  if (n ≠ 4 ∧ n ≠ 8) ∨ o % n ≠ 0 then (false, x)
  else match l2Entry o with
    | none => (true, winPut x o bs)
    | some e =>
      if n = 8 then (true, l2Store x c o e bs)
      else (true, winPut { x with winHold := x.winHold.filter fun h => h.1 ≠ c ∨ h.2.1 = e } o bs)

/-- ON_DIE_WINDOW_WRITE. -/
def execOnDieWindowWrite (sl : SliceId) (c : Cpu) (off : Word) (data : Bytes) (s : State) : Res :=
  onStarted sl (fun x =>
    let r := winStore x c off.toNat data
    { r.2 with bus := if r.1 then .done else .accessFault }) s

end Sys2Proof.Machine
end

