-- ==== Sys2Proof/Machine/Mgt.lean ====
section
/-! DEFINITION. Charters as the hub takes them, and the frames of the management port (R76 to R82). -/

namespace Sys2Proof.Machine

/-! ### Sessions of a target -/

/-- Forgets a session: what it had not acknowledged waits for another. -/
def Hub.closeSession (h : Hub) (id : Nat) : Hub :=
  let drop := fun (t : HubSlice) => { t with events := t.events.map fun e => { e with copies := e.copies.filter (·.1 ≠ id) } }
  { h with sessions := h.sessions.filter (·.id ≠ id), slices := h.slices.map drop, hubTgt := drop h.hubTgt }

/-- Closes every session of a target. -/
def Hub.closeTarget (h : Hub) (n : Nat) : Hub :=
  ((h.sessions.filter (·.target = n)).map (·.id)).foldl Hub.closeSession h

/-! ### CLAIM (R78) -/

/-- First rule that a CLAIM's charter fails: rule 2 is not asked, none is in force for rule 4, and the charter is plain. -/
def claimFails (c : Bytes) : Option Nat :=
  if chTransfer c then some 1 else chFails [] 0 c [1, 3, 5, 6, 7, 8]

/-- Sends a frame that carries no tag, by the engine of a target, to a host (R87). -/
def Hub.sendPlain (h : Hub) (n : Nat) (mac : Bytes) (f : HraFrame) : Hub :=
  h.queueTx n (etherHra mac (h.targetVlan n) (f.bytes none))

def byteOf (n : Nat) : Byte := BitVec.ofNat 8 n

/-- The active banks of every slice as a charter names them. -/
def Hub.banksFrom (h : Hub) (c : Bytes) : Hub :=
  { h with slices := h.slices.zipIdx.map fun p => { p.1 with active := chImgbank c p.2 } }

/-- The first charter of a hub. -/
def Hub.takeClaim (h : Hub) (c : Bytes) : Hub :=
  { h.nvmPut (charterSlot h.lowerCopy) c with
      anchors := [chHubFp c], charter := c, hubChar := c, phase := .romOnly }.banksFrom c

/-- STATUS DENIED of a frame (R90). -/
def hsDenied : Byte := 4

/-- The answer to a CLAIM: the first rule that failed, 0 when the charter is stored (R88). -/
def claimAnswer (k : Nat) : HraFrame :=
  { type := htClaim, ses := 0, seq := 0, nops := 0, status := if k = 0 then 0 else hsDenied, body := [byteOf k, 0, 0, 0] }

/-- A CLAIM frame reaches the hub: only an unclaimed one answers. -/
def Hub.claim (h : Hub) (f : Bytes) : Hub :=
  let p := hraPart f
  if h.phase ≠ .unclaimed ∨ !hraFormed p then h
  else match claimFails (hraBody p) with
    | some k => h.sendPlain hubTarget (srcMac f) (claimAnswer k)
    | none => (h.sendPlain hubTarget (srcMac f) (claimAnswer 0)).takeClaim (hraBody p)

/-! ### A charter that is applied (R79) -/

def ownerChanged (a b : Bytes) (n : Nat) : Bool :=
  decide (chOwnKey a n ≠ chOwnKey b n) || decide (chOwnFp a n ≠ chOwnFp b n)

/-- IMGBANK, MINVER, NLS4 decode or DEBUG. -/
def imageChanged (a b : Bytes) (n : Nat) : Bool :=
  (chImgbank a n != chImgbank b n) || decide (chMinver a n ≠ chMinver b n) || (chStrict a n != chStrict b n)
  || (chDebug a n != chDebug b n)

/-- The slice goes OFF and is zeroed, its NVM partitions are erased, and its staged and read pages are lost. -/
def State.ownerChange (s : State) (sl : SliceId) : State :=
  let n := sl.val
  let s := (s.sliceOff sl).modHub fun h =>
    ((h.nvmErase (slicePart false n) slicePartSize).nvmErase (slicePart true n) slicePartSize).modNvm n fun _ => NvmSet.blank
  s.modHubSlice n fun t => { t with zeroing := true, start := false, deferred := false }

/-- What a new charter does to a slice. -/
def State.charterSlice (old new : Bytes) (s : State) (sl : SliceId) : State :=
  let n := sl.val
  let s := if chVlan old n ≠ chVlan new n then s.modHub (·.closeTarget n) else s
  let s := if imageChanged old new n then s.modHubSlice n fun t => { t with active := chImgbank new n } else s
  if ownerChanged old new n then s.ownerChange sl
  else if (imageChanged old new n || (chPaired old n != chPaired new n)) && (s.slice sl).on then s.restartSlice sl rstCharter
  else s

/-- The charter in force becomes another; a transfer programs the next anchor slot. -/
def State.takeCharter (s : State) (c : Bytes) : State :=
  let old := s.hub.charter
  let s := s.modHub fun h =>
    { h with charter := c, anchors := if chTransfer c then h.anchors ++ [chHubFp c] else h.anchors }
  (List.finRange 8).foldl (State.charterSlice old c) s

/-- OWNER_ZEROING_DONE. -/
def execOwnerZeroingDone (sl : SliceId) (s : State) : Res :=
  onHub (fun h =>
    h.modTgt sl.val fun t =>
      if !t.zeroing then t
      else if chStart h.charter sl.val && !t.tooHot then { t with zeroing := false }.ask rstCharter
      else { t with zeroing := false }) s

/-! ### The management port (R80 to R82) -/

/-- Whose frame it is: a slice, 8 for the hub, none for no one. -/
def Hub.mgtTarget (h : Hub) (f : Bytes) : Option Nat :=
  if tagged f then
    match (List.range 8).find? fun n => decide (chVlan h.charter n ≠ 0) && decide (chVlan h.charter n = tagVid f) with
    | some n => some n
    | none => if chHubVlan h.hubChar ≠ 0 ∧ chHubVlan h.hubChar = tagVid f then some hubTarget else none
  else if chHubVlan h.hubChar = 0 then some hubTarget
  else none

def rxBuffer : Nat := 262144

/-- A frame enters the buffer of its owner, or is dropped with the buffer full. -/
def HubSlice.receive (t : HubSlice) (f : Bytes) : HubSlice :=
  if rxBuffer < (t.rx.map (·.length)).foldl (· + ·) 0 + f.length then t else { t with rx := t.rx ++ [f] }

/-- MGT_FRAME_TRANSMIT; a slice whose VLAN is 0 has no management access. -/
def execMgtFrameTransmit (sl : SliceId) (frame : Bytes) (s : State) : Res :=
  let v := chVlan s.hub.charter sl.val
  if (s.slice sl).on && s.hub.answers && decide (v ≠ 0) then onHub (·.queueTx sl.val (retag frame v)) s else .next s

/-! ### Transmission (R82) -/

/-- Weight of a sender: MGT_SHARE, or 16 for the hub. -/
def Hub.weight (h : Hub) (n : Nat) : Nat := if n < 8 then max 1 (chShare h.charter n) else 16

/-- Bytes a sender gains for each unit of its weight. -/
def mgtQuantum : Nat := 256

/-- The frame at the head of a sender's queue. -/
def Hub.headOf (h : Hub) (n : Nat) : Option Bytes := (h.tx.find? (·.1 = n)).map (·.2)

/-- Removes the frame at the head of a sender's queue. -/
def dropHeadOf (n : Nat) : List (Nat × Bytes) → List (Nat × Bytes)
  | [] => []
  | e :: l => if e.1 = n then l else e :: dropHeadOf n l

def Hub.deficit (h : Hub) (n : Nat) : Nat := sGet 0 h.mgtDef n

/-- A sender's turn: its head is sent while its deficit covers it; an empty queue keeps no deficit. -/
def Hub.mgtTurn (h : Hub) (n : Nat) : Option Hub :=
  match h.headOf n with
  | some f =>
    if f.length ≤ h.deficit n then
      let h := { h with tx := dropHeadOf n h.tx, mgtTx := h.mgtTx ++ [(n, f)], mgtCur := n }
      some { h with mgtDef := sPut 0 h.mgtDef n (if h.headOf n = none then 0 else h.deficit n - f.length) }
    else none
  | none => none

/-- The loop of a deficit round robin pick, from a sender on. -/
def Hub.mgtPick : Nat → Nat → Hub → Hub
  | 0, _, h => h
  | k + 1, n, h =>
    match h.mgtTurn n with
    | some h => h
    | none =>
      let m := (n + 1) % 9
      Hub.mgtPick k m (if h.headOf m = none then h else { h with mgtDef := sPut 0 h.mgtDef m (h.deficit m + mgtQuantum * h.weight m) })

/-- Enough turns for the longest waiting frame at weight 1. -/
def Hub.mgtTurns (h : Hub) : Nat := h.tx.foldl (fun m e => max m (9 * (e.2.length / mgtQuantum + 2))) 0

/-- The management port sends the next frame. -/
def Hub.mgtSend (h : Hub) : Hub := if !h.answers || h.tx.isEmpty then h else Hub.mgtPick h.mgtTurns h.mgtCur h

end Sys2Proof.Machine
end

