-- ==== Sys2Proof/Machine/Hra.lean ====
section
/-! DEFINITION. Host Register Access: sessions and their keys, the sequence window, REQUESTs and their operations, events, and
the delivery of management frames (R80, R84 to R96, R111, R114, R118, R430). -/

namespace Sys2Proof.Machine

/-! ### Status codes (R90) -/

def hsOk : Byte := 0
def hsBadAddr : Byte := 1
def hsBusErr : Byte := 2
def hsTimeout : Byte := 3
def hsStale : Byte := 5
def hsSliceOff : Byte := 6
def hsMalformed : Byte := 7

def Hub.session (h : Hub) (id : Nat) : Option Session := h.sessions.find? (·.id = id)

def Hub.modSession (h : Hub) (id : Nat) (f : Session → Session) : Hub :=
  { h with sessions := h.sessions.map fun t => if t.id = id then f t else t }

/-! ### Opening (R84, R86, R88) -/

/-- The target that a byte of an OPEN names. -/
def targetOf (b : Byte) : Option Nat := if b.toNat < 8 then some b.toNat else if b = 0xFF then some hubTarget else none

/-- The fingerprint of a target's owner; the hub's as of the last hub start. -/
def Hub.ownerFp (h : Hub) (n : Nat) : Bytes := if n < 8 then chOwnFp h.charter n else chHubFp h.hubChar

/-- Fields of the body of an OPEN (R88). -/
def openTarget (b : Bytes) : Byte := (b[0]?).getD 0
def openKey (b : Bytes) : Bytes := slab b 4 64
def openEph (b : Bytes) : Bytes := slab b 68 64
def openNonce (b : Bytes) : Bytes := slab b 132 16

/-- An OPEN is formed as R87 and R88 lay it out, with an ephemeral key that is a point of the curve. -/
def openFormed (p : Bytes) : Bool :=
  hraFormed p && decide (hraLen p = 212) && decide (hraSes p = 0) && decide (hraSeq p = 0) && zeroAt (hraBody p) 1 3
  && (targetOf (openTarget (hraBody p))).isSome && (p256Point (openEph (hraBody p))).isSome

/-- REASON of a REJECT of an OPEN that arrived at the engine of `eng` and names target `n`; the signature is looked at last. -/
def Hub.openRefusal (h : Hub) (eng n : Nat) (b : Bytes) : Option Nat :=
  if h.phase = .unclaimed ∨ (h.phase = .romOnly ∧ n < 8) then some 5
  else if sha256 (openKey b) ≠ h.ownerFp n then some 1
  else if eng ≠ n then some 2
  else if 64 ≤ h.sessions.length ∨ 4 ≤ (h.sessions.filter (·.target = n)).length then some 3
  else if !ecdsaVerify (openKey b) (slab b 0 148) (slab b 148 64) then some 4
  else none

/-- A session number that no open session has. -/
def Hub.freshSession (h : Hub) : Nat :=
  ((List.range 65).map fun k => (h.nextSes - 1 + k) % 65535 + 1).find? (fun i => (h.session i).isNone) |>.getD h.nextSes

/-- 256 bits of the hub's whose value no rule states. -/
def Hub.freeBits (h : Hub) : Nat × Hub :=
  let r := Hub.freeWords 8 h
  (beNat (wordsBytes r.1), r.2)

/-- What the hub draws for a session: its ephemeral private key, its nonce and the secret number of its signature. -/
structure AcceptDraw where
  eph : Nat
  nonce : Bytes
  sigNo : Nat

def Hub.acceptDraw (h : Hub) : AcceptDraw × Hub :=
  let a := h.freeBits
  let b := Hub.freeWords 4 a.2
  let c := b.2.freeBits
  (⟨p256Scalar a.1, wordsBytes b.1, p256Scalar c.1⟩, c.2)

/-- The body of an ACCEPT: target, ephemeral key, nonce, device key, and the signature over the host nonce and these (R88). -/
def acceptBody (target : Byte) (hostNonce : Bytes) (d : AcceptDraw) : Bytes :=
  let b := [target, 0, 0, 0] ++ p256Public d.eph ++ d.nonce ++ deviceKey
  b ++ ecdsaSign devicePriv d.sigNo (hostNonce ++ b)

/-- The new session of an OPEN: its keys are derived from the shared secret (R85). -/
def newSession (id n : Nat) (mac b : Bytes) (d : AcceptDraw) : Session :=
  let secret := match p256Point (openEph b) with | some q => ecdhSecret d.eph q | none => []
  let k := sessionBits secret (openNonce b) d.nonce (openTarget b).toNat id
  { id := id, target := n, mac := mac, hostKey := k.take 16, hubKey := k.drop 16, h := 0, seen := [], cache := [],
    tagFails := [], out := 0, run := none, waiting := [], lastReply := none }

/-- A new session; the events that waited for it are sent. -/
def Hub.accept (h : Hub) (n : Nat) (mac b : Bytes) : Hub :=
  let id := h.freshSession
  let r := h.acceptDraw
  let f : HraFrame :=
    { type := htAccept, ses := id, seq := 0, nops := 0, status := 0, body := acceptBody (openTarget b) (openNonce b) r.1 }
  ({ r.2 with sessions := r.2.sessions ++ [newSession id n mac b r.1], nextSes := id % 65535 + 1 }.sendPlain n mac f).sendQueued n

/-- A REJECT: the target as in the frame answered, and the reason; STATUS is DENIED. -/
def rejectFrame (target : Byte) (reason : Nat) : HraFrame :=
  { type := htReject, ses := 0, seq := 0, nops := 0, status := hsDenied, body := [target, byteOf reason, 0, 0] }

/-- An OPEN reaches the engine of a target: answered with ACCEPT and a session, or with REJECT on the VLAN it came by. -/
def Hub.opened (h : Hub) (eng : Nat) (f : Bytes) : Hub :=
  let p := hraPart f
  let b := hraBody p
  match openFormed p, targetOf (openTarget b) with
  | true, some n =>
    match h.openRefusal eng n b with
    | some k => h.sendPlain eng (srcMac f) (rejectFrame (openTarget b) k)
    | none => h.accept n (srcMac f) b
  | _, _ => h.sendPlain eng (srcMac f) (rejectFrame (openTarget b) 6)

/-! ### The sequence window and tags (R86, R94) -/

inductive SeqVerdict where
  | accept
  | resend (r : CachedReply)
  | stale
  | drop
  deriving DecidableEq, Repr

/-- R94 for a frame whose tag is valid. -/
def Session.judge (t : Session) (seq : Nat) (tag : BitVec 128) : SeqVerdict :=
  let known := t.seen.find? (·.1 = seq)
  let same := known.any (·.2 = tag)
  if t.h < seq then .accept
  else if t.h < seq + 64 ∧ known = none then .accept
  else match t.cache.find? (·.seq = seq) with
    | some r => if same then .resend r else .drop
    | none => if same then .stale else .drop

/-- A frame is accepted. -/
def Session.take (t : Session) (seq : Nat) (tag : BitVec 128) : Session :=
  { t with h := max t.h seq, seen := (seq, tag) :: t.seen }

/-- Clocks in a second. -/
def secClocks : Nat := 800000000

/-- A frame whose tag fails: the sixteenth within 1 s closes the session. -/
def Hub.tagFail (h : Hub) (id : Nat) : Hub :=
  match h.session id with
  | none => h
  | some t =>
    let l := t.tagFails.filter (fun k => decide (h.clk < k + secClocks)) ++ [h.clk]
    if 16 ≤ l.length then h.closeSession id else h.modSession id fun t => { t with tagFails := l }

/-- A frame of the hub's in a session takes the next SEQ of its direction. -/
def Hub.sendIn (h : Hub) (t : Session) (f : HraFrame) : Hub :=
  (h.bumpOut t.id).queueTx t.target (h.sessionBytes t { f with ses := t.id, seq := t.out + 1 })

/-- The REPLY of a status and body; NOPS is the number of results. -/
def replyFrame (status : Byte) (nops : Nat) (body : Bytes) : HraFrame :=
  { type := htReply, ses := 0, seq := 0, nops := nops, status := status, body := body }

/-- Answers a SEQ of the host with a new REPLY. -/
def Hub.answer (h : Hub) (id seq : Nat) (tag : BitVec 128) (status : Byte) (nops : Nat) (body : Bytes) : Hub :=
  match h.session id with
  | none => h
  | some t =>
    let f := replyFrame status nops body
    let r : CachedReply := ⟨seq, tag, status, body, h.sessionBytes t { f with ses := t.id, seq := t.out + 1 }⟩
    (h.sendIn t f).modSession id fun t => { t with lastReply := some r }

/-- Sends a cached reply again, as it was. -/
def Hub.resend (h : Hub) (t : Session) (r : CachedReply) : Hub :=
  (h.queueTx t.target r.frame).modSession t.id fun t => { t with lastReply := some r }

/-- A session frame at the engine of a target, by R94: `act` is what an accepted one does. A frame of a session of another
target is dropped. -/
def State.sessionFrame (s : State) (eng : Nat) (f : Bytes) (act : Session → State → State) : State :=
  let p := hraPart f
  match s.hub.session (hraSes p) with
  | none => s
  | some t =>
    if t.target ≠ eng then s
    else if !hraTagOk t.hostKey p then s.modHub (·.tagFail t.id)
    else match t.judge (hraSeq p) (hraTag p) with
      | .accept => act t (s.modHub (·.modSession t.id (·.take (hraSeq p) (hraTag p))))
      | .resend r => s.modHub (·.resend t r)
      | .stale => s.modHub (·.answer t.id (hraSeq p) (hraTag p) hsStale 0 [0])
      | .drop => s.modHub fun h => { h with seqDrops := h.seqDrops + 1 }

/-- A valid CLOSE: answered with a CLOSE, and the session is forgotten. -/
def State.closed (s : State) (t : Session) : State :=
  s.modHub fun h =>
    (h.sendIn t { type := htClose, ses := 0, seq := 0, nops := 0, status := 0, body := [] }).closeSession t.id

/-- SESSION_TIMEOUT. -/
def execSessionTimeout (ses : Nat) (s : State) : Res := onHub (·.closeSession ses) s

/-! ### Events (R95, R96) -/

/-- A session acknowledges the event it received under a SEQ; an event that no session has left to acknowledge goes. -/
def HubSlice.ackEvent (t : HubSlice) (id seq : Nat) : HubSlice :=
  let hit := fun (c : Nat × Nat × Nat) => decide (c.1 = id) && decide (c.2.1 = seq)
  { t with events := t.events.filterMap fun e =>
      if e.copies.any hit then
        let cs := e.copies.filter (!hit ·)
        if cs = [] then none else some { e with copies := cs }
      else some e }

/-- An EVENT_ACK: its body holds the acknowledged SEQ. -/
def State.eventAcked (s : State) (t : Session) (p : Bytes) : State :=
  s.modHub fun h => (h.modTgt t.target (·.ackEvent t.id (beAt (hraBody p) 0 4))).overflow t.target

/-- Whether a copy of an event is that of a session under a SEQ, and may be sent once more. -/
def copyResends (ses seq : Nat) (c : Nat × Nat × Nat) : Bool := decide (c.1 = ses) && decide (c.2.1 = seq) && decide (c.2.2 < 8)

/-- EVENT_RESEND: an event that a session has not acknowledged is sent again, up to 8 times. -/
def execEventResend (ses : Nat) (seq : Word) (s : State) : Res :=
  onHub (fun h =>
    let hit := copyResends ses seq.toNat
    let each := fun (t : HubSlice) => { t with events := t.events.map fun e =>
      { e with copies := e.copies.map fun c => if hit c then (c.1, c.2.1, c.2.2 + 1) else c } }
    match h.session ses with
    | none => h
    | some t =>
      let es := (h.tgt t.target).events.filter fun e => e.copies.any hit
      es.foldl (fun h e => h.queueTx t.target (h.sessionBytes t (eventFrame ses seq.toNat e))) (h.modTgt t.target each)) s

/-! ### Operations of a REQUEST (R89, R91) -/

/-- One operation at the front of a body, and the rest; none where it is malformed. -/
def parseOp (b : Bytes) : Option (HraOp × Bytes) :=
  let w := fun (o : Nat) => w32 (beAt b o 4)
  let fixed := fun (n : Nat) (op : HraOp) => if b.length < n then none else some (op, b.drop n)
  match beAt b 0 1 with
  | 0x01 => if 1 ≤ beAt b 5 1 ∧ beAt b 5 1 ≤ 64 then fixed 6 (.read32 (w 1) (beAt b 5 1)) else none
  | 0x02 => fixed 13 (.write32 (w 1) (w 5) (w 9))
  | 0x03 => fixed 5 (.read64 (w 1))
  | 0x04 => fixed 13 (.write64 (w 1) (d64 (beAt b 5 8)))
  | 0x05 => fixed 15 (.wait (w 1) (w 5) (w 9) (beAt b 13 2))
  | 0x10 => if 2 ≤ beAt b 1 1 then none else fixed (4 + beAt b 2 2) (.stage (beAt b 1 1) (slab b 4 (beAt b 2 2)))
  | 0x11 => if 2 ≤ beAt b 1 1 then none else fixed 11 (.cmd (beAt b 1 1) (beAt b 2 1) (d64 (beAt b 3 8)))
  | 0x20 => if 16 ≤ beAt b 1 1 then none else fixed 6 (.kick (beAt b 1 1) (w 2))
  | 0x30 => fixed 1 .wake
  | 0x31 => if beAt b 1 1 ≠ 0xA5 then none else fixed 2 (.restart 0xA5)
  | 0x40 => if 2 ≤ beAt b 1 1 then none else fixed 2 (.charterApply (beAt b 1 1))
  | _ => none

/-- The operations of a body, or the index of the first that is malformed. -/
def parseOps : Nat → Nat → Bytes → Except Nat (List HraOp)
  | 0, i, b => if b = [] then .ok [] else .error i
  | n + 1, i, b =>
    match parseOp b with
    | none => .error i
    | some (op, rest) =>
      match parseOps n (i + 1) rest with
      | .ok ops => .ok (op :: ops)
      | .error k => .error k

/-- Bytes of reply data of an operation. -/
def opReply : HraOp → Nat
  | .read32 _ n => 4 * n
  | .read64 _ => 8
  | .wait _ _ _ _ | .cmd _ _ _ => 4
  | .wake => 1
  | _ => 0

/-- The first operation whose reply data would not fit, `used` bytes being taken (R91). -/
def replyOverflow : Nat → Nat → List HraOp → Option Nat
  | _, _, [] => none
  | used, i, op :: ops => if 1452 < used + opReply op then some i else replyOverflow (used + opReply op) (i + 1) ops

/-- A REQUEST's operations, or the index that a MALFORMED reply names. -/
def requestOps (nops : Nat) (body : Bytes) : Except Nat (List HraOp) :=
  if 64 < nops ∨ 1452 < body.length then .error (min nops 64)
  else match parseOps nops 0 body with
    | .error k => .error k
    | .ok ops => match replyOverflow 1 0 ops with | some k => .error k | none => .ok ops

/-! ### Running a REQUEST (R90, R93, R94) -/

def sliceNo (n : Nat) : SliceId := ⟨n % 8, Nat.mod_lt _ (by decide)⟩

/-- A REQUEST whose turn it is wakes a slice in DOZE or NAP (R93). -/
def State.hostWake (s : State) (n : Nat) : State :=
  if n < 8 then
    let x := s.slice (sliceNo n)
    if x.on then s.setSlice (sliceNo n) (wakeBy x .hostCommand) else s
  else s

/-- Sends a reply and keeps it among the last 16. -/
def Hub.reply (h : Hub) (id seq : Nat) (tag : BitVec 128) (status : Byte) (nops : Nat) (body : Bytes) : Hub :=
  (h.answer id seq tag status nops body).modSession id fun t =>
    match t.lastReply with
    | some r => { t with cache := (t.cache ++ [r]).drop ((t.cache ++ [r]).length - 16) }
    | none => t

def indexAll : Byte := 0xFF

/-- The slice of a target is in DOZE or NAP, or on its way there or back. -/
def State.targetSleeps (s : State) (n : Nat) : Bool :=
  let x := s.slice (sliceNo n)
  decide (n < 8) && x.on && (decide (x.move ≠ .none) || decide (pwCur x ≠ 0))

/-- Starts a REQUEST: one without operations is answered at once, unless the slice must wake first (R93). -/
def State.startRun (s : State) (ses n : Nat) (r : HraRun) : State :=
  if r.ops = [] ∧ s.targetSleeps n = false then s.modHub (·.reply ses r.seq r.tag hsOk 0 [indexAll])
  else (s.modHub (·.modSession ses fun t => { t with run := some r })).hostWake n

/-- The next REQUEST that waits, once none runs. -/
def State.nextRun (s : State) (ses : Nat) : State :=
  match s.hub.session ses with
  | none => s
  | some t =>
    match t.run, t.waiting with
    | none, r :: rs => (s.modHub (·.modSession ses fun t => { t with waiting := rs })).startRun ses t.target r
    | _, _ => s

/-- A REQUEST has ended: NOPS of its REPLY is the number of operations executed. -/
def State.endRun (s : State) (ses : Nat) (r : HraRun) (status index : Byte) : State :=
  let s := s.modHub (·.modSession ses fun t => { t with run := none })
  (s.modHub (·.reply ses r.seq r.tag status r.done (index :: r.data))).nextRun ses

/-- REQUESTs without operations that waited for a slice to wake are answered once it is ACTIVE. -/
def State.emptyRuns (s : State) (n : Nat) : State :=
  (s.hub.sessions.filter (·.target = n)).foldl (fun s t =>
    match t.run with
    | some r => if r.ops = [] then s.endRun t.id r hsOk indexAll else s
    | none => s) s

/-- WAKE_DONE. -/
def execWakeDone (sl : SliceId) (s : State) : Res :=
  match (s.slice sl).on, (s.slice sl).move with
  | true, .waking c =>
    let s := s.woken sl c
    .next (if s.targetSleeps sl.val then s else s.emptyRuns sl.val)
  | _, _ => .next s

/-- An accepted REQUEST: malformed, behind another of its session, or started. -/
def State.requested (s : State) (t : Session) (p : Bytes) : State :=
  match requestOps (hraNops p) (hraBody p) with
  | .error k => s.modHub (·.reply t.id (hraSeq p) (hraTag p) hsMalformed 0 [byteOf k])
  | .ok ops =>
    let r : HraRun := { seq := hraSeq p, tag := hraTag p, ops := ops, done := 0, data := [] }
    if t.run.isSome then
      (s.modHub (·.modSession t.id fun t => { t with waiting := t.waiting ++ [r] })).hostWake t.target
    else s.startRun t.id t.target r

/-! ### Delivery (R80, R87) -/

/-- An HRA frame reaches the engine of a target. Only the hub's engine takes a CLAIM; a frame of the hub's own types, or one
that is not formed, is dropped. -/
def State.hraArrive (s : State) (eng : Nat) (f : Bytes) : State :=
  let p := hraPart f
  let k := hraKind p
  if k = htOpen then s.modHub (·.opened eng f)
  else if k = htClaim then (if eng = hubTarget then s.modHub (·.claim f) else s)
  else if !hraFormed p then s
  else if k = htRequest then s.sessionFrame eng f fun t s => s.requested t p
  else if k = htEventAck then s.sessionFrame eng f fun t s => s.eventAcked t p
  else if k = htClose then s.sessionFrame eng f fun t s => s.closed t
  else s

/-- A frame from the management port is delivered by its VLAN: HRA frames to the engine of the target, others to its buffer;
a frame for no one is dropped and counted. -/
def State.mgtArrive (s : State) (f : Bytes) : State :=
  match s.hub.mgtTarget f with
  | none => s.modHub fun h => { h with mgtDrops := h.mgtDrops + 1 }
  | some n => if isHra f then s.hraArrive n f else s.modHub (·.modTgt n (·.receive f))

/-- MGT_FRAME_RECEIVE. -/
def execMgtFrameReceive (frame : Bytes) (s : State) : Res := .next (if s.hub.answers then s.mgtArrive frame else s)

/-- A frame of a type that a row names: another is not that row's. -/
def hraRow (type : Nat) (f : Bytes) (s : State) : Res :=
  if isHra f && decide (hraKind (hraPart f) = type) then execMgtFrameReceive f s else .next s

/-- OPEN. -/
def execHraOpen (frame : Bytes) (s : State) : Res := hraRow htOpen frame s

/-- CLOSE. -/
def execHraClose (frame : Bytes) (s : State) : Res := hraRow htClose frame s

/-- REQUEST. -/
def execRequest (frame : Bytes) (s : State) : Res := hraRow htRequest frame s

/-- EVENT_ACK. -/
def execEventAck (frame : Bytes) (s : State) : Res := hraRow htEventAck frame s

/-- CLAIM. -/
def execClaim (frame : Bytes) (s : State) : Res := hraRow htClaim frame s

/-! ### Operations in turn -/

/-- How an operation ends: with reply data, with a status, or not yet. -/
inductive OpEnd where
  | done (data : Bytes)
  | fail (status : Byte)
  | hold
  deriving DecidableEq, Repr

/-- The operation in turn ends. -/
def State.opEnd (s : State) (ses : Nat) (r : HraRun) (e : OpEnd) : State :=
  match e with
  | .hold => s
  | .fail st => s.endRun ses r st (byteOf r.done)
  | .done d =>
    let r' := { r with ops := r.ops.drop 1, done := r.done + 1, data := r.data ++ d }
    if r'.ops = [] then s.endRun ses r' hsOk indexAll
    else s.modHub (·.modSession ses fun t => { t with run := some r' })

/-- Whether the slice of a session can carry out an operation: OFF it fails, and until ACTIVE the operation waits (R93). -/
def State.opGate (s : State) (n : Nat) (isRestart : Bool) : Option OpEnd :=
  if 8 ≤ n then none
  else
    let x := s.slice (sliceNo n)
    if !x.on then (if isRestart then none else some (.fail hsSliceOff))
    else if x.move ≠ .none ∨ pwCur x ≠ 0 then some .hold
    else none

def HraOp.isRestart : HraOp → Bool
  | .restart _ => true
  | _ => false

/-- An operation of a session: `f` answers none for an operation that is another row's. The target is a slice, or none for
the hub. -/
def runOp (ses : Nat) (f : HraOp → Option (Option SliceId → State → OpEnd × State)) (s : State) : Res :=
  match s.hub.session ses with
  | none => .next s
  | some t =>
    match t.run with
    | none => .next s
    | some r =>
      match r.ops.head? with
      | none => .next s
      | some op =>
        match f op with
        | none => .next s
        | some g =>
          match s.opGate t.target op.isRestart with
          | some e => .next (s.opEnd ses r e)
          | none =>
            let q := g (if t.target < 8 then some (sliceNo t.target) else none) s
            .next (q.2.opEnd ses r q.1)

/-! ### Register operations (R89, R92, R111) -/

/-- A read by the HRA engine; a hub session reaches the hub window alone. -/
def State.hraRead (s : State) (t : Option SliceId) (a : Nat) : Access × State :=
  match t with
  | some sl => s.readWord sl .hra .m a
  | none =>
    if inHubWindow a then
      let r := s.hubRead .hub .hra ((a - 0x50000000) / 4096) (a % 4096)
      (.ok r.1, r.2)
    else (.bad, s)

def State.hraWrite (s : State) (t : Option SliceId) (a : Nat) (v m : Word) : Access × State :=
  match t with
  | some sl => s.writeWord sl .hra .m a v m
  | none =>
    if inHubWindow a then (.ok 0, s.hubWrite .hub .hra ((a - 0x50000000) / 4096) (a % 4096) v m) else (.bad, s)

/-- Status of an access that did not succeed. -/
def accessStatus : Access → Byte
  | .ok _ => hsOk
  | .busError => hsBusErr
  | .denied | .page => hsDenied
  | .bad => hsBadAddr

/-- What follows an access. -/
def afterAccess (r : Access × State) (k : Word → State → OpEnd × State) : OpEnd × State :=
  match r.1 with
  | .ok v => k v r.2
  | e => (.fail (accessStatus e), r.2)

/-- Reads `n` consecutive words. -/
def State.hraReads (s : State) (t : Option SliceId) (a : Nat) : Nat → OpEnd × State
  | 0 => (.done [], s)
  | n + 1 =>
    afterAccess (s.hraRead t a) fun v s =>
      match s.hraReads t (a + 4) n with
      | (.done d, s) => (.done (wordBytes v ++ d), s)
      | r => r

def execHraRead32 (ses : Nat) (s : State) : Res :=
  runOp ses (fun op => match op with
    | .read32 off n => some fun t s => s.hraReads t off.toNat n
    | _ => none) s

def execHraWrite32 (ses : Nat) (s : State) : Res :=
  runOp ses (fun op => match op with
    | .write32 off v m => some fun t s => afterAccess (s.hraWrite t off.toNat v m) fun _ s => (.done [], s)
    | _ => none) s

/-- READ64: the low word, then the high shadow. -/
def execHraRead64 (ses : Nat) (s : State) : Res :=
  runOp ses (fun op => match op with
    | .read64 off => some fun t s =>
      afterAccess (s.hraRead t off.toNat) fun lo s =>
        afterAccess (s.hraRead t (off.toNat + 4)) fun hi s => (.done (wordBytes hi ++ wordBytes lo), s)
    | _ => none) s

/-- WRITE64: the high word, then the low word. -/
def execHraWrite64 (ses : Nat) (s : State) : Res :=
  runOp ses (fun op => match op with
    | .write64 off v => some fun t s =>
      afterAccess (s.hraWrite t (off.toNat + 4) (w32 (v.toNat / 2 ^ 32)) allOnes) fun _ s =>
        afterAccess (s.hraWrite t off.toNat (w32 v.toNat) allOnes) fun _ s => (.done [], s)
    | _ => none) s

/-- One poll of a WAIT. -/
def execHraWait (ses : Nat) (s : State) : Res :=
  runOp ses (fun op => match op with
    | .wait off m v _ => some fun t s =>
      afterAccess (s.hraRead t off.toNat) fun w s => (if w &&& m = v then .done (wordBytes w) else .hold, s)
    | _ => none) s

/-- WAIT_TIMEOUT. -/
def execWaitTimeout (ses : Nat) (s : State) : Res :=
  runOp ses (fun op => match op with
    | .wait _ _ _ _ => some fun _ s => (.fail hsTimeout, s)
    | _ => none) s

/-! ### Muslins, DMA, WAKE, RESTART and CHARTER_APPLY -/

/-- An operation on a slice; a hub session has none. -/
def onTarget (t : Option SliceId) (s : State) (f : SliceId → OpEnd × State) : OpEnd × State :=
  match t with
  | some sl => f sl
  | none => (.fail hsDenied, s)

/-- Changes a slice and delivers what it sends to its twin. -/
def State.onSliceNow (s : State) (sl : SliceId) (f : Slice → Slice) : State :=
  let x := s.slice sl
  (s.setSlice sl (f x)).deliver (twin sl) (sentSince x (f x))

/-- MUSLIN_STAGE. -/
def execMuslinStage (ses : Nat) (s : State) : Res :=
  runOp ses (fun op => match op with
    | .stage buf it => some fun t s => onTarget t s fun sl => (.done [], s.onSliceNow sl (musEnter · buf it))
    | _ => none) s

/-- A muslin command of a session; a code that is no command's is ignored. The reply is RIF_MSTATn. -/
def sessionMus (ses code : Nat) (s : State) : Res :=
  runOp ses (fun op => match op with
    | .cmd buf c v =>
      if c = code ∨ c = 0 ∨ 4 < c then
        some fun t s => onTarget t s fun sl =>
          let s := s.onSliceNow sl (musCommand · (paired s sl) buf c v)
          (.done (wordBytes (regGet (s.slice sl) kRIF (mstatOff buf))), s)
      else none
    | _ => none) s

/-- A muslin command by a write of RIF_MCMD. -/
def regMus (sl : SliceId) (buf : Buf) (code : Nat) (s : State) : Res :=
  let ok := paired s sl
  onLink sl (fun x =>
    { musCommand (regSet x kRIF 0x100 (w32 (buf.val * 256 + code))) ok buf.val code (mopOf x) with bus := .done }) s

/-- A command of a buffer of a slice: a register write, or the operation of a session whose target the slice is. -/
def musBy (sl : SliceId) (buf : Buf) (who : MusBy) (code : Nat) (s : State) : Res :=
  match who with
  | .reg => regMus sl buf code s
  | .session ses =>
    match s.hub.session ses with
    | some t => if t.target = sl.val then sessionMus ses code s else .next s
    | none => .next s

/-- CLEAR. -/
def execMuslinClear (sl : SliceId) (buf : Buf) (by' : MusBy) (s : State) : Res := musBy sl buf by' 1 s

/-- CHECK. -/
def execMuslinCheck (sl : SliceId) (buf : Buf) (by' : MusBy) (s : State) : Res := musBy sl buf by' 2 s

/-- ARM. -/
def execMuslinArm (sl : SliceId) (buf : Buf) (by' : MusBy) (s : State) : Res := musBy sl buf by' 3 s

/-- CANCEL. -/
def execMuslinCancel (sl : SliceId) (buf : Buf) (by' : MusBy) (s : State) : Res := musBy sl buf by' 4 s

/-- DMA_KICK: refused where the channel's HOST bit is 0. -/
def execDmaKick (ses : Nat) (s : State) : Res :=
  runOp ses (fun op => match op with
    | .kick ch tail => some fun t s => onTarget t s fun sl =>
      if !wbit (chReg (s.slice sl) ch 8) 31 then (.fail hsDenied, s)
      else (.done [], s.onSliceNow sl (dmaTail · ch tail))
    | _ => none) s

/-- WAKE: the state reached. -/
def execHraWake (ses : Nat) (s : State) : Res :=
  runOp ses (fun op => match op with
    | .wake => some fun t s => onTarget t s fun sl => (.done [byteOf (pwCur (s.slice sl))], s)
    | _ => none) s

/-- RESTART of a slice, or of the hub over a hub session; a slice held OFF for heat does not start (R55). -/
def execHraRestart (ses : Nat) (s : State) : Res :=
  runOp ses (fun op => match op with
    | .restart _ => some fun t s =>
      match t with
      | some sl => if (s.hub.tgt sl.val).tooHot then (.fail hsDenied, s) else (.done [], s.restartSlice sl rstHost)
      | none => (.done [], s.hubDown Hub.restartHub)
    | _ => none) s

/-- CHARTER_APPLY: an operation of hub sessions. A charter that R76 rejects is reported with the first failing rule. -/
def execCharterApply (ses : Nat) (s : State) : Res :=
  runOp ses (fun op => match op with
    | .charterApply slot => some fun t s =>
      if t.isSome then (.fail hsDenied, s)
      else
        let new := s.hub.charterCopy slot
        match chFails s.hub.anchors (chSerial s.hub.charter) new chAll with
        | some k => (.fail hsDenied, s.modHub (·.event hubTarget evCharterRejected hubSliceByte (d64 k)))
        | none => (.done [], s.takeCharter new)
    | _ => none) s

end Sys2Proof.Machine
end

