-- ==== Sys2Proof/Machine/Dispatch.lean ====
section
/-! DEFINITION. One arm per command: a direct call of its meaning. -/

namespace Sys2Proof.Machine

/-- The effect of a command on everything but the queue of waiting commands. -/
def exec (i : Instr) (s : State) : Host.Outcome State Fault Refusal :=
  match i with
  | .powerUp mv => Sys2Proof.Machine.execPowerUp mv s
  | .supplyWarning mv => Sys2Proof.Machine.execSupplyWarning mv s
  | .supplyWarningEnd mv => Sys2Proof.Machine.execSupplyWarningEnd mv s
  | .supplyFailure mv => Sys2Proof.Machine.execSupplyFailure mv s
  | .packageReset mv => Sys2Proof.Machine.execPackageReset mv s
  | .overvoltage mv => Sys2Proof.Machine.execOvervoltage mv s
  | .overvoltageRestart mv => Sys2Proof.Machine.execOvervoltageRestart mv s
  | .hubStart => Sys2Proof.Machine.execHubStart s
  | .hubWatchdogExpiry => Sys2Proof.Machine.execHubWatchdogExpiry s
  | .hubRestart ses => Sys2Proof.Machine.execHubRestart ses s
  | .hubStatusRefresh => Sys2Proof.Machine.execHubStatusRefresh s
  | .feltClockLoss => Sys2Proof.Machine.execFeltClockLoss s
  | .feltWakeAlarm sl => Sys2Proof.Machine.execFeltWakeAlarm sl s
  | .sliceStart sl spared => Sys2Proof.Machine.execSliceStart sl spared s
  | .dramTrainingDone sl pass => Sys2Proof.Machine.execDramTrainingDone sl pass s
  | .imageChecked sl => Sys2Proof.Machine.execImageChecked sl s
  | .networkBoot sl r => Sys2Proof.Machine.execNetworkBoot sl r s
  | .bootConfirm sl => Sys2Proof.Machine.execBootConfirm sl s
  | .confirmTimeout sl => Sys2Proof.Machine.execConfirmTimeout sl s
  | .sliceSelfReset sl key => Sys2Proof.Machine.execSliceSelfReset sl key s
  | .reqNap sl => Sys2Proof.Machine.execReqNap sl s
  | .reqOff sl => Sys2Proof.Machine.execReqOff sl s
  | .napEntryDone sl => Sys2Proof.Machine.execNapEntryDone sl s
  | .dozeEntry sl => Sys2Proof.Machine.execDozeEntry sl s
  | .dozeWake sl c => Sys2Proof.Machine.execDozeWake sl c s
  | .napWake sl c => Sys2Proof.Machine.execNapWake sl c s
  | .wakeDone sl => Sys2Proof.Machine.execWakeDone sl s
  | .thermalRead sl t0 t1 t2 t3 h0 h1 => Sys2Proof.Machine.execThermalRead sl t0 t1 t2 t3 h0 h1 s
  | .pllUnlock sl dom => Sys2Proof.Machine.execPllUnlock sl dom s
  | .mgtMediumSwitch present => Sys2Proof.Machine.execMgtMediumSwitch present s
  | .f10mLoss => Sys2Proof.Machine.execF10mLoss s
  | .ppsEdge => Sys2Proof.Machine.execPpsEdge s
  | .tapReset low sel => Sys2Proof.Machine.execTapReset low sel s
  | .tapInstruction irs cells => Sys2Proof.Machine.execTapInstruction irs cells s
  | .claim frame => Sys2Proof.Machine.execClaim frame s
  | .charterApply ses => Sys2Proof.Machine.execCharterApply ses s
  | .ownerZeroingDone sl => Sys2Proof.Machine.execOwnerZeroingDone sl s
  | .mgtFrameReceive frame => Sys2Proof.Machine.execMgtFrameReceive frame s
  | .mgtFrameTransmit sl frame => Sys2Proof.Machine.execMgtFrameTransmit sl frame s
  | .hraOpen frame => Sys2Proof.Machine.execHraOpen frame s
  | .hraClose frame => Sys2Proof.Machine.execHraClose frame s
  | .request frame => Sys2Proof.Machine.execRequest frame s
  | .sessionTimeout ses => Sys2Proof.Machine.execSessionTimeout ses s
  | .eventAck frame => Sys2Proof.Machine.execEventAck frame s
  | .eventResend ses seq => Sys2Proof.Machine.execEventResend ses seq s
  | .hraRead32 ses => Sys2Proof.Machine.execHraRead32 ses s
  | .hraWrite32 ses => Sys2Proof.Machine.execHraWrite32 ses s
  | .hraRead64 ses => Sys2Proof.Machine.execHraRead64 ses s
  | .hraWrite64 ses => Sys2Proof.Machine.execHraWrite64 ses s
  | .hraWait ses => Sys2Proof.Machine.execHraWait ses s
  | .waitTimeout ses => Sys2Proof.Machine.execWaitTimeout ses s
  | .muslinStage ses => Sys2Proof.Machine.execMuslinStage ses s
  | .dmaKick ses => Sys2Proof.Machine.execDmaKick ses s
  | .hraWake ses => Sys2Proof.Machine.execHraWake ses s
  | .hraRestart ses => Sys2Proof.Machine.execHraRestart ses s
  | .nvmDataWrite u w => Sys2Proof.Machine.execNvmDataWrite u w s
  | .nvmProgram u => Sys2Proof.Machine.execNvmProgram u s
  | .nvmRead u => Sys2Proof.Machine.execNvmRead u s
  | .nvmCommandDone u => Sys2Proof.Machine.execNvmCommandDone u s
  | .timeOutputSelect u v => Sys2Proof.Machine.execTimeOutputSelect u v s
  | .registerWrite sl req mode p v => Sys2Proof.Machine.execRegisterWrite sl req mode p v s
  | .ctlWrite sl blk v => Sys2Proof.Machine.execCtlWrite sl blk v s
  | .blockDrained sl blk => Sys2Proof.Machine.execBlockDrained sl blk s
  | .parityScan sl hit => Sys2Proof.Machine.execParityScan sl hit s
  | .reloadDone sl blk => Sys2Proof.Machine.execReloadDone sl blk s
  | .slowWriteLand sl blk => Sys2Proof.Machine.execSlowWriteLand sl blk s
  | .lowWordRead sl req mode addr wide => Sys2Proof.Machine.execLowWordRead sl req mode addr wide s
  | .highWordWrite sl req mode addr v => Sys2Proof.Machine.execHighWordWrite sl req mode addr v s
  | .lowWordWrite sl req mode addr v hi => Sys2Proof.Machine.execLowWordWrite sl req mode addr v hi s
  | .muslinStageWord sl req buf w => Sys2Proof.Machine.execMuslinStageWord sl req buf w s
  | .muslinClear sl buf by' => Sys2Proof.Machine.execMuslinClear sl buf by' s
  | .muslinCheck sl buf by' => Sys2Proof.Machine.execMuslinCheck sl buf by' s
  | .checkDone sl buf => Sys2Proof.Machine.execCheckDone sl buf s
  | .muslinArm sl buf by' => Sys2Proof.Machine.execMuslinArm sl buf by' s
  | .muslinCancel sl buf by' => Sys2Proof.Machine.execMuslinCancel sl buf by' s
  | .preloadDone sl blk => Sys2Proof.Machine.execPreloadDone sl blk s
  | .readinessPoll sl => Sys2Proof.Machine.execReadinessPoll sl s
  | .readinessAnswer sl blk => Sys2Proof.Machine.execReadinessAnswer sl blk s
  | .twinReady sl => Sys2Proof.Machine.execTwinReady sl s
  | .twinReadyAck sl => Sys2Proof.Machine.execTwinReadyAck sl s
  | .commitInstant sl => Sys2Proof.Machine.execCommitInstant sl s
  | .heldCtlApply sl => Sys2Proof.Machine.execHeldCtlApply sl s
  | .oldEpochDrained sl => Sys2Proof.Machine.execOldEpochDrained sl s
  | .frameReceive sl lane frame fcsOk => Sys2Proof.Machine.execFrameReceive sl lane frame fcsOk s
  | .treeNodeReadDone sl pkt err => Sys2Proof.Machine.execTreeNodeReadDone sl pkt err s
  | .camSearchSlot sl pipe => Sys2Proof.Machine.execCamSearchSlot sl pipe s
  | .recircPass sl pipe => Sys2Proof.Machine.execRecircPass sl pipe s
  | .flowLookup sl pipe => Sys2Proof.Machine.execFlowLookup sl pipe s
  | .flowFetchReadDone sl trk err => Sys2Proof.Machine.execFlowFetchReadDone sl trk err s
  | .kickReadDone sl trk => Sys2Proof.Machine.execKickReadDone sl trk s
  | .bucketWriteAck sl bucket => Sys2Proof.Machine.execBucketWriteAck sl bucket s
  | .victimWritebackDone sl rec' => Sys2Proof.Machine.execVictimWritebackDone sl rec' s
  | .resolve sl trk err => Sys2Proof.Machine.execResolve sl trk err s
  | .provTokenRefill sl => Sys2Proof.Machine.execProvTokenRefill sl s
  | .dispatch sl pipe => Sys2Proof.Machine.execDispatch sl pipe s
  | .rerunDispatch sl => Sys2Proof.Machine.execRerunDispatch sl s
  | .twNop sl th f => Sys2Proof.Machine.execTwNop sl th f s
  | .twAdd sl th f => Sys2Proof.Machine.execTwAdd sl th f s
  | .twSub sl th f => Sys2Proof.Machine.execTwSub sl th f s
  | .twAnd sl th f => Sys2Proof.Machine.execTwAnd sl th f s
  | .twOr sl th f => Sys2Proof.Machine.execTwOr sl th f s
  | .twXor sl th f => Sys2Proof.Machine.execTwXor sl th f s
  | .twShl sl th f => Sys2Proof.Machine.execTwShl sl th f s
  | .twShr sl th f => Sys2Proof.Machine.execTwShr sl th f s
  | .twSar sl th f => Sys2Proof.Machine.execTwSar sl th f s
  | .twMul sl th f => Sys2Proof.Machine.execTwMul sl th f s
  | .twMinu sl th f => Sys2Proof.Machine.execTwMinu sl th f s
  | .twMaxu sl th f => Sys2Proof.Machine.execTwMaxu sl th f s
  | .twMovi sl th f => Sys2Proof.Machine.execTwMovi sl th f s
  | .twMovhi sl th f => Sys2Proof.Machine.execTwMovhi sl th f s
  | .twBext sl th f => Sys2Proof.Machine.execTwBext sl th f s
  | .twBins sl th f => Sys2Proof.Machine.execTwBins sl th f s
  | .twCmp sl th f => Sys2Proof.Machine.execTwCmp sl th f s
  | .twCmpi sl th f => Sys2Proof.Machine.execTwCmpi sl th f s
  | .twPop sl th f => Sys2Proof.Machine.execTwPop sl th f s
  | .twMrd sl th f => Sys2Proof.Machine.execTwMrd sl th f s
  | .twTime sl th f => Sys2Proof.Machine.execTwTime sl th f s
  | .twHld sl th f => Sys2Proof.Machine.execTwHld sl th f s
  | .twHst sl th f => Sys2Proof.Machine.execTwHst sl th f s
  | .twCsum sl th f => Sys2Proof.Machine.execTwCsum sl th f s
  | .twTld sl th f => Sys2Proof.Machine.execTwTld sl th f s
  | .twTst sl th f => Sys2Proof.Machine.execTwTst sl th f s
  | .twTadd sl th f => Sys2Proof.Machine.execTwTadd sl th f s
  | .twWsel sl th f => Sys2Proof.Machine.execTwWsel sl th f s
  | .twPol sl th f => Sys2Proof.Machine.execTwPol sl th f s
  | .twEmit sl th f => Sys2Proof.Machine.execTwEmit sl th f s
  | .twCrc sl th f => Sys2Proof.Machine.execTwCrc sl th f s
  | .twChash sl th f => Sys2Proof.Machine.execTwChash sl th f s
  | .fctlDset sl th f => Sys2Proof.Machine.execFctlDset sl th f s
  | .fctlDclr sl th f => Sys2Proof.Machine.execFctlDclr sl th f s
  | .fctlState sl th f => Sys2Proof.Machine.execFctlState sl th f s
  | .fctlTsel sl th f => Sys2Proof.Machine.execFctlTsel sl th f s
  | .fctlSync sl th f => Sys2Proof.Machine.execFctlSync sl th f s
  | .twFwd sl th f => Sys2Proof.Machine.execTwFwd sl th f s
  | .twDrop sl th f => Sys2Proof.Machine.execTwDrop sl th f s
  | .twPunt sl th f => Sys2Proof.Machine.execTwPunt sl th f s
  | .twMirror sl th f => Sys2Proof.Machine.execTwMirror sl th f s
  | .twRecirc sl th f => Sys2Proof.Machine.execTwRecirc sl th f s
  | .twBr sl th f => Sys2Proof.Machine.execTwBr sl th f s
  | .twEnd sl th f => Sys2Proof.Machine.execTwEnd sl th f s
  | .commit sl th => Sys2Proof.Machine.execCommit sl th s
  | .cellRequest sl slots => Sys2Proof.Machine.execCellRequest sl slots s
  | .syncAck sl => Sys2Proof.Machine.execSyncAck sl s
  | .syncTimeout sl pkt => Sys2Proof.Machine.execSyncTimeout sl pkt s
  | .logEntrySend sl => Sys2Proof.Machine.execLogEntrySend sl s
  | .logEntryApply sl err => Sys2Proof.Machine.execLogEntryApply sl err s
  | .promotionComplete sl => Sys2Proof.Machine.execPromotionComplete sl s
  | .remoteFetchRequest sl => Sys2Proof.Machine.execRemoteFetchRequest sl s
  | .remoteFetchReply sl => Sys2Proof.Machine.execRemoteFetchReply sl s
  | .remoteFetchTimeout sl trk => Sys2Proof.Machine.execRemoteFetchTimeout sl trk s
  | .flowSweepVisit sl rec' => Sys2Proof.Machine.execFlowSweepVisit sl rec' s
  | .flowRemove sl trk => Sys2Proof.Machine.execFlowRemove sl trk s
  | .lookup sl v => Sys2Proof.Machine.execLookup sl v s
  | .delete sl v => Sys2Proof.Machine.execDelete sl v s
  | .softCommandDone sl => Sys2Proof.Machine.execSoftCommandDone sl s
  | .telemetryWriteAck sl ring => Sys2Proof.Machine.execTelemetryWriteAck sl ring s
  | .noticeFilterExpiry sl => Sys2Proof.Machine.execNoticeFilterExpiry sl s
  | .lfifoPop sl => Sys2Proof.Machine.execLfifoPop sl s
  | .lockTimeout sl t bucket => Sys2Proof.Machine.execLockTimeout sl t bucket s
  | .ageingVisit sl t entry => Sys2Proof.Machine.execAgeingVisit sl t entry s
  | .bump sl v => Sys2Proof.Machine.execBump sl v s
  | .routeEpochBump sl => Sys2Proof.Machine.execRouteEpochBump sl s
  | .handleWrite sl v => Sys2Proof.Machine.execHandleWrite sl v s
  | .camSearch sl v => Sys2Proof.Machine.execCamSearch sl v s
  | .camSearchNext sl v => Sys2Proof.Machine.execCamSearchNext sl v s
  | .camSearchDone sl => Sys2Proof.Machine.execCamSearchDone sl s
  | .portLinkUp sl lane fec offered eee => Sys2Proof.Machine.execPortLinkUp sl lane fec offered eee s
  | .portLinkDown sl lane => Sys2Proof.Machine.execPortLinkDown sl lane s
  | .lpiEnter sl lane => Sys2Proof.Machine.execLpiEnter sl lane s
  | .lpiExit sl lane => Sys2Proof.Machine.execLpiExit sl lane s
  | .twinLinkTrainingDone sl => Sys2Proof.Machine.execTwinLinkTrainingDone sl s
  | .hello sl => Sys2Proof.Machine.execHello sl s
  | .helloRetry sl => Sys2Proof.Machine.execHelloRetry sl s
  | .transferAck sl seq => Sys2Proof.Machine.execTransferAck sl seq s
  | .transferResend sl seq => Sys2Proof.Machine.execTransferResend sl seq s
  | .twinLaneLock sl k locked => Sys2Proof.Machine.execTwinLaneLock sl k locked s
  | .twinLinkDown sl c => Sys2Proof.Machine.execTwinLinkDown sl c s
  | .peerDownNotice sl => Sys2Proof.Machine.execPeerDownNotice sl s
  | .heartbeatSend sl => Sys2Proof.Machine.execHeartbeatSend sl s
  | .heartbeatReceive sl => Sys2Proof.Machine.execHeartbeatReceive sl s
  | .heartbeatInterval sl => Sys2Proof.Machine.execHeartbeatInterval sl s
  | .hubFaultReport sl => Sys2Proof.Machine.execHubFaultReport sl s
  | .declared sl => Sys2Proof.Machine.execDeclared sl s
  | .shadowClearDone sl => Sys2Proof.Machine.execShadowClearDone sl s
  | .cleared sl => Sys2Proof.Machine.execCleared sl s
  | .resyncWalk sl => Sys2Proof.Machine.execResyncWalk sl s
  | .endOfResync sl => Sys2Proof.Machine.execEndOfResync sl s
  | .release sl v => Sys2Proof.Machine.execRelease sl v s
  | .sergeBlockLock sl lane gained => Sys2Proof.Machine.execSergeBlockLock sl lane gained s
  | .lossOfSignal sl lane => Sys2Proof.Machine.execLossOfSignal sl lane s
  | .fapSighting sl lane pos crcOk => Sys2Proof.Machine.execFapSighting sl lane pos crcOk s
  | .overheadReceive sl lane pos oh => Sys2Proof.Machine.execOverheadReceive sl lane pos oh s
  | .frameBoundary sl grp => Sys2Proof.Machine.execFrameBoundary sl grp s
  | .multiframeBoundary sl grp => Sys2Proof.Machine.execMultiframeBoundary sl grp s
  | .targetWrite sl grp v => Sys2Proof.Machine.execTargetWrite sl grp v s
  | .sergeCounterLatch sl => Sys2Proof.Machine.execSergeCounterLatch sl s
  | .protSfReceive sl => Sys2Proof.Machine.execProtSfReceive sl s
  | .select sl grp v => Sys2Proof.Machine.execSelect sl grp v s
  | .messageSend sl v => Sys2Proof.Machine.execMessageSend sl v s
  | .messageReceive sl lane => Sys2Proof.Machine.execMessageReceive sl lane s
  | .messageRead sl => Sys2Proof.Machine.execMessageRead sl s
  | .spillPageWriteDone sl => Sys2Proof.Machine.execSpillPageWriteDone sl s
  | .pageReadDone sl => Sys2Proof.Machine.execPageReadDone sl s
  | .auditPass sl => Sys2Proof.Machine.execAuditPass sl s
  | .cutThroughBad sl frm => Sys2Proof.Machine.execCutThroughBad sl frm s
  | .transmitStart sl lane => Sys2Proof.Machine.execTransmitStart sl lane s
  | .shaperRefill sl => Sys2Proof.Machine.execShaperRefill sl s
  | .aqWrite sl v => Sys2Proof.Machine.execAqWrite sl v s
  | .aqRead sl v => Sys2Proof.Machine.execAqRead sl v s
  | .policerWrite sl v => Sys2Proof.Machine.execPolicerWrite sl v s
  | .policerRead sl v => Sys2Proof.Machine.execPolicerRead sl v s
  | .gateListWrite sl v => Sys2Proof.Machine.execGateListWrite sl v s
  | .gateListRead sl => Sys2Proof.Machine.execGateListRead sl s
  | .config sl lane => Sys2Proof.Machine.execConfig sl lane s
  | .gateCancel sl lane => Sys2Proof.Machine.execGateCancel sl lane s
  | .gateConfigChange sl lane => Sys2Proof.Machine.execGateConfigChange sl lane s
  | .gateEntryAdvance sl lane => Sys2Proof.Machine.execGateEntryAdvance sl lane s
  | .capture sl b => Sys2Proof.Machine.execCapture sl b s
  | .step sl b => Sys2Proof.Machine.execStep sl b s
  | .set sl b k => Sys2Proof.Machine.execSet sl b k s
  | .phaseWrite sl b k v => Sys2Proof.Machine.execPhaseWrite sl b k v s
  | .fadjWrite sl b k v => Sys2Proof.Machine.execFadjWrite sl b k v s
  | .aselSwitch sl b v => Sys2Proof.Machine.execAselSwitch sl b v s
  | .residualZero sl b => Sys2Proof.Machine.execResidualZero sl b s
  | .trackerHoldover sl b k => Sys2Proof.Machine.execTrackerHoldover sl b k s
  | .twinTimeMessage sl b k => Sys2Proof.Machine.execTwinTimeMessage sl b k s
  | .f10mMeasure => Sys2Proof.Machine.execF10mMeasure s
  | .feltRatioMeasure sl => Sys2Proof.Machine.execFeltRatioMeasure sl s
  | .sceneArm sl v => Sys2Proof.Machine.execSceneArm sl v s
  | .sceneCancel sl v => Sys2Proof.Machine.execSceneCancel sl v s
  | .sceneRead sl v => Sys2Proof.Machine.execSceneRead sl v s
  | .sceneFetch sl n => Sys2Proof.Machine.execSceneFetch sl n s
  | .sceneFramePlace sl n => Sys2Proof.Machine.execSceneFramePlace sl n s
  | .puntDeliver sl ring => Sys2Proof.Machine.execPuntDeliver sl ring s
  | .ringConfigWrite sl addr v => Sys2Proof.Machine.execRingConfigWrite sl addr v s
  | .txRingKick sl t v => Sys2Proof.Machine.execTxRingKick sl t v s
  | .txDescriptor sl t => Sys2Proof.Machine.execTxDescriptor sl t s
  | .refreshDue sl pc rank waiting => Sys2Proof.Machine.execRefreshDue sl pc rank waiting s
  | .retrain sl pc => Sys2Proof.Machine.execRetrain sl pc s
  | .retrainAttemptDone sl pc ok => Sys2Proof.Machine.execRetrainAttemptDone sl pc ok s
  | .rebuildBlock sl => Sys2Proof.Machine.execRebuildBlock sl s
  | .rebuildDone sl => Sys2Proof.Machine.execRebuildDone sl s
  | .holdExpiry sl l => Sys2Proof.Machine.execHoldExpiry sl l s
  | .uncorrectableRead sl addr port => Sys2Proof.Machine.execUncorrectableRead sl addr port s
  | .scrubPass sl corrected => Sys2Proof.Machine.execScrubPass sl corrected s
  | .rankPowerDown sl pc rank => Sys2Proof.Machine.execRankPowerDown sl pc rank s
  | .lockstepMismatch sl c => Sys2Proof.Machine.execLockstepMismatch sl c s
  | .lostCpuAffClear sl => Sys2Proof.Machine.execLostCpuAffClear sl s
  | .msipWrite sl c v => Sys2Proof.Machine.execMsipWrite sl c v s
  | .interruptRaise sl src => Sys2Proof.Machine.execInterruptRaise sl src s
  | .hwSignalIssue sl src => Sys2Proof.Machine.execHwSignalIssue sl src s
  | .interruptClaim sl req c sup => Sys2Proof.Machine.execInterruptClaim sl req c sup s
  | .interruptComplete sl req c sup v => Sys2Proof.Machine.execInterruptComplete sl req c sup v s
  | .mtimeCompare sl c => Sys2Proof.Machine.execMtimeCompare sl c s
  | .nextReady sl c => Sys2Proof.Machine.execNextReady sl c s
  | .nextDelay sl c => Sys2Proof.Machine.execNextDelay sl c s
  | .nextWait sl c => Sys2Proof.Machine.execNextWait sl c s
  | .nextStop sl c => Sys2Proof.Machine.execNextStop sl c s
  | .taskWake sl c mode => Sys2Proof.Machine.execTaskWake sl c mode s
  | .signal sl c => Sys2Proof.Machine.execSignal sl c s
  | .setPrio sl c mode => Sys2Proof.Machine.execSetPrio sl c mode s
  | .taskWrite sl c mode => Sys2Proof.Machine.execTaskWrite sl c mode s
  | .taskRead sl c => Sys2Proof.Machine.execTaskRead sl c s
  | .taskTick sl => Sys2Proof.Machine.execTaskTick sl s
  | .dmaTailWrite sl ch v => Sys2Proof.Machine.execDmaTailWrite sl ch v s
  | .descNop sl ch => Sys2Proof.Machine.execDescNop sl ch s
  | .copy sl ch => Sys2Proof.Machine.execCopy sl ch s
  | .copyComplete sl ch => Sys2Proof.Machine.execCopyComplete sl ch s
  | .dmaReadError sl ch lastBeat => Sys2Proof.Machine.execDmaReadError sl ch lastBeat s
  | .fence sl ch => Sys2Proof.Machine.execFence sl ch s
  | .fenceComplete sl ch => Sys2Proof.Machine.execFenceComplete sl ch s
  | .lock sl ch => Sys2Proof.Machine.execLock sl ch s
  | .unlock sl ch => Sys2Proof.Machine.execUnlock sl ch s
  | .pause sl ch => Sys2Proof.Machine.execPause sl ch s
  | .dmaPaused sl ch => Sys2Proof.Machine.execDmaPaused sl ch s
  | .resume sl ch => Sys2Proof.Machine.execResume sl ch s
  | .abort sl ch => Sys2Proof.Machine.execAbort sl ch s
  | .dmaClear sl ch => Sys2Proof.Machine.execDmaClear sl ch s
  | .trap sl q cause upc => Sys2Proof.Machine.execTrap sl q cause upc s
  | .sequencerHold sl q v => Sys2Proof.Machine.execSequencerHold sl q v s
  | .romRead sl v => Sys2Proof.Machine.execRomRead sl v s
  | .traceRead sl => Sys2Proof.Machine.execTraceRead sl s
  | .counterWrap sl n => Sys2Proof.Machine.execCounterWrap sl n s
  | .windowClose sl n k => Sys2Proof.Machine.execWindowClose sl n k s
  | .snap sl => Sys2Proof.Machine.execSnap sl s
  | .freezeResume sl => Sys2Proof.Machine.execFreezeResume sl s
  | .telemetryTailWrite sl ring v => Sys2Proof.Machine.execTelemetryTailWrite sl ring v s
  | .telemetryTimeout sl ring => Sys2Proof.Machine.execTelemetryTimeout sl ring s
  | .engineFault sl e => Sys2Proof.Machine.execEngineFault sl e s
  | .camBankFault sl bank => Sys2Proof.Machine.execCamBankFault sl bank s
  | .camSpareLoaded sl => Sys2Proof.Machine.execCamSpareLoaded sl s
  | .hotSetWayFault sl set' way => Sys2Proof.Machine.execHotSetWayFault sl set' way s
  | .cellFault sl cell => Sys2Proof.Machine.execCellFault sl cell s
  | .pipelineFault sl egress pipe => Sys2Proof.Machine.execPipelineFault sl egress pipe s
  | .blockRecovery sl v => Sys2Proof.Machine.execBlockRecovery sl v s
  | .recoveryDone sl ok => Sys2Proof.Machine.execRecoveryDone sl ok s
  | .registerRead sl req mode p hit => Sys2Proof.Machine.execRegisterRead sl req mode p hit s
  | .onDieWindowWrite sl c off data => Sys2Proof.Machine.execOnDieWindowWrite sl c off data s
  | .dozeEntryDone sl => Sys2Proof.Machine.execDozeEntryDone sl s
  | .f10mInRestored => Sys2Proof.Machine.execF10mInRestored s
  | .transmitEnd sl lane => Sys2Proof.Machine.execTransmitEnd sl lane s
  | .sramPatrolPass sl found => Sys2Proof.Machine.execSramPatrolPass sl found s

end Sys2Proof.Machine
end

