-- ==== Sys2Proof/Machine/Tick.lean ====
section
/-! DEFINITION. What a clock of the 800 MHz time base domain does while no command waits (R215, R367, R370, R377, R419,
R449, R453, R455). -/

namespace Sys2Proof.Machine

/-- What an occupancy event measures (R453); DRAM requests never wait in the model. -/
def occupancy (x : Slice) (ev sub : Nat) : Option Nat :=
  match ev with
  | 0x40 => some (chainTotal x)
  | 0x41 => some x.trackers.length
  | 0x42 => some (camDepth x (sub % 2))
  | 0x43 => some (busyThreads x)
  | 0x44 => some x.logq.length
  | 0x45 => some (if sub % 32 < 22 then usedC x (sub % 32) else 0)
  | 0x46 => some (queueLen x (.cls (laneOf (sub % 16)) (clsOf (sub / 16 % 8))))
  | 0x47 => some 0
  | 0x48 => some x.rdy.length
  | _ => none

/-- What a counter adds in one pipeline clock. -/
def prfClock (x : Slice) (n : Nat) (sel : Word) : Nat :=
  if !wbit sel 31 || (decide (fld sel 30 29 ≠ 2) && regBit x kPRF 0x100 29) then 0
  else if fld sel 30 29 = 1 then
    match occupancy x (fld sel 23 16) (fld sel 15 0) with
    | some v => if parOf x n < v then 1 else 0
    | none => 0
  else if (fld sel 30 29 = 0 ∨ fld sel 30 29 = 2) ∧ fld sel 23 16 = 1 then 1
  else 0

/-- Two pipeline clocks of the counters; none while the pipelines are stopped (R454). -/
def prfTick (x : Slice) : Slice :=
  if !awake x then x
  else (prfSelected x).foldl (fun x e => let k := prfClock x e.1 e.2; if k = 0 then x else prfAdd x e.1 (2 * k)) x

/-- Two pipeline clocks in which a full CAM queue holds a pipeline (R215). -/
def camStallTick (x : Slice) (p : Nat) : Slice :=
  if camFull x p && (x.fifo.any fun e => e.1.val = p) then count x kCLS 0x1818 2 else x

/-- One clock of a slice. -/
def tickSlice (x : Slice) : Slice :=
  if !x.on then x
  else
    let x := if napping x then (if x.clk % 32 = 31 then (List.range 4).foldl feltTickBase x else x)
      else (List.range 4).foldl tickBase x
    let x := if x.clk % 8 = 7 then count x kICN 0x100 1 else x
    let x := { x with clk := x.clk + 1 }
    let x := if x.clk % 800000000 = 0 then ceLatch x else x
    let x := coreTick (prfTick x)
    let x := camStallTick (camStallTick x 0) 1
    let x := (List.range 5).foldl passTick x
    (List.range 4).foldl trapReturn x

/-- One clock of the part. -/
def tick (s : State) : State :=
  let s := s.eachSlice tickSlice
  { s with hub := { s.hub.mgtSend with clk := s.hub.clk + 1 } }

end Sys2Proof.Machine
end

