-- ==== Sys2Proof/Safety.lean ====
section
/-! DEFINITION. What the statements call a safe step: it answers a next state; what a command leaves unchanged; and the limits
that the hub keeps. -/

namespace Sys2Proof.Machine

/-- A command or a step ends in a next state: no fault and no refusal. -/
def Completes (r : Host.Outcome State Fault Refusal) : Prop := ∃ t, r = .next t

/-- A command answers a next state with a property. -/
def Runs (c : Instr) (s : State) (P : State → Prop) : Prop := ∃ t, exec c s = .next t ∧ P t

/-- A command answers a next state that differs in one slice at most, with a property of that slice. -/
def RunsOn (c : Instr) (s : State) (sl : SliceId) (P : Slice → Prop) : Prop :=
  ∃ y, exec c s = .next (s.setSlice sl y) ∧ P y

/-- A command answers a next state that differs in the hub at most, with a property of the hub. -/
def RunsHub (c : Instr) (s : State) (P : Hub → Prop) : Prop := ∃ h, exec c s = .next { s with hub := h } ∧ P h

/-- A command answers a next state that differs in one slice at most and in the messages that its twin receives, with a
property of the slice and of what it sends. -/
def RunsPair (c : Instr) (s : State) (sl : SliceId) (P : Slice → List TwinMsg → Prop) : Prop :=
  ∃ y ms, exec c s = .next ((s.setSlice sl y).deliver (twin sl) ms) ∧ P y ms

/-- Every register but those listed reads as before. -/
def RegsBut (x y : Slice) (ks : List (Nat × Nat)) : Prop :=
  ∀ b o, o < 0x100000 → (b, o) ∉ ks → regGet y b o = regGet x b o

/-- A slice differs from another in registers only, and only in those listed. -/
def RegsOnlyBut (x y : Slice) (ks : List (Nat × Nat)) : Prop := (∃ r, y = x.setRegs r) ∧ RegsBut x y ks

/-- Every word of the on-die tables but those listed reads as before: table, index, word. -/
def TabsBut (x y : Slice) (ks : List (Nat × Nat × Nat)) : Prop :=
  ∀ t i w, i < 2 ^ 24 → w < 64 → (t, i, w) ∉ ks → tabGet y t i w = tabGet x t i w

/-- Every byte of DRAM outside a span, an offset and a length, reads as before. -/
def DramBut (x y : Slice) (off n : Nat) : Prop := ∀ o, o < off ∨ off + n ≤ o → sGet 0 y.dram o = sGet 0 x.dram o

/-- A counter of 64 bits has advanced. -/
def Counted (x y : Slice) (blk off n : Nat) : Prop := pairGet y blk off = (pairGet x blk off + n) % 2 ^ 64

/-- The two words of a counter of 64 bits. -/
def pairKeys (blk off : Nat) : List (Nat × Nat) := [(blk, off), (blk, off + 4)]

/-- A span of DRAM offsets lies outside mirrored core memory (R404). -/
def Unmirrored (x : Slice) (off n : Nat) : Prop := mirrored x = false ∨ off + n ≤ coreOff x ∨ coreOff x + 2 ^ 31 ≤ off

/-- A slice's DRAM words of a span read without an error, and lie outside mirrored core memory (R401, R404). -/
def PlainDram (x : Slice) (addr n : Nat) : Prop :=
  mapped addr n = true ∧ Unmirrored x (addr - dramBase) n ∧ poisoned x (addr - dramBase) n = false

/-- The registers that raising a cause may change: the pending word, and the count of merged raises (R416). -/
def raiseKeys (blk cause : Nat) : List (Nat × Nat) :=
  [(kICN, 0x800 + 4 * ((blk * 16 + cause) / 32)), (kICN, 0x2000), (kICN, 0x2004)]

/-- The registers in which a DRAM port counts what it moved (R394, R395). -/
def portKeys (wr : Bool) (port : Nat) : List (Nat × Nat) := pairKeys kDRC ((if wr then 0x2068 else 0x2028) + 8 * port)

/-- The registers that an uncorrectable read may change (R401). -/
def ueKeys : List (Nat × Nat) := (kDRC, 0x148) :: pairKeys kDRC 0x140 ++ pairKeys kDRC 0x2008 ++ raiseKeys kDRC 0

/-- A slice differs from another in what DRAM ports counted and in the ranks they woke only (R394, R400). -/
def PortsMoved (x y : Slice) (ks : List (Nat × Nat)) : Prop :=
  y = { x with regs := y.regs, drcPart := y.drcPart, rankDown := y.rankDown } ∧ RegsBut x y ks

/-- A fault of a class below LOST has been logged (R469, R471): its entry takes the head slot of a log that has room, its class
counts it, and the hub hears of it unless it is SOFT. -/
def LogOf (x y : Slice) (cls blk unit code detail : Nat) : Prop :=
  let k := fltHead x
  let w := w32 (2 ^ 31 + cls * 2 ^ 28 + blk * 2 ^ 16 + unit * 2 ^ 8 + code)
  (fltCount x < 512 → regGet y kFLT (0x4000 + 16 * k) = w ∧ regGet y kFLT (0x4004 + 16 * k) = w32 (secOf (baseNow x 0))
    ∧ regGet y kFLT (0x4008 + 16 * k) = w32 (nsOf (baseNow x 0)) ∧ regGet y kFLT (0x400C + 16 * k) = w32 detail
    ∧ fltCount y = fltCount x + 1 ∧ fltHead y = (k + 1) % 512)
  ∧ Counted x y kFLT (0x1008 + 8 * cls) 1
  ∧ y.toHub = x.toHub ++ (if cls = 0 then [] else [⟨8, d64 (w.toNat * 2 ^ 32 + detail % 2 ^ 32), some (w, w32 detail)⟩])

/-- Every register outside the fault log and the interrupt controller but those listed reads as before. -/
def RegsButLog (x y : Slice) (ks : List (Nat × Nat)) : Prop :=
  ∀ b o, o < 0x100000 → b ≠ kFLT → b ≠ kICN → (b, o) ∉ ks → regGet y b o = regGet x b o

/-- An operation of a REQUEST is in turn: the session runs the REQUEST, and its target, a slice that is ACTIVE or the hub
(`none`), can carry the operation out (R90, R93). -/
def OpTurn (s : State) (ses : Nat) (tgt : Option SliceId) (t : Session) (r : HraRun) (op : HraOp) (rest : List HraOp) : Prop :=
  s.hub.session ses = some t ∧ t.run = some r ∧ r.ops = op :: rest
  ∧ match tgt with
    | some sl => t.target = sl.val ∧ (s.slice sl).on = true ∧ (s.slice sl).move = .none ∧ pwCur (s.slice sl) = 0
    | none => t.target = 8

/-- An HRA frame of a type arrives at the engine of a target by its VLAN, while the hub answers (R80, R87). -/
def Arrives (s : State) (eng type : Nat) (f : Bytes) : Prop :=
  s.hub.answers = true ∧ isHra f = true ∧ hraKind (hraPart f) = type ∧ s.hub.mgtTarget f = some eng

/-- A frame of a type arrives in a session of its engine, with a tag that verifies (R86, R87). -/
def InSession (s : State) (type : Nat) (f : Bytes) (t : Session) : Prop :=
  Arrives s t.target type f ∧ hraFormed (hraPart f) = true ∧ s.hub.session (hraSes (hraPart f)) = some t
  ∧ hraTagOk t.hostKey (hraPart f) = true

/-- A frame of the hub's in a session, as it goes out to the host (R80, R87). -/
def sessionOut (h : Hub) (t : Session) (f : HraFrame) : Nat × Bytes :=
  (t.target, etherHra t.mac (h.targetVlan t.target) (f.bytes (some t.hubKey)))

/-- A frame of the hub's outside a session, as it goes out to the sender of another (R87). -/
def plainOut (h : Hub) (n : Nat) (f : Bytes) (g : HraFrame) : Nat × Bytes :=
  (n, etherHra (srcMac f) (h.targetVlan n) (g.bytes none))

/-- A state in which an operation has ended with reply data and further operations of its REQUEST remain. -/
def opDone (s : State) (ses : Nat) (r : HraRun) (rest : List HraOp) (d : Bytes) : State :=
  s.modHub (·.modSession ses fun u => { u with run := some { r with ops := rest, done := r.done + 1, data := r.data ++ d } })

/-- A state in which a REQUEST has ended with a status and an index, none waiting behind it: the reply is sent and kept. -/
def opEnded (s : State) (ses : Nat) (r : HraRun) (status index : Byte) : State :=
  (s.modHub (·.modSession ses fun t => { t with run := none })).modHub (·.reply ses r.seq r.tag status r.done (index :: r.data))

/-- An access reaches one implemented register of a started slice, with no rule of PRF, TSK or ICN in the way, in a block with
no command of its own for the offset (SELECT, SLC_RST, SLC_BOOT, _CTL). -/
def Reaches (x : Slice) (req : Requester) (mode : Priv) (addr : Word) (blk off : Nat) (r : RegRow) : Prop :=
  x.on = true ∧ inRegSpace addr.toNat = true ∧ regAt x (addr.toNat - 0x40000000) = some (blk, off, r)
  ∧ ¬(blk = kPRF ∧ (req = .hra ∨ mode = .u)) ∧ tskForeign req blk off = false ∧ claimReg blk off = none ∧ off ≠ 4
  ∧ ¬(blk = kSRG ∧ 0x1800 ≤ off ∧ off < 0x1840) ∧ ¬(blk = kSLC ∧ (off = 0x130 ∨ off = 0x140))

/-- A thread of a slice that forwards, as it runs once its input image is there, issues one instruction next (R260, R284,
R290). -/
def TwReady (s : State) (sl : SliceId) (th : Thread) (op : Nat) (f : TwFields) (t : ThreadSt) : Prop :=
  (s.slice sl).alive = true ∧ blkState (s.slice sl) kDMK = 1 ∧ reloading (s.slice sl) kDMK = false
  ∧ ((s.slice sl).threads.find? (·.th = th.val)).bind (runningThread (s.slice sl)) = some t ∧ t.ended = false ∧ nextWord (s.slice sl) t = some (twWord op f)

/-- A thread as its instruction finds it: the first slot of a bundle takes the values that both slots read (R292). -/
def ThreadSt.atIssue (t : ThreadSt) : ThreadSt := if t.slot = 0 then { t with snap := ⟨t.g, t.f, t.p⟩ } else t

/-- A slice after a bundle has been counted: the first slot counts it (R284). -/
def BundleCounted (x y : Slice) (t : ThreadSt) : Prop :=
  (t.slot ≠ 0 → y = x)
  ∧ (t.slot = 0 → (∃ r, y = x.setRegs r) ∧ Counted x y kDMK 0x2008 1
      ∧ ∀ b o, o < 0x100000 → b ≠ kPRF → b ≠ kICN → (b, o) ∉ pairKeys kDMK 0x2008 → regGet y b o = regGet x b o)

/-- A command issues an instruction of a thread: `z` is the slice with the bundle counted, and the instruction leaves the
thread `u` and the slice `y`, after which the thread goes on to its second slot or ends its bundle. -/
def TwRuns (c : Instr) (s : State) (sl : SliceId) (t : ThreadSt) (P : ThreadSt → Slice → Slice → Prop) : Prop :=
  ∃ u z y, exec c s = .next (s.setSlice sl (setThread y (if u.slot = 0 then { u with slot := 1 } else endBundle u)))
    ∧ BundleCounted (s.slice sl) z t ∧ P u z y

/-- A thread has written a value to a destination register: code 0 and codes 16 to 21 discard writes, and so does every F
register of a stateless packet (R287). -/
def WritesReg (t u : ThreadSt) (d : BitVec 5) (v : Dword) : Prop :=
  if d.toNat = 0 ∨ (16 ≤ d.toNat ∧ d.toNat < 22) ∨ (16 ≤ d.toNat ∧ t.idx = none) then u = t
  else if d.toNat < 16 then
    u = { t with g := u.g } ∧ ∀ j, u.g[j]? = if j = d.toNat ∧ j < t.g.length then some v else t.g[j]?
  else u = { t with f := u.f } ∧ ∀ j, u.f[j]? = if j = d.toNat - 16 ∧ j < t.f.length then some v else t.f[j]?

/-- Nothing waits in front of the ingress pipelines or in them. -/
def Quiet (x : Slice) : Prop := x.win = [] ∧ x.fifo = []

/-- A session's number and target. -/
def sesKey (s : Session) : Nat × Nat := (s.id, s.target)

/-- The limits of the hub: 16 anchor slots (R78), 64 sessions and 4 per target (R86), 256 events per target (R96), eight
slices (R6) and nine NVM staging sets (R491). -/
structure Hub.Limits (h : Hub) : Prop where
  anchors : h.anchors.length ≤ 16
  sessions : h.sessions.length ≤ 64
  perTarget : ∀ n, (h.sessions.filter (·.target = n)).length ≤ 4
  slices : h.slices.length = 8
  sets : h.nvmSets.length = 9
  events : ∀ t ∈ h.slices, t.events.length ≤ 256
  hubEvents : h.hubTgt.events.length ≤ 256

end Sys2Proof.Machine
end

