-- ==== Sys2Proof/WellFormed.lean ====
section
/-! DEFINITION. Well-formed commands: operands that what they stand for can have (R78, R87 to R90, R116, R186, R293, R382, R412,
R449, R489). -/

namespace Sys2Proof

open Machine

/-- Opcode and fields of a Twill instruction; an fctl row fixes MOD (R289, R300). -/
def Instr.twill : Instr → Option (Nat × TwFields)
  | .twNop _ _ f => some (0x00, f)
  | .twAdd _ _ f => some (0x01, f)
  | .twSub _ _ f => some (0x02, f)
  | .twAnd _ _ f => some (0x03, f)
  | .twOr _ _ f => some (0x04, f)
  | .twXor _ _ f => some (0x05, f)
  | .twShl _ _ f => some (0x06, f)
  | .twShr _ _ f => some (0x07, f)
  | .twSar _ _ f => some (0x08, f)
  | .twMul _ _ f => some (0x09, f)
  | .twMinu _ _ f => some (0x0A, f)
  | .twMaxu _ _ f => some (0x0B, f)
  | .twMovi _ _ f => some (0x0C, f)
  | .twMovhi _ _ f => some (0x0D, f)
  | .twBext _ _ f => some (0x10, f)
  | .twBins _ _ f => some (0x11, f)
  | .twCmp _ _ f => some (0x20, f)
  | .twCmpi _ _ f => some (0x21, f)
  | .twPop _ _ f => some (0x22, f)
  | .twMrd _ _ f => some (0x30, f)
  | .twTime _ _ f => some (0x31, f)
  | .twHld _ _ f => some (0x40, f)
  | .twHst _ _ f => some (0x41, f)
  | .twCsum _ _ f => some (0x42, f)
  | .twTld _ _ f => some (0x50, f)
  | .twTst _ _ f => some (0x51, f)
  | .twTadd _ _ f => some (0x52, f)
  | .twWsel _ _ f => some (0x53, f)
  | .twPol _ _ f => some (0x54, f)
  | .twEmit _ _ f => some (0x55, f)
  | .twCrc _ _ f => some (0x60, f)
  | .twChash _ _ f => some (0x61, f)
  | .fctlDset _ _ f => some (0x70, { f with mod := 0 })
  | .fctlDclr _ _ f => some (0x70, { f with mod := 1 })
  | .fctlState _ _ f => some (0x70, { f with mod := 2 })
  | .fctlTsel _ _ f => some (0x70, { f with mod := 3 })
  | .fctlSync _ _ f => some (0x70, { f with mod := 4 })
  | .twFwd _ _ f => some (0x80, f)
  | .twDrop _ _ f => some (0x81, f)
  | .twPunt _ _ f => some (0x82, f)
  | .twMirror _ _ f => some (0x83, f)
  | .twRecirc _ _ f => some (0x84, f)
  | .twBr _ _ f => some (0x90, f)
  | .twEnd _ _ f => some (0x91, f)
  | _ => none

/-- A register address whose offset is a multiple of `n` plus `k`, in the slice registers or the hub window. -/
def regAddr (a : Word) (n k : Nat) : Bool :=
  decide (0x40000000 ≤ a.toNat) && decide (a.toNat < 0x50010000) && decide (a.toNat % n = k)

/-- A place a requester can name: an aligned register address, or a CSR of a CPU. -/
def placeOk (req : Requester) : RegPlace → Bool
  | .mem a => regAddr a 4 0
  | .csr _ => decide (req ≠ .hra)

/-- Buckets of a table that can be locked (R226, R243). -/
def buckets : FwdTable → Nat
  | .l2 => 131072
  | .endpoint => 2097152

/-- The checks of a command's operands. Every command not named takes every value of its operands' types. -/
def Instr.wf (i : Instr) : Bool :=
  match i.twill with
  | some (op, f) => twLegal op f
  | none =>
    match i with
    | .claim f => decide (14 ≤ f.length)
    | .hraOpen f => decide (14 ≤ f.length)
    | .hraClose f => decide (14 ≤ f.length)
    | .request f => decide (14 ≤ f.length)
    | .eventAck f => decide (14 ≤ f.length)
    | .mgtFrameReceive f => decide (14 ≤ f.length)
    | .mgtFrameTransmit _ f => decide (14 ≤ f.length)
    | .frameReceive _ _ f _ => decide (f ≠ [])
    | .overheadReceive _ _ _ oh => decide (oh.payload.length = 0) || decide (oh.payload.length = 16380)
    | .registerRead _ req _ p _ => placeOk req p
    | .registerWrite _ req _ p _ => placeOk req p
    | .lowWordRead _ _ _ a _ => regAddr a 8 0
    | .lowWordWrite _ _ _ a _ _ => regAddr a 8 0
    | .highWordWrite _ _ _ a _ => regAddr a 8 4
    | .ringConfigWrite _ a _ => decide (a.toNat / 0x100000 = kSWC) && (ringReg (a.toNat % 0x100000)).isSome
    | .onDieWindowWrite _ _ off d => (decide (d.length = 4) || decide (d.length = 8)) && decide (off.toNat % d.length = 0)
    | .lockTimeout _ t b => decide (b < buckets t)
    | .cellFault _ c => decide (c < cellTotal)
    | .trap _ _ cause _ => decide (1 ≤ cause.toNat) && decide (cause.toNat ≤ 6)
    | .parityScan _ (some h) =>
      decide (((rowAt (h.addr.toNat / 0x100000) (h.addr.toNat % 0x100000)).map (·.rw)).getD 0 ≠ 0)
    | _ => true

end Sys2Proof
end

