-- ==== Sys2Proof/Certificates/Slice0/Obligations.lean ====
section
/-! DEFINITION. The statements about the part: what each command does, what it leaves, and what every step keeps. -/

open Sys2Proof Sys2Proof.Machine

/-- A step runs the command at the front of the queue on the state with the queue's rest: the block takes its commands first in,
first out (the model's queue: log entry 1). -/
def Obligations.StepRunsTheFrontCommand : Prop := ∀ (c : Instr) (s : State),
  step { s with pending := c :: s.pending } = exec c s

/-- An empty queue (R367, R370, R377, R419): the step is one clock of 1.25 ns, the model's choice (log entry 2). Both trackers of a
base advance at their rates and the residual shrinks; in NAP a base advances on felt ticks; ICN_MTIME counts every eighth clock;
tables, memory and packets stay as they are. A running CPU counts two and a half of its clocks (R414). A periodic routine whose
pass is due begins it, or has overrun (R443, R445); a trap handler returns (R449); the corrected errors of a whole second show
(R401). The management port sends the oldest frame of one sender (R82). What the spec leaves open here is the model's choice:
log entries 2, 90, 91, 118, 130 and 131. -/
def Obligations.AnEmptyQueueIsOneClock : Prop := ∀ (s : State), s.pending = [] →
  ∃ t, step s = .next t ∧ t.pending = []
    ∧ t.hub = { s.hub with clk := s.hub.clk + 1, tx := t.hub.tx, mgtCur := t.hub.mgtCur, mgtDef := t.hub.mgtDef, mgtTx := t.hub.mgtTx }
    ∧ (s.hub.answers = false ∨ s.hub.tx = [] → t.hub = { s.hub with clk := s.hub.clk + 1 })
    ∧ (s.hub.answers = true → s.hub.tx ≠ [] → (∀ e ∈ s.hub.tx, e.1 < 9) → ∃ n f, s.hub.headOf n = some f
        ∧ t.hub.tx = dropHeadOf n s.hub.tx ∧ t.hub.mgtTx = s.hub.mgtTx ++ [(n, f)] ∧ t.hub.mgtCur = n)
    ∧ ∀ sl,
    let x := s.slice sl
    let y := t.slice sl
    (x.on = false → y = x)
    ∧ (x.on = true → y = { x with
          regs := y.regs, bases := y.bases, seqs := y.seqs, cores := y.cores, passes := y.passes, drcCe := y.drcCe,
          clk := x.clk + 1 }
      ∧ pairGet y kICN 0x100 = (pairGet x kICN 0x100 + (if x.clk % 8 = 7 then 1 else 0)) % 2 ^ 64
      ∧ (napping x = false → ∀ b : BaseId, baseOf y b.val = { baseOf x b.val with
          t0 := { (baseOf x b.val).t0 with time := ((baseOf x b.val).t0.time + rateOf x b.val 0) % timeMod },
          t1 := { (baseOf x b.val).t1 with time := ((baseOf x b.val).t1.time + rateOf x b.val 1) % timeMod },
          res := slewed (baseOf x b.val).res (slewStep x b.val) })
      ∧ (napping x = true → ∀ b : BaseId, x.clk % 32 ≠ 31 → baseOf y b.val = baseOf x b.val)
      ∧ (napping x = true → ∀ b : BaseId, x.clk % 32 = 31 → ∀ k : TrkId,
          ((baseOf y b.val).trk k.val).time = (((baseOf x b.val).trk k.val).time + (baseOf x b.val).ratio) % timeMod)
      ∧ (∀ c : Fin 4, y.cores[c] = if napping x = true ∨ cpuState x c.val = cpuFenced then x.cores[c]
          else { x.cores[c] with half := (x.cores[c].half + 5) % 2 ^ 65 })
      ∧ (∀ r : Fin 5, let v := x.passes[r]
          y.passes[r] = (if routineRuns x r.val = false ∨ x.clk + 1 < v.due ∨ v.late = true then v
            else if v.done then ⟨x.clk + 1 + routinePeriod x r.val, false, false⟩ else { v with late := true })
          ∧ (routineRuns x r.val = true → v.due ≤ x.clk + 1 → v.done = false → v.late = false →
            regBit y kMCS 0x140 r.val = true ∧ pending y (kMCS * 16 + 2) = true))
      ∧ (∀ q < 4, seqOf y q = (if seqState x q = sqTrap then { seqOf x q with inTrap := false } else seqOf x q)
          ∧ seqState y q = if (seqOf x q).inTrap = true ∧ seqState x q = sqTrap then (if (seqOf x q).held then sqHeld else sqIdle)
            else seqState x q)
      ∧ (x.clk % 800000000 ≠ 799999999 → y.drcCe = x.drcCe)
      ∧ (x.clk % 800000000 = 799999999 → y.drcCe = [] ∧ ∀ p < 32,
          regFld y kDRC (0x1100 + 4 * p) 25 16 = min 1023 (sGet 0 x.drcCe p)))

/-- Every command completes in every state, and leaves the queue as it is: the part refuses no command and no command faults. What
the spec leaves open here is the model's choice: log entries 4 and 6. -/
def Obligations.EveryCommandCompletes : Prop := ∀ (c : Instr) (s : State), ∃ t, exec c s = .next t ∧ t.pending = s.pending

/-- The part after a reset of the whole package (R20, R38, R78, R489): every slice is OFF with every register at its reset value, of
which some are written out here from R489; the hub has no supply, no session, no charter and no anchor; the limits of the hub
hold, and no command waits. What the spec leaves open here is the model's choice: log entries 8 and 112. -/
def Obligations.ResetState : Prop :=
  State.reset.pending = [] ∧ State.reset.hub.Limits ∧ State.reset.hub.anchors = [] ∧ State.reset.hub.charter = []
  ∧ State.reset.hub.sessions = [] ∧ State.reset.hub.powered = false
  ∧ (∀ sl, (State.reset.slice sl).on = false ∧ (State.reset.slice sl).id = sl ∧ (State.reset.slice sl).tabs = []
      ∧ (State.reset.slice sl).dram = [] ∧ (State.reset.slice sl).frames = [] ∧ (State.reset.slice sl).queues = []
      ∧ (∀ b o, regGet (State.reset.slice sl) b o = resetOf sl.val b o)
      ∧ ∀ r ∈ [(kBUF, 0x120, (0x6C : Word)), (kBUF, 0x180, 0xC00003E8), (kBUF, 0x1000, 0x30000), (kBUF, 0x1110, 0x80030000),
          (kBUF, 0x1008, 0x280000), (kSWC, 0x408, 0x10010), (kSWC, 0x488, 0x10), (kDRC, 0x110, 0x60), (kDRC, 0x114, 0x64),
          (kDRC, 0x118, 0x8000013C), (kDRC, 0x1014, 0x1400000), (kTIM, 0x1000, 0xC80000), (kTIM, 0x1040, 0x1000000),
          (kTSK, 0x110, 1), (kTSK, 0x1008, 0x80000000), (kTWN, 0x120, 0x80100000)],
        regGet (State.reset.slice sl) r.1 r.2.1 = r.2.2)

/-- The limits of the hub (R6, R78, R86, R96, R491) hold after every step from a state in which they hold: 16 anchor slots, 64
sessions and 4 of a target, 256 events of a target, eight slices and nine staging sets. What the spec leaves open here is the
model's choice: log entries 11 and 39. -/
def Obligations.StepKeepsHubLimits : Prop := ∀ (s t : State), s.hub.Limits → step s = .next t → t.hub.Limits

/-- Supply and resets of the package (R38 to R42, R61): power-up starts the felt domain and the hub's rails; the end of a warning
releases the starts it deferred; a failure takes every slice OFF, keeps the felt domain and marks the next starts with cause 1;
a package reset and an overvoltage keep the NVM and the anchor fuses alone, and stop the felt domain. The hub's start and its
resets (R16, R36, R40, R61, R68, R69, R78): with the felt domain and the rails up, a hub without anchors comes up unclaimed;
with anchors it takes the valid charter copy of higher SERIAL, and runs the charter's image bank, the other, or ROM code alone,
counting watchdog restarts of one image only. A running hub asks for the starts of the power policy. A watchdog expiry and a
restart command end its sessions; the second expiry in a row with one image marks that image failed. What the spec leaves open
here is the model's choice: log entries 8, 19, 20, 21, 118, 120 and 121. -/
def Obligations.SupplyAndHubStart : Prop :=
  (∀ (s : State) (mv : BitVec 16),
  (s.hub.ov = false → RunsHub (.powerUp mv) s fun h =>
    h = { s.hub with vin := w32 mv.toNat, felt := true, powered := true })
  ∧ (s.hub.powered = true → s.hub.answers = false → s.hub.warn = false → RunsHub (.supplyWarning mv) s fun h =>
    h = { s.hub with vin := w32 mv.toNat, warn := true })
  ∧ (s.hub.powered = true → s.hub.answers = true → s.hub.warn = false → RunsHub (.supplyWarning mv) s fun h =>
    h.warn = true ∧ h.vin = w32 mv.toNat ∧ h.log = s.hub.log ++ [(8, w32 5, w32 mv.toNat)] ∧ h.slices = s.hub.slices
    ∧ (s.hub.hubTgt.events.length < 256 → ∃ e, e.code = 5 ∧ h.hubTgt.events = s.hub.hubTgt.events ++ [e]))
  ∧ (RunsHub (.supplyWarningEnd mv) s fun h =>
    h.warn = false ∧ h.vin = w32 mv.toNat ∧ h.hubTgt = s.hub.hubTgt
    ∧ h.slices = s.hub.slices.map fun t => { t with start := t.start || t.deferred, deferred := false })
  ∧ (Runs (.supplyFailure mv) s fun t =>
    (∀ n, (t.slice n).phase = .off ∧ (t.slice n).regs = [] ∧ (t.slice n).dram = []) ∧ t.hub.phase = .off
    ∧ t.hub.powered = false ∧ t.hub.felt = s.hub.felt ∧ t.hub.warn = false ∧ t.hub.sessions = [] ∧ t.hub.nvm = s.hub.nvm
    ∧ t.hub.anchors = s.hub.anchors ∧ (∀ h ∈ t.hub.slices, h.cause = 1 ∧ h.started = false ∧ h.start = false)
    ∧ t.pending = s.pending)
  ∧ (∀ c ∈ [Instr.packageReset mv, Instr.overvoltage mv], Runs c s fun t =>
    (∀ n, (t.slice n).phase = .off ∧ (t.slice n).regs = [] ∧ (t.slice n).dram = []) ∧ t.hub.phase = .off
    ∧ t.hub.powered = false ∧ t.hub.felt = false ∧ t.hub.sessions = [] ∧ t.hub.nvm = s.hub.nvm
    ∧ t.hub.anchors = s.hub.anchors ∧ (∀ h ∈ t.hub.slices, h.cause = 0 ∧ h.started = false ∧ h.start = false)
    ∧ t.hub.ov = decide (c = .overvoltage mv) ∧ t.pending = s.pending)
  ∧ (s.hub.ov = true → Runs (.overvoltageRestart mv) s fun t =>
    (∀ n, (t.slice n).phase = .off) ∧ t.hub.ov = false ∧ t.hub.felt = true ∧ t.hub.powered = true ∧ t.hub.phase = .off
    ∧ t.hub.nvm = s.hub.nvm ∧ t.hub.anchors = s.hub.anchors ∧ t.pending = s.pending))
  ∧ (∀ (s : State) (ses : Nat),
  (s.hub.felt = true → s.hub.powered = true → s.hub.phase = .off →
    (s.hub.anchors = [] → Runs .hubStart s fun t =>
      t.hub = { s.hub with phase := .unclaimed, charter := [], hubChar := [], sfp := s.hub.module, slices := t.hub.slices }
      ∧ t.pending = s.pending ∧ (∀ n, (t.slice n).stayActive = false)
      ∧ ((∀ n, (s.slice n).stayActive = false) → t.hub.slices = s.hub.slices ∧ ∀ n, t.slice n = s.slice n))
    ∧ (s.hub.anchors ≠ [] → Runs .hubStart s fun t =>
      t.hub.charter = s.hub.pickCharter.getD [] ∧ t.hub.hubChar = t.hub.charter ∧ t.hub.nvm = s.hub.nvm ∧ t.pending = s.pending
      ∧ t.hub.sfp = (match chMgtMode t.hub.charter with | 1 => true | 2 => false | _ => s.hub.module)
      ∧ (t.hub.phase = .running ∧ t.hub.hubImageOk t.hub.bank = true ∧ bankMark s.hub.imgFailed t.hub.bank = false
          ∧ (t.hub.bank ≠ chHubBank t.hub.charter → t.hub.hubImageOk (chHubBank t.hub.charter) = true →
              bankMark s.hub.imgFailed (chHubBank t.hub.charter) = true)
          ∧ t.hub.wdCount = (if t.hub.bank = s.hub.bank then s.hub.wdCount else 0)
          ∧ (s.hub.slices.length = 8 → ∀ n : SliceId, (t.slice n).on = false → chStart t.hub.charter n.val = true →
              (s.hub.tgt n.val).thermal = false → (s.hub.tgt n.val).zeroing = false →
              (t.hub.tgt n.val).start = true ∧ (t.hub.tgt n.val).policy = true
              ∧ (t.hub.tgt n.val).cause = if (s.hub.tgt n.val).started then rstPolicy else (s.hub.tgt n.val).cause)
        ∨ t.hub.phase = .romOnly ∧ ∀ b, t.hub.hubImageOk b = true → bankMark s.hub.imgFailed b = true)))
  ∧ (s.hub.running = true → Runs .hubWatchdogExpiry s fun t =>
    t.hub.phase = .off ∧ t.hub.sessions = [] ∧ t.hub.tx = [] ∧ t.hub.nvm = s.hub.nvm ∧ t.hub.charter = s.hub.charter
    ∧ t.hub.wdRestarted = true ∧ t.pending = s.pending ∧ (∀ n, (t.slice n).phase = (s.slice n).phase)
    ∧ (s.hub.wdCount = 0 → t.hub.wdCount = 1 ∧ t.hub.imgFailed = s.hub.imgFailed)
    ∧ (1 ≤ s.hub.wdCount → t.hub.wdCount = 0 ∧ t.hub.imgFailed = setMark s.hub.imgFailed s.hub.bank true))
  ∧ (s.hub.running = false → exec .hubWatchdogExpiry s = .next s)
  ∧ (s.hub.answers = true → s.hub.hubSession ses = true → Runs (.hubRestart ses) s fun t =>
    t.hub.phase = .off ∧ t.hub.sessions = [] ∧ t.hub.tx = [] ∧ t.hub.nvm = s.hub.nvm ∧ t.hub.charter = s.hub.charter
    ∧ t.hub.imgFailed = s.hub.imgFailed ∧ t.hub.wdCount = 0 ∧ t.pending = s.pending
    -- the time lands are ignored while the hub is down (R51)
    ∧ ∀ n, t.slice n = { s.slice n with regs := (t.slice n).regs } ∧ ((s.slice n).on = true → ∀ i < 8,
        srcOf (s.slice n) (i / 2) (i % 2) = 1 → regBit (t.slice n) kTIM (trkOff (i / 2) (i % 2) + 4) 28 = false)))

/-- Status, felt clock and wake alarm (R13, R15, R97, R471): a refresh shows each slice's state and takes over what it reported; the
loss of the felt clock wakes the slices in DOZE and NAP and holds them ACTIVE; an alarm, 500 µs before a time that a slice has
posted, takes the posted times that are due and wakes a slice in DOZE or NAP, and before that it does nothing. What the spec
leaves open here is the model's choice: log entries 12, 16, 17 and 59. -/
def Obligations.StatusAndFeltClock : Prop := ∀ (s : State) (sl : SliceId),
  (s.hub.answers = true → s.hub.slices.length = 8 → Runs .hubStatusRefresh s fun t =>
    ∀ n : SliceId, t.slice n = { s.slice n with toHub := [] } ∧ (t.hub.tgt n.val).run = (s.slice n).alive
      ∧ (t.hub.tgt n.val).faulted = (s.slice n).report
      ∧ (t.hub.tgt n.val).fbits = ((s.hub.tgt n.val).fbits || ((s.slice n).report && !(s.hub.tgt n.val).faulted)))
  ∧ (Runs .feltClockLoss s fun t => t.hub = s.hub ∧ t.pending = s.pending ∧ ∀ n,
      (((s.slice n).on && (dozing (s.slice n) || inNap (s.slice n))) = false → t.slice n = s.slice n)
      ∧ ((s.slice n).on = true → pwCur (s.slice n) = 1 ∨ pwCur (s.slice n) = 2 → (s.slice n).move = .none →
        t.slice n = { s.slice n with move := .waking .feltLoss, stayActive := true }))
  ∧ (s.hub.felt = true → hubUp s = true → (s.slice sl).on = true → s.hub.slices.length = 8 →
      (∃ w ∈ (s.hub.tgt sl.val).wakes, dueIn (s.slice sl) w ≤ 500000 * nsUnits) → Runs (.feltWakeAlarm sl) s fun t =>
    t.hub = { s.hub with slices := t.hub.slices } ∧ t.pending = s.pending
    ∧ (∀ m, t.hub.tgt m = if m = sl.val then { s.hub.tgt m with
        wakes := (s.hub.tgt m).wakes.filter fun w => decide (500000 * nsUnits < dueIn (s.slice sl) w) } else s.hub.tgt m)
    ∧ (∀ n, n ≠ sl → t.slice n = s.slice n)
    ∧ (pwCur (s.slice sl) = 0 → (s.slice sl).move = .none → t.slice sl = s.slice sl)
    ∧ (pwCur (s.slice sl) = 1 ∨ pwCur (s.slice sl) = 2 → (s.slice sl).move = .none →
        t.slice sl = { s.slice sl with move := .waking .feltAlarm }))
  ∧ ((∀ w ∈ (s.hub.tgt sl.val).wakes, 500000 * nsUnits < dueIn (s.slice sl) w) → exec (.feltWakeAlarm sl) s = .next s)

/-- A slice's start (R39, R40, R55, R68, R70, R494): one of the power policy waits for those of lower slices, and a slice still hot
after a thermal shutdown stays OFF; deferred under a supply warning; without a valid image and without network boot the slice
stays OFF and BOOT_FAILED is sent; else the slice trains its DRAM with MAXDEEP, REQ, LAST_RST and the strict decode from charter
and hub, every clock locked, and every other register outside the fault log and ICN at its reset value. What the spec leaves
open here is the model's choice: log entries 8, 10, 20, 23, 112, 126 and 127. -/
def Obligations.SliceStart : Prop := ∀ (s : State) (sl : SliceId) (spared : List Word),
  (s.slice sl).phase = .off → s.hub.running = true → s.hub.slices.length = 8 → (s.hub.tgt sl.val).start = true →
  let waits := (s.hub.tgt sl.val).policy = true ∧ ∃ m < sl.val, (s.hub.tgt m).start = true ∧ (s.hub.tgt m).policy = true
    ∧ (s.hub.tgt m).zeroing = false ∧ ((s.hub.tgt m).thermal && (s.hub.tgt m).hot) = false
  ((s.hub.tgt sl.val).zeroing = true ∨ ((s.hub.tgt sl.val).thermal && (s.hub.tgt sl.val).hot) = true ∨ waits →
    exec (.sliceStart sl spared) s = .next s) ∧
  ((s.hub.tgt sl.val).zeroing = false → ((s.hub.tgt sl.val).thermal && (s.hub.tgt sl.val).hot) = false → ¬ waits →
  (s.hub.warn = true → RunsHub (.sliceStart sl spared) s fun h =>
    h.tgt sl.val = { s.hub.tgt sl.val with start := false, deferred := true } ∧ ∀ n, n ≤ 8 → n ≠ sl.val → h.tgt n = s.hub.tgt n)
  ∧ (s.hub.warn = false → bootPlan s.hub sl.val (regBit (s.slice sl) kSLC 0x140 14) = [] →
    Runs (.sliceStart sl spared) s fun t =>
      (t.slice sl).phase = .off ∧ (t.hub.tgt sl.val).start = false ∧ (∀ n, n ≠ sl → t.slice n = s.slice n)
      ∧ ((s.hub.tgt sl.val).events.length < 256 →
        ∃ e, e.code = 2 ∧ e.slice = sl.val ∧ (t.hub.tgt sl.val).events = (s.hub.tgt sl.val).events ++ [e]))
  ∧ (s.hub.warn = false → ∀ plan, bootPlan s.hub sl.val (regBit (s.slice sl) kSLC 0x140 14) = plan → plan ≠ [] →
    Runs (.sliceStart sl spared) s fun t =>
      (t.slice sl).phase = .training plan ∧ (t.slice sl).dram = [] ∧ (t.slice sl).tabs = []
      ∧ regFld (t.slice sl) kSLC 0x100 3 2 = chMaxdeep s.hub.charter sl.val % 4
      ∧ regFld (t.slice sl) kSLC 0x100 1 0 = (if chMaxdeep s.hub.charter sl.val = 0 then 0 else 1)
      ∧ regFld (t.slice sl) kSLC 0x140 23 20 = (if (s.hub.tgt sl.val).thermal then 4 else (s.hub.tgt sl.val).cause.toNat)
      ∧ regFld (t.slice sl) kSLC 0x120 11 0 = 0xFFF
      ∧ regBit (t.slice sl) kRIF 0x140 31 = chStrict s.hub.charter sl.val
      ∧ (∀ b o, o < 0x100000 → b ≠ kFLT → b ≠ kICN → (b, o) ∉ [(kSLC, 0x100), (kSLC, 0x120), (kSLC, 0x140), (kRIF, 0x140)] →
        regGet (t.slice sl) b o = resetOf (s.slice sl).id.val b o)
      ∧ (t.hub.tgt sl.val).start = false ∧ (t.hub.tgt sl.val).started = true ∧ (t.hub.tgt sl.val).thermal = false
      ∧ (t.hub.tgt sl.val).wakes = [] ∧ t.pending = s.pending ∧ ∀ n, n ≠ sl → t.slice n = s.slice n))

/-- Training, image check and network boot (R66, R68, R70, R72, R73, R391): fewer than 30 pseudo-channels leave the slice OFF with
fault code 0x08; else the first step of the start begins. A valid image runs at its entry address and BOOT_DONE is sent (and
BOOT_FALLBACK from the second bank); a failed one leads to the next step, and to OFF after the last. The network is asked with
the slice's client identifier, its VLAN and blocks of 1,468 bytes; an attempt without an answer, without a VLAN or without the
hub is followed by another, three in all. Confirmation and resets of a slice (R61, R71): CONFIRM within the time-out makes the
booted bank the active bank and ends the time-out, and after it does nothing; the time-out marks the bank failed and restarts
the slice with cause 5; SLC_RST restarts it on 0xA5 alone, with cause 3. What the spec leaves open here is the model's choice:
log entries 20, 23, 24, 112, 117, 122, 128 and 129. -/
def Obligations.SliceBootAndConfirmation : Prop :=
  (∀ (s : State) (sl : SliceId) (pass : Word) (b fb : Bool)
    (plan rest : List BootStep) (tries : Nat) (bs : List Bytes) (last : Bytes), s.hub.slices.length = 8 →
  let ask : NetRequest := ⟨chVlan s.hub.charter sl.val,
    [0x6D, 0x69, 0x72, 0x6B, 0x6F, 0x72, 0x2D, 0x53, BitVec.ofNat 8 (0x30 + sl.val)], 1468⟩
  let file := bs.flatten ++ last
  let netOk := chVlan s.hub.charter sl.val ≠ 0 ∧ s.hub.answers = true
  let whole := (∀ b ∈ bs, b.length = 1468) ∧ last.length < 1468
  ((s.slice sl).phase = .training plan →
    (popCount pass.toNat 32 < 30 → Runs (.dramTrainingDone sl pass) s fun t =>
      (t.slice sl).phase = .off ∧ t.hub = s.hub ∧ t.pending = s.pending ∧ (∃ k, k ∈ (t.slice sl).toHub ∧ k.code = 8))
    ∧ (30 ≤ popCount pass.toNat 32 → plan = .bank b fb :: rest → Runs (.dramTrainingDone sl pass) s fun t =>
      (t.slice sl).phase = .streaming b fb rest ∧ (t.hub.tgt sl.val).streaming = some b ∧ ∀ n, n ≠ sl → t.slice n = s.slice n)
    ∧ (30 ≤ popCount pass.toNat 32 → plan = .net :: rest → RunsOn (.dramTrainingDone sl pass) s sl fun y =>
      y.phase = .netboot 0 rest ∧ y.netReq = some ask))
  ∧ ((s.slice sl).phase = .streaming b fb rest → s.hub.answers = true →
    (s.hub.sliceImageOk b sl.val = true → (s.hub.tgt sl.val).events.length < 255 → Runs (.imageChecked sl) s fun t =>
      (t.slice sl).phase = .running ∧ (t.slice sl).started = [(0, d64 (imgEntry (s.hub.sliceHeader b sl.val)))]
      ∧ regGet (t.slice sl) kSLC 0x144 = w32 (imgVer (s.hub.sliceHeader b sl.val))
      ∧ regBit (t.slice sl) kSLC 0x140 8 = b ∧ regBit (t.slice sl) kSLC 0x140 9 = fb
      ∧ (t.slice sl).confirmAt = some ((s.slice sl).clk + chConfirmTo s.hub.charter sl.val * 800000000)
      ∧ ((t.hub.tgt sl.val).events.drop (s.hub.tgt sl.val).events.length).map (·.code) = (if fb then [1, 3] else [1])
      ∧ ∀ n, n ≠ sl → t.slice n = s.slice n)
    ∧ (s.hub.sliceImageOk b sl.val = false → rest = [] → Runs (.imageChecked sl) s fun t =>
      (t.slice sl).phase = .off ∧ (t.hub.tgt sl.val).streaming = none ∧ ∀ n, n ≠ sl → t.slice n = s.slice n)
    ∧ (s.hub.sliceImageOk b sl.val = false → rest = [.net] → Runs (.imageChecked sl) s fun t =>
      t.slice sl = { s.slice sl with phase := .netboot 0 [], netReq := some ask } ∧ ∀ n, n ≠ sl → t.slice n = s.slice n))
  ∧ ((s.slice sl).phase = .netboot tries rest →
    (netOk → whole → fileOk s.hub sl.val file = true → Runs (.networkBoot sl (.file (bs ++ [last]))) s fun t =>
      (t.slice sl).phase = .running ∧ (t.slice sl).started = [(0, d64 (imgEntry file))]
      ∧ regGet (t.slice sl) kSLC 0x144 = w32 (imgVer file) ∧ regBit (t.slice sl) kSLC 0x140 10 = true
      ∧ ∀ n, n ≠ sl → t.slice n = s.slice n)
    ∧ (netOk → whole → fileOk s.hub sl.val file = false → rest = [] → Runs (.networkBoot sl (.file (bs ++ [last]))) s fun t =>
      (t.slice sl).phase = .off ∧ ∀ n, n ≠ sl → t.slice n = s.slice n)
    ∧ (∀ r, r = .noAnswer ∨ ¬ netOk ∨ r = .file [] ∨ (r = .file (bs ++ [last]) ∧ ¬ whole) →
      (tries + 1 < 3 → RunsOn (.networkBoot sl r) s sl fun y => y = { s.slice sl with phase := .netboot (tries + 1) rest })
      ∧ (3 ≤ tries + 1 → rest = .bank b fb :: plan → Runs (.networkBoot sl r) s fun t =>
        t.slice sl = { s.slice sl with phase := .streaming b fb plan } ∧ (t.hub.tgt sl.val).streaming = some b
        ∧ ∀ n, n ≠ sl → t.slice n = s.slice n)
      ∧ (3 ≤ tries + 1 → rest = [] → Runs (.networkBoot sl r) s fun t =>
        (t.slice sl).phase = .off ∧ ∀ n, n ≠ sl → t.slice n = s.slice n))))
  ∧ (∀ (s : State) (sl : SliceId) (key : Word) (due : Nat), s.hub.slices.length = 8 →
  ((s.slice sl).phase = .running → regBit (s.slice sl) kSLC 0x140 15 = false → (s.slice sl).confirmAt = some due →
    ((s.slice sl).clk < due → Runs (.bootConfirm sl) s fun t =>
      regBit (t.slice sl) kSLC 0x140 15 = true ∧ (t.slice sl).confirmAt = none ∧ (t.slice sl).bus = .done
      ∧ RegsBut (s.slice sl) (t.slice sl) [(kSLC, 0x140)] ∧ (t.slice sl).dram = (s.slice sl).dram
      ∧ (∀ b, bootBank (s.slice sl) = some b → (t.hub.tgt sl.val).active = b ∧ (t.hub.tgt sl.val).streaming = none)
      ∧ (bootBank (s.slice sl) = none → t.hub.tgt sl.val = s.hub.tgt sl.val) ∧ ∀ n, n ≠ sl → t.slice n = s.slice n)
    ∧ (due ≤ (s.slice sl).clk → RunsOn (.bootConfirm sl) s sl fun y =>
      y = { s.slice sl with regs := y.regs, bus := .done } ∧ RegsBut (s.slice sl) y []))
  ∧ ((s.slice sl).confirmAt = some due → s.hub.running = true →
    ((s.slice sl).clk < due → exec (.confirmTimeout sl) s = .next s)
    ∧ (due ≤ (s.slice sl).clk → (s.hub.tgt sl.val).thermal = false → Runs (.confirmTimeout sl) s fun t =>
      (t.slice sl).phase = .off ∧ (t.slice sl).dram = [] ∧ (t.hub.tgt sl.val).start = true
      ∧ (∀ b, bootBank (s.slice sl) = some b → (t.hub.tgt sl.val).failed = setMark (s.hub.tgt sl.val).failed b true)
      ∧ ((s.hub.tgt sl.val).started = true → (t.hub.tgt sl.val).cause = 5) ∧ ∀ n, n ≠ sl → t.slice n = s.slice n))
  ∧ ((s.slice sl).on = true → (s.hub.tgt sl.val).thermal = false →
    (fld key 7 0 = 0xA5 → Runs (.sliceSelfReset sl key) s fun t =>
      (t.slice sl).phase = .off ∧ (t.slice sl).dram = [] ∧ (t.hub.tgt sl.val).start = true
      ∧ ((s.hub.tgt sl.val).started = true → (t.hub.tgt sl.val).cause = 3) ∧ ∀ n, n ≠ sl → t.slice n = s.slice n)
    ∧ (fld key 7 0 ≠ 0xA5 → RunsOn (.sliceSelfReset sl key) s sl fun y => y = { s.slice sl with bus := .done })))

/-- Requests for a deeper state (R44, R45, R97, R98, R152, R447): REQ takes effect as at most MAXDEEP, a deeper one setting CLAMPED;
NAP entry begins in the DOZE or ACTIVE slice that no entry or wake occupies, stops the sequencers, takes a twin link down with
code 7, and posts the slice's wake times, of which one less than 500 µs away raises its alarm at once; OFF is at once. What the
spec leaves open here is the model's choice: log entries 5 and 16. -/
def Obligations.PowerRequests : Prop := ∀ (s : State) (sl : SliceId), (s.slice sl).on = true →
  let x := s.slice sl
  let ts := postedTimes x (s.hub.tgt sl.val).soft
  let posts := s.hub.felt = true ∧ s.hub.phase ≠ .off
  let soon := posts ∧ ∃ w ∈ ts, dueIn x w < 500000 * nsUnits
  (pwMax x < 2 → RunsPair (.reqNap sl) s sl fun y ms =>
      RegsBut x y [(kSLC, 0x100)] ∧ regFld y kSLC 0x100 1 0 = pwMax x ∧ regBit y kSLC 0x100 5 = true ∧ y.move = x.move
      ∧ y.phase = x.phase ∧ y.bus = .done ∧ y.dram = x.dram ∧ y.unacked = x.unacked ∧ ms = sentSince x y)
  ∧ (2 ≤ pwMax x → pwCur x ≠ 2 → x.move = .none → x.stayActive = false → linkIsUp x = false → beingTrained x = false →
    Runs (.reqNap sl) s fun t =>
      let y := t.slice sl
      y = { x with regs := y.regs, move := .enterNap, heldWake := y.heldWake, seqs := y.seqs, bus := .done }
      ∧ RegsBut x y [(kSLC, 0x100)] ∧ regFld y kSLC 0x100 1 0 = 2 ∧ regBit y kSLC 0x100 5 = regBit x kSLC 0x100 5
      ∧ (∀ q < 4, seqOf y q = { seqOf x q with asleep := true })
      ∧ (¬ soon → y.heldWake = x.heldWake ∧ regBit y kSLC 0x100 31 = regBit x kSLC 0x100 31)
      ∧ (soon → x.heldWake = none → y.heldWake = some .feltAlarm ∧ regBit y kSLC 0x100 31 = true)
      ∧ t.hub = { s.hub with slices := t.hub.slices } ∧ t.pending = s.pending ∧ (∀ n, n ≠ sl → n ≠ twin sl → t.slice n = s.slice n)
      ∧ (s.hub.slices.length = 8 → posts →
          (t.hub.tgt sl.val).wakes = ts.filter fun w => decide (500000 * nsUnits ≤ dueIn x w))
      ∧ (¬ posts → t.hub = s.hub))
  ∧ (2 ≤ pwMax x → pwCur x ≠ 2 → x.move = .none → x.stayActive = false → linkIsUp x = true → Runs (.reqNap sl) s fun t =>
      let y := t.slice sl
      y.move = .enterNap ∧ linkState y = lsDown ∧ lastDown y = 7 ∧ y.phase = x.phase ∧ y.dram = x.dram ∧ t.pending = s.pending)
  ∧ (pwMax x = 3 → RunsPair (.reqOff sl) s sl fun y _ =>
      y.phase = .off ∧ y.dram = [] ∧ y.tabs = [] ∧ y.threads = [] ∧ y.frames = [] ∧ y.toHub = x.toHub
      ∧ ∀ b o, o < 0x100000 → (b, o) ≠ (kSLC, 0x140) → regGet y b o = resetOf x.id.val b o)
  ∧ (pwMax x < 2 → RunsPair (.reqOff sl) s sl fun y _ =>
      RegsBut x y [(kSLC, 0x100)] ∧ regFld y kSLC 0x100 1 0 = pwMax x ∧ regBit y kSLC 0x100 5 = true ∧ y.move = x.move
      ∧ y.phase = x.phase ∧ y.bus = .done ∧ y.dram = x.dram)

/-- Entries and wakes (R44, R45, R56, R97, R98, R447): DOZE entry begins with the slice quiet and REQ at DOZE, and posts the wake
times; an entry that completes shows the new state, or wakes at once where a cause was held; a REQ of NAP written during DOZE
entry then takes effect; a cause wakes a slice from DOZE or, where it may, from NAP, and is held during an entry; a wake that
completes shows ACTIVE with its cause, lets the sequencers go on and posts the wake times again. What the spec leaves open here
is the model's choice: log entries 4, 16 and 17. -/
def Obligations.PowerEntriesAndWakes : Prop := ∀ (s : State) (sl : SliceId) (c : WakeCause), (s.slice sl).on = true →
  let x := s.slice sl
  let ts := postedTimes x (s.hub.tgt sl.val).soft
  let posts := s.hub.felt = true ∧ s.hub.phase ≠ .off
  let soon := posts ∧ ∃ w ∈ ts, dueIn x w < 500000 * nsUnits
  (pwCur x = 0 → x.move = .none → x.stayActive = false → pwReq x = 1 → regFld x kSLC 0x100 23 16 ≠ 0 → dozeQuiet x = true →
    Runs (.dozeEntry sl) s fun t =>
      let y := t.slice sl
      (¬ soon → y = { x with move := .enterDoze })
      ∧ (soon → x.heldWake = none → y = { x with regs := y.regs, move := .enterDoze, heldWake := some .feltAlarm }
          ∧ RegsBut x y [(kSLC, 0x100)] ∧ regBit y kSLC 0x100 31 = true)
      ∧ t.hub = { s.hub with slices := t.hub.slices } ∧ t.pending = s.pending ∧ (∀ n, n ≠ sl → t.slice n = s.slice n)
      ∧ (s.hub.slices.length = 8 → posts →
          (t.hub.tgt sl.val).wakes = ts.filter fun w => decide (500000 * nsUnits ≤ dueIn x w)))
  ∧ (∀ p ∈ [(Instr.napEntryDone sl, PwrMove.enterNap, 2, ([] : List (Fin 32 × Fin 3))), (Instr.dozeEntryDone sl, PwrMove.enterDoze, 1, allRanks)],
    x.move = p.2.1 → pwReq x < 2 ∨ x.heldWake ≠ none ∧ pwReq x = 2 ∨ p.2.1 = .enterNap → RunsPair p.1 s sl fun y ms =>
      y = { x with regs := y.regs, move := y.move, heldWake := none, rankDown := p.2.2.2 }
      ∧ y.move = (match x.heldWake with | some w => .waking w | none => .none) ∧ (p.2.1 = .enterNap → ms = [])
      ∧ RegsBut x y [(kSLC, 0x100)] ∧ pwCur y = p.2.2.1 ∧ regBit y kSLC 0x100 31 = false ∧ pwReq y = pwReq x)
  ∧ (x.move = .enterDoze → pwReq x = 2 → x.heldWake = none → x.stayActive = false → linkIsUp x = false → beingTrained x = false →
    Runs (.dozeEntryDone sl) s fun t => (t.slice sl).move = .enterNap ∧ pwCur (t.slice sl) = 1 ∧ (t.slice sl).phase = x.phase
      ∧ t.pending = s.pending)
  ∧ (x.move = .none → pwCur x = 1 → c ≠ .signalDetect → RunsOn (.dozeWake sl c) s sl fun y => y = { x with move := .waking c })
  ∧ (x.move = .none → pwCur x = 2 → wakesNap x c = true → RunsOn (.napWake sl c) s sl fun y => y = { x with move := .waking c })
  ∧ (∀ i, (i = Instr.dozeWake sl c ∧ x.move = .enterDoze ∧ c ≠ .signalDetect
        ∨ i = Instr.napWake sl c ∧ x.move = .enterNap ∧ wakesNap x c = true) → x.heldWake = none →
    RunsOn i s sl fun y => y = { x with regs := y.regs, heldWake := some c } ∧ RegsBut x y [(kSLC, 0x100)]
      ∧ regBit y kSLC 0x100 31 = true)
  ∧ (x.move = .waking c → pwReq x < 2 ∨ napping x = true → (∀ u ∈ s.hub.sessions, ∀ r, u.run = some r → r.ops ≠ []) →
    Runs (.wakeDone sl) s fun t =>
      let y := t.slice sl
      y = { x with regs := y.regs, move := .none, seqs := y.seqs, winEnd := y.winEnd }
      ∧ RegsBut x y ((kSLC, 0x100) :: raiseKeys kSLC 3)
      ∧ pwCur y = 0 ∧ regFld y kSLC 0x100 27 24 = wakeCode c ∧ pwReq y = (if napping x then 1 else pwReq x)
      ∧ (∀ q < 4, seqOf y q = { seqOf x q with asleep := false }) ∧ (napping x = false → y.winEnd = x.winEnd)
      ∧ t.hub = { s.hub with slices := t.hub.slices } ∧ t.pending = s.pending ∧ (∀ n, n ≠ sl → n ≠ twin sl → t.slice n = s.slice n)
      ∧ (s.hub.slices.length = 8 → posts →
          (t.hub.tgt sl.val).wakes = ts.filter fun w => decide (500000 * nsUnits ≤ dueIn x w)))

/-- Temperatures (R55, R57): a reading below 112 °C of a running slice is kept with its peak, and gives the CAM step of its value;
at 112 °C the slice goes OFF and the shutdown is logged. At 112 °C of its own the hub switches itself off. PLL unlock (R48):
LOCK clears, LOST is set and cause 2 raised; a clock of the pipelines' group makes the slice LOST, one of a transmit group or of
the twin link does not. What the spec leaves open here is the model's choice: log entries 14, 15, 18, 19 and 126. -/
def Obligations.ThermalReadAndPllUnlock : Prop :=
  (∀ (s : State) (sl : SliceId) (t0 t1 t2 t3 h0 h1 : BitVec 16),
  s.hub.answers = true → (s.slice sl).on = true → s.hub.slices.length = 8 →
  (896 ≤ max h0.toInt h1.toInt → Runs (.thermalRead sl t0 t1 t2 t3 h0 h1) s fun t =>
    t.hub.phase = .off ∧ t.hub.powered = false ∧ t.hub.sessions = [] ∧ t.hub.nvm = s.hub.nvm
    ∧ t.hub.hubTj.toInt = max h0.toInt h1.toInt ∧ t.pending = s.pending) ∧
  (max h0.toInt h1.toInt < 896 →
  let x := s.slice sl
  let d := max (max t0.toInt t1.toInt) (max t2.toInt t3.toInt)
  (d < 896 → Runs (.thermalRead sl t0 t1 t2 t3 h0 h1) s fun t =>
    signed 16 (regFld (t.slice sl) kSLC 0x110 15 0) = d
    ∧ signed 8 (regFld (t.slice sl) kSLC 0x110 23 16) = max (signed 8 (regFld x kSLC 0x110 23 16)) (min 127 (d / 8))
    ∧ (regFld x kSLC 0x110 31 30 = 0 → regFld (t.slice sl) kSLC 0x110 31 30 =
        if 824 ≤ d then 3 else if 800 ≤ d then 2 else if 760 ≤ d then 1 else 0)
    ∧ (regBit x kSLC 0x110 29 = false → regBit (t.slice sl) kSLC 0x110 29 = decide (840 ≤ d))
    ∧ (regBit x kSLC 0x110 29 = true → regBit (t.slice sl) kSLC 0x110 29 = decide (816 ≤ d))
    ∧ (∃ r, t.slice sl = x.setRegs r) ∧ RegsBut x (t.slice sl) ((kSLC, 0x110) :: raiseKeys kSLC 0)
    ∧ t.hub.hubTj.toInt = max h0.toInt h1.toInt ∧ ∀ n, n ≠ sl → t.slice n = s.slice n)
  ∧ (896 ≤ d → Runs (.thermalRead sl t0 t1 t2 t3 h0 h1) s fun t =>
    (t.slice sl).phase = .off ∧ (t.slice sl).dram = [] ∧ (t.hub.tgt sl.val).thermal = true ∧ (t.hub.tgt sl.val).hot = true
    ∧ t.hub.log = s.hub.log ++ [(sl.val, w32 7, w32 (toSigned 32 d))] ∧ ∀ n, n ≠ sl → t.slice n = s.slice n)))
  ∧ (∀ (s : State) (sl : SliceId) (dom : Fin 12), (s.slice sl).on = true →
  regBit (s.slice sl) kSLC 0x120 dom.val = true →
  (dom.val = 5 ∨ dom.val = 11 → RunsPair (.pllUnlock sl dom) s sl fun y _ =>
    RegsOnlyBut (s.slice sl) y ((kSLC, 0x120) :: raiseKeys kSLC 2) ∧ regBit y kSLC 0x120 dom.val = false
    ∧ regBit y kSLC 0x120 (16 + dom.val) = true ∧ regFld y kSLC 0x120 11 0 + 2 ^ dom.val = regFld (s.slice sl) kSLC 0x120 11 0)
  ∧ (dom.val = 4 → RunsPair (.pllUnlock sl dom) s sl fun y _ =>
    regBit y kSLC 0x120 4 = false ∧ regBit y kSLC 0x120 20 = true ∧ y.lost = (s.slice sl).lost
    ∧ (∃ k, k ∈ y.toHub ∧ k.code = 8) ∧ y.dram = (s.slice sl).dram)
  ∧ (6 ≤ dom.val → dom.val ≤ 10 → RunsPair (.pllUnlock sl dom) s sl fun y _ =>
    regBit y kSLC 0x120 dom.val = false ∧ regBit y kSLC 0x120 (16 + dom.val) = true ∧ y.lost = (s.slice sl).lost
    ∧ y.dram = (s.slice sl).dram ∧ (dom.val = 10 → linkLanes (s.slice sl) = 15 → linkIsUp y = false))
  ∧ (dom.val < 4 → RunsPair (.pllUnlock sl dom) s sl fun y _ =>
    y.lost = true ∧ y.report = true ∧ y.sending = [] ∧ y.fifo = [] ∧ (∃ k, k ∈ y.toHub ∧ k.code = 8)
    ∧ y.dram = (s.slice sl).dram))

/-- Management medium, external clocks and the test port (R36, R50, R54, R61, R375): the medium follows the charter, or the presence
of a module; the 10 MHz input's loss and return show in every PPS tracker of a started slice; a PPS edge latches the bases of
every started slice. The test port (R52 to R54): TST_TRST_N low holds every TAP at IDCODE; an instruction is loaded into each
TAP of the chain, the hub's and then those of the slices that are not OFF; a debug instruction acts as BYPASS unless the charter
permits debug of the slice. What the spec leaves open here is the model's choice: log entries 25, 27 and 119. -/
def Obligations.MediumClocksAndTestPort : Prop := ∀ (s : State) (p low sel : Bool) (irs : List TapInstr) (cells : List Bool),
  (s.hub.answers = true → RunsHub (.mgtMediumSwitch p) s fun h =>
    h = { s.hub with module := p, sfp := (match chMgtMode s.hub.hubChar with | 1 => true | 2 => false | _ => p) })
  ∧ (s.hub.answers = false → RunsHub (.mgtMediumSwitch p) s fun h => h = { s.hub with module := p })
  ∧ (s.hub.f10m = true → Runs .f10mLoss s fun t => t.hub = { s.hub with f10m := false, f10mLost := true } ∧ t.pending = s.pending
    ∧ ∀ n, ((s.slice n).on = false → t.slice n = s.slice n) ∧ (s.slice n).dram = (t.slice n).dram ∧ ∀ b < 4, ∀ k < 2,
      (s.slice n).on = true → srcOf (s.slice n) b k = 1 → regBit (t.slice n) kTIM (0x1044 + 0x100 * b + 0x40 * k) 28 = false)
  ∧ (hubUp s = true → Runs .f10mInRestored s fun t => t.hub = { s.hub with f10m := true } ∧ t.pending = s.pending
    ∧ ∀ n, ((s.slice n).on = false → t.slice n = s.slice n) ∧ (s.slice n).dram = (t.slice n).dram ∧ ∀ b < 4, ∀ k < 2,
      (s.slice n).on = true → srcOf (s.slice n) b k = 1 → regBit (t.slice n) kTIM (0x1044 + 0x100 * b + 0x40 * k) 28 = true)
  ∧ (hubUp s = true → Runs .ppsEdge s fun t => t.hub = s.hub ∧ t.pending = s.pending
    ∧ ∀ n, ((s.slice n).on = false → t.slice n = s.slice n)
      ∧ ((s.slice n).on = true → (∀ b < 4, ∀ k < 2, srcOf (s.slice n) b k ≠ 1) →
        (∃ r, t.slice n = (s.slice n).setRegs r) ∧ (∀ b < 4, regGet (t.slice n) kTIM (0x101C + 0x100 * b) = w32 (nsOf (baseNow (s.slice n) b)))
        ∧ RegsBut (s.slice n) (t.slice n) ([(kTIM, 0x101C), (kTIM, 0x111C), (kTIM, 0x121C), (kTIM, 0x131C)] ++ raiseKeys kTIM 8)))
  ∧ (RunsHub (.tapReset low sel) s fun h => h.trst = low ∧ h.twoWire = sel
      ∧ (low = false → h = { s.hub with trst := false, twoWire := sel })
      ∧ (low = true → h.tap = .idcode ∧ ∀ n < 8, h.tgt n = { s.hub.tgt n with tap := .idcode }))
  ∧ (s.hub.trst = true → exec (.tapInstruction irs cells) s = .next s)
  ∧ (s.hub.trst = false → s.hub.slices.length = 8 → RunsHub (.tapInstruction irs cells) s fun h =>
      h.tap = (irs[0]?).getD .bypass
      ∧ (∀ n : SliceId, h.tgt n.val = if (s.slice n).on then { s.hub.tgt n.val with
            tap := (irs[1 + ((List.finRange 8).filter fun m => decide (m < n) && (s.slice m).on).length]?).getD .bypass }
          else s.hub.tgt n.val)
      ∧ h.bsr = (if (h.tap = .samplePreload ∨ h.tap = .extest) ∧ cells.length = s.hub.bsr.length then cells else s.hub.bsr)
      ∧ h = { s.hub with tap := h.tap, slices := h.slices, bsr := h.bsr })
  ∧ (∀ n : SliceId, tapActs s n.val = if (s.slice n).on = false then none
      else if (s.hub.tgt n.val).tap = .debug ∧ chDebug s.hub.charter n.val = false then some .bypass
      else some (s.hub.tgt n.val).tap)

/-- Claim, charters and owners (R76, R78, R79, R83, R88): a claim that a rule rejects is answered with the rule and DENIED; one that
none rejects programs the first anchor and is in force at once; a claimed hub answers none. A charter that is applied is in
force; a slice whose owner changes goes OFF and is zeroed, its staged pages are lost, one whose image fields change restarts,
one whose VLAN changes loses its sessions, and one that keeps its entry is left alone. What the spec leaves open here is the
model's choice: log entries 9, 21, 22, 111 and 117. -/
def Obligations.ClaimAndCharter : Prop := ∀ (s : State) (f : Bytes) (k ses slot : Nat) (t : Session)
    (r : HraRun) (rest : List HraOp) (sl : SliceId), s.hub.slices.length = 8 → s.hub.nvmSets.length = 9 →
  let c := hraBody (hraPart f)
  let new := s.hub.charterCopy slot
  (Arrives s 8 8 f → hraFormed (hraPart f) = true → s.hub.phase = .unclaimed → claimFails c = some k → RunsHub (.claim f) s fun h =>
    h = { s.hub with tx := s.hub.tx ++ [plainOut s.hub 8 f ⟨8, 0, 0, 0, 4, [byteOf k, 0, 0, 0]⟩] })
  ∧ (Arrives s 8 8 f → hraFormed (hraPart f) = true → s.hub.phase = .unclaimed → claimFails c = none → RunsHub (.claim f) s fun h =>
    h.charter = c ∧ h.anchors = [chHubFp c] ∧ h.tx = s.hub.tx ++ [plainOut s.hub 8 f ⟨8, 0, 0, 0, 0, [0, 0, 0, 0]⟩]
    ∧ h.phase = .romOnly ∧ (∀ n, n < 8 → (h.tgt n).active = chImgbank c n) ∧ h.sessions = s.hub.sessions
    ∧ h.nvmGet (charterSlot s.hub.lowerCopy) c.length = c
    ∧ ∀ a n, a + n ≤ charterSlot s.hub.lowerCopy ∨ charterSlot s.hub.lowerCopy + c.length ≤ a → h.nvmGet a n = s.hub.nvmGet a n)
  ∧ (Arrives s 8 8 f → s.hub.phase ≠ .unclaimed → exec (.claim f) s = .next s)
  ∧ (OpTurn s ses none t r (.charterApply slot) rest →
    (chFails s.hub.anchors (chSerial s.hub.charter) new chAll = some k → Runs (.charterApply ses) s fun u =>
      u.hub.charter = s.hub.charter ∧ u.hub.anchors = s.hub.anchors ∧ u.slices = s.slices
      ∧ (s.hub.hubTgt.events.length < 256 → ∃ e, e.code = 4 ∧ e.data = d64 k ∧ u.hub.hubTgt.events = s.hub.hubTgt.events ++ [e]))
    ∧ (chFails s.hub.anchors (chSerial s.hub.charter) new chAll = none → rest ≠ [] → Runs (.charterApply ses) s fun u =>
        u.hub.charter = new
        ∧ u.hub.anchors = (if chTransfer new then s.hub.anchors ++ [chHubFp new] else s.hub.anchors)
        ∧ (ownerChanged s.hub.charter new sl.val = true →
            (u.slice sl).phase = .off ∧ (u.slice sl).dram = [] ∧ (u.hub.tgt sl.val).zeroing = true
            ∧ u.hub.nvmSet sl.val = NvmSet.blank ∧ ∀ b : Bool, ∀ o < slicePartSize, sGet 0 u.hub.nvm (slicePart b sl.val + o) = 0)
        ∧ (ownerChanged s.hub.charter new sl.val = false → imageChanged s.hub.charter new sl.val = true → (s.slice sl).on = true →
            (s.hub.tgt sl.val).thermal = false →
            (u.slice sl).phase = .off ∧ (u.hub.tgt sl.val).start = true ∧ (u.hub.tgt sl.val).active = chImgbank new sl.val)
        ∧ (chVlan s.hub.charter sl.val ≠ chVlan new sl.val → ∀ v ∈ u.hub.sessions, v.target ≠ sl.val)
        ∧ (ownerChanged s.hub.charter new sl.val = false → imageChanged s.hub.charter new sl.val = false →
            chPaired s.hub.charter sl.val = chPaired new sl.val → u.slice sl = s.slice sl)))
  ∧ ((s.hub.tgt sl.val).zeroing = true → RunsHub (.ownerZeroingDone sl) s fun h =>
    (h.tgt sl.val).zeroing = false
    ∧ (h.tgt sl.val).start = ((s.hub.tgt sl.val).start
        || (chStart s.hub.charter sl.val && !((s.hub.tgt sl.val).thermal && (s.hub.tgt sl.val).hot)))
    ∧ (∀ n, n ≤ 8 → n ≠ sl.val → h.tgt n = s.hub.tgt n) ∧ h.nvm = s.hub.nvm)

/-- The management port (R80 to R82): a frame of no one's VLAN is dropped and counted; one of a target's waits in its buffer, unless
that is full; an HRA frame goes to the engine of its target, whichever row delivers it, and one of a type that the hub alone
sends is dropped; a frame that a slice sends waits with the slice's VLAN. What the spec leaves open here is the model's choice:
log entries 110 and 118. -/
def Obligations.ManagementPort : Prop := ∀ (s : State) (f : Bytes) (sl : SliceId) (n : Nat),
  s.hub.answers = true → s.hub.slices.length = 8 →
  (s.hub.mgtTarget f = none → RunsHub (.mgtFrameReceive f) s fun h => h = { s.hub with mgtDrops := s.hub.mgtDrops + 1 })
  ∧ (s.hub.mgtTarget f = some n → n ≤ 8 → isHra f = false → RunsHub (.mgtFrameReceive f) s fun h =>
      (h.tgt n).rx = (s.hub.tgt n).rx
        ++ (if ((s.hub.tgt n).rx.map (·.length)).foldl (· + ·) 0 + f.length ≤ 262144 then [f] else [])
      ∧ (∀ m, m ≤ 8 → m ≠ n → h.tgt m = s.hub.tgt m) ∧ h.mgtDrops = s.hub.mgtDrops ∧ h.tx = s.hub.tx)
  ∧ (∀ i ∈ [(Instr.hraOpen f, 1), (Instr.request f, 3), (Instr.eventAck f, 6), (Instr.hraClose f, 7), (Instr.claim f, 8)],
      exec i.1 s = if isHra f = true ∧ hraKind (hraPart f) = i.2 then exec (.mgtFrameReceive f) s else .next s)
  ∧ (s.hub.mgtTarget f = some n → isHra f = true → hraKind (hraPart f) ∉ [1, 3, 6, 7, 8] → exec (.mgtFrameReceive f) s = .next s)
  ∧ ((s.slice sl).on = true → chVlan s.hub.charter sl.val ≠ 0 → RunsHub (.mgtFrameTransmit sl f) s fun h =>
      h = { s.hub with tx := s.hub.tx ++ [(sl.val, retag f (chVlan s.hub.charter sl.val))] })

/-- Sessions and the sequence window (R84 to R88, R94): an OPEN that nothing refuses makes a session under a free number, with keys
derived from the shared secret, and is answered with ACCEPT; a refused or ill-formed one is answered with the reason; CLOSE and
the time-out forget a session; a frame whose tag fails, that repeats an answered REQUEST, whose answer is gone, or whose tag
differs is not executed, and one that arrives at another target's engine is dropped. What the spec leaves open here is the
model's choice: log entries 11, 106, 107, 117 and 118. -/
def Obligations.HraSessions : Prop := ∀ (s : State) (f : Bytes) (eng n k ses : Nat) (t : Session) (q : CachedReply),
  let p := hraPart f
  let b := hraBody p
  (Arrives s eng 1 f → openFormed p = true → targetOf (openTarget b) = some n →
    (s.hub.openRefusal eng n b = some k → RunsHub (.hraOpen f) s fun h =>
      h = { s.hub with tx := s.hub.tx ++ [plainOut s.hub eng f ⟨15, 0, 0, 0, 4, [openTarget b, byteOf k, 0, 0]⟩] })
    ∧ (s.hub.openRefusal eng n b = none → RunsHub (.hraOpen f) s fun h => ∃ id d,
      s.hub.session id = none ∧ h.sessions.map sesKey = s.hub.sessions.map sesKey ++ [(id, n)]
      ∧ h.charter = s.hub.charter ∧ h.anchors = s.hub.anchors ∧ h.nvm = s.hub.nvm
      ∧ h.tx[s.hub.tx.length]? = some (plainOut s.hub n f ⟨2, id, 0, 0, 0, acceptBody (openTarget b) (openNonce b) d⟩)
      ∧ ((∀ e ∈ (s.hub.tgt n).events, e.copies ≠ []) → h.sessions = s.hub.sessions ++ [newSession id n (srcMac f) b d]
          ∧ h.tx.length = s.hub.tx.length + 1)))
  ∧ (Arrives s eng 1 f → openFormed p = false → RunsHub (.hraOpen f) s fun h =>
      h = { s.hub with tx := s.hub.tx ++ [plainOut s.hub eng f ⟨15, 0, 0, 0, 4, [openTarget b, 6, 0, 0]⟩] })
  ∧ (RunsHub (.sessionTimeout ses) s fun h => h.sessions = s.hub.sessions.filter (·.id ≠ ses) ∧ h.tx = s.hub.tx)
  ∧ (InSession s 7 f t → t.judge (hraSeq p) (hraTag p) = .accept → RunsHub (.hraClose f) s fun h =>
      h.session t.id = none ∧ h.tx = s.hub.tx ++ [sessionOut s.hub t ⟨7, t.id, t.out + 1, 0, 0, []⟩])
  ∧ (∀ i ∈ [(Instr.request f, 3), (Instr.eventAck f, 6), (Instr.hraClose f, 7)],
      (InSession s i.2 f t → t.judge (hraSeq p) (hraTag p) = .resend q → RunsHub i.1 s fun h =>
        h.session t.id = some { t with lastReply := some q } ∧ h.slices = s.hub.slices ∧ h.tx = s.hub.tx ++ [(t.target, q.frame)])
      ∧ (InSession s i.2 f t → t.judge (hraSeq p) (hraTag p) = .stale → RunsHub i.1 s fun h =>
        let g := sessionOut s.hub t ⟨4, t.id, t.out + 1, 0, 5, [0]⟩
        h.session t.id = some { t with out := t.out + 1, lastReply := some ⟨hraSeq p, hraTag p, 5, [0], g.2⟩ }
        ∧ h.slices = s.hub.slices ∧ h.tx = s.hub.tx ++ [g])
      ∧ (InSession s i.2 f t → t.judge (hraSeq p) (hraTag p) = .drop → RunsHub i.1 s fun h =>
        h = { s.hub with seqDrops := s.hub.seqDrops + 1 })
      ∧ (Arrives s eng i.2 f → s.hub.session (hraSes p) = none ∨ s.hub.session (hraSes p) = some t ∧ t.target ≠ eng →
        exec i.1 s = .next s)
      ∧ (Arrives s t.target i.2 f → hraFormed p = true → s.hub.session (hraSes p) = some t → hraTagOk t.hostKey p = false →
        let old := t.tagFails.filter fun c => decide (s.hub.clk < c + 800000000)
        (old.length < 15 → RunsHub i.1 s fun h => h.session t.id = some { t with tagFails := old ++ [s.hub.clk] } ∧ h.tx = s.hub.tx)
        ∧ (15 ≤ old.length → RunsHub i.1 s fun h => h.session t.id = none ∧ h.tx = s.hub.tx)))

/-- REQUESTs and events (R90, R91, R93, R95, R96): a malformed REQUEST is answered with the operation's index and does nothing; an
accepted one runs, or waits behind the one that runs; one without operations is answered at once, but wakes a slice that sleeps
first; an acknowledged event is forgotten for its session; an event is sent again at most 8 times. What the spec leaves open
here is the model's choice: log entries 23, 108, 109, 117 and 123. -/
def Obligations.HraRequestsAndEvents : Prop := ∀ (s : State) (ses k : Nat) (f : Bytes) (t : Session)
    (ops : List HraOp) (r : HraRun), s.hub.slices.length = 8 →
  let p := hraPart f
  let taken := { t with h := max t.h (hraSeq p), seen := (hraSeq p, hraTag p) :: t.seen }
  let out := fun (status : Byte) (body : Bytes) => sessionOut s.hub t ⟨4, t.id, t.out + 1, 0, status, body⟩
  (InSession s 3 f t → t.judge (hraSeq p) (hraTag p) = .accept →
    (requestOps (hraNops p) (hraBody p) = .error k → RunsHub (.request f) s fun h =>
      (∃ u, h.session t.id = some u ∧ u.lastReply = some ⟨hraSeq p, hraTag p, 7, [byteOf k], (out 7 [byteOf k]).2⟩
        ∧ u.cache.getLast? = u.lastReply ∧ u.run = t.run ∧ u.h = max t.h (hraSeq p) ∧ u.out = t.out + 1)
      ∧ h.tx = s.hub.tx ++ [out 7 [byteOf k]] ∧ h.slices = s.hub.slices ∧ h.charter = s.hub.charter)
    ∧ (requestOps (hraNops p) (hraBody p) = .ok ops → t.run = none → ops ≠ [] ∨ s.targetSleeps t.target = true →
      Runs (.request f) s fun u =>
        u.hub.session t.id = some { taken with run := some ⟨hraSeq p, hraTag p, ops, 0, []⟩ }
        ∧ u.hub.tx = s.hub.tx ∧ ∀ n, n.val ≠ t.target → u.slice n = s.slice n)
    ∧ (requestOps (hraNops p) (hraBody p) = .ok [] → t.run = none → s.targetSleeps t.target = false → RunsHub (.request f) s fun h =>
      (∃ u, h.session t.id = some u ∧ u.lastReply = some ⟨hraSeq p, hraTag p, 0, [0xFF], (out 0 [0xFF]).2⟩
        ∧ u.cache.getLast? = u.lastReply ∧ u.run = none ∧ u.out = t.out + 1)
      ∧ h.tx = s.hub.tx ++ [out 0 [0xFF]] ∧ h.slices = s.hub.slices)
    ∧ (requestOps (hraNops p) (hraBody p) = .ok ops → t.run = some r → Runs (.request f) s fun u =>
      u.hub.session t.id = some { taken with waiting := t.waiting ++ [⟨hraSeq p, hraTag p, ops, 0, []⟩] }
      ∧ u.hub.tx = s.hub.tx ∧ ∀ n, n.val ≠ t.target → u.slice n = s.slice n))
  ∧ (InSession s 6 f t → t.judge (hraSeq p) (hraTag p) = .accept → t.target ≤ 8 → (s.hub.tgt t.target).evLost = 0 →
    RunsHub (.eventAck f) s fun h =>
      let acked := beAt (hraBody p) 0 4
      (∀ e ∈ (h.tgt t.target).events, ∀ c ∈ e.copies, ¬(c.1 = t.id ∧ c.2.1 = acked))
      ∧ (∀ e ∈ (s.hub.tgt t.target).events, (∀ c ∈ e.copies, ¬(c.1 = t.id ∧ c.2.1 = acked)) → e ∈ (h.tgt t.target).events)
      ∧ h.session t.id = some taken ∧ ∀ n, n ≤ 8 → n ≠ t.target → h.tgt n = s.hub.tgt n)
  ∧ (∀ w : Word, s.hub.session ses = some t → t.target ≤ 8 → RunsHub (.eventResend ses w) s fun h =>
      let hit := fun (c : Nat × Nat × Nat) => decide (c.1 = ses) && decide (c.2.1 = w.toNat) && decide (c.2.2 < 8)
      let again := fun (c : Nat × Nat × Nat) => if hit c then (c.1, c.2.1, c.2.2 + 1) else c
      h.sessions = s.hub.sessions ∧ (∀ n, n ≤ 8 → n ≠ t.target → h.tgt n = s.hub.tgt n)
      ∧ (h.tgt t.target).events = (s.hub.tgt t.target).events.map (fun e => { e with copies := e.copies.map again })
      ∧ h.tx = s.hub.tx ++ ((s.hub.tgt t.target).events.filter fun e => e.copies.any hit).map fun e =>
          sessionOut s.hub t (eventFrame ses w.toNat e))
  ∧ (∀ w : Word, s.hub.session ses = none → exec (.eventResend ses w) s = .next s)

/-- Operations of a REQUEST whose turn it is (R89 to R93, R111): reads return words, writes write under their mask, READ64 and
WRITE64 take both halves in order, WAIT ends on a match, at its time-out with status 3; a refused address ends the REQUEST with
its status. What the spec leaves open here is the model's choice: log entries 31, 108 and 124. -/
def Obligations.HraRegisterOperations : Prop := ∀ (s q q2 : State) (ses n us : Nat) (tgt : Option SliceId) (t : Session)
    (r : HraRun) (op : HraOp) (rest : List HraOp) (off v m w w2 : Word) (dv : Dword) (d : Bytes),
    OpTurn s ses tgt t r op rest → rest ≠ [] →
  (op = .read32 off n → s.hraReads tgt off.toNat n = (.done d, q) → Runs (.hraRead32 ses) s fun u => u = opDone q ses r rest d)
  ∧ (op = .write32 off v m → s.hraWrite tgt off.toNat v m = (.ok w, q) → Runs (.hraWrite32 ses) s fun u =>
      u = opDone q ses r rest [])
  ∧ (op = .read64 off → s.hraRead tgt off.toNat = (.ok w, q) → q.hraRead tgt (off.toNat + 4) = (.ok w2, q2) →
      Runs (.hraRead64 ses) s fun u => u = opDone q2 ses r rest (wordBytes w2 ++ wordBytes w))
  ∧ (op = .write64 off dv → s.hraWrite tgt (off.toNat + 4) (w32 (dv.toNat / 2 ^ 32)) allOnes = (.ok w, q) →
      q.hraWrite tgt off.toNat (w32 dv.toNat) allOnes = (.ok w2, q2) → Runs (.hraWrite64 ses) s fun u =>
      u = opDone q2 ses r rest [])
  ∧ (op = .wait off m v us → s.hraRead tgt off.toNat = (.ok w, q) → w &&& m = v → Runs (.hraWait ses) s fun u =>
      u = opDone q ses r rest (wordBytes w))
  ∧ (op = .wait off m v us → s.hraRead tgt off.toNat = (.ok w, q) → w &&& m ≠ v → Runs (.hraWait ses) s fun u => u = q)
  ∧ (op = .wait off m v us → t.waiting = [] → Runs (.waitTimeout ses) s fun u => u = opEnded s ses r 3 (byteOf r.done))
  ∧ (op = .read32 off (n + 1) → t.waiting = [] → (s.hraRead tgt off.toNat) = (.bad, s) → Runs (.hraRead32 ses) s fun u =>
      u = opEnded s ses r 1 (byteOf r.done))

/-- Operations on a slice and on the hub (R61, R67, R89, R93, R114, R430): staging, DMA kicks where the channel's HOST bit allows
them, WAKE, RESTART, which a slice held OFF for heat denies (R55). What the spec leaves open here is the model's choice: log
entries 108, 109, 110, 123 and 126. -/
def Obligations.HraSliceOperations : Prop := ∀ (s : State) (ses buf ch : Nat) (sl : SliceId) (t : Session) (r : HraRun)
    (op : HraOp) (rest : List HraOp) (it : Item) (tail : Word) (key : Byte), s.hub.slices.length = 8 →
    OpTurn s ses (some sl) t r op rest → rest ≠ [] →
  (op = .stage buf it → Runs (.muslinStage ses) s fun u => u = opDone (s.onSliceNow sl (musEnter · buf it)) ses r rest [])
  ∧ (op = .kick ch tail → regBit (s.slice sl) kDMA (0x1008 + 64 * ch) 31 = true → Runs (.dmaKick ses) s fun u =>
      u = opDone (s.onSliceNow sl (dmaTail · ch tail)) ses r rest [])
  ∧ (op = .kick ch tail → regBit (s.slice sl) kDMA (0x1008 + 64 * ch) 31 = false → t.waiting = [] → Runs (.dmaKick ses) s fun u =>
      u = opEnded s ses r 4 (byteOf r.done))
  ∧ (op = .wake → Runs (.hraWake ses) s fun u => u = opDone s ses r rest [0])
  ∧ (op = .restart key → ((s.hub.tgt sl.val).thermal && (s.hub.tgt sl.val).hot) = true → t.waiting = [] → Runs (.hraRestart ses) s fun u =>
      u = opEnded s ses r 4 (byteOf r.done))
  ∧ (op = .restart key → ((s.hub.tgt sl.val).thermal && (s.hub.tgt sl.val).hot) = false → Runs (.hraRestart ses) s fun u =>
      (u.slice sl).phase = .off ∧ (u.slice sl).dram = [] ∧ (u.hub.tgt sl.val).start = true
      ∧ ((s.hub.tgt sl.val).started = true → (u.hub.tgt sl.val).cause = 2) ∧ ∀ n, n ≠ sl → u.slice n = s.slice n)

/-- The NVM of the hub and the time output (R42, R63, R67, R83, R376, R491): a staged word joins its set; PROGRAM and READ begin
unless BUSY, PROGRAM outside the user's partitions with RANGE, in a protected bank with DENIED; the page holds the words staged
once the PROGRAM ends, a READ leaves its words to read; a slice whose HUBWIN bit is 0 takes an access fault, and the access is
counted; the time output is the hub owner's. What the spec leaves open here is the model's choice: log entries 27, 39 and 136. -/
def Obligations.NvmAndTimeOutput : Prop := ∀ (s : State) (u : HubUser) (w : Word) (a : Nat) (sl : SliceId),
  s.hub.answers = true → s.hub.nvmSets.length = 9 →
  let v := s.hub.nvmSet (userNum u)
  let ends := fun (t : State) (b : BusReply) => t.pending = s.pending
    ∧ ∀ n, t.slice n = if u = .slice n then { s.slice n with bus := b } else s.slice n
  (pagePermitted s.hub u 2 = true → v.op = none →
    (v.words.length < 1024 → Runs (.nvmDataWrite u w) s fun t => ends t .done ∧
      (t.hub.nvmSet (userNum u)).words = v.words ++ [w] ∧ t.hub.nvm = s.hub.nvm
      ∧ ∀ n, n ≠ userNum u → t.hub.nvmSet n = s.hub.nvmSet n)
    ∧ (s.hub.inRange (userNum u) v.addr.toNat = false → Runs (.nvmProgram u) s fun t => ends t .done ∧
      (t.hub.nvmSet (userNum u)).status = 2 ∧ (t.hub.nvmSet (userNum u)).op = none ∧ t.hub.nvm = s.hub.nvm)
    ∧ (s.hub.inRange (userNum u) v.addr.toNat = true →
      s.hub.writeRefused (userNum u) v.addr.toNat = true → Runs (.nvmProgram u) s fun t => ends t .done ∧
      (t.hub.nvmSet (userNum u)).status = 1 ∧ (t.hub.nvmSet (userNum u)).op = none ∧ t.hub.nvm = s.hub.nvm)
    ∧ (s.hub.inRange (userNum u) v.addr.toNat = true →
      s.hub.writeRefused (userNum u) v.addr.toNat = false → Runs (.nvmProgram u) s fun t => ends t .done ∧
      (t.hub.nvmSet (userNum u)).op = some (true, v.addr.toNat) ∧ (t.hub.nvmSet (userNum u)).status = 0
      ∧ (t.hub.nvmSet (userNum u)).words = v.words ∧ t.hub.nvm = s.hub.nvm)
    ∧ (Runs (.nvmRead u) s fun t => ends t .done ∧
      (t.hub.nvmSet (userNum u)).op = some (false, v.addr.toNat) ∧ (t.hub.nvmSet (userNum u)).words = []
      ∧ t.hub.nvm = s.hub.nvm))
  ∧ (pagePermitted s.hub u 2 = true → v.op.isSome = true → ∀ i ∈ [Instr.nvmProgram u, .nvmRead u],
    Runs i s fun t => ends t .done ∧ (t.hub.nvmSet (userNum u)).ign = true ∧ (t.hub.nvmSet (userNum u)).op = v.op
      ∧ t.hub.nvm = s.hub.nvm)
  ∧ (u = .slice sl → s.hub.slices.length = 8 → pagePermitted s.hub u 2 = false →
    ∀ i ∈ [Instr.nvmDataWrite u w, .nvmProgram u, .nvmRead u], Runs i s fun t => ends t .accessFault ∧
      (t.hub.tgt sl.val).denied = (s.hub.tgt sl.val).denied + 1 ∧ t.hub.nvmSets = s.hub.nvmSets ∧ t.hub.nvm = s.hub.nvm)
  ∧ (v.op = some (true, a) → v.words.length = 1024 → RunsHub (.nvmCommandDone u) s fun h =>
      h.nvmGet a 4096 = wordsBytes v.words ∧ (h.nvmSet (userNum u)).op = none
      ∧ (∀ b n, b + n ≤ a ∨ a + 4096 ≤ b → h.nvmGet b n = s.hub.nvmGet b n) ∧ h.anchors = s.hub.anchors)
  ∧ (v.op = some (false, a) → RunsHub (.nvmCommandDone u) s fun h =>
      wordsBytes (h.nvmSet (userNum u)).page = s.hub.nvmGet a 4096 ∧ (h.nvmSet (userNum u)).op = none ∧ h.nvm = s.hub.nvm)
  ∧ (RunsHub (.timeOutputSelect .hub w) s fun h =>
      h = { s.hub with tout := w &&& 0x80000073#32,
                       timeFlag := wbit w 31 && !(s.slice ⟨fld w 6 4 % 8, Nat.mod_lt _ (by decide)⟩).on })
  ∧ (RunsHub (.timeOutputSelect (.slice sl) w) s fun h => h = s.hub)

/-- Writes of 32-bit registers (R4, R101): an RW register of a DISABLED block takes the bits that may be written, in itself and in
its committed image; in any other block it keeps its value, and _WIGN with cause 13 says so; an LV or W1C register takes or
clears its bits at once. Nothing else of the slice changes, but CHANGED where an armed muslin names the register. A CPU writes
mcounteren in M mode and scounteren in M or S mode, and no other counter CSR (R414). What the spec leaves open here is the
model's choice: log entries 5, 28, 30, 43 and 130. -/
def Obligations.RegisterWrite : Prop := ∀ (s : State) (sl : SliceId) (req : Requester) (mode : Priv) (addr v : Word)
    (blk off : Nat) (r : RegRow) (c : Cpu) (k : CoreCsr),
  let x := s.slice sl
  let x' := fun (t : State) => t.slice sl
  (x.on = true → cpuState x c.val ≠ cpuFenced → RunsOn (.registerWrite sl (.cpu c) mode (.csr k) v) s sl fun y =>
    y = if k = .mcounteren ∧ mode = .m then
          { x with cores := x.cores.set c.val { x.cores[c.val] with mcounteren := v }, bus := .done }
        else if k = .scounteren ∧ mode ≠ .u then
          { x with cores := x.cores.set c.val { x.cores[c.val] with scounteren := v }, bus := .done }
        else { x with bus := .illegal }) ∧
  (Reaches x req mode addr blk off r → r.slow = false → r.sh = false → pairLow blk off = none →
  (r.rw ≠ 0 → blkState x blk = 0 → blk ≠ kLNE → blk ≠ kSRG → Runs (.registerWrite sl req mode (.mem addr) v) s fun t =>
    x' t = { x with regs := (x' t).regs, image := (x' t).image, bus := .done } ∧ RegsBut x (x' t) [(blk, off), (blk, 8)]
    ∧ regGet (x' t) blk off = maskedNew r (regGet x blk off) v
    ∧ sGet (resetOf x.id.val blk off) (x' t).image (regKey blk off) = maskedNew r (regGet x blk off) v
    ∧ t.hub = s.hub ∧ t.pending = s.pending ∧ ∀ n, n ≠ sl → n ≠ twin sl → t.slice n = s.slice n)
  ∧ (r.rw ≠ 0 → r.lv = 0 → r.w1c = 0 → blkState x blk ≠ 0 → Runs (.registerWrite sl req mode (.mem addr) v) s fun t =>
    x' t = { x with regs := (x' t).regs, bus := .done }
    ∧ RegsBut x (x' t) ((blk, 0xC) :: raiseKeys blk 13)
    ∧ (regBit x blk 0xC 31 = false → regGet (x' t) blk 0xC = w32 (2 ^ 31 + off))
    ∧ (regBit x blk 0xC 31 = true → regBit (x' t) blk 0xC 30 = true)
    ∧ t.hub = s.hub ∧ ∀ n, n ≠ sl → n ≠ twin sl → t.slice n = s.slice n)
  ∧ (r.rw = 0 → r.writable = true → 0x18 ≤ off → (coreWrite x req mode (paired s sl) blk off r v) = none → ownWrite x blk off v = none →
    ¬(blk = kRIF ∧ off = 0x140) → ¬(blk = kDRC ∧ off = 0x148) → Runs (.registerWrite sl req mode (.mem addr) v) s fun t =>
    x' t = { x with regs := (x' t).regs, bus := .done } ∧ RegsBut x (x' t) [(blk, off), (blk, 8)]
    ∧ regGet (x' t) blk off = maskedNew r (regGet x blk off) v
    ∧ t.hub = s.hub ∧ ∀ n, n ≠ sl → n ≠ twin sl → t.slice n = s.slice n))

/-- The bits of a register that a write changes (R4): an RW or LV bit takes the value written, a W1C bit is cleared by a 1, every
other bit keeps its value. What the spec leaves open here is the model's choice: log entry 30. -/
def Obligations.WrittenBits : Prop := ∀ (blk off : Nat) (r : RegRow) (old v : Word) (i : Nat), rowAt blk off = some r → i < 32 →
  wbit (maskedNew r old v) i =
    if r.rw.testBit i || r.lv.testBit i then wbit v i else wbit old i && !(r.w1c.testBit i && wbit v i)

/-- Reads of 32-bit registers (R4, R103, R112, R113, R462): a read returns the register's value and clears RCL bits alone; an
address without a register reads as 0, or is a bus error whose first offset is kept; a page of the hub window that HUBWIN does
not permit and an address of nothing are access faults; PRF refuses U mode; a read whose parity check finds a mismatch does what
PARITY_SCAN does with it, and then reads. A CPU reads a counter CSR in M mode, in S mode where mcounteren permits it, and in U
mode where scounteren does too; any other read is an illegal instruction (R414). 64-bit pairs (R108 to R110): a read of the low
word latches the high word for its requester; a write of the high word waits in the requester's holding register, and the write
of the low word commits both. An 8-byte load or store is the sequence of both (R111). What the spec leaves open here is the
model's choice: log entries 5, 28, 33, 34, 35, 36, 37, 38, 40 and 130. -/
def Obligations.RegisterReads : Prop :=
  (∀ (s : State) (sl : SliceId) (req : Requester) (mode : Priv) (addr : Word)
    (blk off : Nat) (r : RegRow) (c : Cpu) (n : Fin 29),
  let x := s.slice sl
  let x' := fun (t : State) => t.slice sl
  let core := x.cores[c.val]
  let may := fun (i : Nat) => mode = .m ∨ wbit core.mcounteren i = true ∧ (mode = .s ∨ wbit core.scounteren i = true)
  let csr := fun (k : CoreCsr) (b : BusReply) =>
    RunsOn (.registerRead sl (.cpu c) mode (.csr k) none) s sl fun y => y = { x with bus := b }
  let pair := fun (v : Nat) => BusReply.pair (w32 (v / 2 ^ 32)) (w32 v)
  (x.on = true → cpuState x c.val ≠ cpuFenced →
    (may 0 → csr .cycle (pair (core.half / 2 % 2 ^ 64))) ∧ (¬ may 0 → csr .cycle .illegal)
    ∧ (may 1 → csr .time (pair (pairGet x kICN 0x100))) ∧ (¬ may 1 → csr .time .illegal)
    ∧ (may (n.val + 3) → csr (.hpmcounter n) (pair (pairGet x kPRF (0x1000 + 8 * n.val) % 2 ^ 48)))
    ∧ (¬ may (n.val + 3) → csr (.hpmcounter n) .illegal)
    ∧ csr .mhartid (if mode = .m then pair c.val else .illegal)) ∧
  (Reaches x req mode addr blk off r → pairLow blk off = none → r.rw = 0 ∨ reloading x blk = false →
    r.slow = false ∨ pendBusy x blk = false →
    ¬(blk = kSRG ∧ off = 0x4008) → ¬(blk = kFWD ∧ off = 0x11C) → ¬(blk = kTMG ∧ off = 0x208) → ¬(blk = kMCS ∧ off = 0x21C) →
    Runs (.registerRead sl req mode (.mem addr) none) s fun t =>
      x' t = { x with regs := (x' t).regs, bus := .value (regValue x blk off) } ∧ RegsBut x (x' t) [(blk, off)]
      ∧ (regGet (x' t) blk off).toNat = (regGet x blk off).toNat &&& (all32 - r.rcl)
      ∧ t.hub = s.hub ∧ t.pending = s.pending ∧ ∀ n, n ≠ sl → n ≠ twin sl → t.slice n = s.slice n)
  ∧ (x.on = true → inRegSpace addr.toNat = true → regAt x (addr.toNat - 0x40000000) = none → strictDecode x = false →
    RunsOn (.registerRead sl req mode (.mem addr) none) s sl fun y => y = { x with bus := .value 0 })
  ∧ (x.on = true → inRegSpace addr.toNat = true → regAt x (addr.toNat - 0x40000000) = none → strictDecode x = true →
    RunsOn (.registerRead sl req mode (.mem addr) none) s sl fun y =>
      y = { x with regs := y.regs, bus := .busError } ∧ RegsBut x y [(kRIF, 0x140)] ∧ regBit y kRIF 0x140 30 = true
      ∧ (regBit x kRIF 0x140 30 = false → regFld y kRIF 0x140 27 0 = addr.toNat - 0x40000000))
  ∧ (x.on = true → inRegSpace addr.toNat = true → req ≠ .hra →
    regAt x (addr.toNat - 0x40000000) = some (kPRF, off, r) → prfCounter off = none →
    RunsOn (.registerRead sl req .u (.mem addr) none) s sl fun y =>
      y = { x with regs := y.regs, bus := .value 0 } ∧ RegsBut x y [(kPRF, 0x100)] ∧ regBit y kPRF 0x100 27 = true)
  ∧ (x.on = true → s.hub.answers = true → inHubWindow addr.toNat = true → s.hub.slices.length = 8 →
    pagePermitted s.hub (.slice sl) ((addr.toNat - 0x50000000) / 4096) = false →
    Runs (.registerRead sl req mode (.mem addr) none) s fun t => x' t = { x with bus := .accessFault }
      ∧ (t.hub.tgt sl.val).denied = (s.hub.tgt sl.val).denied + 1 ∧ ∀ n, n ≠ sl → t.slice n = s.slice n)
  ∧ (x.on = true → inRegSpace addr.toNat = false → inHubWindow addr.toNat = false → inBootRom addr.toNat = false →
    RunsOn (.registerRead sl req mode (.mem addr) none) s sl fun y => y = { x with bus := .accessFault })
  ∧ (Reaches x req mode addr blk off r → ∀ (u : ParityUnit) (bad : Bool), ∃ t t',
    exec (.parityScan sl (some ⟨BitVec.ofNat 28 (blk * 0x100000 + off), u, bad⟩)) s = .next t
    ∧ exec (.registerRead sl req mode (.mem addr) (some (u, bad))) s = .next t' ∧ exec (.registerRead sl req mode (.mem addr) none) t = .next t'))
  ∧ (∀ (s : State) (sl : SliceId) (req : Requester) (mode : Priv) (addr v hi : Word)
    (blk off : Nat) (r rh : RegRow), Reaches (s.slice sl) req mode addr blk off r → r.slow = false →
  let x := s.slice sl
  let x' := fun (t : State) => t.slice sl
  (pairLow blk off = some off → r.rw = 0 → Runs (.lowWordRead sl req mode addr false) s fun t =>
    x' t = { x with bus := .value (regValue x blk off), shadow := (x' t).shadow }
    ∧ tagFind (x' t).shadow req (regKey blk off) = some (regValue x blk (off + 4))
    ∧ (∀ q k, q ≠ req → tagFind (x' t).shadow q k = tagFind x.shadow q k)
    ∧ t.hub = s.hub ∧ ∀ n, n ≠ sl → n ≠ twin sl → t.slice n = s.slice n)
  ∧ (r.sh = true → r.lv ≠ 0 → Runs (.highWordWrite sl req mode addr v) s fun t =>
    x' t = { x with bus := .done, holding := (x' t).holding } ∧ tagFind (x' t).holding req (regKey blk (off - 4)) = some v
    ∧ (∀ q k, q ≠ req → tagFind (x' t).holding q k = tagFind x.holding q k)
    ∧ t.hub = s.hub ∧ ∀ n, n ≠ sl → n ≠ twin sl → t.slice n = s.slice n)
  ∧ (r.sh = false → pairLow blk off = some off → rowAt blk (off + 4) = some rh → r.lv ≠ 0 → rh.lv ≠ 0 → r.w1c = 0 → rh.w1c = 0 →
    blk ≠ kSWC → blk ≠ kDMA → Runs (.lowWordWrite sl req mode addr v none) s fun t =>
    regGet (x' t) blk off = maskedNew r (regGet x blk off) v
    ∧ (tagFind x.holding req (regKey blk off) = some hi → regGet (x' t) blk (off + 4) = maskedNew rh (regGet x blk (off + 4)) hi)
    ∧ (tagFind x.holding req (regKey blk off) = none → regGet (x' t) blk (off + 4) = regGet x blk (off + 4))
    ∧ tagFind (x' t).holding req (regKey blk off) = none ∧ RegsBut x (x' t) [(blk, off), (blk, off + 4), (blk, 8)]
    ∧ (x' t).bus = .done ∧ (x' t).dram = x.dram ∧ t.hub = s.hub ∧ ∀ n, n ≠ sl → n ≠ twin sl → t.slice n = s.slice n)
  ∧ (pairLow blk off = some off → Reaches x req mode (addr + 4) blk (off + 4) rh → addr.toNat + 4 < 2 ^ 32 → r.rw = 0 → rh.rw = 0 →
    rh.slow = false → Runs (.lowWordRead sl req mode addr true) s fun t =>
      x' t = { x with bus := .pair (regValue x blk (off + 4)) (regValue x blk off), shadow := (x' t).shadow }
      ∧ tagFind (x' t).shadow req (regKey blk off) = some (regValue x blk (off + 4))
      ∧ t.hub = s.hub ∧ ∀ n, n ≠ sl → n ≠ twin sl → t.slice n = s.slice n)
  ∧ (pairLow blk off = some off → Reaches x req mode (addr + 4) blk (off + 4) rh → addr.toNat + 4 < 2 ^ 32 → r.lv ≠ 0 → rh.lv ≠ 0 →
    r.w1c = 0 → rh.w1c = 0 → blk ≠ kSWC → blk ≠ kDMA → Runs (.lowWordWrite sl req mode addr v (some hi)) s fun t =>
      regGet (x' t) blk off = maskedNew r (regGet x blk off) v ∧ regGet (x' t) blk (off + 4) = maskedNew rh (regGet x blk (off + 4)) hi
      ∧ tagFind (x' t).holding req (regKey blk off) = none ∧ RegsBut x (x' t) [(blk, off), (blk, off + 4), (blk, 8)]
      ∧ (x' t).bus = .done ∧ (x' t).dram = x.dram ∧ t.hub = s.hub ∧ ∀ n, n ≠ sl → n ≠ twin sl → t.slice n = s.slice n))

/-- Stores to the on-die memories window (R412): a word of a writable area is written alone; an 8-byte store to the upper half of an
L2 entry is held, and lands with the lower half; a read-only area discards; an unaligned store faults. What the spec leaves open
here is the model's choice: log entry 5. -/
def Obligations.OnDieWindowWrite : Prop := ∀ (s : State) (sl : SliceId) (c : Cpu) (off : Word) (bs : Bytes) (tid idx w e : Nat)
    (d : Dword), (s.slice sl).on = true →
  let x := s.slice sl
  (bs.length = 4 → off.toNat % 4 = 0 → l2Entry off.toNat = none → winCell off.toNat = .tab tid idx w true →
    RunsOn (.onDieWindowWrite sl c off bs) s sl fun y =>
      y = { x with tabs := y.tabs, regs := y.regs, bus := .done } ∧ tabGet y tid idx w = w32 (beNat bs)
      ∧ (∀ k, k ≠ tabKey tid idx w → sFind y.tabs k = sFind x.tabs k) ∧ RegsBut x y [(tid / 256, 8)])
  ∧ (bs.length = 8 → off.toNat % 16 = 8 → l2Entry off.toNat = some e → RunsOn (.onDieWindowWrite sl c off bs) s sl fun y =>
      y = { x with winHold := x.winHold.filter (·.1 ≠ c) ++ [(c, e, d64 (beNat bs))], bus := .done })
  ∧ (bs.length = 8 → off.toNat % 16 = 0 → l2Entry off.toNat = some e →
      (x.winHold.find? fun h => decide (h.1 = c) && decide (h.2.1 = e)).map (·.2.2) = some d →
    RunsOn (.onDieWindowWrite sl c off bs) s sl fun y =>
      y = { x with tabs := y.tabs, winHold := x.winHold.filter (·.1 ≠ c), bus := .done }
      ∧ tabRow y tL2 ((off.toNat - 0x5000000) / 16) 4 = [w32 (beAt bs 0 4), w32 (beAt bs 4 4), w32 (d.toNat / 2 ^ 32), w32 d.toNat]
      ∧ ∀ k, k < tabKey tL2 ((off.toNat - 0x5000000) / 16) 0 ∨ tabKey tL2 ((off.toNat - 0x5000000) / 16) 4 ≤ k →
        sFind y.tabs k = sFind x.tabs k)
  ∧ (bs.length = 4 → off.toNat % 4 = 0 → winCell off.toNat = .none ∨ winCell off.toNat = .tab tid idx w false →
    RunsOn (.onDieWindowWrite sl c off bs) s sl fun y => y = { x with bus := .done })
  ∧ (bs.length ≠ 4 ∧ bs.length ≠ 8 ∨ off.toNat % bs.length ≠ 0 → RunsOn (.onDieWindowWrite sl c off bs) s sl fun y =>
      y = { x with bus := .accessFault })

/-- Block states (R99, R100, R126): a write of EN moves the block as R99 says, and with DRAIN 1 nothing is discarded; a muslin that
polls the block holds the write, which takes effect after the poll; a block with no work in flight reaches DISABLED, or ENABLED
where an enable is pending. What the spec leaves open here is the model's choice: log entries 5, 52 and 53. -/
def Obligations.BlockStates : Prop := ∀ (s : State) (sl : SliceId) (blk : Block) (v : Word), (s.slice sl).on = true →
    Quiet (s.slice sl) → blk.val ≠ kTWN →
  let x := s.slice sl
  (ctlHeld x blk.val = true → Runs (.ctlWrite sl blk v) s fun t =>
    t = s.setSlice sl { x with heldCtl := x.heldCtl ++ [(blk.val, v)], bus := .done })
  ∧ (ctlHeld x blk.val = false → blk.val ≠ kLNE → wbit v 1 = true → Runs (.ctlWrite sl blk v) s fun t =>
    (∃ r, t.slice sl = { x.setRegs r with bus := .done })
    ∧ RegsBut x (t.slice sl) [(blk.val, 4), (blk.val, 8)] ∧ regGet (t.slice sl) blk.val 4 = w32 (fld v 1 0)
    ∧ blkState (t.slice sl) blk.val = (match blkState x blk.val, wbit v 0 with
        | 0, true => 1 | 1, false => 2 | 2, true => 3 | 3, false => 2 | k, _ => k)
    ∧ regFld (t.slice sl) blk.val 8 31 3 = regFld x blk.val 8 31 3
    ∧ t.hub = s.hub ∧ t.pending = s.pending ∧ ∀ n, n ≠ sl → t.slice n = s.slice n)
  ∧ (ctlHeld x blk.val = false → blk.val = kCLS → blkState x kCLS = 1 → fld v 1 0 = 0 → Runs (.ctlWrite sl blk v) s fun t =>
    blkState (t.slice sl) kCLS = 2 ∧ (t.slice sl).win = [] ∧ (t.slice sl).recirc = [] ∧ (t.slice sl).flowIn = []
    ∧ (t.slice sl).trackers = x.trackers ∧ (t.slice sl).dram = x.dram)
  ∧ (bufIn x msPolling = none → x.heldCtl = [(blk.val, v)] → blk.val ≠ kLNE → wbit v 1 = true → Runs (.heldCtlApply sl) s fun t =>
    (t.slice sl).heldCtl = [] ∧ regGet (t.slice sl) blk.val 4 = w32 (fld v 1 0)
    ∧ blkState (t.slice sl) blk.val = ctlNext (blkState x blk.val) (wbit v 0) ∧ t.hub = s.hub
    ∧ ∀ n, n ≠ sl → t.slice n = s.slice n)
  ∧ (inflight x blk.val = 0 → blk.val ≠ kSRG → blkState x blk.val = 2 ∨ blkState x blk.val = 3 →
    RunsOn (.blockDrained sl blk) s sl fun y => RegsOnlyBut x y [(blk.val, 8)]
      ∧ blkState y blk.val = (if blkState x blk.val = 2 then 0 else 1))
  ∧ (inflight x blk.val ≠ 0 → RunsOn (.blockDrained sl blk) s sl fun y => y = x)

/-- Parity of configuration (R103, R104): the first mismatch of a register sets RELOAD, _PERR and cause 14; one that recurs within a
second fences the block whose copy it is, and a block of the forwarding path takes the slice with it; a reload gives every RW
register of the block its committed value. Slow registers (R105 to R107, R148): a posted write lands in its domain and BUSY
falls; one that finds BUSY set is dropped, with DROPPED, the first offset and cause 15. What the spec leaves open here is the
model's choice: log entries 28, 29, 38, 41 and 101. -/
def Obligations.ParityAndSlowWrites : Prop :=
  (∀ (s : State) (sl : SliceId) (h : ParityHit) (r : RegRow) (blk : Block) (off : Nat)
    (w : Word), (s.slice sl).on = true →
  let x := s.slice sl
  let b := h.addr.toNat / 0x100000
  let o := h.addr.toNat % 0x100000
  (rowAt b o = some r → r.rw ≠ 0 → fenced x b = false → recurs x (regKey b o) h.unit = false → h.imageBad = false →
    RunsPair (.parityScan sl (some h)) s sl fun y _ =>
      regBit y b 8 4 = true ∧ regBit y b 0x14 31 = true ∧ (regBit x b 0x14 31 = false → regFld y b 0x14 19 0 = o)
      ∧ blkState y b = blkState x b ∧ recurs y (regKey b o) h.unit = true ∧ y.lost = x.lost ∧ y.image = x.image ∧ y.dram = x.dram
      ∧ ∀ b' o', o' < 0x100000 → b' ≠ b → b' ≠ kFLT → b' ≠ kICN → regGet y b' o' = regGet x b' o')
  ∧ (rowAt b o = some r → r.rw ≠ 0 → fenced x b = false → recurs x (regKey b o) h.unit = true ∨ h.imageBad = true → h.unit = .block →
    b ≠ kSRG → RunsPair (.parityScan sl (some h)) s sl fun y _ =>
      blkState y b = 4 ∧ (b ∈ lostBlocks → y.lost = true ∧ y.report = true ∧ y.sending = [])
      ∧ (b ∉ lostBlocks → y.lost = x.lost) ∧ y.image = x.image ∧ y.dram = x.dram)
  ∧ (RunsPair (.parityScan sl none) s sl fun y _ => y = x)
  ∧ (Quiet x → reloading x blk.val = true → RunsOn (.reloadDone sl blk) s sl fun y =>
      (∃ q, y = x.setRegs q) ∧ reloading y blk.val = false
      ∧ (∀ b' o', o' < 0x100000 → b' ≠ blk.val → regGet y b' o' = regGet x b' o')
      ∧ (rowAt blk.val off = some r → off ≠ 8 → sFind x.image (regKey blk.val off) = some w →
        regGet y blk.val off = w32 ((regGet x blk.val off).toNat &&& (all32 - r.rw) ||| (w.toNat &&& r.rw)))))
  ∧ (∀ (s : State) (sl : SliceId) (l : Lane) (req : Requester) (mode : Priv) (addr v : Word)
    (blk off : Nat) (r : RegRow),
  let x := s.slice sl
  let x' := fun (t : State) => t.slice sl
  (x.on = true → pendBusy x kLNE = true → x.posted.filter (·.1 = kLNE) = [(kLNE, 0x2000 + 4 * l.val, v)] → fld v 31 30 = 0 →
    RunsPair (.slowWriteLand sl ⟨2, by decide⟩) s sl fun y _ =>
      y = { x with regs := y.regs, posted := x.posted.filter (·.1 ≠ kLNE) }
      ∧ RegsBut x y [(kLNE, 0x2000 + 4 * l.val), (kLNE, 0x10)] ∧ pendBusy y kLNE = false
      ∧ regFld y kLNE (0x2000 + 4 * l.val) 7 0 = fld v 7 0 ∧ regBit y kLNE (0x2000 + 4 * l.val) 29 = wbit v 29)
  ∧ (Reaches x req mode addr blk off r → r.slow = true → r.sh = false → r.writable = true → pairLow blk off = none →
    pendBusy x blk = false → Runs (.registerWrite sl req mode (.mem addr) v) s fun t =>
      x' t = { x with regs := (x' t).regs, posted := x.posted ++ [(blk, off, v)], bus := .done }
      ∧ RegsBut x (x' t) [(blk, 0x10)] ∧ pendBusy (x' t) blk = true ∧ t.hub = s.hub)
  ∧ (Reaches x req mode addr blk off r → r.slow = true → r.sh = false → r.writable = true → pairLow blk off = none →
    pendBusy x blk = true → Runs (.registerWrite sl req mode (.mem addr) v) s fun t =>
      x' t = { x with regs := (x' t).regs, bus := .done } ∧ RegsBut x (x' t) ((blk, 0x10) :: raiseKeys blk 15)
      ∧ regBit (x' t) blk 0x10 30 = true ∧ (regBit x blk 0x10 30 = false → regFld (x' t) blk 0x10 19 0 = off)))

/-- Staging a muslin (R114, R115): words of an item collect for their requester; the last word makes the item join the buffer, which
is BUILDING again; an armed buffer refuses with BADSTATE and cause 6. CLEAR and CHECK (R118, R119, R497): CLEAR empties a buffer
that is neither ARMED nor POLLING; CHECK puts a buffer into CHECKING with the verdict on the configuration committed now, and
its end shows CHECKED with OK or FAIL, MFAIL and cause 0. A session's command answers with RIF_MSTATn. What the spec leaves open
here is the model's choice: log entries 5, 42, 46, 49, 50 and 109. -/
def Obligations.MuslinStagingAndCheck : Prop :=
  (∀ (s : State) (sl : SliceId) (req : Requester) (n : Buf) (w : Word) (ws : List Word),
    (s.slice sl).on = true →
  let x := s.slice sl
  ((x.asm.find? fun a => decide (a.req = req) && decide (a.buf = n)).map (·.words)).getD [] = ws →
  (ws.length + 1 < itemWords (((ws ++ [w]).head?).getD 0) → RunsOn (.muslinStageWord sl req n w) s sl fun y =>
    y = { x with asm := (x.asm.filter fun a => !(decide (a.req = req) && decide (a.buf = n))) ++ [⟨req, n, ws ++ [w]⟩], bus := .done })
  ∧ (itemWords (((ws ++ [w]).head?).getD 0) ≤ ws.length + 1 → musState x n.val ≠ 4 → musState x n.val ≠ 5 →
      (musBuf x n.val).items.length < 65536 → RunsOn (.muslinStageWord sl req n w) s sl fun y =>
    y = { x with regs := y.regs, bufs := y.bufs, bus := .done,
                 asm := x.asm.filter fun a => !(decide (a.req = req) && decide (a.buf = n)) }
    ∧ musBuf y n.val = { musBuf x n.val with items := (musBuf x n.val).items ++ [wordsBytes (ws ++ [w])], checkOk := false }
    ∧ musBuf y (1 - n.val) = musBuf x (1 - n.val)
    ∧ musState y n.val = 1 ∧ regFld y kRIF (0x110 + 4 * n.val) 16 0 = (musBuf x n.val).items.length + 1
    ∧ RegsBut x y [(kRIF, 0x110 + 4 * n.val)])
  ∧ (itemWords (((ws ++ [w]).head?).getD 0) ≤ ws.length + 1 → musState x n.val = 4 ∨ musState x n.val = 5 →
    RunsOn (.muslinStageWord sl req n w) s sl fun y =>
      musState y n.val = musState x n.val ∧ regFld y kRIF (0x110 + 4 * n.val) 27 24 = 12 ∧ y.bufs = x.bufs
      ∧ RegsBut x y ((kRIF, 0x110 + 4 * n.val) :: raiseKeys kRIF 6)))
  ∧ (∀ (s : State) (sl : SliceId) (n : Buf) (ses k : Nat) (t : Session) (r : HraRun)
    (rest : List HraOp) (v : Dword), (s.slice sl).on = true →
  let x := s.slice sl
  (musState x n.val ≠ 4 → musState x n.val ≠ 5 → RunsPair (.muslinClear sl n .reg) s sl fun y _ =>
    y = { x with regs := y.regs, bufs := y.bufs, asm := x.asm.filter (·.buf.val ≠ n.val), bus := .done }
    ∧ musBuf y n.val = MusBuf.empty ∧ musBuf y (1 - n.val) = musBuf x (1 - n.val) ∧ musState y n.val = 0
    ∧ regFld y kRIF (0x110 + 4 * n.val) 27 24 = 0 ∧ RegsBut x y [(kRIF, 0x110 + 4 * n.val), (kRIF, 0x100)])
  ∧ (musState x n.val = 4 ∨ musState x n.val = 5 → ∀ i ∈ [Instr.muslinClear sl n .reg, .muslinCheck sl n .reg],
    RunsPair i s sl fun y _ => y = { x with regs := y.regs, bus := .done } ∧ musState y n.val = musState x n.val
      ∧ regFld y kRIF (0x110 + 4 * n.val) 27 24 = 12 ∧ RegsBut x y [(kRIF, 0x110 + 4 * n.val), (kRIF, 0x100)])
  ∧ (musState x n.val = 1 ∨ musState x n.val = 3 ∨ musState x n.val = 7 → RunsPair (.muslinCheck sl n .reg) s sl fun y _ =>
    musState y n.val = 2 ∧ (musBuf y n.val).items = (musBuf x n.val).items
    ∧ (musBuf y n.val).verdict = (checkVerdict (regSet x kRIF 0x100 (w32 (n.val * 256 + 2))) (paired s sl) (musBuf x n.val).items
        (x.asm.any (·.buf.val = n.val))).1.1
    ∧ y.tabs = x.tabs ∧ y.dram = x.dram ∧ RegsBut x y [(kRIF, 0x110 + 4 * n.val), (kRIF, 0x100)])
  ∧ (musState x n.val = 2 → RunsOn (.checkDone sl n) s sl fun y =>
    musState y n.val = 3 ∧ regGet y kRIF (0x118 + 4 * n.val) = (musBuf x n.val).verdict
    ∧ (musBuf y n.val).checkOk = decide ((musBuf x n.val).verdict = 0) ∧ (musBuf y n.val).items = (musBuf x n.val).items
    ∧ regFld y kRIF (0x110 + 4 * n.val) 27 24 = (if (musBuf x n.val).verdict = 0 then 0 else 1)
    ∧ RegsBut x y ([(kRIF, 0x110 + 4 * n.val), (kRIF, 0x118 + 4 * n.val), (kDMK, 0x130)] ++ raiseKeys kRIF 0))
  ∧ (∀ i c, (i, c) ∈ [(Instr.muslinClear sl n (.session ses), 1), (.muslinCheck sl n (.session ses), 2),
        (.muslinArm sl n (.session ses), 3), (.muslinCancel sl n (.session ses), 4)] →
    OpTurn s ses (some sl) t r (.cmd k c v) rest → rest ≠ [] → Runs i s fun u =>
      u = opDone (s.onSliceNow sl (musCommand · (paired s sl) k c v)) ses r rest
        (wordBytes (regGet ((s.onSliceNow sl (musCommand · (paired s sl) k c v)).slice sl) kRIF (0x110 + 4 * k)))))

/-- ARM, CANCEL, pre-load and the poll (R118, R123 to R126): ARM of a checked buffer that nothing of R123 refuses arms it, with the
epoch its commit will have; a refusal shows its RESULT and cause 4; CANCEL of an armed buffer gives CHECKED; blocks finish
pre-load; 10 µs before the instant the poll makes the buffer POLLING, for NEXT once every pre-load is finished and with the
instant 10 µs later. What the spec leaves open here is the model's choice: log entries 43, 45 and 46. -/
def Obligations.MuslinArmAndPoll : Prop := ∀ (s : State) (sl : SliceId) (n : Buf) (k : Nat) (blk : Block), (s.slice sl).on = true →
  let x := s.slice sl
  let x1 := regSet x kRIF 0x100 (w32 (n.val * 256 + 3))
  let b := { musBuf x n.val with op := mopOf x, tag := regGet x kRIF 0x104 }
  (armRefusal x1 (paired s sl) n.val b = some k → k < 16 → RunsPair (.muslinArm sl n .reg) s sl fun y _ =>
    y = { x with regs := y.regs, bus := .done } ∧ musState y n.val = musState x n.val
    ∧ regFld y kRIF (0x110 + 4 * n.val) 27 24 = k
    ∧ RegsBut x y ([(kRIF, 0x110 + 4 * n.val), (kRIF, 0x100)] ++ raiseKeys kRIF 4))
  ∧ (armRefusal x1 (paired s sl) n.val b = none → RunsPair (.muslinArm sl n .reg) s sl fun y _ =>
    musState y n.val = 4 ∧ regFld y kRIF (0x110 + 4 * n.val) 27 24 = 0
    ∧ regFld y kRIF (0x110 + 4 * n.val) 23 20 = (regFld x kRIF 0x130 31 28 + 1) % 16
    ∧ (musBuf y n.val).items = (musBuf x n.val).items ∧ (musBuf y n.val).op = mopOf x ∧ (musBuf y n.val).answers = []
    ∧ (musBuf y n.val).preloaded = [] ∧ RegsBut x y [(kRIF, 0x110 + 4 * n.val), (kRIF, 0x100)] ∧ y.tabs = x.tabs)
  ∧ (musState x n.val ≠ 4 → RunsPair (.muslinCancel sl n .reg) s sl fun y _ =>
    musState y n.val = musState x n.val ∧ regFld y kRIF (0x110 + 4 * n.val) 27 24 = 12 ∧ y.bufs = x.bufs)
  ∧ (musState x n.val = 4 → RunsPair (.muslinCancel sl n .reg) s sl fun y _ =>
    musState y n.val = 3 ∧ regFld y kRIF (0x110 + 4 * n.val) 27 24 = 10 ∧ y.bufs = x.bufs
    ∧ ∀ c ∈ touchedBlocks (musBuf x n.val).items, regBit y c 8 5 = false)
  ∧ (bufIn x 4 = some k → blk.val ∈ touchedBlocks (musBuf x k).items → blk.val ∉ (musBuf x k).preloaded →
    RunsOn (.preloadDone sl blk) s sl fun y => (musBuf y k).preloaded = (musBuf x k).preloaded ++ [blk.val]
      ∧ (musBuf y k).items = (musBuf x k).items ∧ musState y k = 4)
  ∧ (bufIn x 4 = some k → opNext (musBuf x k) = false →
      10000 * nsUnits < timeDiff (musBuf x k).instant (baseNow x (opBase (musBuf x k))) →
    RunsOn (.readinessPoll sl) s sl fun y => y = x)
  ∧ (bufIn x 4 = some k → opNext (musBuf x k) = false →
      timeDiff (musBuf x k).instant (baseNow x (opBase (musBuf x k))) ≤ 10000 * nsUnits → RunsOn (.readinessPoll sl) s sl fun y =>
    musState y k = 5 ∧ (musBuf y k).instant = (musBuf x k).instant ∧ RegsBut x y [(kRIF, 0x110 + 4 * k)] ∧ y.tabs = x.tabs)
  ∧ (bufIn x 4 = some k → opNext (musBuf x k) = true →
      (touchedBlocks (musBuf x k).items).all (· ∈ (musBuf x k).preloaded) = true → RunsOn (.readinessPoll sl) s sl fun y =>
    musState y k = 5 ∧ (musBuf y k).instant = (baseNow x (opBase (musBuf x k)) + 10000 * nsUnits) % timeMod
    ∧ RegsBut x y [(kRIF, 0x110 + 4 * k)])

/-- Readiness (R125, R126, R133, R134): a block that is not ready aborts the muslin with NOT_READY and cause 2; a ready block's
answer is kept; the twin's READY is acknowledged and kept while it is in time, and the twin's acknowledgement is kept. The
commit and the drain (R127, R128, R129, R133): at the instant and with every answer in, the registers a muslin names take their
values in themselves and in the committed image, the epoch advances and the old one drains, the buffer is COMMITTED with cause
1; without the twin's READY a coordinated muslin is aborted; the drain ends with the last packet of the old epoch. What the spec
leaves open here is the model's choice: log entries 44, 45, 46, 47 and 51. -/
def Obligations.MuslinReadinessAndCommit : Prop :=
  (∀ (s : State) (sl : SliceId) (k : Nat) (blk : Block) (ok : Bool) (tag : Word)
    (ms : List TwinMsg), (s.slice sl).on = true →
  let x := s.slice sl
  (bufIn x 5 = some k → blk.val ∈ touchedBlocks (musBuf x k).items → (musBuf x k).answers.any (·.1 = blk.val) = false →
      opTwin (musBuf x k) = false →
    (blockReady x (musBuf x k) blk.val = false →
      RunsPair (.readinessAnswer sl blk) s sl fun y _ =>
        musState y k = 7 ∧ regFld y kRIF (0x110 + 4 * k) 27 24 = 3 ∧ y.tabs = x.tabs ∧ y.image = x.image ∧ y.unacked = x.unacked)
    ∧ (blockReady x (musBuf x k) blk.val = true → (musBuf x k).passed = false →
      RunsPair (.readinessAnswer sl blk) s sl fun y _ =>
        (musBuf y k).answers = (musBuf x k).answers ++ [(blk.val, true)] ∧ musState y k = 5 ∧ y.tabs = x.tabs
        ∧ y.unacked = x.unacked ∧ RegsBut x y [(kRIF, 0x110 + 4 * k)]))
  ∧ (takeMsg asReady x.inbox = some ((ok, tag), ms) → linkIsUp x = true → fenced x kTWN = false →
    (bufIn x 4 = some k → opTwin (musBuf x k) = true → readyInTime x k = true → RunsPair (.twinReady sl) s sl fun y out =>
      (musBuf y k).twinReady = some (ok, tag) ∧ y.inbox = ms ∧ y.unacked = x.unacked ++ [⟨x.nextXfer, 0, .readyAck⟩]
      ∧ out = sentSince x y ∧ RegsBut x y [(kRIF, 0x110 + 4 * k)])
    ∧ (bufIn x 4 = none → bufIn x 5 = none → RunsPair (.twinReady sl) s sl fun y out =>
      y = { x with inbox := ms, unacked := x.unacked ++ [⟨x.nextXfer, 0, .readyAck⟩], nextXfer := x.nextXfer + 1 }
      ∧ TwinMsg.readyAck ∈ out))
  ∧ (takeMsg asReadyAck x.inbox = some ((), ms) → bufIn x 5 = some k → (musBuf x k).sentReady = true →
    RunsOn (.twinReadyAck sl) s sl fun y => (musBuf y k).twinAck = true ∧ y.inbox = ms ∧ (musBuf y k).items = (musBuf x k).items
      ∧ RegsBut x y [(kRIF, 0x110 + 4 * k)]))
  ∧ (∀ (s : State) (sl : SliceId) (k blk off : Nat) (it : Item) (r : RegRow),
    (s.slice sl).on = true →
  let x := s.slice sl
  let due := timeDiff (musBuf x k).instant (baseNow x (opBase (musBuf x k))) ≤ 0
  (bufIn x 5 = some k → ¬ due → RunsPair (.commitInstant sl) s sl fun y ms => y = x ∧ ms = sentSince x x)
  ∧ (bufIn x 5 = some k → due → (musBuf x k).items = [it] → allAnswered (musBuf x k) = true → opTwin (musBuf x k) = false →
      itemTouch it = .reg blk off → rowAt blk off = some r → r.rw ≠ 0 → blk ≠ kLNE → blk ≠ kSRG → itemBlock it = blk →
      itemKind it = 1 → (∀ v, ownWrite x blk off v = none) → musState x (1 - k) ≠ 2 → musState x (1 - k) ≠ 3 →
    RunsPair (.commitInstant sl) s sl fun y _ =>
      regGet y blk off = itemNew it (itemBits blk off) (regGet x blk off)
      ∧ sGet (resetOf x.id.val blk off) y.image (regKey blk off) = itemNew it (itemBits blk off) (regGet x blk off)
      ∧ musState y k = 6 ∧ regFld y kRIF 0x130 31 28 = (regFld x kRIF 0x130 31 28 + 1) % 16
      ∧ regFld y kRIF 0x130 27 24 = regFld x kRIF 0x130 31 28 ∧ regBit y kRIF 0x130 23 = true
      ∧ regGetEp y true blk off = regGet x blk off ∧ y.tabs = x.tabs
      ∧ RegsBut x y ([(blk, off), (blk, 8), (kRIF, 0x110 + 4 * k), (kRIF, 0x130)] ++ raiseKeys kRIF 1))
  ∧ (bufIn x 5 = some k → due → allAnswered (musBuf x k) = true → opTwin (musBuf x k) = true →
      (musBuf x k).twinReady ≠ some (true, (musBuf x k).tag) →
    RunsPair (.commitInstant sl) s sl fun y _ => musState y k = 7 ∧ regFld y kRIF (0x110 + 4 * k) 27 24 = 9 ∧ y.tabs = x.tabs
      ∧ y.image = x.image ∧ regGet y kRIF 0x130 = regGet x kRIF 0x130)
  ∧ (regBit x kRIF 0x130 23 = true → oldCount x = 0 → RunsOn (.oldEpochDrained sl) s sl fun y =>
      y = { x with regs := y.regs, regsOld := [], tabsOld := [] } ∧ regBit y kRIF 0x130 23 = false
      ∧ regFld y kRIF 0x130 31 28 = regFld x kRIF 0x130 31 28 ∧ RegsBut x y ((kRIF, 0x130) :: raiseKeys kRIF 3)))

/-- Notices, locks and ageing (R231, R232, R234, R235): the filter forgets its oldest entry; a read of FWD_LFIFO3 takes the oldest
notice; a lock that timed out is broken, counted, with cause 2; a visit clears HIT and AGED of an entry that was hit, marks one
that was not, and removes and counts one that is marked. What the spec leaves open here is the model's choice: log entries 4 and
64. -/
def Obligations.NoticesLocksAndAgeing : Prop := ∀ (s : State) (sl : SliceId) (b entry : Nat), (s.slice sl).on = true →
  let x := s.slice sl
  let w0 := tabGet x tL2 entry 0
  let e0 := w32 (beNat (dramGet x (region x kDRC 0x110 + 64 * (2 * b)) 4))
  RunsOn (.noticeFilterExpiry sl) s sl (fun y => y = { x with filter := x.filter.drop 1 })
  ∧ RunsOn (.lfifoPop sl) s sl (fun y => y = { x with notices := x.notices.drop 1, bus := y.bus }
      ∧ y.bus = .value (match x.notices with | ws :: _ => (ws[3]?).getD 0 | [] => 0))
  ∧ (b < 131072 → RunsOn (.lockTimeout sl .l2 b) s sl fun y =>
      (wbit (tabGet x tL2 (4 * b) 0) 31 = true →
        y = { x with regs := y.regs, tabs := y.tabs, locks := x.locks.filter (· ≠ (.l2, b)) }
        ∧ tabGet y tL2 (4 * b) 0 = setFld (tabGet x tL2 (4 * b) 0) 31 31 0 ∧ TabsBut x y [(tL2, 4 * b, 0)]
        ∧ Counted x y kFWD 0x1030 1 ∧ RegsBut x y (pairKeys kFWD 0x1030 ++ raiseKeys kFWD 2))
      ∧ (wbit (tabGet x tL2 (4 * b) 0) 31 = false → y = x))
  ∧ (b < 2097152 → PlainDram x (dramBase + region x kDRC 0x110 + 64 * (2 * b)) 4 →
      RunsOn (.lockTimeout sl .endpoint b) s sl fun y =>
      (wbit e0 31 = true →
        y = { x with regs := y.regs, dram := y.dram, poison := y.poison, written := y.written, drcPart := y.drcPart,
                     rankDown := y.rankDown, locks := x.locks.filter (· ≠ (.endpoint, b)) }
        ∧ dramGet y (region x kDRC 0x110 + 64 * (2 * b)) 4 = wordBytes (setFld e0 31 31 0)
        ∧ DramBut x y (region x kDRC 0x110 + 64 * (2 * b)) 4 ∧ Counted x y kFWD 0x1030 1
        ∧ RegsBut x y (pairKeys kFWD 0x1030 ++ raiseKeys kFWD 2 ++ portKeys false portFms ++ portKeys true portFwb))
      ∧ (wbit e0 31 = false → PortsMoved x y (portKeys false portFms)))
  ∧ (entry < 524288 → seqRuns x qSWP = true → regBit x kFWD 0x130 31 = true → wbit w0 30 = true → wbit w0 29 = false →
      wbit (tabGet x tL2 (4 * (entry / 4)) 0) 31 = false → RunsOn (.ageingVisit sl .l2 entry) s sl fun y =>
        TabsBut x y [(tL2, entry, 0)] ∧ (entry + 1 < 524288 → y.passes = x.passes)
        ∧ (wbit w0 28 = true → y = { x with tabs := y.tabs, passes := y.passes } ∧ tabGet y tL2 entry 0 = setFld w0 28 27 0)
        ∧ (wbit w0 28 = false → wbit w0 27 = false →
            y = { x with tabs := y.tabs, passes := y.passes } ∧ tabGet y tL2 entry 0 = setFld w0 27 27 1)
        ∧ (wbit w0 28 = false → wbit w0 27 = true → tabGet y tL2 entry 0 = setFld w0 30 30 0 ∧ Counted x y kFWD 0x1038 1
            ∧ y = { x with regs := y.regs, tabs := y.tabs, filter := y.filter, notices := y.notices, passes := y.passes }
            ∧ RegsBut x y (pairKeys kFWD 0x1038 ++ pairKeys kFWD 0x1028 ++ raiseKeys kFWD 0 ++ raiseKeys kFWD 1)
            ∧ (regBit x kFWD 0x130 30 = false → y.notices = x.notices ∧ y.filter = x.filter)))
  ∧ (seqRuns x qSWP = true → regBit x kFWD 0x134 31 = true → PlainDram x (dramBase + region x kDRC 0x110 + 64 * (2 * b)) 128 →
      2 * b < 4194304 → wbit e0 30 = true → wbit e0 29 = false → wbit e0 31 = false → wbit e0 28 = true →
      RunsOn (.ageingVisit sl .endpoint (2 * b)) s sl fun y =>
        y = { x with regs := y.regs, dram := y.dram, poison := y.poison, written := y.written, drcPart := y.drcPart,
                     rankDown := y.rankDown }
        ∧ RegsBut x y (portKeys false portMnt ++ portKeys true portMnt)
        ∧ dramGet y (region x kDRC 0x110 + 64 * (2 * b)) 4 = wordBytes (setFld e0 28 27 0)
        ∧ DramBut x y (region x kDRC 0x110 + 64 * (2 * b)) 4)

/-- Route epochs, handles and the provisional bucket (R222, R224, R241): BUMP takes the next route epoch at once, skipping 0xFFFF,
with cause 3, or leaves PEND set while MINGAP since the last bump has not passed; ROUTE_EPOCH_BUMP then takes it; FWD_HCMD with
GO writes a handle from 16 on and refuses a fixed one; the bucket gains RATE tokens up to BURST. Software searches of the CAM
(R214): a command with GO starts a search, from the start or, with NEXT, after the last index; one that finds GO set is ignored;
the result gives the lowest matching index, and whether there are more, with cause 1. What the spec leaves open here is the
model's choice: log entries 4, 5, 62, 65 and 66. -/
def Obligations.EpochsHandlesAndCam : Prop :=
  (∀ (s : State) (sl : SliceId) (v : Word), (s.slice sl).on = true →
  let x := s.slice sl
  let cur := regFld x kFWD 0x140 15 0
  let h := fld v 15 0
  let next := if cur = 0xFFFE ∨ cur = 0xFFFF then 0 else cur + 1
  let gap := fun us => ∃ t, x.lastBump = some t ∧ x.clk < t + 800 * max 1 us
  RunsOn (.bump sl v) s sl (fun y =>
    RegsBut x y ([(kFWD, 0x140), (kFWD, 8)] ++ raiseKeys kFWD 3) ∧ regFld y kFWD 0x140 25 16 = fld v 25 16
    ∧ (wbit v 31 = false ∨ gap (fld v 25 16) → y = { x with regs := y.regs, bus := .done }
        ∧ RegsBut x y [(kFWD, 0x140), (kFWD, 8)]
        ∧ regFld y kFWD 0x140 15 0 = cur ∧ regBit y kFWD 0x140 30 = (wbit v 31 || regBit x kFWD 0x140 30))
    ∧ (wbit v 31 = true → ¬ gap (fld v 25 16) → y = { x with regs := y.regs, lastBump := some x.clk, bus := .done }
        ∧ regFld y kFWD 0x140 15 0 = next ∧ regBit y kFWD 0x140 30 = false ∧ pending y (kFWD * 16 + 3) = true))
  ∧ RunsOn (.routeEpochBump sl) s sl (fun y =>
    (regBit x kFWD 0x140 30 = false ∨ gap (regFld x kFWD 0x140 25 16) → y = x)
    ∧ (regBit x kFWD 0x140 30 = true → ¬ gap (regFld x kFWD 0x140 25 16) →
        y = { x with regs := y.regs, lastBump := some x.clk } ∧ RegsBut x y ((kFWD, 0x140) :: raiseKeys kFWD 3)
        ∧ regBit y kFWD 0x140 30 = false ∧ regFld y kFWD 0x140 15 0 = next ∧ pending y (kFWD * 16 + 3) = true))
  ∧ RunsOn (.handleWrite sl v) s sl (fun y =>
    y = { x with regs := y.regs, tabs := y.tabs, bus := .done } ∧ RegsBut x y [(kFWD, 0x210), (kFWD, 8)] ∧ regFld y kFWD 0x210 15 0 = h
    ∧ (wbit v 31 = true → 16 ≤ h → (∀ i < 4, tabGet y tHandle h i = regGet x kFWD (0x200 + 4 * i))
        ∧ TabsBut x y [(tHandle, h, 0), (tHandle, h, 1), (tHandle, h, 2), (tHandle, h, 3)])
    ∧ (wbit v 31 = true → h < 16 → y.tabs = x.tabs ∧ regBit y kFWD 0x210 30 = true)
    ∧ (wbit v 31 = false → y.tabs = x.tabs))
  ∧ RunsOn (.provTokenRefill sl) s sl (fun y =>
    y = { x with provTok := min (regFld x kFWD 0x150 26 16) (x.provTok + regFld x kFWD 0x150 7 0) }))
  ∧ (∀ (s : State) (sl : SliceId) (v : Word), (s.slice sl).on = true →
  let x := s.slice sl
  let c := regGet x kCAM 0x250
  let all := camMatches x false (fld c 29 28) (camSoftKey x (fld c 29 28))
  let ms := if wbit c 30 then all.filter (regFld x kCAM 0x254 15 0 < ·) else all
  (∀ i, (i = Instr.camSearch sl v ∧ wbit v 30 = false) ∨ (i = .camSearchNext sl v ∧ wbit v 30 = true) → wbit v 31 = true →
    RunsOn i s sl fun y => y = { x with regs := y.regs, bus := .done } ∧ RegsBut x y [(kCAM, 0x250), (kCAM, 8)]
      ∧ regGet y kCAM 0x250 = (if wbit c 31 then c else v &&& 0xF0000000))
  ∧ (wbit c 31 = true → x.camBusy = false → RunsOn (.camSearchDone sl) s sl fun y =>
    y = { x with regs := y.regs, free := y.free } ∧ RegsBut x y ([(kCAM, 0x250), (kCAM, 0x254)] ++ raiseKeys kCAM 1)
    ∧ regBit y kCAM 0x250 31 = false
    ∧ match ms with
      | [] => regBit y kCAM 0x254 31 = false ∧ y.free = x.free + 1
      | [i] => regGet y kCAM 0x254 = w32 (2 ^ 31 + i) ∧ y.free = x.free
      | i :: _ :: _ => regGet y kCAM 0x254 = w32 (2 ^ 31 + 2 ^ 30 + 2 ^ 29 + i) ∧ y.free = x.free)
  ∧ (wbit c 31 = false → RunsOn (.camSearchDone sl) s sl fun y => y = x))

/-- Lookups (R246, R253, R256 to R258, R221, R222): a packet with no valid key profile is dropped and counted; one whose key has a
tracker joins its chain; a hot set hit whose handle is current is dispatched; a stale hit, and a provisional one with a token,
waits for a resolution; a miss starts a fetch; without a tracker or a descriptor the packet waits, and so does one of a pipeline
whose packets find no free thread (R283). What the spec leaves open here is the model's choice: log entries 68 and 72. -/
def Obligations.FlowLookups : Prop := ∀ (s : State) (sl : SliceId) (pipe : Pipe) (p : Packet) (k : FKey) (h : HotWay)
    (t : Tracker), (s.slice sl).alive = true → Quiet (s.slice sl) →
  (accepts (s.slice sl) kFLW = false ∨ threadsFull (s.slice sl) pipe.val = true →
    RunsOn (.flowLookup sl pipe) s sl fun y => y = s.slice sl)
  ∧ (accepts (s.slice sl) kFLW = true → threadsFull (s.slice sl) pipe.val = false →
    (s.slice sl).flowIn.find? (fun q => q.pipe = pipe) = some p →
  let x := s.slice sl
  let rest := x.flowIn.filter (·.id ≠ p.id)
  let chained := x.trackers.foldl (fun n u => n + u.chain.length) 0
  let room := x.trackers.length < 4096 ∧ chained < 16384
  let token := regFld x kFWD 0x150 7 0 ≠ 0 ∧ x.provTok ≠ 0
  let waits := fun (y : Slice) => y = { x with regs := y.regs } ∧ regBit y kFLW 0x100 1 = true
    ∧ RegsBut x y ((kFLW, 0x100) :: raiseKeys kFLW 1)
  let run := fun (P : Slice → Prop) => RunsOn (.flowLookup sl pipe) s sl P
  (buildKey x p = none → run fun y =>
      y.flowIn = rest ∧ Counted x y kFLW 0x1038 1 ∧ regBit y kFLW 0x100 0 = true
      ∧ (actMirror p.act = none → y = { x with regs := y.regs, flowIn := rest }
          ∧ RegsBut x y ((kFLW, 0x100) :: pairKeys kFLW 0x1038 ++ raiseKeys kFLW 0)))
  ∧ (buildKey x p = some k →
    (trackerOf x k = some t → 16384 ≤ chained → run waits)
    ∧ (trackerOf x k = some t → chained < 16384 → run fun y =>
      y = { x with regs := y.regs, flowIn := rest,
                   trackers := x.trackers.map fun u => if u.id = t.id then { t with chain := t.chain ++ [p] } else u }
      ∧ RegsBut x y ((kFLW, 0x100) :: raiseKeys kFLW 1))
    ∧ (trackerOf x k = none → hotFind x k = some h → stale x p h.rcd = false → rProv h.rcd = false → run fun y =>
      y = { x with regs := y.regs, plru := y.plru, flowIn := rest, ready := x.ready ++ [⟨p, some h.idx, 0, rProg h.rcd⟩] }
      ∧ Counted x y kFLW 0x1000 1)
    ∧ (trackerOf x k = none → hotFind x k = some h → stale x p h.rcd = true → room → run fun y =>
      y = { x with regs := y.regs, flowIn := rest, nextTrk := x.nextTrk + 1,
                   trackers := x.trackers ++ [⟨x.nextTrk, k.kp, k.klen, k.key, .resolve, .resolving, [p], none⟩] }
      ∧ RegsBut x y ((kFLW, 0x100) :: raiseKeys kFLW 1))
    ∧ (trackerOf x k = none → hotFind x k = some h → stale x p h.rcd = false → rProv h.rcd = true →
        kpMode x (isOld x p.epoch) k.kp ≠ 0 → (token → room) → run fun y =>
      if token then
        y.provTok = x.provTok - 1 ∧ y.ready = x.ready
        ∧ y.trackers = x.trackers ++ [⟨x.nextTrk, k.kp, k.klen, k.key, .resolve, .resolving, [p], none⟩]
      else y.provTok = x.provTok ∧ y.trackers = x.trackers ∧ y.ready = x.ready ++ [⟨p, some h.idx, 0, rProg h.rcd⟩]
        ∧ Counted x y kFWD 0x1010 1 ∧ Counted x y kFLW 0x1000 1)
    ∧ (trackerOf x k = none → hotFind x k = none → room → run fun y =>
      let u : Tracker := ⟨x.nextTrk, k.kp, k.klen, k.key, .fetch,
        match stashFind x k with | some i => .record i | none => .bucket1, [p], none⟩
      y = { x with regs := y.regs, flowIn := rest, nextTrk := x.nextTrk + 1,
                   trackers := (x.trackers.map fun v => if v.id = x.nextTrk then u else v) ++ [u] }
      ∧ Counted x y kFLW 0x1008 1)
    ∧ (trackerOf x k = none → hotFind x k = some h → stale x p h.rcd = true → ¬room → run waits)
    ∧ (trackerOf x k = none → hotFind x k = none → ¬room → run waits)))

/-- Fetches and inserts (R258, R263, R264, R255, R280): the first candidate bucket is read, then the second; a match gives the
record to read, which is installed in an empty way of its set and dispatched, or waits for a way; a read with an error asks the
twin; the walk of kicks goes on while the alternate bucket is full; a bucket write acknowledged and a victim written back are in
DRAM, and leave their buffers. Resolutions (R219 to R221, R226, R237): FWD resolves a record of a tracker for the first packet
of its chain, writes handle, route epoch and provisional bit into F1, and the chain is dispatched on it. A profile of mode L2
takes the handle of the L2 table, and on a miss the flood handle of its FID, provisionally. What the spec leaves open here is
the model's choice: log entries 4, 63, 67, 68, 69 and 72. -/
def Obligations.FlowFetchesAndResolution : Prop :=
  (∀ (s : State) (sl : SliceId) (trk : Nat) (t : Tracker) (i bucket : Nat)
    (sbs as : Bytes) (ps : List KickPos) (b slot : Nat) (r : List Dword) (w : Nat) (p : Packet) (qs : List Packet) (sv : Nat × Bytes)
    (vr : Nat × List Dword), (s.slice sl).on = true →
  let x := s.slice sl
  let hs := flowHash x t.fkey
  let own := region x kFLW 0x130
  let recs := region x kFLW 0x134
  let stg := fun (st : TrkStage) => x.trackers.map fun u => if u.id = t.id then { t with stage := st } else u
  let bk := fun (n : Nat) (bs : Bytes) => x.inflight.find? (·.1 = n) = none ∧ PlainDram x (dramBase + own + 256 * n) 256
      ∧ dramGet x (own + 256 * n) 256 = bs
  let moved := fun (y : Slice) (ks : List (Nat × Nat)) (st : TrkStage) =>
    y = { x with regs := y.regs, drcPart := y.drcPart, rankDown := y.rankDown, trackers := stg st }
    ∧ RegsBut x y (portKeys false portFms ++ ks)
  (x.alive = true → blkState x kFLW = 1 → reloading x kFLW = false → trackerId x trk = some t →
  (t.stage = .bucket1 → bk hs.1 sbs → RunsPair (.flowFetchReadDone sl trk false) s sl fun y _ =>
      moved y [] (match slotOf sbs t.fkey with | some k => .record (entRec sbs k) | none => .bucket2))
  ∧ (t.stage = .bucket2 → bk hs.2.1 sbs → slotOf sbs t.fkey = some slot →
      RunsPair (.flowFetchReadDone sl trk false) s sl fun y _ =>
      moved y (pairKeys kFLW 0x1018) (.record (entRec sbs slot)) ∧ Counted x y kFLW 0x1018 1)
  ∧ (t.stage = .record i → victimOf x i = none → i ∉ x.lostRecs → PlainDram x (dramBase + recs + 128 * i) 128 →
      hotFind x t.fkey = none → t.chain = p :: qs → r = bytesDwords (dramGet x (recs + 128 * i) 128) →
    (hotMakeRoom x hs.2.2 = some (w, x) → RunsPair (.flowFetchReadDone sl trk false) s sl fun y _ =>
      y.hot = x.hot ++ [⟨hs.2.2, w, t.kp, t.klen, t.key, i, r, false⟩] ∧ y.recUsed = x.recUsed ∧ y.dram = x.dram
      ∧ (stale x p r = true → y.ready = x.ready ∧ y.trackers = stg .resolving)
      ∧ (stale x p r = false → y.trackers = x.trackers.filter (·.id ≠ t.id)
          ∧ y.ready = x.ready ++ t.chain.map fun q => ⟨q, some i, 0, rProg r⟩))
    ∧ (hotMakeRoom x hs.2.2 = none → RunsPair (.flowFetchReadDone sl trk false) s sl fun y _ =>
      moved y (pairKeys kFLW 0x1048) (.wayWait i r false)
      ∧ pairGet y kFLW 0x1048 = (pairGet x kFLW 0x1048 + (setPinned x hs.2.2).toNat) % 2 ^ 64))
  ∧ (t.stage = .bucket1 → linkIsUp x = true → x.twinLost = false → fenced x kTWN = false → bk hs.1 sbs →
      RunsPair (.flowFetchReadDone sl trk true) s sl fun y ms =>
      y = { x with regs := y.regs, drcPart := y.drcPart, rankDown := y.rankDown, trackers := stg (.remote none),
                   nextXfer := x.nextXfer + 1,
                   unacked := x.unacked ++ [⟨x.nextXfer, 0, .fetch t.id t.kp t.klen t.key none⟩] }
      ∧ Counted x y kFLW 0x10A0 1 ∧ ms = sentSince x y
      ∧ RegsBut x y (portKeys false portFms ++ pairKeys kFLW 0x10A0 ++ pairKeys kDRC 0x2020))
  ∧ (t.stage = .kick ps b slot → bk b sbs → bk (entAlt sbs slot) as → freeSlot as = none → ps.length < 7 →
      (entAlt sbs slot, (slot + 1) % 4) ∉ ps ++ [(b, slot)] → RunsOn (.kickReadDone sl trk) s sl fun y =>
      moved y [] (.kick (ps ++ [(b, slot)]) (entAlt sbs slot) ((slot + 1) % 4))))
  ∧ (x.inflight.find? (·.1 = bucket) = some sv → (∀ u ∈ x.trackers, u.stage ≠ .insertWait ∧ u.stage ≠ .moving bucket) → Unmirrored x (own + 256 * bucket) 256 →
      mapped (dramBase + own + 256 * bucket) 256 = true → sv.2.length = 256 → RunsOn (.bucketWriteAck sl bucket) s sl fun y =>
      y = { x with inflight := x.inflight.filter (·.1 ≠ bucket), dram := y.dram, poison := y.poison, written := y.written,
                   regs := y.regs, drcPart := y.drcPart, rankDown := y.rankDown } ∧ RegsBut x y (portKeys true portFwb)
      ∧ dramGet y (own + 256 * bucket) 256 = sv.2 ∧ DramBut x y (own + 256 * bucket) 256)
  ∧ (x.victim.find? (·.1 = i) = some vr → (∀ u ∈ x.trackers, ∀ j q d, u.stage ≠ .wayWait j q d) → Unmirrored x (recs + 128 * i) 128 →
      mapped (dramBase + recs + 128 * i) 128 = true → vr.2.length = 16 → RunsOn (.victimWritebackDone sl i) s sl fun y =>
      y = { x with victim := x.victim.erase vr, lostRecs := x.lostRecs.filter (· ≠ i), dram := y.dram, poison := y.poison,
                   written := y.written, regs := y.regs, drcPart := y.drcPart, rankDown := y.rankDown }
      ∧ RegsBut x y (portKeys true portFwb)
      ∧ dramGet y (recs + 128 * i) 128 = recordBytes vr.2 ∧ DramBut x y (recs + 128 * i) 128))
  ∧ (∀ (s : State) (sl : SliceId) (trk : Nat) (err : Bool) (t : Tracker) (h : HotWay)
    (p : Packet) (qs : List Packet), (s.slice sl).alive = true → blkState (s.slice sl) kFWD = 1 →
    reloading (s.slice sl) kFWD = false → trackerId (s.slice sl) trk = some t → t.stage = .resolving →
    hotFind (s.slice sl) t.fkey = some h → t.chain = p :: qs → h.rcd.length = 16 →
  let x := s.slice sl
  let old := isOld x p.epoch
  let fid := fld (kpW x old t.kp 1) 31 16
  let mac := beNat (slab (keySpace x p) (2 * fld (kpW x old t.kp 1) 15 10) 6)
  RunsOn (.resolve sl trk err) s sl fun y =>
    y.trackers = x.trackers.filter (·.id ≠ t.id)
    ∧ y.ready = x.ready ++ t.chain.map (fun q => ⟨q, some h.idx, 0, rProg h.rcd⟩)
    ∧ y.threads = x.threads ∧ y.held = x.held ∧ y.victim = x.victim ∧ y.stash = x.stash ∧ y.recUsed = x.recUsed
    ∧ (∀ g ∈ y.hot, ¬(g.set = h.set ∧ g.way = h.way) → g ∈ x.hot)
    ∧ ∀ g ∈ y.hot, g.set = h.set → g.way = h.way →
      g.idx = h.idx ∧ g.dirty = true ∧ (∀ n < 16, n ≠ 1 → rcdW g.rcd n = rcdW h.rcd n) ∧ rProg g.rcd = rProg h.rcd
      ∧ rRepoch g.rcd = (if p.epoch = curEpoch x then regFld x kFWD 0x140 15 0 else 0xFFFF)
      ∧ (kpMode x old t.kp = 1 → match l2Find x fid mac with
          | some (b, k) => rHandle g.rcd = l2Handle x b k ∧ rProv g.rcd = false
          | none => rHandle g.rcd = (fld (regGetEp x old kFWD 0x164) 15 0 + fid % 4096) % 65536 ∧ rProv g.rcd = true))

/-- The sweeper, removals and software commands (R267, R268, R281): a visit of an idle record puts it under a REMOVE tracker, and of
one of another route epoch marks it stale; a removal tests the time-out again, then removes entry, record and index; LOOKUP and
DELETE run under a SOFT tracker and end with FLW_SRES and cause 7. What the spec leaves open here is the model's choice: log
entries 4, 70, 71 and 131. -/
def Obligations.FlowRemoval : Prop := ∀ (s : State) (sl : SliceId) (rec' : BitVec 24) (trk : Nat) (t : Tracker) (h : HotWay)
    (k : FKey) (v : Word) (e : KeyRec) (del : Bool), (s.slice sl).on = true →
  let x := s.slice sl
  let i := rec'.toNat
  let rem : Tracker := ⟨x.nextTrk, h.kp, h.klen, h.key, .remove, .recheck, [], none⟩
  (regBit x kFLW 0x120 31 = true → seqRuns x qSWP = true → x.stash = [] → x.trackers = [] → shadState x ≠ shPromoted →
      i ∈ x.recUsed → inUse x i = false → hotByIdx x i = some h → fld (tabGet x tKeyProf (rKp h.rcd) 4) 15 0 = 0 →
    RunsOn (.flowSweepVisit sl rec') s sl fun y =>
      (i + 1 < 2 ^ 24 → y.passes = x.passes)
      ∧ (rRepoch h.rcd = regFld x kFWD 0x140 15 0 →
          y = { x with trackers := y.trackers, nextTrk := y.nextTrk, passes := y.passes })
      ∧ (rRepoch h.rcd ≠ regFld x kFWD 0x140 15 0 → rRepoch h.rcd ≠ 0xFFFF → h.rcd.length = 16 → y.hot = x.hot.map fun g => if g.set = h.set ∧ g.way = h.way
          then { h with rcd := setNth h.rcd 1 (dset (rcdW h.rcd 1) 47 32 0xFFFF), dirty := true } else g)
      ∧ (rRepoch h.rcd = regFld x kFWD 0x140 15 0 → idleOut x h.rcd = true → y.trackers = [rem])
      ∧ (rRepoch h.rcd = regFld x kFWD 0x140 15 0 → idleOut x h.rcd = false → y.trackers = []))
  ∧ (regBit x kFLW 0x120 31 = false ∨ seqRuns x qSWP = false → RunsOn (.flowSweepVisit sl rec') s sl fun y => y = x)
  ∧ (trackerId x trk = some t → t.op = .remove → t.stage = .recheck → t.chain = [] → hotFind x t.fkey = some h →
      hotByIdx x h.idx = some h →
    (idleOut x h.rcd = false ∨ inUse x h.idx = true → RunsOn (.flowRemove sl trk) s sl fun y =>
      y = { x with trackers := x.trackers.filter (·.id ≠ t.id) })
    ∧ (idleOut x h.rcd = true → inUse x h.idx = false → removeBusy x t.fkey = true ∨ delWaits x h.idx h.rcd = true →
      RunsOn (.flowRemove sl trk) s sl fun y => y = x)
    ∧ (idleOut x h.rcd = true → inUse x h.idx = false → removeBusy x t.fkey = false → delWaits x h.idx h.rcd = false →
      x.trackers = [t] →
      RunsOn (.flowRemove sl trk) s sl fun y =>
        y.trackers = [] ∧ y.hot = x.hot.filter (·.idx ≠ h.idx) ∧ y.victim = x.victim.filter (·.1 ≠ h.idx)
        ∧ y.recUsed = x.recUsed.filter (· ≠ h.idx) ∧ stashFind y t.fkey = none ∧ y.threads = x.threads ∧ y.ready = x.ready))
  ∧ (∀ c o, (c, o) ∈ [(Instr.lookup sl v, 1), (.delete sl v, 2)] → wbit v 31 = true → fld v 17 16 = o → k = softKey x v →
    (regBit x kFLW 0x230 31 = true → RunsOn c s sl fun y =>
      y = { x with regs := y.regs, bus := .done } ∧ RegsBut x y [(kFLW, 8)])
    ∧ (regBit x kFLW 0x230 31 = false → trackerOf x k = none → x.trackers.length < 4096 →
        (x.trackers.foldl (fun n u => n + u.chain.length) 0) < 16384 → RunsOn c s sl fun y =>
      y = { x with regs := y.regs, bus := .done, soft := some (decide (o = 2), ⟨k.kp, k.klen, k.key, 0⟩), nextTrk := x.nextTrk + 1,
                   trackers := x.trackers ++ [⟨x.nextTrk, k.kp, k.klen, k.key, .soft, .ready, [], none⟩] }
      ∧ regBit y kFLW 0x230 31 = true ∧ regFld y kFLW 0x230 17 16 = o ∧ regFld y kFLW 0x230 13 8 = fld v 13 8
      ∧ RegsBut x y ([(kFLW, 0x230), (kFLW, 0x100), (kFLW, 8)] ++ raiseKeys kFLW 1)))
  ∧ (x.soft = some (del, e) → trackerOf x e.fkey = some t → t.op ≠ .soft →
      RunsOn (.softCommandDone sl) s sl fun y => y = x)
  ∧ (x.soft = some (del, e) →
      x.trackers = [] ∨ (x.trackers = [t] ∧ t.fkey = e.fkey ∧ t.op = .soft ∧ t.stage = .ready ∧ t.chain = []) → hotFind x e.fkey = some h → hotByIdx x h.idx = some h → h.rcd.length = 16 →
      h.idx < 2 ^ 24 →
    (del = false → RunsOn (.softCommandDone sl) s sl fun y =>
      y = { x with regs := y.regs, soft := none, trackers := [], nextTrk := y.nextTrk } ∧ regGet y kFLW 0x234 = w32 (2 ^ 31 + h.idx) ∧ regBit y kFLW 0x230 31 = false
      ∧ ∀ n < 16, regGet y kFLW (0x300 + 8 * n) = w32 (dbits (rcdW h.rcd n) 63 32)
        ∧ regGet y kFLW (0x304 + 8 * n) = w32 (dbits (rcdW h.rcd n) 31 0))
    ∧ (del = true → inUse x h.idx = false → removeBusy x e.fkey = false → delWaits x h.idx h.rcd = false →
      RunsOn (.softCommandDone sl) s sl fun y =>
      y.soft = none ∧ y.hot = x.hot.filter (·.idx ≠ h.idx) ∧ y.recUsed = x.recUsed.filter (· ≠ h.idx) ∧ y.trackers = []
      ∧ regGet y kFLW 0x234 = w32 (2 ^ 31 + h.idx) ∧ regBit y kFLW 0x230 31 = false))

/-- Twill results in registers (R285 to R295): arithmetic, logic, shifts, bit fields, moves, hashes, metadata, time and header loads
read the values with which their bundle issued and write only their destination. What the spec leaves open here is the model's
choice: log entries 78 and 135. -/
def Obligations.TwillRegisterResults : Prop := ∀ (s : State) (sl : SliceId) (th : Thread) (f : TwFields) (t : ThreadSt) (op : Nat),
    TwReady s sl th op f t → takesEffect t.atIssue.snap f = true →
  let x := s.slice sl
  let v := t.atIssue.snap
  let a := v.rd f.a
  let rb := v.rd f.b
  let b := if f.mod.toNat % 2 = 1 then f.imm.signExtend 64 else rb
  let pos := fld f.imm 13 8
  let mask := 2 ^ (fld f.imm 5 0 + 1) - 1
  let w := match f.mod.toNat with | 0 => 1 | 1 => 2 | 2 => 4 | 3 => 6 | 4 => 8 | _ => 0
  ∀ c r, (c, op, r) ∈ [(Instr.twAdd sl th f, 1, a + b), (.twSub sl th f, 2, a - b), (.twAnd sl th f, 3, a &&& b),
      (.twOr sl th f, 4, a ||| b), (.twXor sl th f, 5, a ^^^ b), (.twShl sl th f, 6, a <<< (b.toNat % 64)),
      (.twShr sl th f, 7, a >>> (b.toNat % 64)), (.twSar sl th f, 8, a.sshiftRight (b.toNat % 64)), (.twMul sl th f, 9, a * b),
      (.twMinu sl th f, 10, if a ≤ b then a else b), (.twMaxu sl th f, 11, if a ≤ b then b else a),
      (.twMovi sl th f, 12, f.imm.signExtend 64), (.twMovhi sl th f, 13, f.imm ++ a.extractLsb' 0 32),
      (.twBext sl th f, 16, d64 ((a.toNat >>> pos) &&& mask)),
      (.twBins sl th f, 17, (rb &&& ~~~ d64 (mask <<< pos)) ||| d64 ((a.toNat &&& mask) <<< pos)),
      (.twMrd sl th f, 48, metaReg x t.pkt (fld f.imm 2 0)), (.twTime sl th f, 49, timeVal f.mod t.pkt.stamp),
      (.twHld sl th f, 64, d64 (beNat (winRead t ((a.toNat + fld f.imm 15 0) % 2 ^ 64) w))),
      (.twCrc sl th f, 96, crcVal (f.mod.toNat % 8 + 1) a rb), (.twChash sl th f, 97, chashVal a rb)] →
    TwRuns c s sl t fun u z y => y = z ∧ WritesReg t.atIssue u f.d r

/-- Twill predicates, tables and the header window (R288, R286, R296 to R299, R302, R305): comparisons write one predicate; hst and
csum change the bytes of the frame inside the window; tld, wsel and pol are logged reads, which a re-run takes from the log;
tst, tadd and emit record their effect for the commit. Twill control (R284, R290, R292, R300, R301, R303, R304, R306): fctl
changes F0 of the image, and asks for a synchronous commit; the actions set what the commit does; br and end decide what follows
the bundle; an instruction whose predicate differs does nothing; after the second slot the thread goes on at the next bundle or
the branch's target, with registers as both slots left them, passes its release point, or ends. What the spec leaves open here
is the model's choice: log entries 77, 78 and 135. -/
def Obligations.TwillPredicatesTablesAndControl : Prop :=
  (∀ (s : State) (sl : SliceId) (th : Thread) (f : TwFields) (t : ThreadSt)
    (op : Nat), TwReady s sl th op f t → takesEffect t.atIssue.snap f = true →
  let v := t.atIssue.snap
  let t' := t.atIssue
  let old := isOld (s.slice sl) t.pkt.epoch
  let a := v.rd f.a
  let rb := v.rd f.b
  let tbl := fld f.imm 31 24
  let ia := (a.toNat + fld f.imm 19 0) % 2 ^ 64
  let ib := (rb.toNat + fld f.imm 19 0) % 2 ^ 64
  let w := match f.mod.toNat with | 0 => 1 | 1 => 2 | 2 => 4 | 3 => 6 | 4 => 8 | _ => 0
  let o := (a.toNat + fld f.imm 15 0) % 2 ^ 64
  let co := fld f.imm 7 0
  let hc := beNat (winRead t co 2)
  (∀ c q, (c, op, q) ∈ [(Instr.twCmp sl th f, 32, twCond f.mod a rb), (.twCmpi sl th f, 33, twCond f.mod a (f.imm.signExtend 64)),
      (.twPop sl th f, 34, twPopOp f.mod (v.pred f.a.toNat) (v.pred f.b.toNat) (wbit f.imm 0))] →
    TwRuns c s sl t fun u z y => y = z ∧ u = { t' with p := u.p }
      ∧ ∀ j, u.p[j]? = if j = f.d.toNat % 8 ∧ j < t.p.length then some q else t.p[j]?)
  ∧ (op = 65 → TwRuns (.twHst sl th f) s sl t fun u z y =>
      u = { t' with frame := u.frame, rewritten := u.rewritten } ∧ u.frame.length = t.frame.length
      ∧ (∀ i < w, o + i < 256 → t.pkt.pbase + o + i < t.frame.length →
          u.frame[t.pkt.pbase + o + i]? = some (BitVec.ofNat 8 (rb.toNat / 2 ^ (8 * (w - 1 - i)))))
      ∧ (∀ j, (∀ i < w, o + i < 256 → j ≠ t.pkt.pbase + o + i) → u.frame[j]? = t.frame[j]?)
      ∧ ((∀ i < w, o + i < 256 ∧ t.pkt.pbase + o + i < t.frame.length) → y = z)
      ∧ (¬(∀ i < w, o + i < 256 ∧ t.pkt.pbase + o + i < t.frame.length) → RegsOnlyBut z y ((kDMK, 0x100) :: pairKeys kDMK 0x2018
          ++ raiseKeys kDMK 2) ∧ Counted z y kDMK 0x2018 1 ∧ regBit y kDMK 0x100 0 = true))
  ∧ (op = 66 → TwRuns (.twCsum sl th f) s sl t fun u z y =>
      (¬(co + 1 < 256 ∧ t.pkt.pbase + co + 1 < t.frame.length) → u = t' ∧ Counted z y kDMK 0x2018 1)
      ∧ (co + 1 < 256 → t.pkt.pbase + co + 1 < t.frame.length → y = z
        ∧ (bit f.mod.toNat 2 = true → hc = 0 → u = t')
        ∧ (bit f.mod.toNat 2 = false ∨ hc ≠ 0 → u = { t' with frame := u.frame, rewritten := true }
          ∧ (let n := csumVal hc (2 ^ (f.mod.toNat % 4)) a rb
             beAt u.frame (t.pkt.pbase + co) 2 = if bit f.mod.toNat 2 = true ∧ n = 0 then 0xFFFF else n)
          ∧ ∀ j, j ≠ t.pkt.pbase + co → j ≠ t.pkt.pbase + co + 1 → u.frame[j]? = t.frame[j]?)))
  ∧ (op = 80 → t.logPos = t.log.length → TwRuns (.twTld sl th f) s sl t fun u z y => ∃ d,
      WritesReg { t' with log := t.log ++ [d], logPos := t.logPos + 1 } u f.d d
      ∧ match tableWord (s.slice sl) old tbl ia with
        | none => d = 0 ∧ Counted z y kDMK 0x2020 1 ∧ regBit y kDMK 0x100 1 = true
        | some n => y = z ∧ ((∀ e ∈ t.tabs, e.tbl = tbl → e.idx ≠ ia) → d = dataWord (s.slice sl) n))
  ∧ (∀ c d, (c, op) ∈ [(Instr.twTld sl th f, 80), (.twWsel sl th f, 83), (.twPol sl th f, 84)] → t.log[t.logPos]? = some d →
      TwRuns c s sl t fun u z y => y = z ∧ WritesReg { t' with logPos := t.logPos + 1 } u f.d d)
  ∧ (∀ c m, (c, op, m) ∈ [(Instr.twTst sl th f, 81, none), (.twTadd sl th f, 82, some f.mod)] → TwRuns c s sl t fun u z y =>
      y = z ∧ u = { t' with tabs := t.tabs ++ [⟨tbl, ia, rb, m, (tableWord (s.slice sl) old tbl ia).isSome,
        (tableWord (s.slice sl) old tbl ia).getD 0⟩] })
  ∧ (op = 83 → t.logPos = t.log.length → TwRuns (.twWsel sl th f) s sl t fun u z y => ∃ d,
      WritesReg { t' with log := t.log ++ [d], logPos := t.logPos + 1 } u f.d d
      ∧ match wselPick (fun k => (tableWord (s.slice sl) old tbl ((ib + k) % 2 ^ 64)).map (dataWord (s.slice sl))) a.toNat with
        | .backend n => d = d64 n ∧ y = z
        | .unhealthy => d = 0xFFFF ∧ Counted z y kDMK 0x2028 1 ∧ regBit y kDMK 0x100 2 = true
        | .out => d = 0xFFFF ∧ Counted z y kDMK 0x2020 1 ∧ regBit y kDMK 0x100 1 = true)
  ∧ (op = 84 → t.logPos = t.log.length → a.toNat % 4 ≠ 3 → TwRuns (.twPol sl th f) s sl t fun u z y => ∃ d,
      WritesReg { t' with log := t.log ++ [d], logPos := t.logPos + 1 } u f.d d ∧ y = { z with pols := y.pols }
      ∧ d = d64 (colourCode (polCharge (s.slice sl) (fld f.imm 13 0) t.pkt.frame.length (colourOf (a.toNat % 4))).1)
      ∧ (wbit (polW (s.slice sl) (fld f.imm 13 0) 0) 31 = false → y.pols = z.pols ∧ d = d64 (a.toNat % 4)))
  ∧ (op = 85 → TwRuns (.twEmit sl th f) s sl t fun u z y => y = z
      ∧ u = { t' with emits := t.emits ++ [⟨tbl, ib, t.pkt.epoch,
        (List.range (f.mod.toNat % 8)).map fun k => v.rd (f.a + BitVec.ofNat 5 k)⟩] }))
  ∧ (∀ (s : State) (sl : SliceId) (th : Thread) (f : TwFields) (t : ThreadSt) (op : Nat),
  let v := t.atIssue.snap
  let t' := t.atIssue
  let i := fld f.imm 1 0
  let f0 := (t.f[0]?).getD 0
  let q := if bit f.mod.toNat 3 then BitVec.ofNat 3 (f.mod.toNat % 8) else t.qclass
  let h := if wbit f.imm 31 then BitVec.ofNat 16 ((v.rd f.a).toNat % 65536) else t.dflt
  let aq : Option (BitVec 14) := if wbit f.imm 30 then some (BitVec.ofNat 14 (fld f.imm 29 16)) else none
  let rc : Disp := .recirc (BitVec.ofNat 8 (fld f.imm 7 0)) (bit f.mod.toNat 0) (BitVec.ofNat 8 (fld f.imm 15 8))
  (∀ c k d, (c, k, d) ∈ [(Instr.fctlDset sl th f, 0, f0 ||| d64 (f.imm.toNat &&& 0xFFFC)),
      (.fctlDclr sl th f, 1, f0 &&& ~~~ d64 (f.imm.toNat &&& 0xFFFC)),
      (.fctlState sl th f, 2, if i = 3 then f0 else dset f0 62 61 i), (.fctlTsel sl th f, 3, dset f0 60 59 i)] →
    TwReady s sl th 0x70 { f with mod := k } t → takesEffect v f = true → t.f ≠ [] → TwRuns c s sl t fun u z y => y = z
      ∧ (t.idx = none → u = t')
      ∧ (t.idx ≠ none → u = { t' with f := u.f } ∧ u.f[0]? = some d ∧ ∀ j, j ≠ 0 → u.f[j]? = t.f[j]?))
  ∧ (TwReady s sl th 0x70 { f with mod := 4 } t → takesEffect v f = true → TwRuns (.fctlSync sl th f) s sl t fun u z y => y = z
      ∧ u = (if t.idx = none then t' else { t' with sync := true }))
  ∧ (TwReady s sl th op f t → takesEffect v f = true →
      (∀ c u', (c, op, u') ∈ [(Instr.twNop sl th f, 0, t'),
          (.twFwd sl th f, 0x80, { t' with qclass := q, disp := .forward h q aq }),
          (.twDrop sl th f, 0x81, { t' with disp := .drop (BitVec.ofNat 4 (fld f.imm 3 0)) }),
          (.twPunt sl th f, 0x82, { t' with disp := .punt (BitVec.ofNat 8 (fld f.imm 7 0)) }),
          (.twMirror sl th f, 0x83, { t' with mirror := some (BitVec.ofNat 4 (fld f.imm 3 0)) }),
          (.twRecirc sl th f, 0x84, { t' with disp := rc }),
          (.twBr sl th f, 0x90, { t' with branch := some (t.pc + fld f.imm 8 0) }),
          (.twEnd sl th f, 0x91, { t' with ending := true })] →
        TwRuns c s sl t fun u z y => y = z ∧ u = u'))
  ∧ (TwReady s sl th op f t → takesEffect v f = false →
      ∀ c, (c, op) ∈ [(Instr.twAdd sl th f, 1), (.twCmp sl th f, 32), (.twHst sl th f, 65), (.twTld sl th f, 80), (.twTst sl th f, 81),
          (.twEmit sl th f, 85), (.twFwd sl th f, 128), (.twBr sl th f, 0x90), (.twEnd sl th f, 0x91)] →
        TwRuns c s sl t fun u z y => y = z ∧ u = t')
  ∧ (t.ending = true → (endBundle t).ended = true ∧ (endBundle t).g = t.g ∧ (endBundle t).f = t.f)
  ∧ (t.ending = false → (endBundle t).pc = t.branch.getD (t.pc + 1) ∧ (endBundle t).slot = 0 ∧ (endBundle t).branch = none
      ∧ (endBundle t).snap = ⟨t.g, t.f, t.p⟩ ∧ (endBundle t).ended = t.ended ∧ (endBundle t).g = t.g ∧ (endBundle t).f = t.f)
  ∧ ((endBundle t).released = (t.released || decide (t.rel = 511 ∨ t.entry + t.rel ≤ t.pc) || t.ending))
  ∧ (t.released = false → (endBundle t).released = true → (endBundle t).relImage = t.f))

/-- Ingress and classification (R143, R182, R193 to R199, R208, R209, R211, R214, R215, R401): a frame that arrives at a port waits
in the FIFO of its pipeline while the pipeline does not take it, or is parsed and classified: it is dropped and counted where no
profile matches, and joins the CAM queue where its profile searches the CAM; a port that does not receive takes nothing; a group
gives the frame that it has reassembled first, which is discarded and counted where the group is not the selected one of its
pair; a full FIFO drops and counts. A tree walk goes on at the node that its child names, or ends; a CAM slot searches the
oldest packet of the queue; a recirculated packet is parsed again. What the spec leaves open here is the model's choice: log
entries 54, 60, 61 and 62. -/
def Obligations.IngressAndClassification : Prop := ∀ (s : State) (sl : SliceId) (lane : Lane) (frame : Bytes) (fcsOk : Bool)
    (pipe : Pipe) (e : WinEntry) (a n : Nat) (p : Packet) (node base : Nat) (keep : Bool) (g : Group)
    (fs : List (Bytes × Bool × Nat)) (bs : Bytes) (ok : Bool) (u : Nat), (s.slice sl).alive = true →
  let x := s.slice sl
  let pl := if lane.val < 8 then 0 else 1
  let takes := accepts x kPRS = true ∧ accepts x kCLS = true ∧ portHeld x 0 = false ∧ portHeld x 1 = false ∧ x.recirc = []
    ∧ x.ready = [] ∧ x.flowIn = [] ∧ x.pipesFenced = [] ∧ regBit x kRIF 0x130 23 = false
  let noProf := ∀ k < 64, wbit (tabGet x tProf k 0) 31 = false
  let camProf := (∀ q, selectProfile x q = some n) ∧ wbit (tabGet x tProf n 3) 29 = true ∧ fld (tabGet x tProf n 3) 31 30 = 0
  let run := fun (P : Slice → Prop) => RunsOn (.frameReceive sl lane frame fcsOk) s sl P
  let grp := isGroup x lane.val = true ∧ x.groups.find? (·.lane = lane) = some g
  (rxPort x lane = false ∨ (isGroup x lane.val = false ∧ frame = []) → run fun y => y = x)
  ∧ (isGroup x lane.val = true → x.groups.find? (·.lane = lane) = none → run fun y => y = x)
  ∧ (grp → g.rxFrames = [] → run fun y => y = x)
  ∧ (rxPort x lane = true → grp → g.rxFrames = (bs, ok, u) :: fs → pairIdle x lane.val = true → run fun y =>
      y = { x with groups := x.groups.map fun h =>
              if h.lane = lane then { g with rxFrames := fs, protDrop := g.protDrop + 1 } else h })
  ∧ (rxPort x lane = true → ∀ (z : Slice) (frame' : Bytes) (fcs : Bool) (stamp : Stamp),
      (isGroup x lane.val = false ∧ frame ≠ [] ∧ z = x ∧ frame' = frame ∧ fcs = fcsOk ∧ stamp = stampNow x (portBase x lane.val))
      ∨ (grp ∧ g.rxFrames = (bs, ok, u) :: fs ∧ pairIdle x lane.val = false
        ∧ z = { x with groups := x.groups.map fun h => if h.lane = lane then { g with rxFrames := fs } else h }
        ∧ frame' = bs ∧ fcs = ok ∧ stamp = stampAt (portBase x lane.val) u) →
    let len := frame'.length + 4
    (524288 < fifoBytes x pl + len → run fun y => y = { z with regs := y.regs }
        ∧ (camFull x pl = true → Counted x y kCLS 0x1808 1 ∧ regBit y kCLS 0x100 1 = true)
        ∧ (camFull x pl = false → Counted x y kFLW 0x1040 1))
    ∧ (fifoBytes x pl + len ≤ 524288 → x.win = [] → accepts x kPRS = false → run fun y =>
        y = { z with regs := y.regs, fifo := x.fifo ++ [(pipeFin pl, lane, frame', fcs, stamp)] })
    ∧ (len ≤ 524288 → Quiet x → takes → noProf → run fun y =>
        y = { z with regs := y.regs, nextPkt := x.nextPkt + 1 } ∧ Counted x y kCLS 0x1800 1 ∧ regBit y kCLS 0x100 2 = true)
    ∧ (len ≤ 524288 → Quiet x → takes → camProf → run fun y =>
        y = { z with regs := y.regs, nextPkt := x.nextPkt + 1, win := y.win } ∧ Counted x y kCLS (0x1000 + 8 * n) 1
        ∧ ∃ q, y.win = [⟨q, none, [], none, true, false⟩] ∧ q.id = x.nextPkt ∧ q.lane = lane ∧ q.frame = frame' ∧ q.fcsOk = fcs
          ∧ q.epoch = curEpoch x ∧ q.stamp = stamp ∧ q.prof = n ∧ q.pass2 = false))
  ∧ (x.fifo = [] → x.win = [e] → e.inCam = true → e.done = false →
      e.node = some a → e.rules = [] → regBit x kRIF 0x130 23 = false →
      PlainDram x (dramBase + region x kDRC 0x114 + 64 * bits a 22 0) 64 →
    let nd := bytesWords (dramGet x (region x kDRC 0x114 + 64 * bits a 22 0) 64)
    let child := treeChild nd (keySpace x e.pkt)
    let read := fun (y : Slice) (v : WinEntry) =>
      y = { x with regs := y.regs, drcPart := y.drcPart, rankDown := y.rankDown, win := [v] } ∧ RegsBut x y (portKeys false portFms)
    let none' := { e with pkt := { e.pkt with prim := none }, node := none, best := none, done := false }
    (RunsOn (.treeNodeReadDone sl e.pkt.id true) s sl fun y => read y none')
    ∧ (nodeValid nd = true → nodeType nd = 0 → child ≠ 0xFFFFFF → bit child 23 = true →
      RunsOn (.treeNodeReadDone sl e.pkt.id false) s sl fun y => read y { e with node := some child, best := none })
    ∧ (nodeValid nd = true → nodeType nd = 0 → child = 0xFFFFFF → RunsOn (.treeNodeReadDone sl e.pkt.id false) s sl fun y =>
      read y none'))
  ∧ (x.fifo = [] → x.win = [e] → e.inCam = true → e.pkt.pipe = pipe → e.node = some a → x.camBusy = false → accepts x kCAM = true →
    RunsOn (.camSearchSlot sl pipe) s sl fun y =>
      let old := isOld x e.pkt.epoch
      let w := fld (profW x old e.pkt.prof 3) 27 26
      let ms := camMatches x old w (camKey x old e.pkt.prof (160 * 2 ^ w) (keySpace x e.pkt))
      y = { x with regs := y.regs, win := [{ e with inCam := false, done := false, pkt := { e.pkt with
              mmatch := decide (1 < ms.length), camHit := ms.head?.map fun i => ⟨i, camAct x old i⟩ } }] }
      ∧ RegsBut x y (if 1 < ms.length then pairKeys kCLS 0x1820 else [])
      ∧ (1 < ms.length → Counted x y kCLS 0x1820 1))
  ∧ (x.camBusy = true → RunsOn (.camSearchSlot sl pipe) s sl fun y => y = x)
  ∧ (Quiet x → blocked x pipe.val = false → x.recirc = [p] → p.pipe = pipe → p.again = some (node, base, keep) →
      regBit x kRIF 0x130 23 = false →
    (noProf → RunsOn (.recircPass sl pipe) s sl fun y => y = { x with regs := y.regs, recirc := [] }
      ∧ Counted x y kPRS 0x2010 1 ∧ Counted x y kCLS 0x1800 1)
    ∧ (camProf → RunsOn (.recircPass sl pipe) s sl fun y => y = { x with regs := y.regs, recirc := [], win := y.win }
      ∧ Counted x y kPRS 0x2010 1 ∧ ∃ q, y.win = [⟨q, none, [], none, true, false⟩] ∧ q.id = p.id ∧ q.frame = p.frame
        ∧ q.pass2 = true ∧ q.pbase = base ∧ q.prof = n))

/-- Placement of packets (R283, R285, R304, R305, R311): the oldest packet of a pipeline whose flow has none ahead of it goes to the
lowest free thread of the engine with the most free threads, with the record or the predecessor's hand-off as its image; an
entry without a seal drops it; behind a predecessor that has not passed its release point it waits on its thread; a packet of a
fenced engine runs again from its kept input with its log. What the spec leaves open here is the model's choice: log entries 75,
76, 78 and 135. -/
def Obligations.DamaskPlacement : Prop := ∀ (s : State) (sl : SliceId) (pipe : Pipe) (r : Ready) (rest : List Ready) (i : Nat)
    (h : HotWay) (u : ThreadSt) (us : List ThreadSt) (th : Nat), (s.slice sl).alive = true → Quiet (s.slice sl) →
  let x := s.slice sl
  let old := isOld x r.pkt.epoch
  let noWay := ∀ v ∈ x.trackers, ∀ j q d, v.stage ≠ .wayWait j q d
  let placed := fun (P : ThreadSt → Prop) => RunsOn (.dispatch sl pipe) s sl fun y =>
    y = { x with regs := y.regs, ready := rest, threads := y.threads, seqNo := x.seqNo + 1 } ∧ Counted x y kDMK 0x2000 1
    ∧ RegsBut x y ((kDMK, 0x120) :: pairKeys kDMK 0x2000)
    ∧ ∃ t, y.threads = x.threads ++ [t] ∧ t.th = th ∧ t.pkt = r.pkt ∧ t.idx = r.idx ∧ t.seq = x.seqNo ∧ t.pc = r.prog
      ∧ t.slot = 0 ∧ t.g = List.replicate 16 0 ∧ t.p = List.replicate 8 false ∧ t.frame = r.pkt.frame
      ∧ t.rel = sealRel x old r.prog ∧ t.released = false ∧ t.log = [] ∧ t.ended = false ∧ P t
  let starts := fun (im : List Dword) (t : ThreadSt) => t.f = im ∧ t.input = im ∧ t.waits = false
    ∧ t.disp = .forward (if r.idx.isSome then BitVec.ofNat 16 (rHandle im) else r.handle) (BitVec.ofNat 3 (actQClass r.pkt.act)) none
  let img := match r.idx with | none => List.replicate 16 (0 : Dword) | some _ => h.rcd
  (accepts x kDMK = true → x.rerunq = [] → x.ready = r :: rest → r.pkt.pipe = pipe → (∀ q ∈ rest, q.pkt.id ≠ r.pkt.id) →
    (placeThread x = none → RunsOn (.dispatch sl pipe) s sl fun y => y = x)
    ∧ (placeThread x = some th → sealBefore x old r.prog = false → noWay → RunsOn (.dispatch sl pipe) s sl fun y =>
      y.ready = rest ∧ y.threads = x.threads ∧ Counted x y kDMK 0x2040 1 ∧ regBit y kDMK 0x100 3 = true
      ∧ (actMirror r.pkt.act = none → y = { x with regs := y.regs, ready := rest }
          ∧ RegsBut x y ((kDMK, 0x100) :: pairKeys kDMK 0x2040 ++ raiseKeys kDMK 5)))
    ∧ (placeThread x = some th → sealBefore x old r.prog = true →
      (r.idx = none ∨ (r.idx = some i ∧ hotByIdx x i = some h ∧ ∀ t ∈ x.threads, t.idx ≠ some i) → placed (starts img))
      ∧ (r.idx = some i → x.threads = [u] → u.idx = some i → u.seq < x.seqNo →
        (u.released = true → placed (starts (countPacket x u.pkt u.relImage)))
        ∧ (u.released = false → placed fun t => t.waits = true ∧ runningThread x t = none))))
  ∧ (placeThread x = some th → threadFree x th = true ∧ engineActive x (th / 4) = true
      ∧ (∀ k, k < th → k / 4 = th / 4 → threadFree x k = false)
      ∧ ∀ e < 68, engineActive x e = true → (freeThreads x e).length ≤ (freeThreads x (th / 4)).length
        ∧ ((freeThreads x e).length = (freeThreads x (th / 4)).length → th / 4 ≤ e))
  ∧ (x.rerunq = u :: us → placeThread x = some th → blkState x kDMK = 1 → reloading x kDMK = false →
      RunsOn (.rerunDispatch sl) s sl fun y =>
      y = { x with regs := y.regs, rerunq := us, threads := y.threads } ∧ Counted x y kDMK 0x2010 1
      ∧ ∃ t, y.threads = x.threads ++ [t] ∧ t.th = th ∧ t.pkt = u.pkt ∧ t.idx = u.idx ∧ t.seq = u.seq ∧ t.pc = u.entry ∧ t.slot = 0
        ∧ t.waits = u.waits ∧ (u.waits = false → t.f = u.input) ∧ t.log = u.log ∧ t.logPos = 0 ∧ t.rerun = true ∧ t.released = u.released ∧ t.relImage = u.relImage
        ∧ t.tabs = [] ∧ t.emits = [] ∧ t.ended = false)

/-- Commits (R252, R297, R301, R303, R223, R345, R346, R275): a thread that has ended leaves its engine; the record takes the
program's words, the packet's arrival and its counts; table writes are done; a dropped packet is counted; a forwarded one is
stored and queued at its handle's port; a synchronous one is held for the twin. In a clock of the cell allocator the slots that
ask are served in turn; the oldest frame of a slot is granted a cell, or refused. What the spec leaves open here is the model's
choice: log entries 54, 61, 63, 75, 79 and 80. -/
def Obligations.Commits : Prop := ∀ (s : State) (sl : SliceId) (th : Thread) (t : ThreadSt) (i : Nat) (h : HotWay) (k : BitVec 4)
    (w : TabWrite) (hd : BitVec 16) (q : BitVec 3) (lane : Lane) (slot : Fin 4) (slots : BitVec 4)
    (f : Frame), (s.slice sl).alive = true → Quiet (s.slice sl) →
  let x := s.slice sl
  let keepF := fun (g : HotWay) =>
    (∀ n, 6 ≤ n → n < 16 → rcdW g.rcd n = rcdW t.f n) ∧ rcdW g.rcd 1 = rcdW h.rcd 1 ∧ rcdW g.rcd 2 = rcdW h.rcd 2
    ∧ rcdW g.rcd 3 = arrivalF3 x t.pkt ∧ rcdW g.rcd 4 = rcdW h.rcd 4 + 1
    ∧ rcdW g.rcd 5 = rcdW h.rcd 5 + d64 (t.pkt.frame.length + 4) ∧ rState g.rcd = rState t.f ∧ rTsel g.rcd = rTsel t.f
    ∧ rDurable g.rcd = rDurable t.f ∧ rKp g.rcd = rKp h.rcd ∧ g.dirty = true ∧ g.idx = h.idx
  (x.threads = [t] → t.th = th.val → x.rerunq = [] → blkState x kDMK = 1 → reloading x kDMK = false →
      (∀ v ∈ x.trackers, ∀ j r d, v.stage ≠ .wayWait j r d) → t.mirror = none → actMirror t.pkt.act = none → t.emits = [] →
    (t.ended = false → RunsOn (.commit sl th) s sl fun y => y = x)
    ∧ (t.ended = true → t.disp = .drop k →
      (t.sync = false → t.idx = some i → hotByIdx x i = some h → h.rcd.length = 16 → t.f.length = 16 → linkIsUp x = false →
          x.held = [] → t.tabs = [] → RunsOn (.commit sl th) s sl fun y =>
        y.threads = [] ∧ Counted x y kDMK (0x2100 + 8 * k.toNat) 1 ∧ y.tabs = x.tabs ∧ y.queues = x.queues ∧ y.ready = x.ready
        ∧ ∀ g ∈ y.hot, (g.set = h.set ∧ g.way = h.way → keepF g) ∧ (¬(g.set = h.set ∧ g.way = h.way) → g ∈ x.hot))
      ∧ (t.sync = false → t.idx = none → t.tabs = [w] → w.inRange = true → w.word < 1048576 → RunsOn (.commit sl th) s sl fun y =>
        y.threads = [] ∧ Counted x y kDMK (0x2100 + 8 * k.toNat) 1 ∧ y.hot = x.hot
        ∧ dataWord y w.word = (match w.op with | none => w.val | some m => taddWord m (dataWord x w.word) w.val)
        ∧ TabsBut x y [(tData, w.word, 0), (tData, w.word, 1)])
      ∧ (t.sync = true → t.idx = some i → hotByIdx x i = some h → replicates x = true → x.logq = [] → x.held = [] → t.tabs = [] →
          RunsOn (.commit sl th) s sl fun y =>
        y.threads = [] ∧ y.held = [⟨t.pkt, i, t.seq, none, true, .drop k, t.qclass, [], t.frame, none⟩] ∧ Counted x y kDMK 0x2038 1
        ∧ Counted x y kFLW 0x1078 1
        ∧ (i ∈ x.logged ∨ rDurable t.f / 4 ≠ 0 → ∃ e, y.logq = [e] ∧ e.idx = h.idx ∧ e.sync = true)
        ∧ (i ∉ x.logged → rDurable t.f / 4 = 0 → y.logq = [])))
    ∧ (t.ended = true → t.disp = .forward hd q none → t.sync = false → t.idx = none → t.tabs = [] → actPol t.pkt.act = none →
        hd.toNat = lane.val → isPort x lane.val = true → portUp x lane.val = true → unselected x lane.val = false →
        portTakes x (ingressSlot t.pkt) = true → accepts x kTMG = true → (allCopies x).length < 262144 →
        queueLen x (.cls lane (clsOf q.toNat)) < (queueLim x (.cls lane (clsOf q.toNat))).1 → (∀ g ∈ x.frames, g.id ≠ x.nextFrm) →
        RunsOn (.commit sl th) s sl fun y =>
      y.threads = [] ∧ ∃ c g, (queueOf y (.cls lane (clsOf q.toNat))).all.getLast? = some c ∧ c.frm = x.nextFrm ∧ c.lane = lane
        ∧ c.len = t.frame.length ∧ c.vid = none ∧ c.dmac = none ∧ y.frames = x.frames ++ [g] ∧ g.id = x.nextFrm ∧ g.bytes = t.frame
        ∧ g.owner = t.pkt.lane.val ∧ g.need = frameCells t.pkt.frame.length ∧ g.bad = !t.pkt.fcsOk))
  ∧ (blkState x kBUF = 1 → reloading x kBUF = false → RunsOn (.cellRequest sl slots) s sl fun y =>
      let c := max (x.cellClk + 1) (2 * x.clk)
      let order := ([c, c + 1, c + 2, c + 3].map fun n => (⟨n % 4, Nat.mod_lt _ (by decide)⟩ : Fin 4)).filter fun k => slots.getLsbD k.val
      y = order.foldl slotRequest { x with cellClk := c })
  ∧ (blkState x kBUF = 1 → reloading x kBUF = false → slots = BitVec.ofNat 4 (2 ^ slot.val) → x.frames.find? (fun g => g.slot = slot && decide (g.need ≠ 0)) = some f →
    (f.owner < 22 → usedC x f.owner < minC x f.owner ∧ 0 < freeC x → f.need ≠ 1 ∨ (f.pages = [] ∧ f.copies = [] ∧ f.mir = none) →
      RunsOn (.cellRequest sl slots) s sl fun y =>
      y = { x with regs := y.regs, cellsOut := y.cellsOut, frames := y.frames, cellClk := y.cellClk,
                   suspects := x.suspects.filter (· ≠ (false, lowestCell x)) } ∧ usedC y f.owner = usedC x f.owner + 1
      ∧ y.cellsOut = sIns x.cellsOut (lowestCell x) f.owner
      ∧ y.frames = x.frames.map (fun g => if g.id = f.id then { f with cells := f.cells ++ [lowestCell x], need := f.need - 1 } else g)
      ∧ RegsBut x y [(kBUF, 0x1400 + 8 * f.owner)])
    ∧ (minC x f.owner ≤ usedC x f.owner → limC x f.owner ≤ usedC x f.owner → policyWait x f.owner = false →
        RunsOn (.cellRequest sl slots) s sl fun y => Counted x y kBUF 0x2000 1 ∧ regBit y kBUF 0x110 0 = true
          ∧ y.cellsOut.length ≤ x.cellsOut.length)
    ∧ (minC x f.owner ≤ usedC x f.owner → limC x f.owner ≤ usedC x f.owner → policyWait x f.owner = true →
        RunsOn (.cellRequest sl slots) s sl fun y =>
      y = { x with regs := y.regs, cellClk := y.cellClk } ∧ Counted x y kBUF 0x2008 1 ∧ regBit y kBUF 0x110 0 = true
      ∧ RegsBut x y ((kBUF, 0x110) :: pairKeys kBUF 0x2008 ++ raiseKeys kBUF 0)))

/-- Replication and the shadow (R271 to R281): a waiting log entry goes out under the next LOGSEQ, with the halves that are dirty;
the twin applies entries to its shadow in order and acknowledges synchronous ones; the acknowledgement, or 3 µs without it, lets
the held packet go; a promotion ends when every entry has been applied; a remote fetch is answered from the shadow, and one that
fails counts the key as absent. What the spec leaves open here is the model's choice: log entries 11, 12 and 73. -/
def Obligations.Replication : Prop := ∀ (s : State) (sl : SliceId) (n i j pkt : Nat) (ms : List TwinMsg) (h : Held) (k : BitVec 4)
    (e : LogItem) (g : HotWay) (l : LogEntry) (ds rcd : List Dword) (fk : FKey) (t : Tracker) (b1 b2 : Nat × Bytes),
    (s.slice sl).on = true →
  let x := s.slice sl
  let held := x.held = [h] ∧ h.disp = .drop k ∧ h.emits = [] ∧ ∀ v ∈ x.trackers, ∀ j r d, v.stage ≠ .wayWait j r d
  let seq := pairGet x kFLW 0x158 + 1
  let sh := region x kFLW 0x13C
  (takeMsg asLogAck x.inbox = some (n, ms) → (∀ g ∈ x.held, g.lseq ≠ some n) → RunsOn (.syncAck sl) s sl fun y =>
      y = { x with inbox := ms })
  ∧ (takeMsg asLogAck x.inbox = some (n, ms) → held → h.lseq = some n → RunsOn (.syncAck sl) s sl fun y =>
      y.held = [] ∧ y.inbox = ms ∧ Counted x y kDMK (0x2100 + 8 * k.toNat) 1)
  ∧ (held → RunsOn (.syncTimeout sl h.pkt.id) s sl fun y =>
      y.held = [] ∧ Counted x y kFLW 0x1080 1 ∧ Counted x y kDMK (0x2100 + 8 * k.toNat) 1)
  ∧ (x.held.find? (·.pkt.id = pkt) = none → RunsOn (.syncTimeout sl pkt) s sl fun y => y = x)
  ∧ (x.logq = [e] → linkIsUp x = true → 2 ≤ txst x → fenced x kTWN = false → idleNs x e.first ≤ 50000 →
    (e.isDel = true → RunsPair (.logEntrySend sl) s sl fun y out =>
      y = { x with regs := y.regs, logq := [], nextXfer := x.nextXfer + 1, unacked := x.unacked ++ [⟨x.nextXfer, 0,
              .log { delEntry ⟨e.kp, e.klen, e.key⟩ e.idx e.dmask e.tcommit with seq := seq }⟩] } ∧ out = sentSince x y
      ∧ pairGet y kFLW 0x158 = seq % 2 ^ 64 ∧ Counted x y kFLW 0x1068 1
      ∧ RegsBut x y (pairKeys kFLW 0x158 ++ pairKeys kFLW 0x1068))
    ∧ (e.isDel = false → e.sync = false → hotByIdx x e.idx = some g → rShadowed g.rcd = true →
      RunsPair (.logEntrySend sl) s sl fun y out =>
      y = { x with regs := y.regs, logq := [], nextXfer := x.nextXfer + 1, unacked := x.unacked ++ [⟨x.nextXfer, 0,
              .log ⟨seq, 2, false, e.idx, rDurable g.rcd, e.kp, e.klen, e.key, e.tcommit,
                if e.dirtyA then some (g.rcd.take 8) else none, if e.dirtyB then some ((g.rcd.drop 8).take 8) else none, false⟩⟩] }
      ∧ out = sentSince x y ∧ pairGet y kFLW 0x158 = seq % 2 ^ 64 ∧ Counted x y kFLW 0x1068 1))
  ∧ (shadState x = 0 → takeMsg asLog x.inbox = some (l, ms) → l.kind = 2 → l.blockA = some ds → l.blockB = none → ds.length = 8 →
      Unmirrored x (sh + 128 * l.idx) 64 → mapped (dramBase + sh + 128 * l.idx) 64 = true → fenced x kTWN = false → RunsPair (.logEntryApply sl false) s sl fun y out =>
      y = { x with regs := y.regs, inbox := ms, dram := y.dram, poison := y.poison, written := y.written, nextXfer := y.nextXfer,
                   unacked := y.unacked, drcPart := y.drcPart, rankDown := y.rankDown }
      ∧ dramGet y (sh + 128 * l.idx) 64 = recordBytes ds ∧ DramBut x y (sh + 128 * l.idx) 64
      ∧ pairGet y kFLW 0x168 = l.seq % 2 ^ 64 ∧ RegsBut x y (pairKeys kFLW 0x168 ++ portKeys true portTws) ∧ out = sentSince x y
      ∧ y.unacked = x.unacked ++ (if l.sync = true ∧ l.idx ∉ x.shRefused ∧ linkIsUp x = true then [⟨x.nextXfer, 0, .logAck l.seq⟩] else []))
  ∧ (shadState x = 0 → takeMsg asLog x.inbox = some (l, ms) → l.kind = 1 → RunsPair (.logEntryApply sl true) s sl
      fun y out => y = { x with regs := y.regs, inbox := ms, shRefused := insNat x.shRefused l.idx } ∧ out = sentSince x y
        ∧ Counted x y kFLW 0x1090 1 ∧ pairGet y kFLW 0x168 = l.seq % 2 ^ 64
        ∧ RegsBut x y (pairKeys kFLW 0x168 ++ pairKeys kFLW 0x1090))
  ∧ (shadState x = 2 → hasLog x.inbox = false → (∀ v ∈ x.trackers, v.stage ≠ .promotion) →
      RunsPair (.promotionComplete sl) s sl fun y _ =>
      y = { x with regs := y.regs } ∧ shadState y = 3 ∧ RegsBut x y ((kFLW, 0x160) :: raiseKeys kFLW 4))
  ∧ (hasLog x.inbox = true → RunsPair (.promotionComplete sl) s sl fun y _ => y = x)
  ∧ (takeMsg asFetch x.inbox = some ((n, fk), ms) → fenced x kTWN = false → RunsPair (.remoteFetchRequest sl) s sl fun y out =>
      y = { x with regs := y.regs, drcPart := y.drcPart, rankDown := y.rankDown, poison := y.poison, inbox := ms,
                   nextXfer := x.nextXfer + 1, unacked := x.unacked ++ [⟨x.nextXfer, 0, .fetchReply n (shLookup x fk)⟩] }
      ∧ out = sentSince x y ∧ RegsBut x y (portKeys false portTws ++ ueKeys))
  ∧ (takeMsg asReply x.inbox = some ((n, some (j, rcd)), ms) → trackerId x n = some t → t.stage = .remote (some i) →
      rcd.length = 16 → Unmirrored x (region x kFLW 0x134 + 128 * i) 128 → mapped (dramBase + region x kFLW 0x134 + 128 * i) 128 = true →
      RunsOn (.remoteFetchReply sl) s sl fun y =>
      y.inbox = ms ∧ dramGet y (region x kFLW 0x134 + 128 * i) 128 = recordBytes (setNth rcd 0 (dset (rcdW rcd 0) 58 58 1))
      ∧ DramBut x y (region x kFLW 0x134 + 128 * i) 128)
  ∧ (trackerId x n = some t → t.stage = .remote (some i) ∨ t.stage = .remote none → x.inflight.find? (·.1 = (flowHash x t.fkey).1) = some b1 →
      x.inflight.find? (·.1 = (flowHash x t.fkey).2.1) = some b2 → slotOf b1.2 t.fkey = none → slotOf b2.2 t.fkey = none →
      (freeSlot b1.2).isSome = true → gapFrom 0 x.recUsed < 16777216 → RunsOn (.remoteFetchTimeout sl n) s sl fun y =>
      y = { x with regs := y.regs, stash := x.stash.filter fun e => decide (e.fkey ≠ t.fkey),
                   trackers := x.trackers.map fun u => if u.id = t.id then { t with stage := .insertWait, got := none } else u }
      ∧ Counted x y kFLW 0x10A8 1 ∧ regBit y kFLW 0x100 3 = true
      ∧ RegsBut x y ((kFLW, 0x100) :: pairKeys kFLW 0x10A8 ++ raiseKeys kFLW 5))

/-- Resync (R483 to R485): the shadow is cleared and CLEARED sent; then the twin walks its records, sends NEW and UPD of each that
has durable words, and END; at END the shadow follows; RELEASE gives up a promoted shadow that was held. What the spec leaves
open here is the model's choice: log entries 12, 73 and 74. -/
def Obligations.Resync : Prop := ∀ (s : State) (sl : SliceId) (v : Word) (ms : List TwinMsg) (i : Nat) (k : FKey) (r : List Dword),
    (s.slice sl).on = true →
  let x := s.slice sl
  let seq := pairGet x kFLW 0x158
  let r' := setNth r 0 (dset (rcdW r 0) 51 51 1)
  let inSh := fun (o : Nat) => (region x kFLW 0x138 ≤ o ∧ o < region x kFLW 0x138 + 2 ^ 30)
    ∨ (region x kFLW 0x13C ≤ o ∧ o < region x kFLW 0x13C + 2 ^ 31)
  (linkIsUp x = true → fenced x kTWN = false → rxst x = 1 → RunsPair (.shadowClearDone sl) s sl fun y out =>
      y = { x with regs := y.regs, shStash := [], shRefused := [], dram := y.dram, poison := y.poison, nextXfer := x.nextXfer + 1,
                   unacked := x.unacked ++ [⟨x.nextXfer, 0, .cleared⟩] }
      ∧ (∀ o, inSh o → sGet 0 y.dram o = 0) ∧ (∀ o, ¬inSh o → sGet 0 y.dram o = sGet 0 x.dram o) ∧ rxst y = 2
      ∧ out = sentSince x y ∧ RegsBut x y [(kTWN, 0x130)])
  ∧ (takeMsg asCleared x.inbox = some ((), ms) → linkIsUp x = true → RunsPair (.cleared sl) s sl fun y _ =>
      y = { x with regs := y.regs, inbox := ms } ∧ txst y = 2 ∧ regFld y kTWN 0x130 23 0 = 0 ∧ regBit y kTWN 0x130 26 = false
      ∧ rxst y = rxst x ∧ RegsBut x y [(kTWN, 0x130)])
  ∧ (linkIsUp x = true → fenced x kTWN = false → txst x = 2 →
    (nextLogged x (regFld x kTWN 0x130 23 0) = none → RunsPair (.resyncWalk sl) s sl fun y out =>
      y = { x with regs := y.regs, nextXfer := x.nextXfer + 1, unacked := x.unacked ++ [⟨x.nextXfer, 0, .endResync⟩] }
      ∧ txst y = 3 ∧ out = sentSince x y ∧ RegsBut x y ((kTWN, 0x130) :: raiseKeys kFLT 5))
    ∧ (nextLogged x (regFld x kTWN 0x130 23 0) = some (i, k, r) → rShadowed r = true → i + 1 < 2 ^ 24 →
      RunsPair (.resyncWalk sl) s sl fun y out =>
      y = { x with regs := y.regs, nextXfer := x.nextXfer + 2, unacked := x.unacked
              ++ [⟨x.nextXfer, 0, .log { newEntry k i r' (rcdW r 3) true with seq := seq + 1 }⟩,
                  ⟨x.nextXfer + 1, 0, .log { updEntry k i r' (rcdW r 3) false true false true with
                    seq := (seq + 1) % 2 ^ 64 + 1 }⟩] }
      ∧ regFld y kTWN 0x130 23 0 = i + 1 ∧ Counted x y kTWN 0x1000 2 ∧ pairGet y kFLW 0x158 = (seq + 2) % 2 ^ 64
      ∧ out = sentSince x y))
  ∧ (rxst x = 2 → takeEnd x.inbox = some ms → RunsPair (.endOfResync sl) s sl fun y _ =>
      y = { x with regs := y.regs, inbox := ms } ∧ rxst y = 3 ∧ shadState y = 0
      ∧ RegsBut x y ([(kTWN, 0x130), (kFLW, 0x160)] ++ raiseKeys kFLT 6))
  ∧ RunsOn (.release sl v) s sl (fun y =>
      y = { x with regs := y.regs, bus := .done } ∧ regGet y kTWN 0x120 = v &&& 0xA01F0000
      ∧ RegsBut x y [(kTWN, 0x120), (kTWN, 0x130), (kFLW, 0x160)]
      ∧ (wbit v 30 = true → regBit x kTWN 0x130 27 = true → rxst y = 1 ∧ shadState y = 1 ∧ regBit y kTWN 0x130 27 = false)
      ∧ (wbit v 30 = false ∨ regBit x kTWN 0x130 27 = false → RegsBut x y [(kTWN, 0x120)]))

/-- The twin link (R12, R149 to R153): lanes trained and aligned, this end sends its hello; a hello that fits brings the link up
with its first heartbeat and resync, one that does not takes it down for 10 ms; transfers are acknowledged, or sent again at
most 8 times while the link trains or is up; below three lanes the link goes down, as it does for a notice of either end; a link
that goes down discards the log and freezes the shadow. What the spec leaves open here is the model's choice: log entries 12, 57
and 58. -/
def Obligations.TwinLink : Prop := ∀ (s : State) (sl : SliceId) (seq n : Nat) (p h locked sleep : Bool) (ms : List TwinMsg)
    (t : Transfer) (k : Fin 4) (c : DownCause), (s.slice sl).on = true →
  let x := s.slice sl
  let st := regFld x kTWN 0x100 31 28
  let up := st = 3 ∨ st = 4
  let lanes := popCount (regFld x kTWN 0x100 27 24) 4
  let after := if locked then lanes + 1 else lanes - 1
  let down := fun (y : Slice) (st code : Nat) => regFld y kTWN 0x100 31 28 = st ∧ regFld y kTWN 0x100 23 16 = code ∧ y.logq = []
    ∧ txst y = 0 ∧ rxst y = 0 ∧ (shadState x = 0 ∨ shadState x = 1 → shadState y = 1) ∧ (2 ≤ shadState x → shadState y = shadState x)
    ∧ y.inbox = x.inbox.filter keptMsg ∧ y.tabs = x.tabs ∧ y.frames = x.frames
  let idle := x.held = [] ∧ x.trackers = []
  (bothEnabled s sl = true → ¬up → ¬(regFld x kTWN 0x100 31 28 = 0 ∧ regFld x kTWN 0x100 23 16 = 5) →
    RunsPair (.twinLinkTrainingDone sl) s sl fun y out =>
      y = { x with regs := y.regs, nextXfer := x.nextXfer + 1, unacked := x.unacked ++ [⟨x.nextXfer, 0, .hello sl.val true
              (decide (shadState x = 3) && regBit x kTWN 0x120 31)⟩] }
      ∧ regFld y kTWN 0x100 31 28 = 2 ∧ regFld y kTWN 0x100 27 24 = 15 ∧ RegsBut x y [(kTWN, 0x100)] ∧ out = sentSince x y)
  ∧ (regFld x kTWN 0x100 31 28 = 2 → takeMsg asHello x.inbox = some ((n, p, h), ms) → n = (twin sl).val → p = true → 3 ≤ lanes →
    fenced x kTWN = false → RunsPair (.hello sl) s sl fun y _ =>
      y = { x with regs := y.regs, twinLost := false, inbox := ms.filter (fun m => (asLog m).isNone), hbSeq := (x.hbSeq + 1) % 2 ^ 32,
                   nextXfer := x.nextXfer + 1, unacked := y.unacked }
      ∧ regFld y kTWN 0x100 31 28 = (if lanes = 4 then 3 else 4) ∧ regFld y kTWN 0x110 27 24 = 0
      ∧ txst y = (if h then 0 else 1) ∧ regBit y kTWN 0x130 26 = h
      ∧ (∃ f cur q, y.unacked = x.unacked ++ [⟨x.nextXfer, 0, .heartbeat x.id.val f cur ((x.hbSeq + 1) % 2 ^ 32) q⟩])
      ∧ (¬(shadState x = 3 ∧ regBit x kTWN 0x120 31 = true) → rxst y = 1 ∧ shadState y = 1))
  ∧ (regFld x kTWN 0x100 31 28 = 2 → takeMsg asHello x.inbox = some ((n, p, h), ms) → 
      lanes < 3 ∨ n ≠ (twin sl).val ∨ p = false → RunsPair (.hello sl) s sl fun y _ =>
      y = { x with regs := y.regs, unacked := [], inbox := ms.filter keptMsg } ∧ regFld y kTWN 0x100 31 28 = 0
      ∧ regFld y kTWN 0x100 23 16 = (if lanes < 3 then 3 else 5) ∧ RegsBut x y [(kTWN, 0x100)])
  ∧ (bothEnabled s sl = true → regFld x kTWN 0x100 31 28 = 0 → regFld x kTWN 0x100 23 16 = 5 → RunsOn (.helloRetry sl) s sl fun y =>
      y = { x with regs := y.regs, unacked := [] } ∧ regFld y kTWN 0x100 31 28 = 1 ∧ RegsBut x y [(kTWN, 0x100)])
  ∧ RunsOn (.transferAck sl seq) s sl (fun y => y = { x with unacked := x.unacked.filter (·.seq ≠ seq) })
  ∧ (st ≠ 1 → st ≠ 2 → ¬up → RunsPair (.transferResend sl seq) s sl fun y _ => y = x)
  ∧ (st = 1 ∨ st = 2 ∨ up → x.unacked.find? (·.seq = seq) = some t → t.resends < 8 → RunsPair (.transferResend sl seq) s sl fun y _ =>
      y = { x with regs := y.regs,
                   unacked := x.unacked.map fun u => if u.seq = seq then { u with resends := u.resends + 1 } else u }
      ∧ regFld y kTWN 0x100 15 0 = min 65535 (regFld x kTWN 0x100 15 0 + 1) ∧ RegsBut x y [(kTWN, 0x100)])
  ∧ (x.unacked.find? (·.seq = seq) = some t → 8 ≤ t.resends → up → idle → RunsPair (.transferResend sl seq) s sl fun y _ =>
      down y 0 4 ∧ y.unacked = [])
  ∧ (regBit x kTWN 0x100 (24 + k.val) = locked → RunsPair (.twinLaneLock sl k locked) s sl fun y _ => y = x)
  ∧ (regBit x kTWN 0x100 (24 + k.val) ≠ locked → ¬up → ¬(st = 2 ∧ after < 3) →
    RunsPair (.twinLaneLock sl k locked) s sl fun y _ =>
      y = { x with regs := y.regs } ∧ regBit y kTWN 0x100 (24 + k.val) = locked ∧ RegsBut x y ((kTWN, 0x100) :: raiseKeys kTWN 2))
  ∧ (regBit x kTWN 0x100 (24 + k.val) ≠ locked → st = 2 → after < 3 → RunsPair (.twinLaneLock sl k locked) s sl fun y _ =>
      y = { x with regs := y.regs, unacked := [], inbox := x.inbox.filter keptMsg } ∧ regFld y kTWN 0x100 31 28 = 0
      ∧ regFld y kTWN 0x100 23 16 = 3 ∧ RegsBut x y ((kTWN, 0x100) :: raiseKeys kTWN 2))
  ∧ (regBit x kTWN 0x100 (24 + k.val) = false → lanes = 3 → up → RunsPair (.twinLaneLock sl k true) s sl fun y _ =>
      y = { x with regs := y.regs } ∧ regBit y kTWN 0x100 (24 + k.val) = true ∧ regFld y kTWN 0x100 31 28 = 3
      ∧ RegsBut x y ((kTWN, 0x100) :: raiseKeys kTWN 2))
  ∧ (regBit x kTWN 0x100 (24 + k.val) = true → lanes = 4 → up → RunsPair (.twinLaneLock sl k false) s sl fun y _ =>
      y = { x with regs := y.regs } ∧ regBit y kTWN 0x100 (24 + k.val) = false ∧ regFld y kTWN 0x100 31 28 = 4
      ∧ RegsBut x y ((kTWN, 0x100) :: raiseKeys kTWN 2))
  ∧ (regBit x kTWN 0x100 (24 + k.val) = true → lanes = 3 → up → idle → RunsPair (.twinLaneLock sl k false) s sl fun y _ =>
      down y 0 3 ∧ y.unacked = [])
  ∧ (up → idle → RunsPair (.twinLinkDown sl c) s sl fun y _ =>
      down y (match c with | .peerDisable => 6 | .peerSleep => 6 | _ => 0) (downCode c)
      ∧ (fenced x kTWN = false → y.unacked = (match c with | .localDisable => [⟨x.nextXfer, 0, .down⟩] | .localSleep => [⟨x.nextXfer, 0, .sleep⟩] | _ => [])))
  ∧ (takeMsg asNotice x.inbox = some (sleep, ms) → up → idle → RunsOn (.peerDownNotice sl) s sl fun y =>
      regFld y kTWN 0x100 31 28 = 6 ∧ regFld y kTWN 0x100 23 16 = (if sleep then 6 else 2) ∧ y.logq = [] ∧ y.unacked = []
      ∧ y.inbox = ms.filter keptMsg ∧ txst y = 0 ∧ rxst y = 0)
  ∧ (takeMsg asNotice x.inbox = none → RunsOn (.peerDownNotice sl) s sl fun y => y = x)

/-- Heartbeats and the loss of the twin (R13, R153, R278, R471, R479): a heartbeat carries the slice, whether it faults, its power
state and its sequence numbers; one that arrives clears the count of missed ones; at three missed ones, over a link that is up
or fell without a notice, the slice asks whether the hub shows its twin running, and declares it lost if not; a fault bit and a
fault report of the hub declare it lost at once; a declared loss starts the promotion and is told to the twin, which stops. What
the spec leaves open here is the model's choice: log entries 12, 57, 58 and 59. -/
def Obligations.TwinSupervision : Prop := ∀ (s : State) (sl : SliceId) (ms : List TwinMsg) (hs : HubSlice),
    (s.slice sl).on = true →
  let x := s.slice sl
  let up := regFld x kTWN 0x100 31 28 = 3 ∨ regFld x kTWN 0x100 31 28 = 4
  let down := fun (c : Nat) => regFld x kTWN 0x100 31 28 = 0 ∧ regFld x kTWN 0x100 23 16 = c
  let supervised := up ∨ (enabled x kTWN = true ∧ (down 3 ∨ down 4 ∨ (down 0 ∧ 3 ≤ regFld x kTWN 0x110 27 24)))
  let m := min 15 (regFld x kTWN 0x110 27 24 + 1)
  let lost := fun (y : Slice) => y.twinLost = true ∧ (shadState x ≠ 3 → shadState y = 2 ∧ rxst y = 0) ∧ y.lost = x.lost
    ∧ (up → fenced x kTWN = false → ∃ q, y.unacked = x.unacked ++ [⟨q, 0, .declared⟩])
    ∧ (¬up ∨ fenced x kTWN = true → y.unacked = x.unacked)
    ∧ (∃ d, y.toHub = x.toHub ++ [⟨0x0009, d, none⟩]) ∧ Counted x y kFLT 0x1008 1 ∧ y.tabs = x.tabs ∧ y.frames = x.frames
  (up → napping x = false → fenced x kTWN = false → RunsPair (.heartbeatSend sl) s sl fun y out =>
      y = { x with hbSeq := (x.hbSeq + 1) % 2 ^ 32, nextXfer := x.nextXfer + 1, unacked := x.unacked ++ [⟨x.nextXfer, 0,
              .heartbeat x.id.val x.report (BitVec.ofNat 2 (regFld x kSLC 0x100 7 6)) ((x.hbSeq + 1) % 2 ^ 32) (pairGet x kFLW 0x158)⟩] } ∧ out = sentSince x y)
  ∧ (¬up ∨ napping x = true → RunsPair (.heartbeatSend sl) s sl fun y _ => y = x)
  ∧ (takeMsg asHeartbeat x.inbox = some (((twin sl).val, false), ms) → up → RunsPair (.heartbeatReceive sl) s sl fun y _ =>
      y = { x with regs := y.regs, inbox := ms } ∧ regFld y kTWN 0x110 27 24 = 0 ∧ RegsBut x y [(kTWN, 0x110)])
  ∧ (takeMsg asHeartbeat x.inbox = some (((twin sl).val, true), ms) → up → x.twinLost = false → x.trackers = [] →
      RunsPair (.heartbeatReceive sl) s sl fun y _ => lost y ∧ y.inbox = ms)
  ∧ (¬supervised → RunsPair (.heartbeatInterval sl) s sl fun y _ => y = x)
  ∧ (supervised → m < 3 ∨ (¬up ∧ hubShowsRunning s (twin sl) = true) → RunsPair (.heartbeatInterval sl) s sl fun y _ => y = { x with regs := y.regs }
      ∧ regFld y kTWN 0x110 27 24 = m ∧ regFld y kTWN 0x110 23 0 = min 16777215 (regFld x kTWN 0x110 23 0 + 1)
      ∧ RegsBut x y ((kTWN, 0x110) :: raiseKeys kTWN 3))
  ∧ (supervised → 3 ≤ m → hubShowsRunning s (twin sl) = false → x.twinLost = false → x.trackers = [] →
      RunsPair (.heartbeatInterval sl) s sl fun y _ => lost y ∧ regFld y kTWN 0x110 27 24 = m)
  ∧ (up → 3 ≤ m → hubShowsRunning s (twin sl) = true → x.held = [] → x.trackers = [] →
      RunsPair (.heartbeatInterval sl) s sl fun y _ => regFld y kTWN 0x100 31 28 = 0 ∧ y.logq = [] ∧ y.twinLost = x.twinLost)
  ∧ (s.hub.slices[(twin sl).val]? = some hs → hs.fbits = true → hubUp s = true → paired s sl = true → x.twinLost = false →
      x.trackers = [] → Runs (.hubFaultReport sl) s fun t => lost (t.slice sl) ∧ t.pending = s.pending
        ∧ t.hub.slices[(twin sl).val]? = some { hs with fbits := false } ∧ ∀ n, n ≠ sl → n ≠ twin sl → t.slice n = s.slice n)
  ∧ (takeMsg asDeclared x.inbox = some ((), ms) → RunsOn (.declared sl) s sl fun y => y.inbox = ms
      ∧ (x.lost = true → y = { x with inbox := ms })
      ∧ (x.lost = false → y.lost = true ∧ y.report = true ∧ y.sending = [] ∧ y.fifo = [] ∧ y.win = [] ∧ y.recirc = []
          ∧ y.flowIn = [] ∧ y.dram = x.dram))
  ∧ (takeMsg asDeclared x.inbox = none → ((s.slice (twin sl)).twinLost && hubUp s) = false →
      RunsOn (.declared sl) s sl fun y => y = x)

/-- Ports and the Serge frame searcher (R139 to R142, R148, R163, R164, R176, R347): a port comes up on its lanes with its FEC, or
counts a failed negotiation, and goes down with its queues flushed; low-power idle, where the partner has agreed to it, shows
per lane; a lane with block lock, and in no loopback, hunts for frames, tracks candidates, locks at the third good overhead, and
falls back after four bad ones; one that loses its blocks is declared lost to its group. What the spec leaves open here is the
model's choice: log entries 51, 56, 93, 95 and 96. -/
def Obligations.PortsAndSearch : Prop := ∀ (s : State) (sl : SliceId) (lane : Lane) (fec : BitVec 2) (pos : BitVec 14)
    (crcOk gained offered eee : Bool) (oh : Overhead) (m : Member) (c : Cand) (g : Group) (p : Nat), (s.slice sl).on = true →
  let x := s.slice sl
  let l := lane.val
  let al := regFld x kSRG (0x2000 + 4 * l) 31 29
  let put := fun (m' : Member) => x.members.map fun k => if k.lane = m'.lane then m' else k
  let lnKeys := [(kSRG, 0x2000 + 4 * l), (kLNE, 0x1040), (kLNE, 0x1044)] ++ raiseKeys kSRG 0 ++ raiseKeys kLNE 0
  let fallen := fun (k : Member) =>
    { k with lastValid := false, prevOh := none, codeRun := 0, rxAck := 0, rlost := 0, retRdsk := false, retRgid := false,
             rxGmc := [], gmcRx := [] }
  let others := fun (y : Slice) => y = { x with regs := y.regs, members := y.members, serRaw := y.serRaw }
  (mayComeUp x l = true → negotiates x l = true → offered = false → RunsOn (.portLinkUp sl lane fec offered eee) s sl fun y =>
      y = { x with negFails := y.negFails } ∧ sGet 0 y.negFails l = sGet 0 x.negFails l + 1
      ∧ ∀ k, k ≠ l → sGet 0 y.negFails k = sGet 0 x.negFails k)
  ∧ (mayComeUp x l = true → negotiates x l = false ∨ offered = true → isGroup x l = false →
    RunsOn (.portLinkUp sl lane fec offered eee) s sl fun y =>
      y = { x with regs := y.regs, eeeAgreed := y.eeeAgreed } ∧ (l ∈ y.eeeAgreed ↔ negotiates x l = true ∧ eee = true)
      ∧ (∀ k, k ≠ l → (k ∈ y.eeeAgreed ↔ k ∈ x.eeeAgreed)) ∧ (∀ k ∈ portLanes x l, k < 16 → regBit y kLNE 0x1040 k = true)
      ∧ regGet y kLNE (0x1100 + 4 * l) = w32 (fecInUse x l fec.toNat)
      ∧ RegsBut x y ([(kLNE, 0x1100 + 4 * l), (kLNE, 0x1040), (kLNE, 0x1044)] ++ raiseKeys kLNE 0))
  ∧ (mayComeUp x l = false → RunsOn (.portLinkUp sl lane fec offered eee) s sl fun y => y = x)
  ∧ (isEth x l = true → regBit x kLNE 0x1040 l = true → isGroup x l = false → RunsOn (.portLinkDown sl lane) s sl fun y =>
      (∀ k ∈ portLanes x l, k < 16 → regBit y kLNE 0x1040 k = false) ∧ (∀ e ∈ y.sending, e.lane ≠ lane)
      ∧ (∀ q ∈ y.queues, ∀ d ∈ q.all, queuePort x d.q ≠ l) ∧ y.tabs = x.tabs ∧ y.hot = x.hot ∧ y.win = x.win)
  ∧ (isEth x l = false ∨ regBit x kLNE 0x1040 l = false → RunsOn (.portLinkDown sl lane) s sl fun y => y = x)
  ∧ (lanePort x l = some p → regBit x kLNE 0x1040 l = true → wbit (lnePort x p) 26 = true → p ∈ x.eeeAgreed →
    RunsOn (.lpiEnter sl lane) s sl fun y =>
      y = { x with regs := y.regs } ∧ regBit y kLNE 0x1040 (16 + l) = true ∧ regBit y kLNE 0x1040 l = true
      ∧ RegsBut x y [(kLNE, 0x1040)])
  ∧ (lanePort x l = some p → p ∉ x.eeeAgreed → RunsOn (.lpiEnter sl lane) s sl fun y => y = x)
  ∧ RunsOn (.lpiExit sl lane) s sl (fun y => y = { x with regs := y.regs } ∧ regBit y kLNE 0x1040 (16 + l) = false
      ∧ regBit y kLNE 0x1040 l = regBit x kLNE 0x1040 l ∧ RegsBut x y [(kLNE, 0x1040)])
  ∧ (serMember x lane = none → ∀ i ∈ [Instr.sergeBlockLock sl lane gained, .lossOfSignal sl lane, .overheadReceive sl lane pos oh],
      RunsPair i s sl fun y _ => y = x)
  ∧ (looped x l = true → ∀ i ∈ [Instr.sergeBlockLock sl lane true, .overheadReceive sl lane pos oh],
      RunsPair i s sl fun y _ => y = x)
  ∧ (serMember x lane = some m → al = 0 → looped x l = false → RunsPair (.sergeBlockLock sl lane true) s sl fun y _ =>
      y = { x with regs := y.regs, members := put { m with cands := [] } } ∧ regFld y kSRG (0x2000 + 4 * l) 31 29 = 1
      ∧ RegsBut x y lnKeys)
  ∧ (serMember x lane = some m → ∀ i ∈ [Instr.sergeBlockLock sl lane false, .lossOfSignal sl lane],
    (groupOfLane x l = none → RunsPair i s sl fun y _ =>
      y = { x with regs := y.regs, members := y.members } ∧ regFld y kSRG (0x2000 + 4 * l) 31 29 = 0 ∧ RegsBut x y lnKeys
      ∧ (al < 3 → y.members = x.members)
      ∧ (3 ≤ al → y.members = x.members.map fun k => if k.lane.val = l then fallen k else k))
    ∧ (groupOfLane x l = some g → 3 ≤ al → m.lost = false → RunsPair i s sl fun y _ =>
      regFld y kSRG (0x2000 + 4 * l) 31 29 = 0 ∧ (∀ k ∈ y.members, k.lane = lane → k.lost = true ∧ k.lastValid = false)
      ∧ pending y (kSRG * 16 + 3) = true
      ∧ ∀ h ∈ y.groups, h.lane = g.lane → h.rxq = [] ∧ h.rxCur = none ∧ ∀ q, m.seq = some q → q < 16 → bit h.rlostOut.toNat q = true))
  ∧ (serMember x lane = some m → al = 1 ∨ al = 2 → m.cands.any (·.pos = pos.toNat) = false →
    (m.cands.length < 8 → RunsOn (.fapSighting sl lane pos true) s sl fun y =>
      y = { x with regs := y.regs, members := put { m with cands := m.cands ++ [⟨pos.toNat, 1⟩] } }
      ∧ regFld y kSRG (0x2000 + 4 * l) 31 29 = 2 ∧ RegsBut x y lnKeys)
    ∧ (m.cands.length < 8 → RunsOn (.fapSighting sl lane pos false) s sl fun y =>
      y = { x with regs := y.regs, members := put m } ∧ regFld y kSRG (0x2000 + 4 * l) 31 29 = (if m.cands = [] then 1 else 2)
      ∧ (al = 1 → pending y (kSRG * 16) = true) ∧ RegsBut x y lnKeys)
    ∧ (8 ≤ m.cands.length → RunsOn (.fapSighting sl lane pos crcOk) s sl fun y => y = { x with regs := y.regs }
      ∧ regFld y kSRG (0x2040 + 4 * l) 19 16 = min 15 (regFld x kSRG (0x2040 + 4 * l) 19 16 + 1)
      ∧ RegsBut x y [(kSRG, 0x2040 + 4 * l)]))
  ∧ (serMember x lane = some m → looped x l = false → al = 2 → m.cands.find? (·.pos = pos.toNat) = some c →
    (ohValid oh = true → c.count < 2 → RunsPair (.overheadReceive sl lane pos oh) s sl fun y _ =>
      y = { x with members := put { m with cands := m.cands.map fun d => if d.pos = pos.toNat then { d with count := d.count + 1 }
              else d } })
    ∧ (ohValid oh = true → 2 ≤ c.count → groupOfLane x l = none → RunsPair (.overheadReceive sl lane pos oh) s sl fun y _ =>
      others y ∧ regFld y kSRG (0x2000 + 4 * l) 31 29 = 3
      ∧ (∀ k ∈ y.members, k.lane = lane → k.fixed = pos.toNat ∧ k.cands = [] ∧ k.miss = 0))
    ∧ (ohValid oh = false → RunsPair (.overheadReceive sl lane pos oh) s sl fun y _ =>
      others y ∧ y.members = put { m with cands := m.cands.filter (·.pos ≠ pos.toNat) }
      ∧ sGet 0 y.serRaw (8 * l + 5) = sGet 0 x.serRaw (8 * l + 5) + 1
      ∧ regFld y kSRG (0x2000 + 4 * l) 31 29 = (if m.cands.filter (·.pos ≠ pos.toNat) = [] then 1 else 2)))
  ∧ (serMember x lane = some m → looped x l = false → al = 3 ∨ al = 4 → pos.toNat = m.fixed → ohValid oh = false →
    (m.miss < 3 → RunsPair (.overheadReceive sl lane pos oh) s sl fun y _ =>
      (groupOfLane x l = none → others y) ∧ regFld y kSRG (0x2000 + 4 * l) 31 29 = 4
      ∧ sGet 0 y.serRaw (8 * l + 5) = sGet 0 x.serRaw (8 * l + 5) + 1
      ∧ (∀ k ∈ y.members, k.lane = lane → k.miss = m.miss + 1 ∧ k.lastValid = false))
    ∧ (m.miss = 3 → groupOfLane x l = none → RunsPair (.overheadReceive sl lane pos oh) s sl fun y _ =>
      others y ∧ regFld y kSRG (0x2000 + 4 * l) 31 29 = 1))

/-- Serge groups, protection and messages (R157, R158, R161, R166, R172 to R178, R184 to R186): a target moves member codes; at a
frame boundary carrying members that are lost leave the map, and each member sends its next frame's overhead; at a multiframe
boundary acknowledged requests are applied together, or deferred with cause 2; counters latch each second; SF from the twin and
SELECT choose the group of a pair; messages are taken, delivered and read. What the spec leaves open here is the model's choice:
log entries 93, 94, 95, 96, 113, 132, 133 and 134. -/
def Obligations.SergeGroups : Prop := ∀ (s : State) (sl : SliceId) (grp lane : Lane) (v : Word) (g pg : Group) (m : Member)
    (ms : List TwinMsg) (gid : Nat), (s.slice sl).on = true →
  let x := s.slice sl
  let n := grp.val
  let putG := fun (h : Group) => x.groups.map fun k => if k.lane = h.lane then h else k
  (groupOf x grp = none → RunsOn (.targetWrite sl grp v) s sl fun y => y = { x with regs := y.regs, bus := .done }
      ∧ regGet y kSRG (0x1008 + 16 * n) = w32 (fld v 15 0) ∧ RegsBut x y [(kSRG, 0x1008 + 16 * n), (kSRG, 8)])
  ∧ (groupOf x grp = some g → (g.seqs.map (·.1)).Nodup → (∀ q ∈ g.seqs, q.1 < 16) → RunsOn (.targetWrite sl grp v) s sl fun y =>
      y = { x with regs := y.regs, members := y.members, bus := .done }
      ∧ (seqRuns x qSOH = true → ∀ q ∈ g.seqs, txCode y q.1 = (match wbit v q.1, txCode x q.1 with
          | true, 1 => 2 | true, 5 => 2 | true, 4 => 3 | false, 2 => 1 | false, 3 => 4 | _, k => k))
      ∧ (seqRuns x qSOH = false → y.members = x.members ∧ ∀ q ∈ g.seqs, txCode y q.1 = txCode x q.1))
  ∧ (groupOf x grp = none → RunsPair (.multiframeBoundary sl grp) s sl fun y _ => y = x)
  ∧ (groupOf x grp = none → regBit x kSRG 0x4004 31 = false → RunsPair (.frameBoundary sl grp) s sl fun y _ =>
      y = { x with members := y.members } ∧ (∀ k ∈ y.members, k.lane ≠ grp → k ∈ x.members)
      ∧ (groupOfLane x n ≠ none → y = x))
  ∧ (groupOf x grp = some g → (g.seqs.map (·.1)).Nodup → (g.seqs.map (·.2)).Nodup → (∀ q ∈ g.seqs, q.1 < 16 ∧ q.2 < 16) →
    let map := fun (y : Slice) (P : Nat × Nat → Bool) => ∀ h ∈ y.groups, h.lane = grp → ∀ q ∈ g.seqs, bit h.txMap.toNat q.2 = P q
    let kept := fun (q : Nat × Nat) => bit g.txMap.toNat q.2
    let clean := ∀ q ∈ g.seqs, farLost x g q.2 = false ∧ ∀ k ∈ x.members, k.lane.val = q.1 → k.lost = false ∧ k.dropped = false
    (regBit x kSRG 0x4004 31 = false → g.idx % 32 = 31 → RunsPair (.frameBoundary sl grp) s sl fun y _ => y = x)
    ∧ (g.idx % 32 ≠ 31 → RunsPair (.multiframeBoundary sl grp) s sl fun y _ => y = x)
    ∧ (regBit x kSRG 0x4004 31 = false → g.idx % 32 ≠ 31 → RunsPair (.frameBoundary sl grp) s sl fun y _ =>
      map y (fun q => kept q && !(farLost x g q.2 || x.members.any fun m => decide (m.lane.val = q.1) && m.lost))
      ∧ ∀ h ∈ y.groups, h.lane = grp → h.idx = (g.idx + 1) % 256 ∧ ∀ q ∈ g.seqs, ∀ k ∈ y.members, k.lane.val = q.1 →
        sends x n q.1 = true → k.txIdx = h.idx ∧ ∃ a b c d, k.txOh = [a, b, c, d] ∧ dbits a 63 16 = 0xF62828F62828
          ∧ dbits a 15 8 = h.idx ∧ dbits a 7 0 = 16 * x.id.val + q.1 ∧ dbits b 63 48 = g.gid % 65536 ∧ dbits b 43 40 = q.2
          ∧ dbits b 39 36 = txCode y q.1 ∧ dbits b 23 8 = h.txMap.toNat ∧ dbits d 31 16 = h.rlostOut.toNat
          ∧ dbits d 15 0 = crc16Run 0xFFFF (dwordBytes a ++ dwordBytes b ++ dwordBytes c ++ (dwordBytes d).take 6))
    ∧ (clean → g.idx % 32 = 31 →
      (requests x g = [] ∨ groupSends x g = false ∨ seqRuns x qSOH = false → RunsPair (.multiframeBoundary sl grp) s sl fun y _ =>
        map y kept)
      ∧ (requests x g ≠ [] → groupSends x g = true → seqRuns x qSOH = true → groupQuiet x g = false →
        RunsPair (.multiframeBoundary sl grp) s sl fun y _ => map y kept ∧ pending y (kSRG * 16 + 2) = true)
      ∧ (requests x g ≠ [] → groupSends x g = true → seqRuns x qSOH = true → groupQuiet x g = true →
        RunsPair (.multiframeBoundary sl grp) s sl fun y _ =>
        map y fun q => if q ∈ acked x g then decide (txCode x q.1 = 2) else kept q)))
  ∧ ((baseOf x 0).latched < secOf (baseNow x 0) → RunsOn (.sergeCounterLatch sl) s sl fun y =>
      y = { x with regs := y.regs, bases := y.bases, serRaw := [] } ∧ (baseOf y 0).latched = secOf (baseNow x 0)
      ∧ (∀ l < 16, (∀ k < 6, regGet y kSRG (0x3000 + 32 * l + 4 * k) = w32 (sGet 0 x.serRaw (8 * l + k)))
          ∧ regGet y kSRG (0x3018 + 32 * l) = w32 (secOf (baseNow x 0)))
      ∧ pending y (kSRG * 16 + 7) = true ∧ ∀ k, k ≠ 0 → y.bases[k]? = x.bases[k]?)
  ∧ (secOf (baseNow x 0) ≤ (baseOf x 0).latched → RunsOn (.sergeCounterLatch sl) s sl fun y => y = x)
  ∧ (takeMsg asSf x.inbox = some (gid, ms) → x.groups.find? (fun h => decide (h.gid = gid) && decide (protRole x h.lane.val = 2)) = some pg →
      RunsOn (.protSfReceive sl) s sl fun y =>
      y = { x with regs := y.regs, inbox := ms, groups := putG { pg with protTx := 3 } } ∧ regBit y kSRG (0x1800 + 4 * pg.lane.val) 23 = true
      ∧ RegsBut x y ((kSRG, 0x1800 + 4 * pg.lane.val) :: raiseKeys kSRG 4))
  ∧ (takeMsg asSf x.inbox = none → RunsOn (.protSfReceive sl) s sl fun y => y = x)
  ∧ (fld v 1 0 = 1 → protRole x n = 1 → x.twinLost = false → groupOf x grp = some g → linkIsUp x = false →
      RunsOn (.select sl grp v) s sl fun y =>
      y = { x with regs := y.regs, bus := .done, groups := putG { g with protTx := 0 } } ∧ regBit y kSRG (0x1800 + 4 * n) 23 = true
      ∧ RegsBut x y ((kSRG, 0x1800 + 4 * n) :: raiseKeys kSRG 4))
  ∧ (fld v 1 0 = 1 → protRole x n = 1 → x.twinLost = false → linkIsUp x = true →
      (s.slice (twin sl)).groups.find? (fun h => decide (h.gid = fld (srgCfg x n) 15 0)
        && decide (protRole (s.slice (twin sl)) h.lane.val = 2)) = some pg → Runs (.select sl grp v) s fun t =>
      regBit (t.slice sl) kSRG (0x1800 + 4 * n) 23 = true
      ∧ regBit (t.slice (twin sl)) kSRG (0x1800 + 4 * pg.lane.val) 23 = false ∧ t.hub = s.hub
      ∧ ∀ k, k ≠ sl → k ≠ twin sl → t.slice k = s.slice k)
  ∧ (fld v 1 0 ≠ 1 ∨ protRole x n ≠ 1 ∨ x.twinLost = true → RunsOn (.select sl grp v) s sl fun y => y = { x with bus := .done })
  ∧ (wbit v 31 = true → regBit x kSRG 0x4004 31 = true → RunsOn (.messageSend sl v) s sl fun y =>
      y = { x with regs := y.regs, bus := .done } ∧ RegsBut x y [(kSRG, 8)])
  ∧ (wbit v 31 = true → regBit x kSRG 0x4004 31 = false → seqRuns x qSOH = false → RunsOn (.messageSend sl v) s sl fun y =>
      y = { x with regs := y.regs, bus := .done } ∧ regGet y kSRG 0x4004 = v &&& 0x800F00FF
      ∧ RegsBut x y [(kSRG, 0x4004), (kSRG, 8)])
  ∧ (wbit v 31 = true → regBit x kSRG 0x4004 31 = false → seqRuns x qSOH = true → RunsOn (.messageSend sl v) s sl fun y =>
      let msg := BitVec.ofNat 8 (fld v 7 0) :: slab x.msgOut 0 (fld v 7 0 + 1)
      let crc := beBytes 4 (crc32cRun 0xFFFFFFFF msg ^^^ 0xFFFFFFFF)
      y = { x with regs := y.regs, bus := .done, msgOut := [],
                   members := x.members.map fun k =>
                     if k.lane.val = fld v 19 16 then { k with gmcTx := k.gmcTx ++ 0xA6 :: (msg ++ crc) } else k }
      ∧ regGet y kSRG 0x4004 = v &&& 0x000F00FF ∧ RegsBut x y [(kSRG, 0x4004), (kSRG, 8)])
  ∧ (serMember x lane = none → RunsOn (.messageReceive sl lane) s sl fun y => y = x)
  ∧ (serMember x lane = some m →
    let len := beAt m.gmcRx 1 1 + 1
    let body := slab m.gmcRx 2 len
    let good := beAt m.gmcRx (len + 2) 4 = crc32cRun 0xFFFFFFFF (slab m.gmcRx 1 (len + 1)) ^^^ 0xFFFFFFFF
    let rest := x.members.map fun k =>
      if k.lane = m.lane then { m with gmcRx := (m.gmcRx.drop (len + 6)).dropWhile (· ≠ 0xA6) } else k
    let run := fun (P : Slice → Prop) => RunsOn (.messageReceive sl lane) s sl P
    (m.gmcRx.length < len + 6 ∨ seqRuns x qSOH = false → run fun y => y = x)
    ∧ (len + 6 ≤ m.gmcRx.length → seqRuns x qSOH = true →
    (good → x.msgIn.length < 8 → run fun y =>
      y = { x with regs := y.regs, members := rest, msgIn := x.msgIn ++ [⟨lane, body.length - 1, bytesWords body⟩] }
      ∧ RegsBut x y (raiseKeys kSRG 5))
    ∧ (good → 8 ≤ x.msgIn.length → run fun y => y = { x with regs := y.regs, members := rest }
      ∧ regFld y kSRG 0x400C 27 20 = min 255 (regFld x kSRG 0x400C 27 20 + 1) ∧ RegsBut x y [(kSRG, 0x400C)])
    ∧ (¬good → run fun y => y = { x with regs := y.regs, members := rest }
      ∧ regFld y kSRG 0x400C 27 20 = min 255 (regFld x kSRG 0x400C 27 20 + 1)
      ∧ RegsBut x y ((kSRG, 0x400C) :: raiseKeys kSRG 6))))
  ∧ RunsOn (.messageRead sl) s sl (fun y => match x.msgIn with
      | [] => y = { x with bus := .value 0 }
      | ⟨_, _, []⟩ :: ns => y = { x with bus := .value 0, msgIn := ns }
      | ⟨_, _, [w]⟩ :: ns => y = { x with bus := .value w, msgIn := ns }
      | ⟨a, b, w :: u :: ws⟩ :: ns => y = { x with bus := .value w, msgIn := ⟨a, b, u :: ws⟩ :: ns })

/-- What Serge carries comes out as it went in (R155, R156, R167): the descrambler undoes the scrambler; the blocks of a frame,
fillers among them, are decoded to the frame with a correct FCS; and blocks dealt over members and taken back in order are the
same blocks. What the spec leaves open here is the model's choice: log entries 117 and 132. -/
def Obligations.SergeCarriesFrames : Prop :=
  (∀ (p : Dword) (ls : List Line), descramble p (scramble p ls) = ls)
  ∧ (∀ (bs : Bytes) (t : Nat) (out : List (Bytes × Bool × Nat)) (ls : List (Nat × Line)), bs ≠ [] →
      (ls.map (·.2)).filter (· ≠ filler) = frameLines bs → (ls.find? (·.2 ≠ filler)).map (·.1) = some t →
      ls.foldl Deframe.take ⟨none, out⟩ = ⟨none, out ++ [(bs, true, t)]⟩)
  ∧ (∀ (n k u t : Nat) (bs : List Line), bs.length = n * k →
      (weave u k ((List.range n).map fun r => (t, strand n r bs))).map (·.2) = bs)

/-- Buffers (R326 to R337, R342, R343): the spill mover moves a frame of a spill segment to a page of its owner; the page reader
asks for the cells of a frame again as owner 21, also while frames before it are being read; the audit, while its sequencer
runs, finds an index that nothing refers to in two passes, counts and reclaims it; a cut-through frame found bad ends as
stomped, and its other copies are dropped and counted. What the spec leaves open here is the model's choice: log entries 54, 79,
80, 97 and 138. -/
def Obligations.Buffers : Prop := ∀ (s : State) (sl : SliceId) (v : Queue) (c : Copy) (cs : List Copy) (f : Frame) (k o frm : Nat)
    (e : Sending) (ps : List Copy), (s.slice sl).alive = true →
  let x := s.slice sl
  let runs := blkState x kBUF = 1 ∧ reloading x kBUF = false
  let base := dramBase + region x kBUF 0x120
  let part := sGet 0 x.drcPart 10 + spanQuarters (base + 4096 * lowestPage x) (c.len + 4)
  let bad := (((x.queues.flatMap Queue.all).filter (·.frm = frm)).length + (x.puntFrames.filter (·.frm = frm)).length
    + f.copies.length)
  let audits := regBit x kBUF 0x180 31 = true ∧ seqRuns x qSWP = true
  let ended := fun (y : Slice) => passOf y rtAudit =
    if (passOf x rtAudit).late then ⟨x.clk + routinePeriod x rtAudit, false, false⟩ else { passOf x rtAudit with done := true }
  let used := fun (a b : Nat) => ∀ n < 22, usedC x n = (if n = o then a else 0) ∧ usedP x n = b
  (runs → x.queues = [v] → v.s.find? (fun d => !d.moved) = some c → frameOf x c.frm = some f → f.need = 0 → f.pages = [] →
      f.owner < 21 → (∀ j ∈ f.cells, sFind x.cellsOut j = some f.owner) → f.id ≠ x.nextFrm → c.len + 4 ≤ 4096 → usedP x f.owner < minP x f.owner → 0 < freeP x →
      RunsOn (.spillPageWriteDone sl) s sl fun y =>
      y.pagesOut = sIns x.pagesOut (lowestPage x) f.owner ∧ usedP y f.owner = usedP x f.owner + 1 ∧ Counted x y kBUF 0x2010 1
      ∧ y.nextFrm = x.nextFrm + 1 ∧ (∃ g ∈ y.frames, g.id = x.nextFrm ∧ g.bytes = f.bytes ∧ g.pages = [lowestPage x] ∧ g.cells = []
        ∧ g.owner = f.owner ∧ g.need = 0) ∧ y.sending = x.sending ∧ y.tabs = x.tabs ∧ y.spillLast = some v.q
      ∧ sGet 0 y.drcPart 10 = part % 4 ∧ Counted x y kDRC 0x2078 (part / 4))
  ∧ (runs → x.queues = [] → RunsOn (.spillPageWriteDone sl) s sl fun y => y = x)
  ∧ (runs → x.queues = [v] → v.s = ps ++ c :: cs → c.moved = true →
      (∀ d ∈ ps, d.moved = true ∧ ∀ g, frameOf x d.frm = some g → g.need ≠ 0 ∨ g.cells ≠ []) → 2 * segCells v.h < spillAt x v.q → frameOf x c.frm = some f →
      f.cells = [] → f.need = 0 → RunsOn (.pageReadDone sl) s sl fun y =>
        y = { x with regs := y.regs, drcPart := y.drcPart, rankDown := y.rankDown, readLast := some v.q,
                     frames := x.frames.map fun g =>
                       if g.id = f.id then { f with owner := 21, need := frameCells f.bytes.length, slot := 3 } else g }
        ∧ RegsBut x y (portKeys false portPbr))
  ∧ (runs → x.queues = [] → RunsOn (.pageReadDone sl) s sl fun y => y = x)
  ∧ (audits → (∀ p ∈ x.cellsOut, p.1 ∈ refdCells x) → (∀ p ∈ x.pagesOut, p.1 ∈ refdPages x) →
      (∀ n < 22, usedC x n = (x.cellsOut.filter (·.2 = n)).length ∧ usedP x n = (x.pagesOut.filter (·.2 = n)).length) →
      RunsOn (.auditPass sl) s sl fun y => y = { x with regs := y.regs, suspects := [], passes := y.passes } ∧ ended y
        ∧ RegsBut x y (raiseKeys kBUF 4))
  ∧ (audits → x.cellsOut = [(k, o)] → x.pagesOut = [] → x.frames = [] → x.scenes = [] → o < 22 → used 1 0 →
    (x.suspects = [] → RunsOn (.auditPass sl) s sl fun y =>
      y = { x with regs := y.regs, suspects := [(false, k)], passes := y.passes } ∧ ended y ∧ RegsBut x y (raiseKeys kBUF 4))
    ∧ (x.suspects = [(false, k)] → RunsOn (.auditPass sl) s sl fun y =>
      Counted x y kBUF 0x2020 1 ∧ regBit y kBUF 0x110 3 = true
      ∧ y.cellsOut = (if regBit x kBUF 0x180 30 then [] else [(k, o)]) ∧ y.lost = x.lost ∧ ended y
      ∧ y.suspects = (if regBit x kBUF 0x180 30 then [] else [(false, k)])))
  ∧ (regBit x kBUF 0x180 31 = false ∨ seqRuns x qSWP = false → RunsOn (.auditPass sl) s sl fun y => y = x)
  ∧ (x.sending = [e] → e.copy.frm = frm → e.copy.cut = true → frameOf x frm = some f → f.owner < 22 → f.pages = [] →
      (∀ j ∈ f.cells, sFind x.cellsOut j = some f.owner) → RunsOn (.cutThroughBad sl frm) s sl fun y =>
      y.sending = [] ∧ Counted x y kSWC (0x1100 + 8 * e.lane.val) 1 ∧ regBit y kSWC 0x110 0 = true
      ∧ (∀ l, f.lanes = some l → Counted x y kSWC (0x1080 + 8 * l.val) (if f.stomped then 0 else 1))
      ∧ Counted x y kSWC 0x1210 bad ∧ (∀ d ∈ y.puntFrames, d.frm ≠ frm)
      ∧ ((∀ h ∈ x.held, h.frm ≠ some frm) → ∀ g ∈ y.frames, g.id ≠ frm)
      ∧ (∀ g, groupOf x e.lane = some g → pairIdle x e.lane.val = false →
          (groupOf y e.lane).map (·.txStream) = some (g.txStream ++ stompLines e.bytes))
      ∧ (∀ q ∈ y.queues, ∀ d ∈ q.all, d.frm ≠ frm) ∧ y.tabs = x.tabs ∧ y.win = x.win)
  ∧ ((∀ d ∈ x.sending, d.copy.frm ≠ frm) → RunsOn (.cutThroughBad sl frm) s sl fun y => y = x)

/-- Egress (R332, R344, R345, R348 to R358, R365): a free port sends the head of its reflex queue before a class queue, and that of
a strict class that has the deficit; a copy that has been sent leaves its port; buckets refill to their caps; the aggregate
queue and policer tables are written, or refused, and read by command. What the spec leaves open here is the model's choice: log
entries 81, 82, 85, 137 and 138. -/
def Obligations.Egress : Prop := ∀ (s : State) (sl : SliceId) (lane : Lane) (v : Word) (k : Fin 8) (c : Copy) (h sg : List Copy)
    (f : Frame) (e : Sending), (s.slice sl).alive = true →
  let x := s.slice sl
  let p := lane.val
  let n := fld v 13 0
  let len := c.len + 4 + regFld x kTMG (0x1000 + 0x100 * p) 5 0
  let plain := portFree x p = true ∧ gateEn x p = false ∧ frameOf x c.frm = some f ∧ f.need = 0 ∧ f.bad = false ∧ f.tx = none
    ∧ wbit (timPort x p) 31 = false
  let starts := fun (q : QId) (y : Slice) => (queueOf y q).h = h ∧ (queueOf y q).s = sg
    ∧ y.sending = x.sending ++ [⟨lane, { c with started := true }, egressStamp x p, copyRewrite c (f.bytes.take c.len)⟩]
    ∧ y.frames = x.frames ∧ y.tabs = x.tabs
  (plain → x.queues = [⟨.reflex lane, c :: h, sg⟩, ⟨.cls lane k, c :: h, sg⟩] ∨ x.queues = [⟨.reflex lane, c :: h, sg⟩] →
      RunsOn (.transmitStart sl lane) s sl (starts (.reflex lane)))
  ∧ (plain → x.queues = [⟨.cls lane k, c :: h, sg⟩] → portShaped x p = false → clsShaped x p k.val = false →
      clsStrict x p k.val = true → (dwrrOf x lane (some k)).cur = 0 → (len : Int) ≤ sGet 0 (dwrrOf x lane (some k)).defs 0 →
      RunsOn (.transmitStart sl lane) s sl (starts (.cls lane k)))
  ∧ (portFree x p = false → RunsOn (.transmitStart sl lane) s sl fun y => y = x)
  ∧ (x.sending.find? (·.lane = lane) = some e → frameOf x e.copy.frm = some f →
    (f.need ≠ 0 → RunsOn (.transmitEnd sl lane) s sl fun y => y = x)
    ∧ (f.need = 0 → f.bad = false → f.tx = none → RunsOn (.transmitEnd sl lane) s sl fun y =>
      y.sending = x.sending.filter (·.lane ≠ lane) ∧ y.queues = x.queues ∧ y.tabs = x.tabs ∧ y.dram = x.dram
      ∧ (∀ g, groupOf x lane = some g → pairIdle x p = false →
          (groupOf y lane).map (·.txStream) = some (g.txStream ++ frameLines e.bytes))
      ∧ (f.copies ≠ [] → y.frames = x.frames)
      ∧ (f.copies = [] → x.queues = [] → x.puntFrames = [] → x.sending = [e] → (∀ h ∈ x.held, h.frm ≠ some f.id) →
          y.frames = x.frames.filter (·.id ≠ f.id)))
    ∧ (f.need = 0 → f.bad = true → x.sending = [e] → RunsOn (.transmitEnd sl lane) s sl fun y =>
      y.sending = [] ∧ Counted x y kSWC (0x1100 + 8 * p) 1 ∧ regBit y kSWC 0x110 0 = true
      ∧ ∀ q ∈ y.queues, ∀ d ∈ q.all, d.frm ≠ f.id))
  ∧ (x.sending.find? (·.lane = lane) = none → RunsOn (.transmitEnd sl lane) s sl fun y => y = x)
  ∧ (RunsOn (.shaperRefill sl) s sl fun y => y = { x with credits := y.credits, pols := y.pols, aqLive := y.aqLive }
      ∧ (∀ j, credit y j = if j ∈ refillKeys x then min (credit x j + (creditCfg x j).1) (creditCfg x j).2 else credit x j)
      ∧ (∀ j, j ∈ y.aqLive ↔ j ∈ refillKeys x ∧ 1024 ≤ j ∧ (creditCfg x j).1 ≠ 0)
      ∧ ∀ m, polOf y m = if m ∈ usedPols x then polOf (polRefill x m) m else polOf x m)
  ∧ (wbit v 31 = true → fld v 29 28 = 1 →
    (regBit x kTMG 0x300 31 = false → queueEmpty x (.aq (BitVec.ofNat 14 n)) = true → RunsOn (.aqWrite sl v) s sl fun y =>
      y = { x with regs := y.regs, tabs := y.tabs, bus := .done }
      ∧ tabGet y tAq n 0 = regGet x kTMG 0x300 &&& 0xFF00FFFF ∧ tabGet y tAq n 1 = regGet x kTMG 0x304
      ∧ tabGet y tAq n 2 = regGet x kTMG 0x308 &&& 0x00FFFFFF ∧ tabGet y tAq n 3 = regGet x kTMG 0x30C &&& 0x000FFFFF
      ∧ TabsBut x y [(tAq, n, 0), (tAq, n, 1), (tAq, n, 2), (tAq, n, 3)] ∧ regGet y kTMG 0x310 = v &&& 0x30003FFF
      ∧ RegsBut x y ((kTMG, 0x310) :: (kTMG, 8) :: raiseKeys kTMG 5))
    ∧ (regBit x kTMG 0x300 31 = true → regFld x kTMG 0x300 15 0 = 0 → RunsOn (.aqWrite sl v) s sl fun y =>
      y = { x with regs := y.regs, bus := .done } ∧ regBit y kTMG 0x310 30 = true ∧ regBit y kTMG 0x310 31 = false
      ∧ RegsBut x y ((kTMG, 0x310) :: (kTMG, 8) :: raiseKeys kTMG 5))
    ∧ (RunsOn (.policerWrite sl v) s sl fun y =>
      y = { x with regs := y.regs, tabs := y.tabs, pols := y.pols, bus := .done }
      ∧ tabGet y tPol n 0 = regGet x kTMG 0x110 &&& 0xEF000000 ∧ tabGet y tPol n 1 = regGet x kTMG 0x114 &&& 0x000FFFFF
      ∧ tabGet y tPol n 2 = regGet x kTMG 0x118 &&& 0x00FFFFFF ∧ tabGet y tPol n 3 = regGet x kTMG 0x11C &&& 0x000FFFFF
      ∧ tabGet y tPol n 4 = regGet x kTMG 0x120 &&& 0x00FFFFFF
      ∧ (regBit x kTMG 0x110 28 = false → y.pols = x.pols)
      ∧ (regBit x kTMG 0x110 28 = true → (polOf y n).tc = 8 * regFld x kTMG 0x118 23 0 ∧ (polOf y n).te = 8 * regFld x kTMG 0x120 23 0)
      ∧ regGet y kTMG 0x124 = v &&& 0x30003FFF ∧ RegsBut x y ((kTMG, 0x124) :: (kTMG, 8) :: raiseKeys kTMG 5)))
  ∧ (wbit v 31 = true → fld v 29 28 = 2 →
    (RunsOn (.aqRead sl v) s sl fun y => y = { x with regs := y.regs, bus := .done }
      ∧ (∀ i < 4, regGet y kTMG (0x300 + 4 * i) = tabGet x tAq n i)
      ∧ regGet y kTMG 0x314 = w32 ((queueOf x (.aq (BitVec.ofNat 14 n))).all.length % 2 ^ 18) ∧ regBit y kTMG 0x310 31 = false
      ∧ RegsBut x y ([(kTMG, 0x300), (kTMG, 0x304), (kTMG, 0x308), (kTMG, 0x30C), (kTMG, 0x310), (kTMG, 0x314), (kTMG, 8)] ++ raiseKeys kTMG 5))
    ∧ (RunsOn (.policerRead sl v) s sl fun y => y = { x with regs := y.regs, bus := .done }
      ∧ regGet y kTMG 0x130 = w32 ((polOf x n).tc % 2 ^ 28) ∧ regGet y kTMG 0x134 = w32 ((polOf x n).te % 2 ^ 28)
      ∧ regGet y kTMG 0x138 = (polOf x n).green ∧ regGet y kTMG 0x13C = (polOf x n).yellow ∧ regGet y kTMG 0x140 = (polOf x n).red
      ∧ regGet y kTMG 0x124 = v &&& 0x30003FFF
      ∧ RegsBut x y ([(kTMG, 0x124), (kTMG, 0x130), (kTMG, 0x134), (kTMG, 0x138), (kTMG, 0x13C), (kTMG, 0x140), (kTMG, 8)] ++ raiseKeys kTMG 5)))

/-- Time gates (R359 to R364): TMG_GLDATA1 writes and reads the admin list, moving on to the next entry; CONFIG arms the switch for
the first cycle start of the admin list at least 10 µs ahead, or is refused; the switch makes the admin list operational once
its time has come, and not before; each entry holds for its interval; cancelling or disabling drops a pending switch. What the
spec leaves open here is the model's choice: log entries 83 and 84. -/
def Obligations.TimeGates : Prop := ∀ (s : State) (sl : SliceId) (lane : Lane) (v : Word), (s.slice sl).on = true →
  let x := s.slice sl
  let p := lane.val
  let q := glPort x
  let g := gateOf x p
  let gs := gstatOff p
  let i := glEntry x
  let e : GateEntry := ⟨BitVec.ofNat 8 (regFld x kTMG 0x204 7 0), v.toNat⟩
  let time := baseNow x (portBase x p).val
  let now := time + 10000 * nsUnits
  let cyc := gcyc x p * nsUnits
  let others := fun (y : Slice) (n : Nat) => ∀ m, m < 16 → m ≠ n → gateOf y m = gateOf x m
  (glOper x = true → RunsOn (.gateListWrite sl v) s sl fun y =>
      y = { x with regs := y.regs, bus := .done } ∧ RegsBut x y [(kTMG, 8)])
  ∧ (glOper x = false → gatePend x q = true → RunsOn (.gateListWrite sl v) s sl fun y =>
      y = { x with regs := y.regs, bus := .done } ∧ regBit y kTMG (gstatOff q) 29 = true ∧ RegsBut x y [(kTMG, gstatOff q), (kTMG, 8)])
  ∧ (glOper x = false → gatePend x q = false → RunsOn (.gateListWrite sl v) s sl fun y =>
      y = { x with regs := y.regs, gates := y.gates, bus := .done }
      ∧ (∀ j, adminEntry (gateOf y q) j = if j = i then e else adminEntry (gateOf x q) j)
      ∧ gateOf y q = { gateOf x q with admin := (gateOf y q).admin } ∧ others y q
      ∧ glEntry y = (i + 1) % 1024 ∧ glPort y = q ∧ regGet y kTMG 0x208 = v ∧ RegsBut x y [(kTMG, 0x200), (kTMG, 0x208), (kTMG, 8)])
  ∧ RunsOn (.gateListRead sl) s sl (fun y =>
      y = { x with regs := y.regs, bus := .value (w32 (if glOper x then entryOf (gateOf x q).oper i else adminEntry (gateOf x q) i).interval) }
      ∧ glEntry y = (i + 1) % 1024 ∧ RegsBut x y [(kTMG, 0x200)])
  ∧ (gatePend x p = true → RunsOn (.config sl lane) s sl fun y =>
      y = { x with regs := y.regs, bus := .done } ∧ regBit y kTMG gs 29 = true ∧ RegsBut x y [(kTMG, gs), (kTMG, 8)])
  ∧ (gatePend x p = false → configBad x p = true → RunsOn (.config sl lane) s sl fun y =>
      y = { x with regs := y.regs, bus := .done } ∧ regBit y kTMG gs 30 = true ∧ RegsBut x y ((kTMG, gs) :: (kTMG, 8) :: raiseKeys kTMG 1))
  ∧ (gatePend x p = false → configBad x p = false → gateEn x p = true → RunsOn (.config sl lane) s sl fun y =>
      y = { x with regs := y.regs, gates := y.gates, bus := .done }
      ∧ gateOf y p = { g with base := (gateOf y p).base } ∧ others y p ∧ gatePend y p = true
      ∧ now ≤ (gateOf y p).base
      ∧ (∃ k : Nat, ((gateOf y p).base : Int) = adminBase x p + ((k * cyc : Nat) : Int)
          ∧ (k = 0 ∨ (gateOf y p).base < now + cyc))
      ∧ regGet y kTMG (tmgOff p + 0xDC) = w32 (secOf (gateOf y p).base) ∧ regGet y kTMG (tmgOff p + 0x10) = w32 (nsOf (gateOf y p).base)
      ∧ RegsBut x y [(kTMG, gs), (kTMG, tmgOff p + 0xDC), (kTMG, tmgOff p + 0x10), (kTMG, 8)])
  ∧ (gatePend x p = false → configBad x p = false → gateEn x p = false → RunsOn (.config sl lane) s sl fun y =>
      y = { x with regs := y.regs, bus := .done } ∧ gatePend y p = false
      ∧ RegsBut x y [(kTMG, tmgOff p + 0xDC), (kTMG, tmgOff p + 0x10), (kTMG, 8)])
  ∧ RunsOn (.gateCancel sl lane) s sl (fun y =>
      y = { x with regs := y.regs, bus := .done } ∧ gatePend y p = false ∧ RegsBut x y [(kTMG, gs), (kTMG, 8)])
  ∧ (gatePend x p = false ∨ gateEn x p = false ∨ time < g.base → RunsOn (.gateConfigChange sl lane) s sl fun y => y = x)
  ∧ (gatePend x p = true → gateEn x p = true → g.base ≤ time → RunsOn (.gateConfigChange sl lane) s sl fun y =>
      y = { x with regs := y.regs, gates := y.gates }
      ∧ gateOf y p = { g with oper := adminList x p, cycle := gcyc x p, entryAt := g.base, cur := 0 } ∧ others y p
      ∧ gatePend y p = false ∧ regBit y kTMG gs 28 = true ∧ regFld y kTMG gs 26 16 = glen x p ∧ regFld y kTMG gs 9 0 = 0
      ∧ RegsBut x y ((kTMG, gs) :: raiseKeys kTMG 0))
  ∧ (gateEn x p = false ∨ operEff g = [] → RunsOn (.gateEntryAdvance sl lane) s sl fun y => y = x)
  ∧ (gateEn x p = true → operEff g ≠ [] →
    let at' := g.entryAt + (entryOf (operEff g) g.cur).interval * nsUnits
    let j := (g.cur + 1) % (operEff g).length
    (time < at' ∨ (j = 0 ∧ heldUntil (pendAt x p) (gext x p) at' = true) → RunsOn (.gateEntryAdvance sl lane) s sl fun y => y = x)
    ∧ (at' ≤ time → j ≠ 0 ∨ heldUntil (pendAt x p) (gext x p) at' = false → RunsOn (.gateEntryAdvance sl lane) s sl fun y =>
      y = { x with regs := y.regs, gates := y.gates } ∧ gateOf y p = { g with entryAt := at', cur := j } ∧ others y p
      ∧ regFld y kTMG gs 9 0 = j % 1024 ∧ RegsBut x y [(kTMG, gs)]))

/-- Time bases and trackers (R105, R106, R367 to R374, R377): the commands of TIM are posted, and dropped while another waits; as
the time domain takes them, CAPTURE latches a base; STEP makes the base equal to its active tracker; SET, TIM_PHASE and the
choice of the active tracker change a tracker's time or the tracker without moving the base; a new source starts a tracker anew;
the rate is clamped to 1,000 ppm; slewing ends at a residual of 0; sources lost put a tracker in HOLDOVER; time messages and
measurements move trackers to their reference. What the spec leaves open here is the model's choice: log entries 89, 90, 91 and
92. -/
def Obligations.TimeBases : Prop := ∀ (s : State) (sl : SliceId) (b : BaseId) (k : TrkId) (v : Word),
  (s.slice sl).on = true →
  let x := s.slice sl
  let z := s.slice (twin sl)
  let a := baseOf x b.val
  let o := timOff b.val
  let t := trkOff b.val k.val
  let now := baseNow x b.val
  let jump := (a.trk (aselOf x b.val)).time % timeMod
  let others := fun (y : Slice) => ∀ j, j ≠ b.val → y.bases[j]? = x.bases[j]?
  let posts := [(Instr.capture sl b, o, setFld (regGet x kTIM o) 1 0 1), (.step sl b, o, setFld (regGet x kTIM o) 1 0 2),
    (.aselSwitch sl b v, o, setFld (setFld (regGet x kTIM o) 1 0 0) 31 31 (fld v 31 31)),
    (.set sl b k, t, setFld (regGet x kTIM t) 2 0 1), (.phaseWrite sl b k v, t + 0xC, v), (.fadjWrite sl b k v, t + 8, v)]
  let rest := x.posted.filter (·.1 ≠ kTIM)
  let lands := fun (off : Nat) (P : Slice → Prop) => pendBusy x kTIM = true → x.posted.filter (·.1 = kTIM) = [(kTIM, off, v)] →
    RunsPair (.slowWriteLand sl ⟨13, by decide⟩) s sl fun y _ => pendBusy y kTIM = false ∧ P y
  let retimed := fun (y : Slice) (u : Nat) => others y
    ∧ ((baseOf y b.val).trk k.val) = { a.trk k.val with time := u } ∧ (∀ m : TrkId, m ≠ k → (baseOf y b.val).trk m.val = a.trk m.val)
    ∧ baseNow y b.val = now
  let src := if fld v 31 30 = 3 then 0 else fld v 31 30
  (pendBusy x kTIM = true → ∀ c ∈ posts, RunsOn c.1 s sl fun y =>
      y = { x with regs := y.regs, bus := .done } ∧ regBit y kTIM 0x10 30 = true
      ∧ (regBit x kTIM 0x10 30 = false → regFld y kTIM 0x10 19 0 = c.2.1) ∧ RegsBut x y ((kTIM, 0x10) :: raiseKeys kTIM 15))
  ∧ (pendBusy x kTIM = false → ∀ c ∈ posts, RunsOn c.1 s sl fun y =>
      y = { x with regs := y.regs, posted := x.posted ++ [(kTIM, c.2.1, c.2.2)], bus := .done }
      ∧ pendBusy y kTIM = true ∧ RegsBut x y [(kTIM, 0x10)])
  ∧ (fld v 31 31 = aselOf x b.val → fld v 1 0 = 1 → lands o fun y => y = { x with regs := y.regs, posted := rest }
      ∧ pairGet y kTIM (o + 0x10) = secOf now ∧ regGet y kTIM (o + 0x18) = w32 (nsOf now) ∧ regGet y kTIM (o + 0xC) = w32 (fracOf now)
      ∧ RegsBut x y [(kTIM, o), (kTIM, o + 0x10), (kTIM, o + 0x14), (kTIM, o + 0x18), (kTIM, o + 0xC), (kTIM, 0x10)])
  ∧ (fld v 31 31 = aselOf x b.val → fld v 1 0 = 2 → timeDiff jump now ≤ 0 → lands o fun y =>
      y = { x with regs := y.regs, bases := y.bases, posted := rest }
      ∧ baseOf y b.val = { a with res := 0 } ∧ baseNow y b.val = jump ∧ others y
      ∧ RegsBut x y ((kTIM, o) :: (kTIM, 0x10) :: raiseKeys kTIM 3))
  ∧ (fld v 31 31 = aselOf x b.val → fld v 1 0 = 2 → 0 < timeDiff jump now → b.val ≠ 0 → x.gates = [] → bufIn x msArmed = none →
      bufIn x msPolling = none → lands o fun y =>
      y = { x with regs := y.regs, bases := y.bases, scenes := y.scenes, posted := rest }
      ∧ baseOf y b.val = { a with res := 0 } ∧ baseNow y b.val = jump ∧ others y
      ∧ RegsBut x y ((kTIM, o) :: (kTIM, 0x10) :: raiseKeys kTIM 3)
      ∧ y.scenes = x.scenes.map fun r => { r with overdue := r.overdue || (decide (sceneBase x r.scene = b.val)
          && decide (now < sceneInstant x r.scene r.next) && decide (sceneInstant x r.scene r.next ≤ jump)) })
  ∧ (fld v 1 0 = 0 → lands o fun y => y = { x with regs := y.regs, bases := y.bases, posted := rest }
      ∧ aselOf y b.val = fld v 31 31 ∧ regFld y kTIM o 26 17 = fld v 26 17 ∧ RegsBut x y [(kTIM, o), (kTIM, 0x10)]
      ∧ (baseOf y b.val).t0 = a.t0 ∧ (baseOf y b.val).t1 = a.t1 ∧ others y ∧ baseNow y b.val = now)
  ∧ (lands t fun y => y = { x with regs := y.regs, bases := y.bases, posted := rest } ∧ regGet y kTIM t = v &&& 0xFF000000
      ∧ trkState y b.val k.val = (if src = srcOf x b.val k.val then trkState x b.val k.val else if src = 0 then tkFree else tkAcquiring)
      ∧ (fld v 2 0 = 1 → retimed y (unitsOf (pairGet x kTIM (t + 0x10)) (regGet x kTIM (t + 0x18)).toNat % timeMod))
      ∧ (fld v 2 0 ≠ 1 → y.bases = x.bases) ∧ RegsBut x y ([(kTIM, t), (kTIM, t + 4), (kTIM, 0x10)] ++ raiseKeys kTIM 0))
  ∧ (lands (t + 0xC) fun y => y = { x with regs := y.regs, bases := y.bases, posted := rest }
      ∧ retimed y (addTime (a.trk k.val).time (signed 32 v.toNat * nsUnits)) ∧ RegsBut x y [(kTIM, 0x10)])
  ∧ (lands (t + 8) fun y => y = { x with regs := y.regs, posted := rest }
      ∧ fadjOf y b.val k.val = max (-fadjMax) (min fadjMax (signed 32 v.toNat)) ∧ RegsBut x y [(kTIM, t + 8), (kTIM, 0x10)])
  ∧ (a.res = 0 → RunsOn (.residualZero sl b) s sl fun y => y = x)
  ∧ (a.res ≠ 0 → RunsOn (.residualZero sl b) s sl fun y => y = { x with regs := y.regs, bases := y.bases }
      ∧ baseOf y b.val = { a with res := 0 } ∧ others y ∧ RegsBut x y (raiseKeys kTIM 2))
  ∧ (srcOf x b.val k.val = 0 ∨ trkState x b.val k.val = tkLoop ∨ (srcOf x b.val k.val = 2 ∧ linkIsUp x = true) → RunsOn (.trackerHoldover sl b k) s sl fun y => y = x)
  ∧ (srcOf x b.val k.val ≠ 0 → trkState x b.val k.val ≠ tkLoop → srcOf x b.val k.val = 1 ∨ linkIsUp x = false →
      RunsOn (.trackerHoldover sl b k) s sl fun y =>
      y = { x with regs := y.regs, bases := y.bases } ∧ trkState y b.val k.val = tkHoldover ∧ others y
      ∧ (baseOf y b.val).trk k.val = { a.trk k.val with edges := 0 } ∧ baseNow y b.val = now
      ∧ RegsBut x y ((kTIM, t + 4) :: (raiseKeys kTIM 0 ++ raiseKeys kTIM 1)))
  ∧ (srcOf x b.val k.val ≠ 2 ∨ linkIsUp x = false → RunsOn (.twinTimeMessage sl b k) s sl fun y => y = x)
  ∧ (srcOf x b.val k.val = 2 → linkIsUp x = true →
    let loop := sl.val % 2 = 0 ∧ (srcOf z b.val 0 = 2 ∨ srcOf z b.val 1 = 2)
    (loop → RunsOn (.twinTimeMessage sl b k) s sl fun y => y = { x with regs := y.regs } ∧ trkState y b.val k.val = tkLoop
      ∧ RegsBut x y ((kTIM, t + 4) :: (raiseKeys kTIM 0 ++ raiseKeys kTIM 4)))
    ∧ (¬loop → RunsOn (.twinTimeMessage sl b k) s sl fun y =>
      y = { x with regs := y.regs, bases := y.bases, free := x.free + 1 } ∧ trkState y b.val k.val = tkLocked ∧ others y
      ∧ (baseOf y b.val).trk k.val = { a.trk k.val with time := baseNow z b.val } ∧ baseNow y b.val = now
      ∧ (fadjOf y b.val k.val).natAbs ≤ fadjMax.natAbs
      ∧ RegsBut x y ([(kTIM, t + 4), (kTIM, t + 8), (kTIM, t + 0x1C)] ++ raiseKeys kTIM 0)))
  ∧ (napping x = true → RunsOn (.feltRatioMeasure sl) s sl fun y => y = x)
  ∧ (napping x = false → RunsOn (.feltRatioMeasure sl) s sl fun y => y = { x with bases := y.bases, free := x.free + 4 }
      ∧ ∀ m, m < 4 → ∃ r, baseOf y m = { baseOf x m with ratio := r })
  ∧ (hubUp s = false ∨ s.hub.f10m = false → Runs .f10mMeasure s fun u => u = s)
  ∧ (hubUp s = true → s.hub.f10m = true → Runs .f10mMeasure s fun u => u.hub = s.hub ∧ u.pending = s.pending ∧ ∀ n,
      ((s.slice n).on = false → u.slice n = s.slice n) ∧ (u.slice n).bases = (s.slice n).bases ∧ ∀ c < 4, ∀ m < 2,
        (srcOf (s.slice n) c m ≠ 1 → fadjOf (u.slice n) c m = fadjOf (s.slice n) c m)
        ∧ ((s.slice n).on = true → srcOf (s.slice n) c m = 1 → regBit (u.slice n) kTIM (trkOff c m + 4) 28 = true
          ∧ (fadjOf (u.slice n) c m).natAbs ≤ fadjMax.natAbs))

/-- Scenes (R106, R331, R383 to R387): a scene command is posted; as the time domain takes it, it writes a staged entry as ARMED
when it is at least 200 µs ahead and its slots lie in the region, and refuses it otherwise; with VALID 0 staged it cancels a run
and frees its cells; a read stages the entry; from 100 µs before its time on the slots of a scene of an ACTIVE slice are read,
and cells of owner 19 asked for; a frame is placed at its instant in its port's scene queue, or skipped and counted. What the
spec leaves open here is the model's choice: log entries 86, 97 and 112. -/
def Obligations.Scenes : Prop := ∀ (s : State) (sl : SliceId) (e : BitVec 12) (v : Word) (slot : Bytes) (cell p : Nat)
    (cells : List Nat), (s.slice sl).alive = true →
  let x := s.slice sl
  let n := fld v 11 0
  let m := e.toNat
  let wd := fun k => regGet x kTIM (0x410 + 4 * k)
  let runs := sceneState x n = scArmed ∨ sceneState x n = scFetching ∨ sceneState x n = scReleasing
  let early := baseNow x (fld (wd 0) 27 26) + 200000 * nsUnits
      ≤ unitsOf (fld (wd 0) 15 0 * 2 ^ 32 + (wd 1).toNat) (wd 2).toNat
  let fits := fld (wd 5) 19 0 + fld (wd 0) 23 16 ≤ 1048575
  let rowKeys := [(tScene, n, 0), (tScene, n, 1), (tScene, n, 2), (tScene, n, 3), (tScene, n, 4), (tScene, n, 5)]
  let staged := fun (y : Slice) => sceneW y n 1 = wd 1 ∧ sceneW y n 2 = wd 2 ∧ sceneW y n 3 = wd 3 ∧ sceneW y n 4 = wd 4
      ∧ sceneW y n 5 = wd 5 &&& 0x000FFFFF ∧ TabsBut x y rowKeys
  let r := runOf x m
  let at' := region x kTIM 0x400 + 256 * (fld (sceneW x m 5) 19 0 + r.slots.length)
  let act := sceneT x m + (sceneW x m 4).toNat * nsUnits
  let h := beAt slot 2 2
  let due := sceneT x m ≤ baseNow x (sceneBase x m) + 100000 * nsUnits
  let fetching := awake x = true ∧ ((sceneState x m = scArmed ∧ due) ∨ sceneState x m = scFetching ∨ sceneState x m = scReleasing)
  let inst := sceneInstant x m r.next
  let late := r.overdue || decide (inst + 1000 * nsUnits < baseNow x (sceneBase x m))
  let placing := awake x = true ∧ inst ≤ baseNow x (sceneBase x m) ∧ (sceneState x m = scFetching ∨ sceneState x m = scReleasing) ∧ accepts x kSWC = true ∧ accepts x kBUF = true
      ∧ accepts x kTMG = true
  let rest := x.posted.filter (·.1 ≠ kTIM)
  let lands := fun (P : Slice → Prop) => wbit v 31 = true → pendBusy x kTIM = true →
    x.posted.filter (·.1 = kTIM) = [(kTIM, 0x430, v)] →
    RunsPair (.slowWriteLand sl ⟨13, by decide⟩) s sl fun y _ => pendBusy y kTIM = false ∧ P y
  let onward := fun (y : Slice) => sceneState y m = scReleasing ∧ (runOf y m).next = r.next + 1 ∧ (runOf y m).overdue = false
      ∧ TabsBut x y [(tScene, m, 0)]
  (wbit v 31 = true → ∀ c ∈ [(Instr.sceneArm sl v, decide (fld v 29 28 = 1) && regBit x kTIM 0x410 31),
      (.sceneCancel sl v, decide (fld v 29 28 = 1) && !regBit x kTIM 0x410 31), (.sceneRead sl v, decide (fld v 29 28 = 2))],
    (c.2 = true → pendBusy x kTIM = false → RunsOn c.1 s sl fun y =>
      y = { x with regs := y.regs, posted := x.posted ++ [(kTIM, 0x430, v)], bus := .done }
      ∧ pendBusy y kTIM = true ∧ RegsBut x y [(kTIM, 0x10)])
    ∧ (c.2 = true → pendBusy x kTIM = true → RunsOn c.1 s sl fun y => y = { x with regs := y.regs, bus := .done }
      ∧ regBit y kTIM 0x10 30 = true ∧ RegsBut x y ((kTIM, 0x10) :: raiseKeys kTIM 15))
    ∧ (c.2 = false → RunsOn c.1 s sl fun y => y = x))
  ∧ (fld v 29 28 = 1 → regBit x kTIM 0x410 31 = true →
      (¬runs → early → fits → lands fun y => y = { x with regs := y.regs, tabs := y.tabs, posted := rest }
        ∧ sceneW y n 0 = (wd 0 &&& 0x8CFFFFFF) ||| 0x10000000 ∧ staged y ∧ regGet y kTIM 0x430 = v &&& 0x30000FFF
        ∧ RegsBut x y [(kTIM, 0x430), (kTIM, 0x10)])
      ∧ (runs ∨ ¬early ∨ ¬fits → lands fun y => y = { x with regs := y.regs, posted := rest }
        ∧ regBit y kTIM 0x430 30 = true ∧ regBit y kTIM 0x430 31 = false ∧ RegsBut x y [(kTIM, 0x430), (kTIM, 0x10)]))
  ∧ (fld v 29 28 = 1 → regBit x kTIM 0x410 31 = false →
      (runs → lands fun y =>
        y = { x with regs := y.regs, tabs := y.tabs, scenes := y.scenes, cellsOut := y.cellsOut, suspects := y.suspects, posted := rest }
        ∧ sceneW y n 0 = (wd 0 &&& 0x8CFFFFFF) ||| 0x60000000 ∧ staged y ∧ y.scenes = x.scenes.filter (·.scene ≠ n)
        ∧ (∀ c ∈ (runOf x n).cells, sFind y.cellsOut c = none)
        ∧ (∀ c, c ∉ (runOf x n).cells → sFind y.cellsOut c = sFind x.cellsOut c))
      ∧ (¬runs → lands fun y => y = { x with regs := y.regs, tabs := y.tabs, posted := rest }
        ∧ sceneState y n = sceneState x n ∧ wbit (sceneW y n 0) 31 = false ∧ staged y ∧ regGet y kTIM 0x430 = v &&& 0x30000FFF
        ∧ RegsBut x y [(kTIM, 0x430), (kTIM, 0x10)]))
  ∧ (fld v 29 28 = 2 → lands fun y => y = { x with regs := y.regs, posted := rest }
        ∧ (∀ k < 6, regGet y kTIM (0x410 + 4 * k) = sceneW x n k) ∧ regBit y kTIM 0x430 31 = false
        ∧ RegsBut x y [(kTIM, 0x410), (kTIM, 0x414), (kTIM, 0x418), (kTIM, 0x41C), (kTIM, 0x420), (kTIM, 0x424), (kTIM, 0x430),
            (kTIM, 0x10)])
  ∧ (¬fetching → RunsOn (.sceneFetch sl e) s sl fun y => y = x)
  ∧ (fetching → sceneState x m = scArmed →
    let fetched := fun (y : Slice) (d : Option Bytes) => sceneState y m = scFetching ∧ TabsBut x y [(tScene, m, 0)]
      ∧ runOf y m = { r with slots := r.slots ++ [d] } ∧ (∀ k, k ≠ m → runOf y k = runOf x k)
    (sceneCount x m = r.slots.length + 1 → PlainDram x (dramBase + at') 256 → RunsOn (.sceneFetch sl e) s sl fun y =>
      y = { x with regs := y.regs, tabs := y.tabs, scenes := y.scenes, drcPart := y.drcPart, rankDown := y.rankDown }
      ∧ fetched y (some (dramGet x at' 256)) ∧ RegsBut x y (portKeys false portMnt))
    ∧ (sceneCount x m = r.slots.length + 1 → mapped (dramBase + at') 256 = false → RunsOn (.sceneFetch sl e) s sl fun y =>
      y = { x with tabs := y.tabs, scenes := y.scenes } ∧ fetched y none)
    ∧ (sceneCount x m ≤ r.slots.length → RunsOn (.sceneFetch sl e) s sl fun y =>
      y = { x with tabs := y.tabs } ∧ sceneState y m = scFetching ∧ TabsBut x y [(tScene, m, 0)]))
  ∧ (Quiet x → serves x kBUF = true → wantsCell x 2 = none → x.scenes = [r] → r.scene = m → (liveSlots r)[r.cells.length]? = some p →
    let asks := fun (P : Slice → Prop) => RunsOn (.cellRequest sl 4) s sl P
    (usedC x 19 < minC x 19 → 0 < freeC x → asks fun y =>
      y = { x with regs := y.regs, cellsOut := sIns x.cellsOut (lowestCell x) 19, cellClk := y.cellClk, suspects := y.suspects,
                   scenes := [{ r with cells := r.cells ++ [lowestCell x] }] }
      ∧ usedC y 19 = usedC x 19 + 1 ∧ RegsBut x y [(kBUF, 0x1400 + 8 * 19)])
    ∧ (limC x 19 = 0 → minC x 19 = 0 → policyWait x 19 = true → asks fun y => y = { x with regs := y.regs, cellClk := y.cellClk }
      ∧ Counted x y kBUF 0x2008 1)
    ∧ (limC x 19 = 0 → minC x 19 = 0 → policyWait x 19 = false → asks fun y =>
      y = { x with regs := y.regs, cellClk := y.cellClk, scenes := [{ r with slots := setNth r.slots p none }] }
      ∧ Counted x y kBUF 0x2000 1))
  ∧ (¬placing → RunsOn (.sceneFramePlace sl e) s sl fun y => y = x)
  ∧ (placing → r.slots[r.next]? = some none → r.next + 1 < sceneCount x m → RunsOn (.sceneFramePlace sl e) s sl fun y =>
      y = { x with tabs := y.tabs, scenes := y.scenes } ∧ onward y)
  ∧ (placing → r.slots[r.next]? = some (some slot) → r.cells = cell :: cells →
    (wbit (handleW x h 0) 31 = false → r.next + 1 < sceneCount x m → RunsOn (.sceneFramePlace sl e) s sl fun y =>
      y = { x with regs := y.regs, tabs := y.tabs, scenes := y.scenes } ∧ onward y ∧ Counted x y kTIM 0x2018 1
      ∧ RegsBut x y (pairKeys kTIM 0x2018 ++ raiseKeys kTIM 7))
    ∧ (wbit (handleW x h 0) 31 = false → r.next + 1 = sceneCount x m → cells = [] → sFind x.cellsOut cell = some 19 →
        RunsOn (.sceneFramePlace sl e) s sl fun y =>
      y = { x with regs := y.regs, tabs := y.tabs, scenes := x.scenes.filter (·.scene ≠ m), cellsOut := sDel x.cellsOut cell,
                   suspects := y.suspects }
      ∧ Counted x y kTIM 0x2018 1 ∧ usedC y 19 = usedC x 19 - 1 ∧ TabsBut x y [(tScene, m, 0)]
      ∧ sceneState y m = (if r.late then scLate else scDone)
      ∧ RegsBut x y ((kBUF, 0x1400 + 8 * 19) :: (pairKeys kTIM 0x2018 ++ raiseKeys kTIM 7 ++ raiseKeys kTIM 5)))
    ∧ (p < 16 → scenePorts x h = some [p] → fld (handleW x h 0) 30 28 = 0 → portUp x p = true → unselected x p = false →
        queueLen x (.scene (laneOf p)) < 256 → (allCopies x).length < 262144 → r.next + 1 < sceneCount x m →
        RunsOn (.sceneFramePlace sl e) s sl fun y =>
      onward y ∧ (runOf y m).cells = cells ∧ (runOf y m).late = (r.late || late)
      ∧ (∃ c g, (queueOf y (.scene (laneOf p))).all = (queueOf x (.scene (laneOf p))).all ++ [c] ∧ c.frm = x.nextFrm
        ∧ c.lane = laneOf p ∧ c.vid = handleVid x h ∧ c.dmac = handleDmac x h ∧ y.frames = x.frames ++ [g] ∧ g.id = x.nextFrm
        ∧ g.bytes = sceneFrame slot act ∧ c.len = g.bytes.length ∧ g.owner = 19 ∧ g.cells = [cell] ∧ g.need = 0)
      ∧ y.cellsOut = x.cellsOut ∧ y.sending = x.sending ∧ y.dram = x.dram
      ∧ (late = true → Counted x y kTIM 0x2010 1 ∧ regBit y kTIM 0x100 1 = true)
      ∧ (late = false → y.regs = x.regs)))

/-- Punt rings and transmit rings (R381, R382, R389): a punted frame is written to its ring's next buffer and descriptor, which is
handed to software; ring registers are written, or refused while the ring runs; the tail hands descriptors over; a descriptor's
frame is read and queued at its handle's port, and one whose bytes cannot be read is handed back. What the spec leaves open here
is the model's choice: log entries 5, 86, 87, 88 and 97. -/
def Obligations.Rings : Prop := ∀ (s : State) (sl : SliceId) (ring : Fin 8) (t : Fin 2) (c : Copy) (f : Frame) (r : Nat)
    (addr : BitVec 28) (v : Word) (lane : Lane), (s.slice sl).alive = true →
  let x := s.slice sl
  let n := ring.val
  let i := prHead x n
  let a := prDesc x n i
  let ao := a - dramBase
  let d := dramGet x ao 32
  let buf := bits (beAt d 0 8) 39 0
  let bs := f.bytes.take (min c.len (beAt d 8 2))
  let head := x.puntFrames.find? (fun k => k.q = .punt ring) = some c ∧ frameOf x c.frm = some f ∧ f.need = 0 ∧ serves x kSWC = true
      ∧ f.tx = none ∧ f.owner < 22 ∧ f.pages = [] ∧ ∀ j ∈ f.cells, sFind x.cellsOut j = some f.owner
  let en := wbit (prCfg x n) 31
  let o := 0x400 + 16 * r
  let cfg := regGet x kSWC (o + 8)
  let same := wbit cfg 31 = false ∨ fld v 15 0 = fld cfg 15 0
  let tcfg := regGet x kSWC (0x488 + 16 * t.val)
  let j := txNext x t.val
  let td := (txDesc x t.val j).2
  let hd := beAt td 10 2
  let q := QId.cls lane (clsOf (beAt td 12 1 % 8))
  let next := setNth x.txHead t.val ((j + 1) % fld tcfg 15 0)
  let ready := wbit tcfg 31 = true ∧ j ≠ regFld x kSWC (0x48C + 16 * t.val) 14 0 % fld tcfg 15 0 ∧ bit (beAt td 0 1) 7 = true
  (head → en = true → f.bad = false → bit (beAt d 0 1) 7 = true → mapped a 32 = true → mapped buf bs.length = true →
      Unmirrored x ao 32 → Unmirrored x (buf - dramBase) bs.length →
      buf + bs.length ≤ a ∨ a + 32 ≤ buf → RunsOn (.puntDeliver sl ring) s sl fun y =>
      dramGet y (buf - dramBase) bs.length = bs ∧ dramGet y (ao + 8) 24 = puntDesc x f c (beAt d 8 2)
      ∧ beAt (dramGet y ao 1) 0 1 = beAt d 0 1 % 128
      ∧ (∀ k, k ≠ ao → k < ao + 8 ∨ ao + 32 ≤ k → k < buf - dramBase ∨ buf - dramBase + bs.length ≤ k →
          sGet 0 y.dram k = sGet 0 x.dram k)
      ∧ prHead y n = (i + 1) % prEntries x n % 2 ^ 15 ∧ y.puntFrames = x.puntFrames.filter (·.id ≠ c.id)
      ∧ y.queues = x.queues ∧ y.sending = x.sending ∧ y.tabs = x.tabs
      ∧ (fld (prCfg x n) 27 16 ≤ (prFilled y n).length → pending y (kSWC * 16 + 3) = true)
      ∧ RegsBut x y ([(kSWC, 0x40C + 16 * n), (kBUF, 0x1400 + 8 * f.owner)] ++ raiseKeys kSWC 3 ++ portKeys false portCpu
          ++ portKeys true portCpu))
  ∧ (head → en = true → f.bad = false → bit (beAt d 0 1) 7 = false → RunsOn (.puntDeliver sl ring) s sl fun y =>
      PortsMoved x y (portKeys false portCpu))
  ∧ (head → en = false ∨ f.bad = true → RunsOn (.puntDeliver sl ring) s sl fun y =>
      y.puntFrames = x.puntFrames.filter (·.id ≠ c.id) ∧ y.dram = x.dram ∧ y.queues = x.queues ∧ y.tabs = x.tabs
      ∧ (en = false → Counted x y kSWC (0x1400 + 8 * n) 1) ∧ (en = true → Counted x y kSWC 0x1210 1))
  ∧ (x.puntFrames.find? (fun k => k.q = .punt ring) = none → RunsOn (.puntDeliver sl ring) s sl fun y => y = x)
  ∧ (r < 10 → addr.toNat = kSWC * 0x100000 + o + 8 →
    (entriesOk (fld v 15 0) = true → same → RunsOn (.ringConfigWrite sl addr v) s sl fun y =>
      y = { x with regs := y.regs, filled := y.filled, txHead := y.txHead, bus := .done }
      ∧ regGet y kSWC (o + 8) = v &&& (if r < 8 then 0x8FFFFFFF else 0x8000FFFF)
      ∧ RegsBut x y ([(kSWC, o + 8), (kSWC, o + 12), (kSWC, 8)] ++ raiseKeys kSWC 3)
      ∧ (r < 8 → wbit v 31 = true → wbit cfg 31 = true → fld v 27 16 < fld cfg 27 16 → prFilled x r ≠ [] →
          fld v 27 16 ≤ (prFilled x r).length → pending y (kSWC * 16 + 3) = true)
      ∧ (if wbit v 31 = true ∧ wbit cfg 31 = false then
          (r < 8 → prHead y r = 0 ∧ y.filled = x.filled.filter (·.1 ≠ r) ∧ y.txHead = x.txHead)
          ∧ (8 ≤ r → txNext y (r - 8) = 0 ∧ y.filled = x.filled ∧ regGet y kSWC (o + 12) = regGet x kSWC (o + 12))
        else y.filled = x.filled ∧ y.txHead = x.txHead ∧ regGet y kSWC (o + 12) = regGet x kSWC (o + 12)))
    ∧ (entriesOk (fld v 15 0) = false ∨ ¬same → RunsOn (.ringConfigWrite sl addr v) s sl fun y =>
      y = { x with regs := y.regs, bus := .done } ∧ regBit y kSWC 0x110 3 = true ∧ RegsBut x y [(kSWC, 0x110), (kSWC, 8)]))
  ∧ (r < 10 → addr.toNat = kSWC * 0x100000 + o → wbit cfg 31 = false → RunsOn (.ringConfigWrite sl addr v) s sl fun y =>
      y = { x with regs := y.regs, bus := .done }
      ∧ pairGet y kSWC o = (regGet x kSWC (o + 4)).toNat % 256 * 2 ^ 32 + v.toNat / 32 * 32 ∧ RegsBut x y [(kSWC, o), (kSWC, o + 4), (kSWC, 8)])
  ∧ (r < 10 → addr.toNat = kSWC * 0x100000 + o + 4 → wbit cfg 31 = false → RunsOn (.ringConfigWrite sl addr v) s sl fun y =>
      y = { x with regs := y.regs, bus := .done }
      ∧ pairGet y kSWC o = v.toNat % 256 * 2 ^ 32 + (regGet x kSWC o).toNat / 32 * 32 ∧ RegsBut x y [(kSWC, o), (kSWC, o + 4), (kSWC, 8)])
  ∧ (r < 10 → addr.toNat = kSWC * 0x100000 + o + 4 → wbit cfg 31 = true → v.toNat % 256 ≠ (regGet x kSWC (o + 4)).toNat →
      RunsOn (.ringConfigWrite sl addr v) s sl fun y =>
      y = { x with regs := y.regs, bus := .done } ∧ regBit y kSWC 0x110 3 = true ∧ RegsBut x y [(kSWC, 0x110), (kSWC, 8)])
  ∧ RunsOn (.txRingKick sl t v) s sl (fun y => y = { x with regs := y.regs, bus := .done }
      ∧ regGet y kSWC (0x48C + 16 * t.val) = w32 (fld v 14 0) ∧ RegsBut x y [(kSWC, 0x48C + 16 * t.val), (kSWC, 8)])
  ∧ (¬ready → RunsOn (.txDescriptor sl t) s sl fun y => y = x)
  ∧ (ready → portTakes x 2 = true → accepts x kTMG = true → wbit (handleW x hd 0) 31 = true → fld (handleW x hd 0) 30 28 = 0 →
      fld (handleW x hd 0) 15 0 = lane.val → isPort x lane.val = true → portUp x lane.val = true → unselected x lane.val = false →
      (allCopies x).length < 262144 → queueLen x q < (queueLim x q).1 → PlainDram x (bits (beAt td 0 8) 39 0) (beAt td 8 2) →
      RunsOn (.txDescriptor sl t) s sl fun y =>
      y.txHead = next ∧ y.txBusy = x.txBusy ++ [(t.val, j)] ∧ y.dram = x.dram ∧ RegsBut x y (portKeys false portCpu) ∧ y.tabs = x.tabs
      ∧ ∃ k g, (queueOf y q).all = (queueOf x q).all ++ [k] ∧ k.frm = x.nextFrm ∧ k.lane = lane ∧ k.vid = handleVid x hd
        ∧ k.dmac = handleDmac x hd ∧ y.frames = x.frames ++ [g] ∧ g.id = x.nextFrm
        ∧ g.bytes = dramGet x (bits (beAt td 0 8) 39 0 - dramBase) (beAt td 8 2) ∧ k.len = g.bytes.length ∧ g.owner = 17
        ∧ g.tx = some (t.val, j) ∧ g.need = frameCells g.bytes.length)
  ∧ (ready → portTakes x 2 = true → accepts x kTMG = true → mapped (bits (beAt td 0 8) 39 0) (beAt td 8 2) = false →
      Unmirrored x ((txDesc x t.val j).1 - dramBase) 1 → mapped (txDesc x t.val j).1 1 = true → RunsOn (.txDescriptor sl t) s sl fun y =>
      y.txHead = next ∧ (t.val, j) ∉ y.txBusy ∧ y.frames = x.frames ∧ y.queues = x.queues
      ∧ RegsBut x y (portKeys false portCpu ++ portKeys true portCpu)
      ∧ bit (beAt (dramGet y ((txDesc x t.val j).1 - dramBase) 1) 0 1) 7 = false)

/-- DRAM refresh, power-down, errors and retraining (R394, R398 to R405): a refresh behind waiting requests is owed, up to 8, and
with 8 owed the next that falls due makes all of them up; an idle rank powers down; an uncorrectable read poisons its word, is
latched and logged, and spoils frames in the deep buffer; the scrub logs what it corrects and finds; a write to mirrored core
memory goes to both halves; three failed attempts retire a pseudo-channel onto a spare, or leave its range LOST. Rebuild of a
remapped range (R406 to R408): the next block is rebuilt, in the words that no write has covered since, from what its region
names: zeros for buckets, the twin's copy for records and program pages while the link is up, and poison where no copy exists;
mirrored core memory is rebuilt from its other half; a whole range ends the rebuild and begins the hold, which expires. What the
spec leaves open here is the model's choice: log entries 10, 97, 98, 100, 131 and 138. -/
def Obligations.DramUpkeepAndRebuild : Prop :=
  (∀ (s : State) (sl : SliceId) (pc : Fin 32) (rank : Fin 3) (q : BitVec 3) (addr : BitVec 40)
    (l sp w : Nat), (s.slice sl).on = true →
  let x := s.slice sl
  let k := 3 * pc.val + rank.val
  let p := pc.val
  let owed := sGet 0 x.owed k
  let a := addr.toNat
  let o := a - dramBase
  let unit := regFld x kDRC (0x1000 + 4 * (blockLoc (o / 256)).1) 26 22
  let st := 0x1100 + 4 * p
  let fails := regFld x kDRC st 28 26
  let page := (o - region x kBUF 0x120) / 4096
  let ended := fun (y : Slice) => passOf y rtScrub =
    if (passOf x rtScrub).late then ⟨x.clk + routinePeriod x rtScrub, false, false⟩ else { passOf x rtScrub with done := true }
  let patrolled := fun (y : Slice) => sGet 0 x.drcPart portMnt < 4 → Counted x y kDRC (0x2028 + 8 * portMnt) (dramSize / 256)
  let scrubs := seqRuns x qBST = true ∧ regBit x kDRC 0x134 31 = true
  (∀ (bs : Bytes) (port : Nat), mapped a bs.length = true → bs.length ≤ 2 ^ 30 →
      (inLower x o = true → dramGet (dramStore x port a bs) o bs.length = bs
        ∧ dramGet (dramStore x port a bs) (o + 2 ^ 30) bs.length = bs)
      ∧ (inUpper x o = true → dramStore x port a bs = x))
  ∧ (8 ≤ owed → ∀ r ∈ [none, some q], RunsOn (.refreshDue sl pc rank r) s sl fun y =>
      y = { x with regs := y.regs, owed := y.owed } ∧ RegsBut x y ((kDRC, 0x128) :: raiseKeys kDRC 5)
      ∧ (∀ j, sGet 0 y.owed j = if j = k then 0 else sGet 0 x.owed j) ∧ pending y (kDRC * 16 + 5) = true
      ∧ regFld y kDRC 0x128 31 16 = min 65535 (regFld x kDRC 0x128 31 16 + 1) ∧ regFld y kDRC 0x128 15 0 = regFld x kDRC 0x128 15 0)
  ∧ (owed < 8 → RunsOn (.refreshDue sl pc rank none) s sl fun y => y = x)
  ∧ (owed < 8 → q.toNat < regFld x kDRC 0x124 2 0 → RunsOn (.refreshDue sl pc rank (some q)) s sl fun y => y = x)
  ∧ (owed < 8 → regFld x kDRC 0x124 2 0 ≤ q.toNat → RunsOn (.refreshDue sl pc rank (some q)) s sl fun y =>
      y = { x with regs := y.regs, owed := y.owed } ∧ RegsBut x y [(kDRC, 0x128)]
      ∧ (∀ j, sGet 0 y.owed j = if j = k then owed + 1 else sGet 0 x.owed j)
      ∧ regFld y kDRC 0x128 15 0 = min 65535 (regFld x kDRC 0x128 15 0 + 1)
      ∧ regFld y kDRC 0x128 31 16 = regFld x kDRC 0x128 31 16)
  ∧ (regFld x kDRC 0x12C 15 0 = 0 ∨ (pc, rank) ∈ x.rankDown → RunsOn (.rankPowerDown sl pc rank) s sl fun y => y = x)
  ∧ (regFld x kDRC 0x12C 15 0 ≠ 0 → (pc, rank) ∉ x.rankDown → RunsOn (.rankPowerDown sl pc rank) s sl fun y =>
      y = { x with rankDown := x.rankDown ++ [(pc, rank)] })
  ∧ (mapped a 1 = false → RunsOn (.uncorrectableRead sl addr q) s sl fun y => y = x)
  ∧ (mapped a 1 = true → RunsOn (.uncorrectableRead sl addr q) s sl fun y =>
      y = { x with regs := y.regs, poison := y.poison, frames := y.frames } ∧ Counted x y kDRC 0x2008 1
      ∧ LogOf x y fcSoft kDRC unit 0x06 (a / 256) ∧ pending y (kDRC * 16) = true
      ∧ (regBit x kDRC 0x148 31 = false → pairGet y kDRC 0x140 = a ∧ regGet y kDRC 0x148 = w32 (2 ^ 31 + q.toNat))
      ∧ (regBit x kDRC 0x148 31 = true → pairGet y kDRC 0x140 = pairGet x kDRC 0x140 ∧ regGet y kDRC 0x148 = regGet x kDRC 0x148)
      ∧ RegsButLog x y ([(kDRC, 0x140), (kDRC, 0x144), (kDRC, 0x148)] ++ pairKeys kDRC 0x2008)
      ∧ (inLower x o = true → y.poison = x.poison ∧ y.frames = x.frames)
      ∧ (inLower x o = false → y.poison = insNat x.poison (o / 32)
        ∧ y.frames = x.frames.map fun f => if inRegion x kBUF 0x120 (10 * 2 ^ 30) o = true ∧ page ∈ f.pages then { f with bad := true }
            else f))
  ∧ (¬scrubs → RunsOn (.scrubPass sl [addr]) s sl fun y => y = x)
  ∧ (scrubs → mapped a 1 = true → x.poison = [] → RunsOn (.scrubPass sl [addr]) s sl fun y =>
      y = { x with regs := y.regs, drcPart := y.drcPart, drcCe := y.drcCe, passes := y.passes } ∧ ended y ∧ patrolled y
      ∧ Counted x y kDRC 0x2000 1 ∧ LogOf x y fcSoft kDRC unit 0x05 (a / 256)
      ∧ (∀ j, sGet 0 y.drcCe j = sGet 0 x.drcCe j + (if j = unit then 1 else 0))
      ∧ RegsButLog x y (pairKeys kDRC 0x2000 ++ portKeys false portMnt))
  ∧ (scrubs → x.poison = [w] → RunsOn (.scrubPass sl []) s sl fun y =>
      y = { x with regs := y.regs, drcPart := y.drcPart, passes := y.passes } ∧ ended y ∧ patrolled y
      ∧ LogOf x y fcSoft kDRC wholeBlock 0x06 ((dramBase + 32 * w) / 256) ∧ RegsButLog x y (portKeys false portMnt))
  ∧ (x.training ≠ none ∨ seqRuns x qTRN = false ∨ pcState x p = psRetired → RunsOn (.retrain sl pc) s sl fun y => y = x)
  ∧ (x.training = none → seqRuns x qTRN = true → pcState x p ≠ psRetired → RunsOn (.retrain sl pc) s sl fun y =>
      y = { x with regs := y.regs, training := some pc } ∧ pcState y p = psTraining ∧ Counted x y kDRC 0x2010 1
      ∧ RegsBut x y ((kDRC, st) :: pairKeys kDRC 0x2010))
  ∧ (x.training ≠ some pc → RunsOn (.retrainAttemptDone sl pc true) s sl fun y => y = x)
  ∧ (x.training = some pc →
    (RunsOn (.retrainAttemptDone sl pc true) s sl fun y => y = { x with regs := y.regs, training := none }
      ∧ pcState y p = (if (servesL x p).isSome then psActive else psSpare) ∧ regFld y kDRC st 28 26 = 0 ∧ RegsBut x y [(kDRC, st)])
    ∧ (fails < 2 → RunsOn (.retrainAttemptDone sl pc false) s sl fun y => y = { x with regs := y.regs, training := none }
      ∧ pcState y p = (if (servesL x p).isSome then psActive else psSpare) ∧ regFld y kDRC st 28 26 = fails + 1
      ∧ Counted x y kDRC 0x2018 1 ∧ pending y (kDRC * 16 + 1) = true
      ∧ RegsBut x y ((kDRC, st) :: (pairKeys kDRC 0x2018 ++ raiseKeys kDRC 1)))
    ∧ (2 ≤ fails → servesL x p = none → RunsOn (.retrainAttemptDone sl pc false) s sl fun y =>
      y = { x with regs := y.regs, training := none } ∧ pcState y p = psRetired ∧ Counted x y kDRC 0x2018 1
      ∧ pending y (kDRC * 16 + 1) = true ∧ RegsBut x y ((kDRC, st) :: (pairKeys kDRC 0x2018 ++ raiseKeys kDRC 1)))
    ∧ (2 ≤ fails → servesL x p = some l → sp < 32 → sp ≠ p → pcState x sp = psSpare →
        (∀ j, j < sp → j ≠ p → pcState x j ≠ psSpare) → RunsOn (.retrainAttemptDone sl pc false) s sl fun y =>
      y = { x with regs := y.regs, training := none, rebuilds := x.rebuilds ++ [l], toHub := y.toHub,
                   written := x.written.filter fun w => (blockLoc (w / 8)).1 ≠ l }
      ∧ pcState y p = psRetired ∧ pcState y sp = psActive ∧ regGet y kDRC (0x1000 + 4 * l) = w32 (2 ^ 30 + sp * 2 ^ 22)
      ∧ Counted x y kDRC 0x2018 1 ∧ LogOf x y fcSpared kDRC p 0x07 l ∧ pending y (kDRC * 16 + 2) = true
      ∧ RegsButLog x y ([(kDRC, st), (kDRC, 0x1100 + 4 * sp), (kDRC, 0x1000 + 4 * l)] ++ pairKeys kDRC 0x2018))
    ∧ (2 ≤ fails → servesL x p = some l → (∀ j, j < 32 → j ≠ p → pcState x j ≠ psSpare) →
        RunsOn (.retrainAttemptDone sl pc false) s sl fun y =>
      y = { x with regs := y.regs, training := none, lostChans := insNat x.lostChans l, toHub := y.toHub }
      ∧ pcState y p = psRetired ∧ pcmState y l = pcLost ∧ Counted x y kDRC 0x2018 1 ∧ LogOf x y fcDegraded kDRC p 0x08 l
      ∧ pending y (kDRC * 16 + 3) = true
      ∧ RegsButLog x y ([(kDRC, st), (kDRC, 0x1000 + 4 * l)] ++ pairKeys kDRC 0x2018))))
  ∧ (∀ (s : State) (sl : SliceId) (l : Nat) (ls : List Nat) (n : Fin 30), (s.slice sl).on = true →
  let x := s.slice sl
  let z := s.slice (twin sl)
  let m := 0x1000 + 4 * l
  let w := regFld x kDRC m 21 0
  let o := 256 * blockAt l w
  let left := x.rebuilds = l :: ls ∧ l < 30 ∧ w < 3145728
  let here := left ∧ seqRuns x qTRN = true
  let rec' := inRegion x kFLW 0x134 (2 * 2 ^ 30) o
  let bkt := inRegion x kFLW 0x130 (2 ^ 30) o
  let shadow := inRegion x kFLW 0x138 (2 ^ 30) o || inRegion x kFLW 0x13C (2 * 2 ^ 30) o
  let pages := inRegion x kDRC 0x110 (256 * 2 ^ 20) o
  let trace := inRegion x kDRC 0x114 (512 * 2 ^ 20) o
  let deep := inRegion x kBUF 0x120 (10 * 2 ^ 30) o
  let onward := fun (y : Slice) => y.rebuilds = x.rebuilds ∧ regFld y kDRC m 21 0 = w + 1 ∧ regFld y kDRC 0x13C 4 0 = l
      ∧ pcmState y l = pcmState x l ∧ RegsBut x y ([(kDRC, m), (kDRC, 0x13C)] ++ portKeys true portMnt ++ portKeys false portMnt)
  let filled := fun (y : Slice) (f : Nat → Byte) => 
      y = { x with regs := y.regs, dram := y.dram, poison := y.poison, written := y.written, drcPart := y.drcPart }
      ∧ onward y ∧ (∀ k, sGet 0 y.dram k = if o ≤ k ∧ k < o + 256 ∧ k / 32 ∉ x.written then f k else sGet 0 x.dram k)
      ∧ (∀ k, k ∈ y.poison ↔ k ∈ x.poison ∧ (k / 8 = o / 256 → k ∈ x.written))
      ∧ ∀ k, k ∈ y.written ↔ k ∈ x.written ∨ k / 8 = o / 256
  let poisoned := fun (y : Slice) => y = { x with regs := y.regs, poison := y.poison, written := y.written } ∧ onward y
      ∧ (∀ k, k ∈ y.poison ↔ k ∈ x.poison ∨ (k / 8 = o / 256 ∧ k ∉ x.written))
      ∧ ∀ k, k ∈ y.written ↔ k ∈ x.written ∨ k / 8 = o / 256
  (here → rec' = true → linkUp x = true → (∀ j, j / 2 = (o - region x kFLW 0x134) / 256 → residentRecord x j = none) →
      RunsOn (.rebuildBlock sl) s sl fun y =>
      filled y fun k => sGet 0 z.dram (region z kFLW 0x13C + (o - region x kFLW 0x134) + (k - o)))
  ∧ (here → rec' = false → bkt = true ∨ shadow = true → RunsOn (.rebuildBlock sl) s sl fun y => filled y fun _ => 0)
  ∧ (here → rec' = false → bkt = false → shadow = false → pages = true → regBit x kDRC 0x138 31 = true → linkUp x = true →
      RunsOn (.rebuildBlock sl) s sl fun y =>
      filled y fun k => sGet 0 z.dram (region z kDRC 0x110 + (o - region x kDRC 0x110) + (k - o)))
  ∧ (here → rec' = false → bkt = false → shadow = false → pages = true → regBit x kDRC 0x138 31 = true → linkUp x = false →
      RunsOn (.rebuildBlock sl) s sl fun y => poisoned y ∧ regBit y kDRC 0x13C 31 = true)
  ∧ (here → rec' = false → bkt = false → shadow = false → pages = false → trace = true ∨ (deep = false ∧ inLower x o = false ∧ inUpper x o = false) →
      RunsOn (.rebuildBlock sl) s sl poisoned)
  ∧ (here → rec' = false → bkt = false → shadow = false → pages = false → trace = false → deep = false →
      (inLower x o = true → RunsOn (.rebuildBlock sl) s sl fun y => filled y fun k => sGet 0 x.dram (k + 2 ^ 30))
      ∧ (inUpper x o = true → RunsOn (.rebuildBlock sl) s sl fun y => filled y fun k => sGet 0 x.dram (k - 2 ^ 30)))
  ∧ (x.rebuilds = [] ∨ seqRuns x qTRN = false → RunsOn (.rebuildBlock sl) s sl fun y => y = x)
  ∧ (x.rebuilds = l :: ls → 3145728 ≤ w → RunsOn (.rebuildBlock sl) s sl fun y => y = x)
  ∧ (x.rebuilds = l :: ls → l < 30 → 3145728 ≤ w → RunsOn (.rebuildDone sl) s sl fun y =>
      y = { x with regs := y.regs, rebuilds := ls, written := if ls = [] then [] else x.written, rebuilt := insNat x.rebuilt l }
      ∧ pcmState y l = pcNormal ∧ pending y (kDRC * 16 + 4) = true ∧ RegsBut x y ((kDRC, m) :: raiseKeys kDRC 4))
  ∧ (x.rebuilds = [] ∨ left → RunsOn (.rebuildDone sl) s sl fun y => y = x)
  ∧ RunsOn (.holdExpiry sl n) s sl (fun y => y = { x with rebuilt := x.rebuilt.filter (· ≠ n.val) }))

/-- A raise of an interrupt source (R416): source 16 × block + cause takes its pending bit, a raise while the bit is set is counted
in ICN_MERGE, and a source of block index 22 to 31 is never raised. -/
def Obligations.InterruptRaises : Prop := ∀ (s : State) (sl : SliceId) (src : BitVec 9) (blk cause : Nat), (s.slice sl).on = true →
  src.toNat = blk * 16 + cause → cause < 16 →
  let x := s.slice sl
  (blk < 22 → RunsOn (.interruptRaise sl src) s sl fun y => y = { x with regs := y.regs } ∧ pending y src.toNat = true
    ∧ (∀ n < 512, n ≠ src.toNat → pending y n = pending x n)
    ∧ (pending x src.toNat = true → Counted x y kICN 0x2000 1)
    ∧ (pending x src.toNat = false → pairGet y kICN 0x2000 = pairGet x kICN 0x2000)
    ∧ RegsBut x y (raiseKeys blk cause))
  ∧ (22 ≤ blk → RunsOn (.interruptRaise sl src) s sl fun y => y = x)

/-- Privileged task slots (R424): a WAKE, SETPRIO or WRITE of one of the slots 0 to 63, or a WRITE that sets a priority of 24 to 31,
is refused with DENIED and changes no slot unless its access was made in M or S mode; a READ is never refused. -/
def Obligations.PrivilegedSlots : Prop := ∀ (s : State) (sl : SliceId) (c : Cpu) (mode : Priv), (s.slice sl).on = true →
  cpuState (s.slice sl) c.val = cpuRunning →
  let x := s.slice sl
  let o := 0x1000 + 0x40 * c.val
  let arg := regGet x kTSK (o + 4)
  let m := fld arg 13 0
  let high := 24 ≤ fld (regGet x kTSK (o + 0x10)) 28 24
  let denied := fun (y : Slice) => y = { x with regs := y.regs, bus := .done } ∧ RegsBut x y [(kTSK, o + 8)]
      ∧ regGet y kTSK (o + 8) = w32 (2 * 2 ^ 28 + m)
  let notDenied := fun (y : Slice) => regFld y kTSK (o + 8) 30 28 ≠ 2
  let cmds := [Instr.taskWake sl c mode, .setPrio sl c mode, .taskWrite sl c mode]
  (mode = .u → m < 64 → ∀ i ∈ cmds, RunsOn i s sl denied)
  ∧ (mode = .u → high → RunsOn (.taskWrite sl c mode) s sl denied)
  ∧ (mode ≠ .u ∨ (64 ≤ m ∧ ¬high) → ∀ i ∈ cmds, RunsOn i s sl notDenied)
  ∧ RunsOn (.taskRead sl c) s sl notDenied

/-- Interrupts and started CPUs (R413, R415, R417 to R420, R425): a claim takes the offered source of highest priority, the lowest
number among equals, until it is completed; an event-mode source signals its event; the timer interrupt is due at its compare
value; a lockstep mismatch fences its CPU, moves its routes, hands back its claims and loses its task; lost CPUs leave every
slot's AFF. What the spec leaves open here is the model's choice: log entries 32 and 102. -/
def Obligations.Interrupts : Prop := ∀ (s : State) (sl : SliceId) (c : Cpu) (src : BitVec 9) (req : Requester) (sup : Bool) (v : Word)
    (k n : Nat), (s.slice sl).on = true →
  let x := s.slice sl
  let i := src.toNat
  let r := regGet x kICN (0x1000 + 4 * i)
  let ev := fld r 11 0
  let signals := pending x i = true ∧ wbit r 31 = true ∧ wbit r 30 = true
  let prio := fun (m : Nat) => regFld x kICN (0x1000 + 4 * m) 28 26
  let sv := (survivors x).foldl (fun m c => m + 2 ^ c) 0
  let aff := fun (y : Slice) (m : Nat) => slotFld y m 0 23 20
  (¬signals → RunsOn (.hwSignalIssue sl src) s sl fun y => y = x)
  ∧ (signals → signalRefused x ev = true → i ∉ x.hwWait → RunsOn (.hwSignalIssue sl src) s sl fun y =>
      y = { x with regs := y.regs, hwWait := insNat x.hwWait i } ∧ Counted x y kTSK 0x8008 1 ∧ regBit y kTSK 0x130 0 = true
      ∧ pending y i = true ∧ RegsBut x y ((kTSK, 0x130) :: pairKeys kTSK 0x8008 ++ raiseKeys kTSK 6))
  ∧ (signals → (∀ w ∈ x.waiters, w.2 ≠ ev) → RunsOn (.hwSignalIssue sl src) s sl fun y =>
      y = { x with regs := y.regs, hwWait := x.hwWait.filter (· ≠ i) } ∧ pending y i = false
      ∧ eventCount y ev = min 65535 (eventCount x ev + 1) ∧ (eventCount x ev = 65535 → Counted x y kTSK 0x8020 1)
      ∧ RegsBut x y ([(kICN, 0x800 + 4 * (i / 32)), (kTSK, 0x4000 + 4 * ev)] ++ pairKeys kTSK 0x8020))
  ∧ (bestOffer x c.val sup = some k → k < 512 ∧ offered x c.val sup k = true
      ∧ ∀ m < 512, offered x c.val sup m = true → prio m < prio k ∨ (prio m = prio k ∧ k ≤ m))
  ∧ (req ≠ .cpu c ∨ bestOffer x c.val sup = none → RunsOn (.interruptClaim sl req c sup) s sl fun y =>
      y = { x with bus := .value 0x80000000 })
  ∧ (req = .cpu c → bestOffer x c.val sup = some k → RunsOn (.interruptClaim sl req c sup) s sl fun y =>
      y = { x with regs := y.regs, claims := x.claims ++ [⟨k, c, sup⟩], bus := .value (w32 k) } ∧ pending y k = false
      ∧ (∀ m < 512, m ≠ k → pending y m = pending x m) ∧ RegsBut x y [(kICN, 0x800 + 4 * (k / 32))])
  ∧ (req ≠ .cpu c → RunsOn (.interruptComplete sl req c sup v) s sl fun y => y = { x with bus := .done })
  ∧ (req = .cpu c → RunsOn (.interruptComplete sl req c sup v) s sl fun y =>
      y = { x with bus := .done, claims := x.claims.filter fun m => !(m.src = fld v 8 0 ∧ m.cpu = c ∧ m.sup = sup) })
  ∧ (mtimeDue x c.val = true → RunsOn (.mtimeCompare sl c) s sl fun y => y = { x with mtip := insNat x.mtip c.val })
  ∧ (mtimeDue x c.val = false → RunsOn (.mtimeCompare sl c) s sl fun y => y = x)
  ∧ (wbit v 0 = false ∨ cpuState x c.val ≠ cpuParked → RunsOn (.msipWrite sl c v) s sl fun y =>
      y = { x with regs := y.regs, bus := .done } ∧ regGet y kICN (0x140 + 4 * c.val) = v &&& 1
      ∧ RegsBut x y [(kICN, 0x140 + 4 * c.val)])
  ∧ (wbit v 0 = true → cpuState x c.val = cpuParked → RunsOn (.msipWrite sl c v) s sl fun y =>
      y = { x with regs := y.regs, bus := .done, started := x.started ++ [(c.val, d64 (pairGet x kICN (0x160 + 8 * c.val) % 2 ^ 40))] }
      ∧ regGet y kICN (0x140 + 4 * c.val) = 1 ∧ cpuState y c.val = cpuRunning
      ∧ (∀ m < 4, m ≠ c.val → cpuState y m = cpuState x m) ∧ RegsBut x y [(kICN, 0x140 + 4 * c.val), (kTSK, 0x110)])
  ∧ (cpuState x c.val = cpuFenced → RunsOn (.lockstepMismatch sl c) s sl fun y => y = x)
  ∧ (cpuState x c.val ≠ cpuFenced → (∀ m ∈ x.claims, m.src < 512) → RunsOn (.lockstepMismatch sl c) s sl fun y =>
      y = { x with regs := y.regs, tabs := y.tabs, claims := x.claims.filter (·.cpu.val ≠ c.val), toHub := y.toHub }
      ∧ cpuState y c.val = cpuFenced ∧ LogOf x y fcDegraded kTSK c.val 0x0D c.val ∧ pending y (kTSK * 16 + 4) = true
      ∧ (∀ m ∈ x.claims, m.cpu = c → pending y m.src = true) ∧ curTask y c.val = none
      ∧ (∀ m < 512, regBit y kICN (0x1000 + 4 * m) (20 + c.val) = false
        ∧ (regBit x kICN (0x1000 + 4 * m) (20 + c.val) = false → regGet y kICN (0x1000 + 4 * m) = regGet x kICN (0x1000 + 4 * m)))
      ∧ (curTask x c.val = none → y.tabs = x.tabs)
      ∧ (curTask x c.val = some n → slotState y n = tsLost ∧ TabsBut x y [(tSlot, n, 0)] ∧ pending y (kTSK * 16 + 5) = true)
      ∧ RegsButLog x y [(kTSK, 0x110), (kTSK, 0x100C + 0x40 * c.val)])
  ∧ RunsOn (.lostCpuAffClear sl) s sl (fun y => y = { x with tabs := y.tabs }
      ∧ (∀ m < 16384, aff y m = (if aff x m &&& (15 - sv) = 0 then aff x m else if aff x m &&& sv = 0 then sv else aff x m &&& sv)
        ∧ slotFld y m 0 31 24 = slotFld x m 0 31 24 ∧ slotFld y m 0 19 0 = slotFld x m 0 19 0)
      ∧ ∀ t j w, w < 64 → j < 2 ^ 24 → t ≠ tSlot ∨ w ≠ 0 → tabGet y t j w = tabGet x t j w)

/-- Tasks (R421 to R428): NEXT gives a CPU the oldest ready task of the highest priority that its AFF allows, after the current task
has become READY, DELAYED, WAITING or DORMANT; WAKE, SIGNAL, SETPRIO, WRITE and READ act on a slot or an event and show a
result; a full ready list refuses with RETRY; a tick makes due tasks READY. What the spec leaves open here is the model's
choice: log entries 5, 103 and 125. -/
def Obligations.Tasks : Prop := ∀ (s : State) (sl : SliceId) (c : Cpu) (mode : Priv) (n k : Nat) (d : Delay), (s.slice sl).on = true →
  let x := s.slice sl
  let o := 0x1000 + 0x40 * c.val
  let arg := regGet x kTSK (o + 4)
  let m := fld arg 13 0
  let e := fld arg 27 16
  let es := fld arg 11 0
  let w := fun (j : Nat) => regGet x kTSK (o + 0x10 + 4 * j)
  let res := fun (y : Slice) (status wake slot : Nat) => regGet y kTSK (o + 8) = w32 (status * 2 ^ 28 + wake * 2 ^ 26 + slot)
  let idle := fun (y : Slice) => curTask y c.val = none ∧ regGet y kTSK (o + 8) = 0x80000000
  let runs := fun (y : Slice) (j wake : Nat) => curTask y c.val = some j ∧ slotState y j = tsRunning ∧ slotFld y j 0 1 0 = c.val
      ∧ res y rsOk wake j ∧ Counted x y kTSK 0x8000 1
  let keys := [(kTSK, o + 8), (kTSK, o + 12), (kTSK, 0x120)] ++ pairKeys kTSK 0x8000
  let retry := fun (y : Slice) => regFld y kTSK (o + 8) 30 28 = rsRetry ∧ Counted x y kTSK 0x8008 1 ∧ regBit y kTSK 0x130 0 = true
      ∧ RegsBut x y ([(kTSK, o + 8), (kTSK, 0x130)] ++ pairKeys kTSK 0x8008 ++ raiseKeys kTSK 6)
  let only := fun (y : Slice) => y = { x with regs := y.regs, bus := .done }
  let readied := fun (y : Slice) (j wake : Nat) => slotState y j = tsReady ∧ slotFld y j 0 7 6 = wake ∧ y.rdy = x.rdy ++ [j]
      ∧ TabsBut x y [(tSlot, j, 0)]
  let deny := slotPriv m = true ∧ mode = .u
  (cpuState x c.val ≠ cpuRunning → ∀ i ∈ [Instr.nextReady sl c, .nextDelay sl c, .nextWait sl c, .nextStop sl c, .taskWake sl c mode,
      .signal sl c, .setPrio sl c mode, .taskWrite sl c mode, .taskRead sl c], RunsOn i s sl fun y => y = x)
  ∧ (pickTask x c.val = some k → k ∈ x.rdy ∧ bit (slotAff x k) c.val = true
      ∧ ∀ j ∈ x.rdy, bit (slotAff x j) c.val = true → slotPrio x j ≤ slotPrio x k)
  ∧ (cpuState x c.val = cpuRunning →
    (fld arg 31 30 = 0 →
      (curTask x c.val = none → pickTask x c.val = none → RunsOn (.nextReady sl c) s sl fun y => only y ∧ idle y ∧ RegsBut x y keys)
      ∧ (curTask x c.val = none → pickTask x c.val = some k → k < 16384 → RunsOn (.nextReady sl c) s sl fun y =>
        y = { x with regs := y.regs, tabs := y.tabs, rdy := x.rdy.filter (· ≠ k), bus := .done } ∧ runs y k (slotFld x k 0 7 6)
        ∧ TabsBut x y [(tSlot, k, 0)] ∧ RegsBut x y keys)
      ∧ (curTask x c.val = some n → rdyFull x n = false → x.rdy = [] → bit (slotAff x n) c.val = true →
        RunsOn (.nextReady sl c) s sl fun y => y = { x with regs := y.regs, tabs := y.tabs, bus := .done } ∧ runs y n 0
        ∧ slotFld y n 0 7 6 = 0 ∧ TabsBut x y [(tSlot, n, 0)] ∧ RegsBut x y keys)
      ∧ (curTask x c.val = some n → rdyFull x n = true → RunsOn (.nextReady sl c) s sl fun y => only y ∧ retry y ∧ res y rsRetry 0 n))
    ∧ (fld arg 31 30 = 1 → curTask x c.val = some n → x.rdy = [] → RunsOn (.nextDelay sl c) s sl fun y =>
      y = { x with regs := y.regs, tabs := y.tabs, delays := insDelay x.delays ⟨n, w32 (tskTick x + fld arg 29 0)⟩, bus := .done }
      ∧ idle y ∧ slotState y n = tsDelayed ∧ slotW y n 1 = w32 (tskTick x + fld arg 29 0)
      ∧ TabsBut x y [(tSlot, n, 0), (tSlot, n, 1)] ∧ RegsBut x y keys)
    ∧ (fld arg 31 30 = 2 → curTask x c.val = some n →
      (0 < eventCount x e → RunsOn (.nextWait sl c) s sl fun y => y = { x with regs := y.regs, tabs := y.tabs, bus := .done }
        ∧ eventCount y e = eventCount x e - 1 ∧ curTask y c.val = some n ∧ slotFld y n 0 7 6 = 2 ∧ slotState y n = slotState x n
        ∧ res y rsOk 2 n ∧ Counted x y kTSK 0x8000 1 ∧ TabsBut x y [(tSlot, n, 0)]
        ∧ RegsBut x y ([(kTSK, o + 8), (kTSK, 0x4000 + 4 * e)] ++ pairKeys kTSK 0x8000))
      ∧ (eventCount x e = 0 → x.rdy = [] → RunsOn (.nextWait sl c) s sl fun y =>
        y = { x with regs := y.regs, tabs := y.tabs, delays := y.delays, waiters := x.waiters ++ [(n, e)], bus := .done } ∧ idle y
        ∧ slotState y n = tsWaiting ∧ slotFld y n 2 11 0 = e
        ∧ y.delays = (if n < 64 ∧ fld arg 15 0 ≠ 0 then insDelay x.delays ⟨n, w32 (tskTick x + fld arg 15 0)⟩ else x.delays)
        ∧ TabsBut x y [(tSlot, n, 0), (tSlot, n, 1), (tSlot, n, 2)] ∧ RegsBut x y ((kTSK, 0x4000 + 4 * e) :: keys)))
    ∧ (fld arg 31 30 = 3 → curTask x c.val = some n → x.rdy = [] →
      (slotFld x n 0 15 8 = 0 → RunsOn (.nextStop sl c) s sl fun y => y = { x with regs := y.regs, tabs := y.tabs, bus := .done }
        ∧ idle y ∧ slotState y n = tsDormant ∧ TabsBut x y [(tSlot, n, 0)] ∧ RegsBut x y keys)
      ∧ (slotFld x n 0 15 8 ≠ 0 → bit (slotAff x n) c.val = true → RunsOn (.nextStop sl c) s sl fun y =>
        y = { x with regs := y.regs, tabs := y.tabs, bus := .done } ∧ runs y n 1 ∧ slotFld y n 0 15 8 = slotFld x n 0 15 8 - 1
        ∧ TabsBut x y [(tSlot, n, 0)] ∧ RegsBut x y keys))
    ∧ (¬deny →
      (slotState x m = tsFree ∨ slotState x m = tsLost → RunsOn (.taskWake sl c mode) s sl fun y =>
        only y ∧ res y rsBadState 0 m ∧ RegsBut x y [(kTSK, o + 8)])
      ∧ (slotState x m = tsDormant → rdyFull x m = true → RunsOn (.taskWake sl c mode) s sl fun y => only y ∧ retry y ∧ res y rsRetry 0 m)
      ∧ (slotState x m = tsDormant → rdyFull x m = false → RunsOn (.taskWake sl c mode) s sl fun y =>
        y = { x with regs := y.regs, tabs := y.tabs, rdy := y.rdy, bus := .done } ∧ readied y m 1 ∧ res y rsOk 0 m
        ∧ RegsBut x y ([(kTSK, o + 8), (kTSK, 0x120)] ++ raiseKeys kTSK 0 ++ raiseKeys kTSK 1 ++ raiseKeys kTSK 2 ++ raiseKeys kTSK 3))
      ∧ (tsReady ≤ slotState x m → slotState x m ≠ tsLost → RunsOn (.taskWake sl c mode) s sl fun y =>
        y = { x with regs := y.regs, tabs := y.tabs, bus := .done } ∧ slotFld y m 0 15 8 = min 255 (slotFld x m 0 15 8 + 1)
        ∧ slotState y m = slotState x m ∧ res y rsOk 0 m ∧ TabsBut x y [(tSlot, m, 0)] ∧ RegsBut x y [(kTSK, o + 8)])
      ∧ RunsOn (.setPrio sl c mode) s sl (fun y => y = { x with regs := y.regs, tabs := y.tabs, rdy := y.rdy, bus := .done }
        ∧ slotPrio y m = fld arg 28 24 ∧ slotState y m = slotState x m ∧ TabsBut x y [(tSlot, m, 0)] ∧ res y rsOk 0 m
        ∧ y.rdy = (if slotState x m = tsReady then x.rdy.filter (· ≠ m) ++ [m] else x.rdy) ∧ RegsBut x y [(kTSK, o + 8)]))
    ∧ (signalRefused x es = true → RunsOn (.signal sl c) s sl fun y =>
      y = { x with regs := y.regs, bus := .done, free := x.free + 1 } ∧ retry y)
    ∧ ((∀ j ∈ x.waiters, j.2 ≠ es) → RunsOn (.signal sl c) s sl fun y =>
      y = { x with regs := y.regs, bus := .done, free := x.free + 1 } ∧ eventCount y es = min 65535 (eventCount x es + 1)
      ∧ regFld y kTSK (o + 8) 31 26 = 0 ∧ (eventCount x es = 65535 → Counted x y kTSK 0x8020 1)
      ∧ RegsBut x y ([(kTSK, o + 8), (kTSK, 0x4000 + 4 * es)] ++ pairKeys kTSK 0x8020))
    ∧ (bestWaiter x es = some k → rdyFull x k = false → k < 16384 → RunsOn (.signal sl c) s sl fun y =>
      y = { x with regs := y.regs, tabs := y.tabs, rdy := y.rdy, waiters := x.waiters.filter (·.1 ≠ k),
                   delays := x.delays.filter (·.slot ≠ k), bus := .done } ∧ readied y k 2 ∧ res y rsOk 0 k)
    ∧ (mode ≠ .u ∨ (64 ≤ m ∧ fld (w 0) 28 24 < 24) →
      (tsReady ≤ slotState x m ∧ slotState x m ≤ tsWaiting ∨ tsReady < fld (w 0) 31 29 → RunsOn (.taskWrite sl c mode) s sl fun y =>
        only y ∧ res y rsBadState 0 m ∧ RegsBut x y [(kTSK, o + 8)])
      ∧ (slotState x m < tsReady ∨ tsWaiting < slotState x m → fld (w 0) 31 29 ≤ tsReady → rdyFull x m = false →
        RunsOn (.taskWrite sl c mode) s sl fun y =>
        y = { x with regs := y.regs, tabs := y.tabs, rdy := y.rdy, bus := .done } ∧ res y rsOk 0 m
        ∧ slotW y m 0 = (w 0 &&& 0xFFF0FFC3) ||| (if m < 64 then 0x80000 else 0) ∧ slotW y m 1 = w 1 ∧ slotW y m 2 = w 2 &&& 0xFFF
        ∧ slotW y m 3 = w 3 ∧ TabsBut x y [(tSlot, m, 0), (tSlot, m, 1), (tSlot, m, 2), (tSlot, m, 3)]
        ∧ y.rdy = (if fld (w 0) 31 29 = tsReady then x.rdy ++ [m] else x.rdy)))
    ∧ RunsOn (.taskRead sl c) s sl (fun y => only y ∧ res y rsOk 0 m
        ∧ regGet y kTSK (o + 0x10) = (slotW x m 0 &&& 0xFFF7FFFF) ||| (if m < 64 then 0x80000 else 0)
        ∧ (∀ j, 0 < j → j < 4 → regGet y kTSK (o + 0x10 + 4 * j) = slotW x m j)
        ∧ RegsBut x y [(kTSK, o + 8), (kTSK, o + 0x10), (kTSK, o + 0x14), (kTSK, o + 0x18), (kTSK, o + 0x1C)]))
  ∧ (x.delays = [] → RunsOn (.taskTick sl) s sl fun y => y = { x with regs := y.regs } ∧ Counted x y kTSK 0x108 1
      ∧ RegsBut x y (pairKeys kTSK 0x108))
  ∧ (x.delays = [d] → tickAfter d.wtick.toNat ((tskTick x + 1) % 2 ^ 32) = true → RunsOn (.taskTick sl) s sl fun y =>
      y = { x with regs := y.regs } ∧ Counted x y kTSK 0x108 1 ∧ RegsBut x y (pairKeys kTSK 0x108))
  ∧ (x.delays = [d] → tickAfter d.wtick.toNat ((tskTick x + 1) % 2 ^ 32) = false → rdyFull x d.slot = false → d.slot < 16384 →
      RunsOn (.taskTick sl) s sl fun y =>
      y = { x with regs := y.regs, tabs := y.tabs, rdy := y.rdy, delays := [], waiters := y.waiters } ∧ Counted x y kTSK 0x108 1
      ∧ (slotState x d.slot ≠ tsWaiting → readied y d.slot 1 ∧ y.waiters = x.waiters)
      ∧ (slotState x d.slot = tsWaiting → readied y d.slot 3 ∧ y.waiters = x.waiters.filter (·.1 ≠ d.slot)
        ∧ Counted x y kTSK 0x8018 1))

/-- DMA descriptors (R429 to R440): a tail hands descriptors over; the descriptor at the head is taken up when its channel runs and
completes with its status, its count and the next head, or with BADDESC; a COPY reads its span access by access, from the top
where the spans overlap so, and its last write completes it; a read error, or a failed write before a fence, halts the channel;
LOCK and UNLOCK test and change a bucket's lock bit. DMA channels (R437, R441): an idle channel pauses at once, a running one
when what it has read is written; it resumes with the descriptor it holds, or aborts it and halts; a halted channel is cleared
to IDLE or RUNNING. What the spec leaves open here is the model's choice: log entries 4, 97, 99 and 125. -/
def Obligations.DmaEngine : Prop :=
  (∀ (s : State) (sl : SliceId) (ch : Fin 16) (v : Word) (d : Bytes) (dst : Nat) (data : Bytes)
    (bad : Nat) (lastBeat : Bool), (s.slice sl).on = true →
  let x := s.slice sl
  let n := ch.val
  let o := chOff n
  let a := descAddr x n
  let ao := a - dramBase
  let c := dmaCh x n
  let len := dLen d
  let src := dSrc d
  let b := dDst d
  let others := fun (y : Slice) => ∀ j, j ≠ n → y.dma[j]? = x.dma[j]?
  let keys := [(kDMA, o + 0xC), (kDMA, o + 0x18), (kDMA, o + 0x1C), (kDMA, o + 0x20), (kDMA, o + 0x24), (kDMA, o + 0x28), (kDMA, o + 0x2C),
      (kDMA, o + 0x30), (kDMA, o + 0x34), (kDMA, o + 0x3C), (kDMA, 0x110), (kDMA, 0x114)] ++ pairKeys kDMA (0x2000 + 8 * n)
      ++ pairKeys kDMA (0x2080 + 8 * n) ++ pairKeys kDMA 0x2100 ++ raiseKeys kDMA 0 ++ raiseKeys kDMA 1 ++ raiseKeys kDMA 2
      ++ portKeys false portDma ++ portKeys true portDma
  let ended := fun (y : Slice) (status cnt : Nat) =>
      chHead y n = (chHead x n + 1) % max 1 (chEntries x n) ∧ chTail y n = chTail x n
      ∧ (dmaCh y n).desc = none ∧ (dmaCh y n).flight = none ∧ (dmaCh y n).fencing = false ∧ others y
      ∧ regBit y kDMA 0x110 n = true ∧ Counted x y kDMA (0x2080 + 8 * n) 1 ∧ (dFlag d 7 = true → pending y (kDMA * 16) = true)
      ∧ sGet 0 y.dram (ao + 2) = BitVec.ofNat 8 status ∧ dramGet y (ao + 24) 4 = beBytes 4 cnt ∧ RegsBut x y keys
      ∧ (status = dsError → Counted x y kDMA 0x2100 1)
      ∧ chState y n = (if status = dsError ∨ status = dsAborted then chHalted else if c.pauseReq = true ∨ dFlag d 6 = true then chPaused
          else if chHead y n = chTail x n then chIdle else chRunning)
  let frame := fun (y : Slice) =>
      y = { x with regs := y.regs, dram := y.dram, poison := y.poison, written := y.written, dma := y.dma, drcPart := y.drcPart,
                   rankDown := y.rankDown }
      ∧ ∀ k, k ≠ ao + 2 → k < ao + 24 ∨ ao + 28 ≤ k → sGet 0 y.dram k = sGet 0 x.dram k
  let fresh := c.desc = none ∧ accepts x kDMA = true ∧ chState x n = chRunning ∧ chHead x n ≠ chTail x n ∧ PlainDram x a 32
      ∧ d = dramGet x ao 32
  let takenUp := fun (y : Slice) => y = { x with regs := y.regs, dma := y.dma, drcPart := y.drcPart, rankDown := y.rankDown } ∧ others y ∧ (dmaCh y n).desc = some d
      ∧ (dmaCh y n).pauseReq = c.pauseReq ∧ regFld y kDMA (o + 0x18) 7 0 = dOp d ∧ chState y n = chRunning ∧ RegsBut x y keys
  let down := src < b ∧ b < src + len
  let clean := Unmirrored x (src / 64 * 64 - dramBase) ((src + len + 63) / 64 * 64 - src / 64 * 64) ∧ x.poison = [] ∧ x.rebuilds = [] ∧ x.lostChans = []
  (chEntries x n ≤ fld v 14 0 → RunsOn (.dmaTailWrite sl ch v) s sl fun y => y = { x with regs := y.regs, bus := .done }
      ∧ regBit y kDMA (o + 0x3C) 1 = true ∧ RegsBut x y ((kDMA, o + 0x3C) :: raiseKeys kDMA 3))
  ∧ (fld v 14 0 < chEntries x n → RunsOn (.dmaTailWrite sl ch v) s sl fun y => y = { x with regs := y.regs, bus := .done }
      ∧ chTail y n = fld v 14 0 ∧ RegsBut x y [(kDMA, o + 0x10), (kDMA, o + 0x18)]
      ∧ chState y n = (if chState x n = chIdle then (if chHead x n = fld v 14 0 then chIdle else chRunning) else chState x n))
  ∧ (fresh → ∀ i ∈ [(Instr.descNop sl ch, opNop), (.copy sl ch, opCopy), (.fence sl ch, opFence), (.lock sl ch, opLock),
      (.unlock sl ch, opUnlock)], (dOp d = i.2 → badDesc d = true → RunsOn i.1 s sl fun y => frame y ∧ ended y dsBadDesc 0)
      ∧ (dOp d ≠ i.2 → dOp d ≤ opUnlock → RunsOn i.1 s sl fun y => y = x))
  ∧ (fresh → opUnlock < dOp d → RunsOn (.descNop sl ch) s sl fun y => frame y ∧ ended y dsBadDesc 0)
  ∧ (fresh → badDesc d = false →
    (dOp d = opNop → RunsOn (.descNop sl ch) s sl fun y => frame y ∧ ended y dsOk 0)
    ∧ (dOp d = opCopy → c.pauseReq = false → clean → mapped (src / 64 * 64) ((src + len + 63) / 64 * 64 - src / 64 * 64) = true →
        RunsOn (.copy sl ch) s sl fun y => takenUp y ∧ ∃ k, 0 < k ∧ k ≤ 256 ∧ k ≤ len ∧ chCnt y n = len - k
          ∧ (¬down → (dmaCh y n).flight = some (b, dramGet x (src - dramBase) k) ∧ chSrc y n = src + k ∧ chDst y n = b + k)
          ∧ (down → (dmaCh y n).flight = some (b + (len - k), dramGet x (src + (len - k) - dramBase) k) ∧ chSrc y n = src
              ∧ chDst y n = b ∧ chDescending y n = true))
    ∧ (dOp d = opFence → RunsOn (.fence sl ch) s sl fun y => takenUp y ∧ (dmaCh y n).fencing = true)
    ∧ (dOp d = opLock → dFlag d 0 = false →
      (wbit (tabGet x tL2 (4 * b) 0) 31 = true → RunsOn (.lock sl ch) s sl fun y => frame y ∧ ended y dsLockBusy 0)
      ∧ (wbit (tabGet x tL2 (4 * b) 0) 31 = false → RunsOn (.lock sl ch) s sl fun y => ended y dsOk 0
        ∧ y.locks = x.locks ++ [(.l2, b)] ∧ tabGet y tL2 (4 * b) 0 = setBit (tabGet x tL2 (4 * b) 0) 31 true
        ∧ TabsBut x y [(tL2, 4 * b, 0)]))
    ∧ (dOp d = opUnlock → dFlag d 0 = false →
      (wbit (tabGet x tL2 (4 * b) 0) 31 = false → RunsOn (.unlock sl ch) s sl fun y => frame y ∧ ended y dsNotLocked 0)
      ∧ (wbit (tabGet x tL2 (4 * b) 0) 31 = true → RunsOn (.unlock sl ch) s sl fun y => ended y dsOk 0
        ∧ y.locks = x.locks.filter (· ≠ (.l2, b)) ∧ tabGet y tL2 (4 * b) 0 = setBit (tabGet x tL2 (4 * b) 0) 31 false
        ∧ TabsBut x y [(tL2, 4 * b, 0)]))
    ∧ (dFlag d 0 = true →
      let w := region x kDRC 0x110 + 128 * b
      let locked := bit (beNat (dramGet x w 4)) 31
      PlainDram x (dramBase + w) 4 → w + 4 ≤ ao ∨ ao + 32 ≤ w →
      (dOp d = opLock → locked = true → RunsOn (.lock sl ch) s sl fun y => frame y ∧ ended y dsLockBusy 0)
      ∧ (dOp d = opUnlock → locked = false → RunsOn (.unlock sl ch) s sl fun y => frame y ∧ ended y dsNotLocked 0)
      ∧ (dOp d = opLock → locked = false → RunsOn (.lock sl ch) s sl fun y => ended y dsOk 0 ∧ y.tabs = x.tabs
        ∧ y.locks = x.locks ++ [(.endpoint, b)] ∧ beNat (dramGet y w 4) = beNat (dramGet x w 4) + 2 ^ 31)
      ∧ (dOp d = opUnlock → locked = true → RunsOn (.unlock sl ch) s sl fun y => ended y dsOk 0 ∧ y.tabs = x.tabs
        ∧ y.locks = x.locks.filter (· ≠ (.endpoint, b)) ∧ beNat (dramGet y w 4) + 2 ^ 31 = beNat (dramGet x w 4))))
  ∧ (c.desc = some d → Unmirrored x ao 32 → mapped a 32 = true →
    (dOp d = opCopy → chState x n = chRunning → chCnt x n = 0 → dmaGoes x = true →
      (c.flight = none → RunsOn (.copyComplete sl ch) s sl fun y => frame y ∧ ended y dsOk 0)
      ∧ (c.flight = some (dst, data) → mapped (dst / 64 * 64) ((dst + data.length + 63) / 64 * 64 - dst / 64 * 64) = true →
          Unmirrored x (dst - dramBase) data.length → dst + data.length ≤ a ∨ a + 32 ≤ dst → RunsOn (.copyComplete sl ch) s sl fun y => ended y dsOk 0
        ∧ dramGet y (dst - dramBase) data.length = data ∧ Counted x y kDMA (0x2000 + 8 * n) data.length
        ∧ ∀ k, k < ao ∨ ao + 32 ≤ k → k < dst - dramBase ∨ dst - dramBase + data.length ≤ k → sGet 0 y.dram k = sGet 0 x.dram k))
    ∧ (dOp d ≠ opCopy ∨ chState x n ≠ chRunning ∨ chCnt x n ≠ 0 → RunsOn (.copyComplete sl ch) s sl fun y => y = x)
    ∧ (c.flight = some (dst, data) → RunsOn (.dmaReadError sl ch lastBeat) s sl fun y => frame y ∧ ended y dsError (chCnt x n)
      ∧ pairGet y kDMA (o + 0x30) = (c.acc - 1) % 2 ^ 64 ∧ regBit y kDMA 0x114 n = true
      ∧ (lastBeat = true → chCnt x n = 0 → regBit y kDMA (o + 0x3C) 2 = true))
    ∧ (c.fencing = true → dmaGoes x = true →
      (c.badWrite = none → RunsOn (.fenceComplete sl ch) s sl fun y => frame y ∧ ended y dsOk (chCnt x n))
      ∧ (c.badWrite = some bad → RunsOn (.fenceComplete sl ch) s sl fun y => frame y ∧ ended y dsError (chCnt x n)
        ∧ pairGet y kDMA (o + 0x30) = bad % 2 ^ 64 ∧ regBit y kDMA 0x114 n = true)))
  ∧ (c.flight = none → RunsOn (.dmaReadError sl ch lastBeat) s sl fun y => y = x)
  ∧ (c.fencing = false → RunsOn (.fenceComplete sl ch) s sl fun y => y = x))
  ∧ (∀ (s : State) (sl : SliceId) (ch : Fin 16) (d : Bytes),
    (s.slice sl).on = true →
  let x := s.slice sl
  let n := ch.val
  let o := chOff n
  let c := dmaCh x n
  let ao := descAddr x n - dramBase
  let st := fun (y : Slice) (k : Nat) => chState y n = k ∧ regFld y kDMA (o + 0x18) 28 0 = regFld x kDMA (o + 0x18) 28 0
  let free := if chHead x n = chTail x n then chIdle else chRunning
  let only := fun (y : Slice) => y = { x with regs := y.regs } ∧ RegsBut x y [(kDMA, o + 0x18)]
  let paused := fun (y : Slice) => y = { x with regs := y.regs, dma := y.dma } ∧ st y chPaused ∧ dmaCh y n = { c with pauseReq := false }
      ∧ (∀ j, j ≠ n → y.dma[j]? = x.dma[j]?) ∧ pending y (kDMA * 16 + 2) = true ∧ RegsBut x y ((kDMA, o + 0x18) :: raiseKeys kDMA 2)
  (chState x n = chIdle → RunsOn (.pause sl ch) s sl paused)
  ∧ (chState x n = chRunning → RunsOn (.pause sl ch) s sl fun y => y = { x with dma := y.dma }
      ∧ dmaCh y n = { c with pauseReq := true } ∧ ∀ j, j ≠ n → y.dma[j]? = x.dma[j]?)
  ∧ (chState x n = chPaused ∨ chState x n = chHalted → RunsOn (.pause sl ch) s sl fun y => y = x)
  ∧ (chState x n = chRunning → c.pauseReq = true → c.fencing = false → c.flight = none → RunsOn (.dmaPaused sl ch) s sl paused)
  ∧ (chState x n ≠ chRunning ∨ c.pauseReq = false ∨ c.fencing = true → RunsOn (.dmaPaused sl ch) s sl fun y => y = x)
  ∧ (chState x n = chPaused →
    (c.desc = some d → RunsOn (.resume sl ch) s sl fun y => only y ∧ st y chRunning)
    ∧ (c.desc = none → RunsOn (.resume sl ch) s sl fun y => only y ∧ st y free)
    ∧ (c.desc = none → RunsOn (.abort sl ch) s sl fun y => y = { x with regs := y.regs } ∧ st y chHalted ∧ regBit y kDMA 0x114 n = true
      ∧ pending y (kDMA * 16 + 1) = true ∧ RegsBut x y ([(kDMA, o + 0x18), (kDMA, 0x114)] ++ raiseKeys kDMA 1))
    ∧ (c.desc = some d → Unmirrored x ao 32 → mapped (descAddr x n) 32 = true → RunsOn (.abort sl ch) s sl fun y =>
      y = { x with regs := y.regs, dram := y.dram, poison := y.poison, written := y.written, dma := y.dma, drcPart := y.drcPart,
                   rankDown := y.rankDown }
      ∧ st y chHalted ∧ (dmaCh y n).desc = none ∧ regBit y kDMA 0x114 n = true ∧ regBit y kDMA 0x110 n = true
      ∧ chHead y n = (chHead x n + 1) % max 1 (chEntries x n) ∧ Counted x y kDMA (0x2080 + 8 * n) 1
      ∧ sGet 0 y.dram (ao + 2) = BitVec.ofNat 8 dsAborted ∧ dramGet y (ao + 24) 4 = beBytes 4 (chCnt x n)
      ∧ ∀ k, k ≠ ao + 2 → k < ao + 24 ∨ ao + 28 ≤ k → sGet 0 y.dram k = sGet 0 x.dram k))
  ∧ (chState x n ≠ chPaused → ∀ i ∈ [Instr.resume sl ch, .abort sl ch], RunsOn i s sl fun y => y = x)
  ∧ (chState x n = chHalted → RunsOn (.dmaClear sl ch) s sl fun y => only y ∧ st y free)
  ∧ (chState x n ≠ chHalted → RunsOn (.dmaClear sl ch) s sl fun y => y = x))

/-- Sequencers, counters and telemetry rings (R442 to R466): a trap shows its cause and microword, and halts a sequencer that takes
it in a handler; HOLD stops SWP and SOH; ROM and trace are read word by word; a counter wraps with its flag; a window that the
time has closed, and a snapshot, latch it; telemetry heads advance as writes are acknowledged, and tails as software reads. What
the spec leaves open here is the model's choice: log entries 4, 104, 105, 116 and 131. -/
def Obligations.SequencersAndCounters : Prop := ∀ (s : State) (sl : SliceId) (q : Fin 4) (cause : BitVec 4) (upc : BitVec 13) (v : Word)
    (n : Fin 64) (k : BitVec 20) (ring : Fin 16) (w : Nat), (s.slice sl).on = true →
  let x := s.slice sl
  let m := q.val
  let e := cause.toNat
  let st := seqOf x m
  let so := 0x110 + 4 * m
  let rom := (Config.romWord (fld v 17 16) (fld v 12 0)).toNat
  let sel := regGet x kPRF (0x400 + 4 * n.val)
  let cnt := 0x1000 + 8 * n.val
  let us := usOf (baseNow x 0)
  let close := sGet 0 x.winEnd n.val
  let closes := fun (w : Nat) => close ≤ us ∧ (close - w) % 1000000 / w = k.toNat
  let r := ring.val
  let out := sGet 0 x.telPosted r
  let t := trOff r
  let trapped := fun (y : Slice) => regGet y kMCS (0x130 + 4 * m) = w32 (e * 2 ^ 28 + upc.toNat)
      ∧ regFld y kMCS so 15 0 = min 65535 (regFld x kMCS so 15 0 + 1)
  let sticks := st.inTrap = true ∨ (e = 1 ∧ upc.toNat ∈ st.romFails)
  let moves := trTail x r % trSize x r
  (e = 0 ∨ 6 < e ∨ seqState x m = sqHalted → RunsOn (.trap sl q cause upc) s sl fun y => y = x)
  ∧ (0 < e → e ≤ 6 → seqState x m ≠ sqHalted →
    (sticks → RunsOn (.trap sl q cause upc) s sl fun y => y = { x with regs := y.regs, toHub := y.toHub } ∧ trapped y
      ∧ seqState y m = sqHalted ∧ LogOf x y fcDegraded kMCS m 0x10 m ∧ pending y (kMCS * 16 + 1) = true
      ∧ RegsButLog x y [(kMCS, 0x130 + 4 * m), (kMCS, so)])
    ∧ (¬sticks → RunsOn (.trap sl q cause upc) s sl fun y =>
      y = { x with regs := y.regs, seqs := y.seqs, trace := y.trace, free := x.free + 1 } ∧ trapped y ∧ seqState y m = sqTrap
      ∧ regFld y kMCS so 28 16 = 16 * e ∧ seqOf y m = trapNote st e upc.toNat ∧ (∀ j, j ≠ m → y.seqs[j]? = x.seqs[j]?)
      ∧ pending y (kMCS * 16) = true
      ∧ (e = 1 ∨ e = 3 ∨ (e = 4 ∧ st.retries = (upc.toNat, 3)) → LogOf x y fcSoft kMCS m 0x0F e)
      ∧ (regBit x kMCS 0x200 31 = false → y.trace = x.trace)
      ∧ (regBit x kMCS 0x200 31 = true → regBit x kMCS 0x200 28 = false → regBit x kMCS 0x200 (24 + m) = true →
          y.trace.wr = (x.trace.wr + 1) % 4096 ∧ ∃ a b c, sGet [] y.trace.entries x.trace.wr = [a, w32 x.clk, b, c]
            ∧ wbit a 31 = true ∧ wbit a 28 = true ∧ fld a 30 29 = m ∧ fld a 27 15 = 16 * e)
      ∧ RegsButLog x y [(kMCS, 0x130 + 4 * m), (kMCS, so), (kMCS, 0x200)]))
  ∧ RunsOn (.sequencerHold sl q v) s sl (fun y => y = { x with regs := y.regs, seqs := y.seqs, bus := .done }
      ∧ regGet y kMCS (0x120 + 4 * m) = v &&& 1 ∧ RegsBut x y [(kMCS, 0x120 + 4 * m), (kMCS, so)]
      ∧ (m = qTRN ∨ m = qBST → y.seqs = x.seqs ∧ seqState y m = seqState x m)
      ∧ (m = qSWP ∨ m = qSOH → seqOf y m = { st with held := wbit v 0 } ∧ (∀ j, j ≠ m → y.seqs[j]? = x.seqs[j]?)
        ∧ seqState y m = (if seqState x m = sqHalted ∨ seqState x m = sqTrap then seqState x m else if wbit v 0 then sqHeld else sqIdle)))
  ∧ RunsOn (.romRead sl v) s sl (fun y => y = { x with regs := y.regs, bus := .done } ∧ regGet y kMCS 0x300 = v &&& 0x31FFF
      ∧ regGet y kMCS 0x310 = w32 (rom >>> 112) ∧ regGet y kMCS 0x314 = w32 (rom >>> 80) ∧ regGet y kMCS 0x318 = w32 (rom >>> 48)
      ∧ regGet y kMCS 0x31C = w32 (rom >>> 16) ∧ regGet y kMCS 0x320 = w32 (rom % 65536)
      ∧ RegsBut x y [(kMCS, 0x300), (kMCS, 0x310), (kMCS, 0x314), (kMCS, 0x318), (kMCS, 0x31C), (kMCS, 0x320)])
  ∧ RunsOn (.traceRead sl) s sl (fun y => y = { x with regs := y.regs, bus := .value (traceWord x 3) }
      ∧ trRptr y = (trRptr x + 1) % 4096 ∧ RegsBut x y [(kMCS, 0x200)])
  ∧ (wbit sel 31 = false ∨ pairGet x kPRF cnt ≠ 2 ^ 48 - 1 → RunsOn (.counterWrap sl n) s sl fun y => y = x)
  ∧ (wbit sel 31 = true → pairGet x kPRF cnt = 2 ^ 48 - 1 → RunsOn (.counterWrap sl n) s sl fun y => y = { x with regs := y.regs }
      ∧ pairGet y kPRF cnt = 0 ∧ regBit y kPRF (0x110 + 4 * (n.val / 32)) (n.val % 32) = true
      ∧ (wbit sel 26 = true → pending y (kPRF * 16) = true) ∧ (regBit x kPRF 0x100 30 = true → regBit y kPRF 0x100 29 = true)
      ∧ (regBit x kPRF 0x100 30 = false → regGet y kPRF 0x100 = regGet x kPRF 0x100)
      ∧ RegsBut x y ([(kPRF, 0x100), (kPRF, 0x110 + 4 * (n.val / 32))] ++ pairKeys kPRF cnt ++ raiseKeys kPRF 0))
  ∧ (windowLen x n.val = none ∨ napping x = true ∨ (windowLen x n.val = some w ∧ ¬closes w) → RunsOn (.windowClose sl n k) s sl fun y => y = x)
  ∧ (windowLen x n.val = some w → napping x = false → closes w → RunsOn (.windowClose sl n k) s sl fun y =>
      y = { x with regs := y.regs, winEnd := y.winEnd } ∧ pairGet y kPRF (0x1800 + 8 * n.val) = pairGet x kPRF cnt
      ∧ pairGet y kPRF cnt = 0 ∧ (∀ j, sGet 0 y.winEnd j = if j = n.val then (us / w + 1) * w else sGet 0 x.winEnd j)
      ∧ regGet y kPRF (0x1C00 + 4 * n.val)
          = w32 ((close - w) / 1000000 % 2048 * 2 ^ 20 + k.toNat)
      ∧ (wbit sel 26 = true → pending y (kPRF * 16 + 2) = true)
      ∧ RegsBut x y ((kPRF, 0x1C00 + 4 * n.val) :: pairKeys kPRF cnt ++ pairKeys kPRF (0x1800 + 8 * n.val) ++ raiseKeys kPRF 2))
  ∧ RunsOn (.snap sl) s sl (fun y => y = { x with regs := y.regs, bus := .done }
      ∧ (∀ j < 64, pairGet y kPRF (0x1400 + 8 * j) = pairGet x kPRF (0x1000 + 8 * j))
      ∧ regFld y kPRF 0x100 15 0 = (regFld x kPRF 0x100 15 0 + 1) % 65536 ∧ regFld y kPRF 0x100 31 16 = regFld x kPRF 0x100 31 16
      ∧ ∀ b o, o < 0x100000 → b ≠ kPRF ∨ (o ≠ 0x100 ∧ (o < 0x1400 ∨ 0x1600 ≤ o)) → regGet y b o = regGet x b o)
  ∧ RunsOn (.freezeResume sl) s sl (fun y => y = { x with regs := y.regs, bus := .done } ∧ regBit y kPRF 0x100 29 = false
      ∧ regFld y kPRF 0x100 28 0 = regFld x kPRF 0x100 28 0 ∧ regFld y kPRF 0x100 31 30 = regFld x kPRF 0x100 31 30
      ∧ RegsBut x y [(kPRF, 0x100)])
  ∧ (fld v 23 0 < trSize x r → (fld v 23 0 + trSize x r - moves) % trSize x r ≤ trHeld x r → RunsOn (.telemetryTailWrite sl ring v) s sl
      fun y => y = { x with regs := y.regs, bus := .done } ∧ trTail y r = fld v 23 0 ∧ RegsBut x y [(kPRF, t + 0x10)])
  ∧ (trSize x r ≤ fld v 23 0 ∨ trHeld x r < (fld v 23 0 + trSize x r - moves) % trSize x r → RunsOn (.telemetryTailWrite sl ring v) s sl
      fun y => y = { x with bus := .done })
  ∧ (regFld x kPRF (t + 0x14) 31 16 = 0 ∨ trHeld x r = 0 → RunsOn (.telemetryTimeout sl ring) s sl fun y => y = x)
  ∧ (regFld x kPRF (t + 0x14) 31 16 ≠ 0 → trHeld x r ≠ 0 → RunsOn (.telemetryTimeout sl ring) s sl fun y =>
      y = { x with regs := y.regs } ∧ regBit y kPRF 0x118 r = true ∧ pending y (kPRF * 16 + 1) = true
      ∧ RegsBut x y ((kPRF, 0x118) :: raiseKeys kPRF 1))
  ∧ (out = 0 → RunsOn (.telemetryWriteAck sl ring) s sl fun y => y = x)
  ∧ (out ≠ 0 → RunsOn (.telemetryWriteAck sl ring) s sl fun y => y = { x with regs := y.regs, telPosted := y.telPosted }
      ∧ trHead y r = (trHead x r + 1) % trSize x r ∧ (∀ j, sGet 0 y.telPosted j = if j = r then out - 1 else sGet 0 x.telPosted j)
      ∧ (regFld x kPRF (t + 0x14) 15 0 ≠ 0 → regFld x kPRF (t + 0x14) 15 0 ≤ trHeld y r →
          regBit y kPRF 0x118 r = true ∧ pending y (kPRF * 16 + 1) = true)
      ∧ RegsBut x y ([(kPRF, t + 0xC), (kPRF, 0x118)] ++ raiseKeys kPRF 1))

/-- Faults of units, cells and blocks, and recovery (R102, R305, R467 to R478): a unit with a spare is replaced, which its block
counts, and its work run again; a second CAM bank or pipeline of a direction stops the slice; a record or frame in a failed way
or cell is lost; a fenced block that does not forward recovers to DISABLED with its reset configuration; the SRAM patrol logs
what it finds. What the spec leaves open here is the model's choice: log entries 4, 100 and 101. -/
def Obligations.UnitFaults : Prop := ∀ (s : State) (sl : SliceId) (e : Fin 68) (bank : Fin 33) (set' : BitVec 14) (way : Fin 16)
    (h : HotWay) (cell : Nat) (f : Frame) (c : Copy) (q : QId) (egress : Bool) (pipe : Pipe) (v : Word) (b : Nat) (blk : Block)
    (a : BitVec 32) (old : Nat), (s.slice sl).on = true →
  let x := s.slice sl
  let hit := x.threads.filter fun t => decide (t.th / 4 = e.val)
  let units := fun (y : Slice) (k : Nat) (spare : Bool) =>
    regFld y k 8 15 8 = (if spare then min 255 (regFld x k 8 15 8 + 1) else regFld x k 8 15 8) ∧ blkState y k = blkState x k
  let stopped := fun (y : Slice) => y.lost = true ∧ y.report = true ∧ y.sending = [] ∧ y.fifo = [] ∧ y.win = [] ∧ y.recirc = []
      ∧ y.flowIn = [] ∧ y.dram = x.dram ∧ y.tabs = x.tabs
  let n := set'.toNat
  let eng := fun (y : Slice) => y = { x with regs := y.regs, toHub := y.toHub, rerunq := x.rerunq ++ hit,
                                                    threads := x.threads.filter fun t => decide (t.th / 4 ≠ e.val) }
      ∧ regBit y kDMK (0x110 + 4 * (e.val / 32)) (e.val % 32) = true ∧ units y kDMK (decide (spFree x ≠ 0))
      ∧ RegsButLog x y [(kDMK, 0x110 + 4 * (e.val / 32)), (kDMK, 0x120), (kDMK, 8)]
  let pk := if egress then kSWC else kPRS
  let rb := fld v 4 0
  (engineActive x e.val = false → RunsOn (.engineFault sl e) s sl fun y => y = x)
  ∧ (engineActive x e.val = true → spFree x ≠ 0 → RunsOn (.engineFault sl e) s sl fun y => eng y
      ∧ LogOf x y fcSpared kDMK e.val 0x09 hit.length ∧ spFree y = spFree x - 1 ∧ pending y (kDMK * 16) = true)
  ∧ (engineActive x e.val = true → spFree x = 0 → 0 < regFld x kDMK 0x120 22 16 → RunsOn (.engineFault sl e) s sl fun y => eng y
      ∧ LogOf x y fcDegraded kDMK e.val 0x09 hit.length ∧ regFld y kDMK 0x120 22 16 = regFld x kDMK 0x120 22 16 - 1
      ∧ pending y (kDMK * 16 + 1) = true)
  ∧ (bank.val ∈ x.banksFenced ∨ blkState x kCAM = 4 → RunsOn (.camBankFault sl bank) s sl fun y => y = x)
  ∧ (blkState x kCAM ≠ 4 → x.banksFenced = [] → RunsOn (.camBankFault sl bank) s sl fun y =>
      y = { x with regs := y.regs, toHub := y.toHub, banksFenced := [bank.val], camBusy := decide (bank.val < 32) }
      ∧ LogOf x y fcSpared kCAM bank.val 0x0A bank.val ∧ units y kCAM (decide (bank.val < 32)) ∧ pending y (kCAM * 16) = true
      ∧ (bank.val < 32 → regBit y kCAM 0x100 31 = true ∧ regFld y kCAM 0x100 4 0 = bank.val)
      ∧ RegsButLog x y [(kCAM, 0x100), (kCAM, 8)])
  ∧ (blkState x kCAM ≠ 4 → x.banksFenced = [old] → bank.val ≠ old → RunsOn (.camBankFault sl bank) s sl fun y =>
      stopped y ∧ y.banksFenced = [old, bank.val] ∧ blkState y kCAM = 4)
  ∧ RunsOn (.camSpareLoaded sl) s sl (fun y => y = { x with camBusy := false })
  ∧ ((n, way.val) ∈ x.waysFenced → RunsOn (.hotSetWayFault sl set' way) s sl fun y => y = x)
  ∧ ((n, way.val) ∉ x.waysFenced →
    (x.hot.find? (fun g => decide (g.set = n) && decide (g.way = way.val)) = some h → RunsOn (.hotSetWayFault sl set' way) s sl fun y =>
      y = { x with regs := y.regs, toHub := y.toHub, waysFenced := x.waysFenced ++ [(n, way.val)], hot := x.hot.erase h,
                   lostRecs := if h.dirty then insNat x.lostRecs h.idx else x.lostRecs }
      ∧ LogOf x y fcSpared kFLW way.val 0x0B (n * 16 + way.val) ∧ RegsButLog x y [])
    ∧ (x.hot.find? (fun g => decide (g.set = n) && decide (g.way = way.val)) = none → RunsOn (.hotSetWayFault sl set' way) s sl fun y =>
      y = { x with regs := y.regs, toHub := y.toHub, waysFenced := x.waysFenced ++ [(n, way.val)] }
      ∧ LogOf x y fcSpared kFLW way.val 0x0B (n * 16 + way.val) ∧ RegsButLog x y []))
  ∧ (196608 ≤ cell ∨ cell ∈ x.cellsRetired → RunsOn (.cellFault sl cell) s sl fun y => y = x)
  ∧ (cell < 196608 → cell ∉ x.cellsRetired →
    ((∀ g ∈ x.frames, cell ∉ g.cells) → (∀ r ∈ x.scenes, cell ∉ r.cells) → RunsOn (.cellFault sl cell) s sl fun y =>
      y = { x with regs := y.regs, cellsRetired := insNat x.cellsRetired cell } ∧ LogOf x y fcSoft kBUF wholeBlock 0x04 cell
      ∧ RegsButLog x y [])
    ∧ (x.frames = [f] → cell ∈ f.cells → f.copies = [] → f.tx = none → f.pages = [] → f.owner < 22 →
        (∀ j ∈ f.cells, sFind x.cellsOut j = some f.owner) → x.sending = [] → x.puntFrames = [] → x.queues = [⟨q, [c], []⟩] →
        c.frm = f.id → (∀ h ∈ x.held, h.frm ≠ some f.id) → RunsOn (.cellFault sl cell) s sl fun y =>
      y.queues = [] ∧ y.frames = [] ∧ y.cellsRetired = insNat x.cellsRetired cell ∧ (∀ j ∈ f.cells, sFind y.cellsOut j = none)
      ∧ Counted x y kSWC 0x1210 1 ∧ LogOf x y fcSoft kBUF wholeBlock 0x04 cell))
  ∧ ((egress, pipe) ∈ x.pipesFenced → RunsOn (.pipelineFault sl egress pipe) s sl fun y => y = x)
  ∧ ((egress, pipe) ∉ x.pipesFenced → (x.pipesFenced.any fun k => k.1 == egress) = false → (egress = true → x.sending = []) →
      RunsOn (.pipelineFault sl egress pipe) s sl fun y =>
      y = { x with regs := y.regs, toHub := y.toHub, win := y.win, pipesFenced := x.pipesFenced ++ [(egress, pipe)] }
      ∧ y.win = (if egress then x.win else x.win.filter fun k => decide (k.pkt.pipe ≠ pipe))
      ∧ LogOf x y fcDegraded pk pipe.val 0x0C (if egress then 0 else (x.win.filter fun k => decide (k.pkt.pipe = pipe)).length)
      ∧ RegsButLog x y [])
  ∧ ((egress, pipe) ∉ x.pipesFenced → (x.pipesFenced.any fun k => k.1 == egress) = true → egress = false →
      RunsOn (.pipelineFault sl egress pipe) s sl stopped)
  ∧ (regBit x kFLT 0x110 31 = true → RunsOn (.blockRecovery sl v) s sl fun y => y = { x with bus := .done })
  ∧ (regBit x kFLT 0x110 31 = false → wbit v 31 = true →
    (22 ≤ rb ∨ rb ∈ lostBlocks ∨ fenced x rb = false → RunsOn (.blockRecovery sl v) s sl fun y =>
      y = { x with regs := y.regs, bus := .done } ∧ regFld y kFLT 0x110 30 28 = 3 ∧ regFld y kFLT 0x110 4 0 = rb
      ∧ regBit y kFLT 0x110 31 = false ∧ RegsBut x y [(kFLT, 0x110)])
    ∧ (rb < 22 → rb ∉ lostBlocks → fenced x rb = true → RunsOn (.blockRecovery sl v) s sl fun y =>
      y = { x with regs := y.regs, recovering := some rb, bus := .done } ∧ regFld y kFLT 0x110 30 28 = 0 ∧ regFld y kFLT 0x110 4 0 = rb
      ∧ regBit y kFLT 0x110 31 = true ∧ RegsBut x y [(kFLT, 0x110)]))
  ∧ (x.recovering = none → RunsPair (.recoveryDone sl true) s sl fun y _ => y = x)
  ∧ (x.recovering = some b →
    (RunsPair (.recoveryDone sl false) s sl fun y _ => y = { x with regs := y.regs, recovering := none }
      ∧ regFld y kFLT 0x110 30 28 = 2 ∧ regBit y kFLT 0x110 31 = false ∧ pending y (kFLT * 16 + 4) = true
      ∧ RegsBut x y ((kFLT, 0x110) :: raiseKeys kFLT 4))
    ∧ (b < 22 → b ≠ kSRG → b ≠ kICN → b ≠ kFLT → RunsPair (.recoveryDone sl true) s sl fun y _ =>
      y = { x with regs := y.regs, image := y.image, recovering := none } ∧ blkState y b = 0
      ∧ (∀ o r, o < 0x100000 → o ≠ 8 → rowAt b o = some r →
          regGet y b o = w32 ((regGet x b o).toNat &&& (all32 - r.rw) ||| ((resetOf x.id.val b o).toNat &&& r.rw)))
      ∧ regFld y kFLT 0x110 30 28 = 1 ∧ regBit y kFLT 0x110 31 = false ∧ pending y (kFLT * 16 + 4) = true
      ∧ (∀ k o, o < 0x100000 → k ≠ b → k ≠ kICN → (k, o) ≠ (kFLT, 0x110) → regGet y k o = regGet x k o)))
  ∧ (seqRuns x qBST = false → RunsOn (.sramPatrolPass sl [.corrected blk a]) s sl fun y => y = x)
  ∧ (seqRuns x qBST = true →
    (RunsOn (.sramPatrolPass sl [.corrected blk a]) s sl fun y => y = { x with regs := y.regs }
      ∧ LogOf x y fcSoft blk.val wholeBlock 0x03 a.toNat ∧ RegsButLog x y [])
    ∧ (RunsOn (.sramPatrolPass sl [.uncorrectable blk a]) s sl fun y => y = { x with regs := y.regs }
      ∧ LogOf x y fcSoft blk.val wholeBlock 0x04 a.toNat ∧ RegsButLog x y []))
end

