-- ==== Sys2Proof/Laws/Sparse.lean ====
section
/-! SUPPORT. What the sparse maps and the bit fields do: reads after writes, the canonical form, fields of words. -/

namespace Sys2Proof.Machine

/-! ### Sparse maps -/

@[simp] theorem sFind_sDel_self {β : Type} (m : Sparse β) (i : Nat) : sFind (sDel m i) i = none := by
  induction m with
  | nil => rfl
  | cons e m ih =>
    obtain ⟨k, v⟩ := e
    by_cases h : k = i <;> simp [sDel, sFind, h, ih]

theorem sFind_sDel_ne {β : Type} (m : Sparse β) {i j : Nat} (h : j ≠ i) : sFind (sDel m i) j = sFind m j := by
  induction m with
  | nil => rfl
  | cons e m ih =>
    obtain ⟨k, v⟩ := e
    by_cases hk : k = i
    · subst hk; simp [sDel, sFind, ih, Ne.symm h]
    · simp [sDel, sFind, hk, ih]

@[simp] theorem sFind_sIns_self {β : Type} (m : Sparse β) (i : Nat) (w : β) : sFind (sIns m i w) i = some w := by
  induction m with
  | nil => simp [sIns, sFind]
  | cons e m ih =>
    obtain ⟨k, v⟩ := e
    by_cases h1 : i < k
    · simp [sIns, sFind, h1]
    · by_cases h2 : k = i
      · simp [sIns, sFind, h2]
      · simp [sIns, sFind, h1, h2, ih]

theorem sFind_sIns_ne {β : Type} (m : Sparse β) {i j : Nat} (w : β) (h : j ≠ i) : sFind (sIns m i w) j = sFind m j := by
  induction m with
  | nil => simp [sIns, sFind, Ne.symm h]
  | cons e m ih =>
    obtain ⟨k, v⟩ := e
    by_cases h1 : i < k
    · simp [sIns, sFind, h1, Ne.symm h]
    · by_cases h2 : k = i
      · subst h2; simp [sIns, sFind, Ne.symm h]
      · simp [sIns, sFind, h1, h2, ih]

section
variable {β : Type} [DecidableEq β]

theorem sFind_sPut_ne (d : β) (m : Sparse β) {i j : Nat} (w : β) (h : j ≠ i) : sFind (sPut d m i w) j = sFind m j := by
  unfold sPut; split
  · exact sFind_sDel_ne m h
  · exact sFind_sIns_ne m w h

/-- A read after a write of a map. -/
theorem sFind_sPut_self (d : β) (m : Sparse β) (i : Nat) (w : β) : (sFind (sPut d m i w) i).getD d = w := by
  unfold sPut; split
  · next h => simp [h]
  · simp

@[simp] theorem sGet_sPut_self (d : β) (m : Sparse β) (i : Nat) (w : β) : sGet d (sPut d m i w) i = w :=
  sFind_sPut_self d m i w

theorem sGet_sPut_ne (d : β) (m : Sparse β) {i j : Nat} (w : β) (h : j ≠ i) : sGet d (sPut d m i w) j = sGet d m j := by
  simp [sGet, sFind_sPut_ne d m w h]

theorem sGet_sPut (d : β) (m : Sparse β) (i j : Nat) (w : β) : sGet d (sPut d m i w) j = if j = i then w else sGet d m j := by
  by_cases h : j = i
  · subst h; simp
  · simp [h, sGet_sPut_ne d m w h]

end

/-! The canonical form -/

theorem sRising_mono {β : Type} (m : Sparse β) {a b : Nat} (h : a ≤ b) : sRising b m = true → sRising a m = true := by
  cases m with
  | nil => simp [sRising]
  | cons e m => obtain ⟨k, v⟩ := e; simp only [sRising, Bool.and_eq_true, decide_eq_true_eq]; rintro ⟨h1, h2⟩; exact ⟨by omega, h2⟩

theorem sDel_rising {β : Type} (m : Sparse β) (i lo : Nat) (h : sRising lo m = true) : sRising lo (sDel m i) = true := by
  induction m generalizing lo with
  | nil => exact h
  | cons e m ih =>
    obtain ⟨k, v⟩ := e
    simp only [sRising, Bool.and_eq_true, decide_eq_true_eq] at h
    by_cases hk : k = i
    · simp only [sDel, hk, if_true]
      exact sRising_mono _ (by omega) (ih (k + 1) h.2)
    · simp only [sDel, hk, if_false, sRising, Bool.and_eq_true, decide_eq_true_eq]
      exact ⟨h.1, ih (k + 1) h.2⟩

theorem sIns_rising {β : Type} (m : Sparse β) (i lo : Nat) (w : β) (hlo : lo ≤ i) (h : sRising lo m = true) :
    sRising lo (sIns m i w) = true := by
  induction m generalizing lo with
  | nil => simp [sIns, sRising, hlo]
  | cons e m ih =>
    obtain ⟨k, v⟩ := e
    simp only [sRising, Bool.and_eq_true, decide_eq_true_eq] at h
    by_cases h1 : i < k
    · simp only [sIns, h1, if_true, sRising, Bool.and_eq_true, decide_eq_true_eq]
      exact ⟨hlo, by omega, h.2⟩
    · by_cases h2 : k = i
      · subst h2; simp only [sIns, h1, if_false, if_true, sRising, Bool.and_eq_true, decide_eq_true_eq]; exact ⟨hlo, h.2⟩
      · simp only [sIns, h1, h2, if_false, sRising, Bool.and_eq_true, decide_eq_true_eq]
        exact ⟨h.1, ih (k + 1) (by omega) h.2⟩

theorem sDel_mem {β : Type} (m : Sparse β) (i : Nat) {e : Nat × β} (h : e ∈ sDel m i) : e ∈ m := by
  induction m with
  | nil => exact h
  | cons f m ih =>
    obtain ⟨k, v⟩ := f
    by_cases hk : k = i
    · simp only [sDel, hk, if_true] at h; exact List.mem_cons_of_mem _ (ih h)
    · simp only [sDel, hk, if_false, List.mem_cons] at h
      rcases h with h | h
      · simp [h]
      · exact List.mem_cons_of_mem _ (ih h)

theorem sIns_mem {β : Type} (m : Sparse β) (i : Nat) (w : β) {e : Nat × β} (h : e ∈ sIns m i w) : e = (i, w) ∨ e ∈ m := by
  induction m with
  | nil => simp [sIns] at h; exact Or.inl h
  | cons f m ih =>
    obtain ⟨k, v⟩ := f
    by_cases h1 : i < k
    · simp only [sIns, h1, if_true, List.mem_cons] at h; simpa [List.mem_cons] using h
    · by_cases h2 : k = i
      · subst h2
        simp only [sIns, h1, if_false, if_true, List.mem_cons] at h
        rcases h with h | h
        · exact Or.inl h
        · exact Or.inr (List.mem_cons_of_mem _ h)
      · simp only [sIns, h1, h2, if_false, List.mem_cons] at h
        rcases h with h | h
        · simp [h]
        · rcases ih h with h | h
          · exact Or.inl h
          · exact Or.inr (List.mem_cons_of_mem _ h)

/-- A write keeps the canonical form. -/
theorem sPut_wf {β : Type} [DecidableEq β] (d : β) (m : Sparse β) (i : Nat) (w : β) (h : sWf d m = true) : sWf d (sPut d m i w) = true := by
  simp only [sWf, Bool.and_eq_true, List.all_eq_true, decide_eq_true_eq] at h ⊢
  unfold sPut; split
  · exact ⟨sDel_rising m i 0 h.1, fun e he => h.2 e (sDel_mem m i he)⟩
  · next hw =>
    refine ⟨sIns_rising m i 0 w (Nat.zero_le _) h.1, fun e he => ?_⟩
    rcases sIns_mem m i w he with rfl | he
    · exact hw
    · exact h.2 e he

/-- Writing bytes keeps a memory's canonical form. -/
theorem sPutBytes_wf (m : Sparse Byte) (a : Nat) (bs : Bytes) (h : Memory.wf m = true) : Memory.wf (sPutBytes m a bs) = true := by
  induction bs generalizing m a with
  | nil => exact h
  | cons b bs ih => exact ih _ _ (sPut_wf 0 m a b h)

/-- A byte outside the bytes written reads as before. -/
theorem sGet_sPutBytes_out (m : Sparse Byte) (a k : Nat) (bs : Bytes) (h : k < a ∨ a + bs.length ≤ k) :
    sGet 0 (sPutBytes m a bs) k = sGet 0 m k := by
  induction bs generalizing m a with
  | nil => rfl
  | cons b bs ih =>
    simp only [List.length_cons] at h
    rw [sPutBytes, ih _ _ (by omega), sGet_sPut_ne]
    omega

/-- A byte written reads as written. -/
theorem sGet_sPutBytes_in (m : Sparse Byte) (a i : Nat) (bs : Bytes) (h : i < bs.length) :
    sGet 0 (sPutBytes m a bs) (a + i) = bs[i] := by
  induction bs generalizing m a i with
  | nil => simp at h
  | cons b bs ih =>
    cases i with
    | zero => rw [sPutBytes, sGet_sPutBytes_out _ _ _ _ (by omega)]; simp
    | succ i =>
      have := ih (sPut 0 m a b) (a + 1) i (by simpa using h)
      rw [sPutBytes, show a + (i + 1) = a + 1 + i by omega, this]; simp

/-- Reading within bytes that have been written gives those bytes. -/
theorem sGetBytes_sPutBytes (m : Sparse Byte) (a i n : Nat) (bs : Bytes) (h : i + n ≤ bs.length) :
    sGetBytes (sPutBytes m a bs) (a + i) n = (bs.drop i).take n := by
  induction n generalizing i with
  | zero => simp [sGetBytes]
  | succ n ih =>
    have hi : i < bs.length := by omega
    rw [sGetBytes, sGet_sPutBytes_in m a i bs hi, Nat.add_assoc, ih (i + 1) (by omega), List.drop_eq_getElem_cons hi,
      List.take_succ_cons]

/-! ### Fields of words -/

theorem bits_eq (v hi lo : Nat) : bits v hi lo = v / 2 ^ lo % 2 ^ (hi + 1 - lo) := by
  simp [bits, Nat.shiftRight_eq_div_pow]

theorem bits_lt (v hi lo : Nat) : bits v hi lo < 2 ^ (hi + 1 - lo) := by
  rw [bits_eq]; exact Nat.mod_lt _ (by positivity)

/-- A number cut at a field: what lies below, the field, what lies above. -/
theorem bits_split (w hi lo : Nat) (h : lo ≤ hi) :
    w = w % 2 ^ lo + bits w hi lo * 2 ^ lo + w / 2 ^ (hi + 1) * 2 ^ (hi + 1) := by
  have e : 2 ^ (hi + 1) = 2 ^ lo * 2 ^ (hi + 1 - lo) := by rw [← pow_add]; congr 1; omega
  have h1 := Nat.div_add_mod w (2 ^ lo)
  have h2 := Nat.div_add_mod (w / 2 ^ lo) (2 ^ (hi + 1 - lo))
  rw [bits_eq, e, ← Nat.div_div_eq_div_mul]
  calc w = 2 ^ lo * (w / 2 ^ lo) + w % 2 ^ lo := h1.symm
    _ = 2 ^ lo * (2 ^ (hi + 1 - lo) * (w / 2 ^ lo / 2 ^ (hi + 1 - lo)) + w / 2 ^ lo % 2 ^ (hi + 1 - lo)) + w % 2 ^ lo := by rw [h2]
    _ = _ := by ring

theorem putBits_eq (w hi lo v : Nat) (h : lo ≤ hi) :
    putBits w hi lo v = w % 2 ^ lo + v % 2 ^ (hi + 1 - lo) * 2 ^ lo + w / 2 ^ (hi + 1) * 2 ^ (hi + 1) := by
  have := bits_split w hi lo h
  unfold putBits
  omega

theorem bits_putBits_self (w hi lo v : Nat) (h : lo ≤ hi) : bits (putBits w hi lo v) hi lo = v % 2 ^ (hi + 1 - lo) := by
  have e : 2 ^ (hi + 1) = 2 ^ lo * 2 ^ (hi + 1 - lo) := by rw [← pow_add]; congr 1; omega
  rw [putBits_eq w hi lo v h, bits_eq, e]
  have h1 : w % 2 ^ lo < 2 ^ lo := Nat.mod_lt _ (by positivity)
  have : w % 2 ^ lo + v % 2 ^ (hi + 1 - lo) * 2 ^ lo + w / (2 ^ lo * 2 ^ (hi + 1 - lo)) * (2 ^ lo * 2 ^ (hi + 1 - lo))
      = w % 2 ^ lo + 2 ^ lo * (v % 2 ^ (hi + 1 - lo) + w / (2 ^ lo * 2 ^ (hi + 1 - lo)) * 2 ^ (hi + 1 - lo)) := by ring
  rw [this, Nat.add_mul_div_left _ _ (by positivity), Nat.div_eq_of_lt h1, Nat.zero_add, Nat.add_mul_mod_self_right, Nat.mod_mod]

end Sys2Proof.Machine
end

