-- ==== Sys2Proof/Laws/State.lean ====
section
/-! SUPPORT. Reads of the fields of a slice after an update. -/

namespace Sys2Proof.Machine

/-! ### Register contents -/

@[simp] theorem setRegs_setRegs (x : Slice) (r r' : Sparse Word) : (x.setRegs r).setRegs r' = x.setRegs r' := rfl

@[simp] theorem setRegs_self (x : Slice) : x.setRegs x.regs = x := rfl

@[simp] theorem setRegs_id (x : Slice) (r : Sparse Word) : (x.setRegs r).id = x.id := rfl
@[simp] theorem setRegs_free (x : Slice) (r : Sparse Word) : (x.setRegs r).free = x.free := rfl
@[simp] theorem setRegs_phase (x : Slice) (r : Sparse Word) : (x.setRegs r).phase = x.phase := rfl
@[simp] theorem setRegs_move (x : Slice) (r : Sparse Word) : (x.setRegs r).move = x.move := rfl
@[simp] theorem setRegs_heldWake (x : Slice) (r : Sparse Word) : (x.setRegs r).heldWake = x.heldWake := rfl
@[simp] theorem setRegs_stayActive (x : Slice) (r : Sparse Word) : (x.setRegs r).stayActive = x.stayActive := rfl
@[simp] theorem setRegs_lost (x : Slice) (r : Sparse Word) : (x.setRegs r).lost = x.lost := rfl
@[simp] theorem setRegs_regs (x : Slice) (r : Sparse Word) : (x.setRegs r).regs = r := rfl
@[simp] theorem setRegs_regsOld (x : Slice) (r : Sparse Word) : (x.setRegs r).regsOld = x.regsOld := rfl
@[simp] theorem setRegs_image (x : Slice) (r : Sparse Word) : (x.setRegs r).image = x.image := rfl
@[simp] theorem setRegs_mism (x : Slice) (r : Sparse Word) : (x.setRegs r).mism = x.mism := rfl
@[simp] theorem setRegs_discards (x : Slice) (r : Sparse Word) : (x.setRegs r).discards = x.discards := rfl
@[simp] theorem setRegs_negFails (x : Slice) (r : Sparse Word) : (x.setRegs r).negFails = x.negFails := rfl
@[simp] theorem setRegs_eeeAgreed (x : Slice) (r : Sparse Word) : (x.setRegs r).eeeAgreed = x.eeeAgreed := rfl
@[simp] theorem setRegs_shadow (x : Slice) (r : Sparse Word) : (x.setRegs r).shadow = x.shadow := rfl
@[simp] theorem setRegs_holding (x : Slice) (r : Sparse Word) : (x.setRegs r).holding = x.holding := rfl
@[simp] theorem setRegs_posted (x : Slice) (r : Sparse Word) : (x.setRegs r).posted = x.posted := rfl
@[simp] theorem setRegs_bus (x : Slice) (r : Sparse Word) : (x.setRegs r).bus = x.bus := rfl
@[simp] theorem setRegs_netReq (x : Slice) (r : Sparse Word) : (x.setRegs r).netReq = x.netReq := rfl
@[simp] theorem setRegs_confirmAt (x : Slice) (r : Sparse Word) : (x.setRegs r).confirmAt = x.confirmAt := rfl
@[simp] theorem setRegs_clk (x : Slice) (r : Sparse Word) : (x.setRegs r).clk = x.clk := rfl
@[simp] theorem setRegs_bases (x : Slice) (r : Sparse Word) : (x.setRegs r).bases = x.bases := rfl
@[simp] theorem setRegs_tabs (x : Slice) (r : Sparse Word) : (x.setRegs r).tabs = x.tabs := rfl
@[simp] theorem setRegs_tabsOld (x : Slice) (r : Sparse Word) : (x.setRegs r).tabsOld = x.tabsOld := rfl
@[simp] theorem setRegs_dram (x : Slice) (r : Sparse Word) : (x.setRegs r).dram = x.dram := rfl
@[simp] theorem setRegs_poison (x : Slice) (r : Sparse Word) : (x.setRegs r).poison = x.poison := rfl
@[simp] theorem setRegs_winHold (x : Slice) (r : Sparse Word) : (x.setRegs r).winHold = x.winHold := rfl
@[simp] theorem setRegs_locks (x : Slice) (r : Sparse Word) : (x.setRegs r).locks = x.locks := rfl
@[simp] theorem setRegs_bufs (x : Slice) (r : Sparse Word) : (x.setRegs r).bufs = x.bufs := rfl
@[simp] theorem setRegs_asm (x : Slice) (r : Sparse Word) : (x.setRegs r).asm = x.asm := rfl
@[simp] theorem setRegs_heldCtl (x : Slice) (r : Sparse Word) : (x.setRegs r).heldCtl = x.heldCtl := rfl
@[simp] theorem setRegs_nextPkt (x : Slice) (r : Sparse Word) : (x.setRegs r).nextPkt = x.nextPkt := rfl
@[simp] theorem setRegs_fifo (x : Slice) (r : Sparse Word) : (x.setRegs r).fifo = x.fifo := rfl
@[simp] theorem setRegs_win (x : Slice) (r : Sparse Word) : (x.setRegs r).win = x.win := rfl
@[simp] theorem setRegs_recirc (x : Slice) (r : Sparse Word) : (x.setRegs r).recirc = x.recirc := rfl
@[simp] theorem setRegs_flowIn (x : Slice) (r : Sparse Word) : (x.setRegs r).flowIn = x.flowIn := rfl
@[simp] theorem setRegs_camBusy (x : Slice) (r : Sparse Word) : (x.setRegs r).camBusy = x.camBusy := rfl
@[simp] theorem setRegs_pipesFenced (x : Slice) (r : Sparse Word) : (x.setRegs r).pipesFenced = x.pipesFenced := rfl
@[simp] theorem setRegs_banksFenced (x : Slice) (r : Sparse Word) : (x.setRegs r).banksFenced = x.banksFenced := rfl
@[simp] theorem setRegs_notices (x : Slice) (r : Sparse Word) : (x.setRegs r).notices = x.notices := rfl
@[simp] theorem setRegs_filter (x : Slice) (r : Sparse Word) : (x.setRegs r).filter = x.filter := rfl
@[simp] theorem setRegs_provTok (x : Slice) (r : Sparse Word) : (x.setRegs r).provTok = x.provTok := rfl
@[simp] theorem setRegs_lastBump (x : Slice) (r : Sparse Word) : (x.setRegs r).lastBump = x.lastBump := rfl
@[simp] theorem setRegs_hot (x : Slice) (r : Sparse Word) : (x.setRegs r).hot = x.hot := rfl
@[simp] theorem setRegs_plru (x : Slice) (r : Sparse Word) : (x.setRegs r).plru = x.plru := rfl
@[simp] theorem setRegs_waysFenced (x : Slice) (r : Sparse Word) : (x.setRegs r).waysFenced = x.waysFenced := rfl
@[simp] theorem setRegs_victim (x : Slice) (r : Sparse Word) : (x.setRegs r).victim = x.victim := rfl
@[simp] theorem setRegs_inflight (x : Slice) (r : Sparse Word) : (x.setRegs r).inflight = x.inflight := rfl
@[simp] theorem setRegs_stash (x : Slice) (r : Sparse Word) : (x.setRegs r).stash = x.stash := rfl
@[simp] theorem setRegs_recUsed (x : Slice) (r : Sparse Word) : (x.setRegs r).recUsed = x.recUsed := rfl
@[simp] theorem setRegs_lostRecs (x : Slice) (r : Sparse Word) : (x.setRegs r).lostRecs = x.lostRecs := rfl
@[simp] theorem setRegs_trackers (x : Slice) (r : Sparse Word) : (x.setRegs r).trackers = x.trackers := rfl
@[simp] theorem setRegs_nextTrk (x : Slice) (r : Sparse Word) : (x.setRegs r).nextTrk = x.nextTrk := rfl
@[simp] theorem setRegs_inserts (x : Slice) (r : Sparse Word) : (x.setRegs r).inserts = x.inserts := rfl
@[simp] theorem setRegs_ready (x : Slice) (r : Sparse Word) : (x.setRegs r).ready = x.ready := rfl
@[simp] theorem setRegs_soft (x : Slice) (r : Sparse Word) : (x.setRegs r).soft = x.soft := rfl
@[simp] theorem setRegs_logq (x : Slice) (r : Sparse Word) : (x.setRegs r).logq = x.logq := rfl
@[simp] theorem setRegs_logged (x : Slice) (r : Sparse Word) : (x.setRegs r).logged = x.logged := rfl
@[simp] theorem setRegs_shStash (x : Slice) (r : Sparse Word) : (x.setRegs r).shStash = x.shStash := rfl
@[simp] theorem setRegs_shRefused (x : Slice) (r : Sparse Word) : (x.setRegs r).shRefused = x.shRefused := rfl
@[simp] theorem setRegs_winEnd (x : Slice) (r : Sparse Word) : (x.setRegs r).winEnd = x.winEnd := rfl
@[simp] theorem setRegs_telPosted (x : Slice) (r : Sparse Word) : (x.setRegs r).telPosted = x.telPosted := rfl
@[simp] theorem setRegs_rebuilt (x : Slice) (r : Sparse Word) : (x.setRegs r).rebuilt = x.rebuilt := rfl
@[simp] theorem setRegs_threads (x : Slice) (r : Sparse Word) : (x.setRegs r).threads = x.threads := rfl
@[simp] theorem setRegs_rerunq (x : Slice) (r : Sparse Word) : (x.setRegs r).rerunq = x.rerunq := rfl
@[simp] theorem setRegs_seqNo (x : Slice) (r : Sparse Word) : (x.setRegs r).seqNo = x.seqNo := rfl
@[simp] theorem setRegs_held (x : Slice) (r : Sparse Word) : (x.setRegs r).held = x.held := rfl
@[simp] theorem setRegs_reserved (x : Slice) (r : Sparse Word) : (x.setRegs r).reserved = x.reserved := rfl
@[simp] theorem setRegs_nextFrm (x : Slice) (r : Sparse Word) : (x.setRegs r).nextFrm = x.nextFrm := rfl
@[simp] theorem setRegs_frames (x : Slice) (r : Sparse Word) : (x.setRegs r).frames = x.frames := rfl
@[simp] theorem setRegs_cellsOut (x : Slice) (r : Sparse Word) : (x.setRegs r).cellsOut = x.cellsOut := rfl
@[simp] theorem setRegs_pagesOut (x : Slice) (r : Sparse Word) : (x.setRegs r).pagesOut = x.pagesOut := rfl
@[simp] theorem setRegs_cellsRetired (x : Slice) (r : Sparse Word) : (x.setRegs r).cellsRetired = x.cellsRetired := rfl
@[simp] theorem setRegs_cellClk (x : Slice) (r : Sparse Word) : (x.setRegs r).cellClk = x.cellClk := rfl
@[simp] theorem setRegs_suspects (x : Slice) (r : Sparse Word) : (x.setRegs r).suspects = x.suspects := rfl
@[simp] theorem setRegs_queues (x : Slice) (r : Sparse Word) : (x.setRegs r).queues = x.queues := rfl
@[simp] theorem setRegs_spillLast (x : Slice) (r : Sparse Word) : (x.setRegs r).spillLast = x.spillLast := rfl
@[simp] theorem setRegs_readLast (x : Slice) (r : Sparse Word) : (x.setRegs r).readLast = x.readLast := rfl
@[simp] theorem setRegs_sending (x : Slice) (r : Sparse Word) : (x.setRegs r).sending = x.sending := rfl
@[simp] theorem setRegs_puntFrames (x : Slice) (r : Sparse Word) : (x.setRegs r).puntFrames = x.puntFrames := rfl
@[simp] theorem setRegs_credits (x : Slice) (r : Sparse Word) : (x.setRegs r).credits = x.credits := rfl
@[simp] theorem setRegs_aqLive (x : Slice) (r : Sparse Word) : (x.setRegs r).aqLive = x.aqLive := rfl
@[simp] theorem setRegs_dwrr (x : Slice) (r : Sparse Word) : (x.setRegs r).dwrr = x.dwrr := rfl
@[simp] theorem setRegs_mirCount (x : Slice) (r : Sparse Word) : (x.setRegs r).mirCount = x.mirCount := rfl
@[simp] theorem setRegs_pols (x : Slice) (r : Sparse Word) : (x.setRegs r).pols = x.pols := rfl
@[simp] theorem setRegs_gates (x : Slice) (r : Sparse Word) : (x.setRegs r).gates = x.gates := rfl
@[simp] theorem setRegs_scenes (x : Slice) (r : Sparse Word) : (x.setRegs r).scenes = x.scenes := rfl
@[simp] theorem setRegs_filled (x : Slice) (r : Sparse Word) : (x.setRegs r).filled = x.filled := rfl
@[simp] theorem setRegs_txHead (x : Slice) (r : Sparse Word) : (x.setRegs r).txHead = x.txHead := rfl
@[simp] theorem setRegs_txBusy (x : Slice) (r : Sparse Word) : (x.setRegs r).txBusy = x.txBusy := rfl
@[simp] theorem setRegs_inbox (x : Slice) (r : Sparse Word) : (x.setRegs r).inbox = x.inbox := rfl
@[simp] theorem setRegs_unacked (x : Slice) (r : Sparse Word) : (x.setRegs r).unacked = x.unacked := rfl
@[simp] theorem setRegs_nextXfer (x : Slice) (r : Sparse Word) : (x.setRegs r).nextXfer = x.nextXfer := rfl
@[simp] theorem setRegs_hbSeq (x : Slice) (r : Sparse Word) : (x.setRegs r).hbSeq = x.hbSeq := rfl
@[simp] theorem setRegs_twinLost (x : Slice) (r : Sparse Word) : (x.setRegs r).twinLost = x.twinLost := rfl
@[simp] theorem setRegs_report (x : Slice) (r : Sparse Word) : (x.setRegs r).report = x.report := rfl
@[simp] theorem setRegs_toHub (x : Slice) (r : Sparse Word) : (x.setRegs r).toHub = x.toHub := rfl
@[simp] theorem setRegs_members (x : Slice) (r : Sparse Word) : (x.setRegs r).members = x.members := rfl
@[simp] theorem setRegs_groups (x : Slice) (r : Sparse Word) : (x.setRegs r).groups = x.groups := rfl
@[simp] theorem setRegs_msgOut (x : Slice) (r : Sparse Word) : (x.setRegs r).msgOut = x.msgOut := rfl
@[simp] theorem setRegs_serRaw (x : Slice) (r : Sparse Word) : (x.setRegs r).serRaw = x.serRaw := rfl
@[simp] theorem setRegs_msgIn (x : Slice) (r : Sparse Word) : (x.setRegs r).msgIn = x.msgIn := rfl
@[simp] theorem setRegs_owed (x : Slice) (r : Sparse Word) : (x.setRegs r).owed = x.owed := rfl
@[simp] theorem setRegs_drcPart (x : Slice) (r : Sparse Word) : (x.setRegs r).drcPart = x.drcPart := rfl
@[simp] theorem setRegs_drcCe (x : Slice) (r : Sparse Word) : (x.setRegs r).drcCe = x.drcCe := rfl
@[simp] theorem setRegs_rankDown (x : Slice) (r : Sparse Word) : (x.setRegs r).rankDown = x.rankDown := rfl
@[simp] theorem setRegs_training (x : Slice) (r : Sparse Word) : (x.setRegs r).training = x.training := rfl
@[simp] theorem setRegs_rebuilds (x : Slice) (r : Sparse Word) : (x.setRegs r).rebuilds = x.rebuilds := rfl
@[simp] theorem setRegs_lostChans (x : Slice) (r : Sparse Word) : (x.setRegs r).lostChans = x.lostChans := rfl
@[simp] theorem setRegs_written (x : Slice) (r : Sparse Word) : (x.setRegs r).written = x.written := rfl
@[simp] theorem setRegs_claims (x : Slice) (r : Sparse Word) : (x.setRegs r).claims = x.claims := rfl
@[simp] theorem setRegs_hwWait (x : Slice) (r : Sparse Word) : (x.setRegs r).hwWait = x.hwWait := rfl
@[simp] theorem setRegs_mtip (x : Slice) (r : Sparse Word) : (x.setRegs r).mtip = x.mtip := rfl
@[simp] theorem setRegs_cores (x : Slice) (r : Sparse Word) : (x.setRegs r).cores = x.cores := rfl
@[simp] theorem setRegs_started (x : Slice) (r : Sparse Word) : (x.setRegs r).started = x.started := rfl
@[simp] theorem setRegs_rdy (x : Slice) (r : Sparse Word) : (x.setRegs r).rdy = x.rdy := rfl
@[simp] theorem setRegs_waiters (x : Slice) (r : Sparse Word) : (x.setRegs r).waiters = x.waiters := rfl
@[simp] theorem setRegs_delays (x : Slice) (r : Sparse Word) : (x.setRegs r).delays = x.delays := rfl
@[simp] theorem setRegs_dma (x : Slice) (r : Sparse Word) : (x.setRegs r).dma = x.dma := rfl
@[simp] theorem setRegs_seqs (x : Slice) (r : Sparse Word) : (x.setRegs r).seqs = x.seqs := rfl
@[simp] theorem setRegs_passes (x : Slice) (r : Sparse Word) : (x.setRegs r).passes = x.passes := rfl
@[simp] theorem setRegs_trace (x : Slice) (r : Sparse Word) : (x.setRegs r).trace = x.trace := rfl
@[simp] theorem setRegs_recovering (x : Slice) (r : Sparse Word) : (x.setRegs r).recovering = x.recovering := rfl

end Sys2Proof.Machine
end

