-- ==== Sys2Proof/Laws/Ops.lean ====
section
/-! SUPPORT. What the register, table, memory and slice operations do: a read after a write, what each leaves unchanged. -/

namespace Sys2Proof.Machine

/-! ### Fields of registers -/

theorem putBits_lt (w hi lo v : Nat) (h : lo ≤ hi) (hw : w < 2 ^ 32) (h32 : hi < 32) : putBits w hi lo v < 2 ^ 32 := by
  have e : 2 ^ (hi + 1) = 2 ^ lo * 2 ^ (hi + 1 - lo) := by rw [← pow_add]; congr 1; omega
  have e2 : (2 : Nat) ^ 32 = 2 ^ (hi + 1) * 2 ^ (31 - hi) := by rw [← pow_add]; congr 1; omega
  rw [putBits_eq w hi lo v h]
  have h1 : w % 2 ^ lo < 2 ^ lo := Nat.mod_lt _ (by positivity)
  have h2 : v % 2 ^ (hi + 1 - lo) < 2 ^ (hi + 1 - lo) := Nat.mod_lt _ (by positivity)
  have h3 : w / 2 ^ (hi + 1) < 2 ^ (31 - hi) := by
    rw [Nat.div_lt_iff_lt_mul (by positivity)]; rw [e2] at hw; linarith [Nat.mul_comm (2 ^ (hi + 1)) (2 ^ (31 - hi))]
  have h4 : w % 2 ^ lo + v % 2 ^ (hi + 1 - lo) * 2 ^ lo < 2 ^ (hi + 1) := by rw [e]; nlinarith [Nat.pos_of_ne_zero (pow_ne_zero lo (two_ne_zero (α := Nat)))]
  rw [e2]
  calc _ < 2 ^ (hi + 1) + w / 2 ^ (hi + 1) * 2 ^ (hi + 1) := by omega
    _ = (w / 2 ^ (hi + 1) + 1) * 2 ^ (hi + 1) := by ring
    _ ≤ 2 ^ (31 - hi) * 2 ^ (hi + 1) := Nat.mul_le_mul_right _ h3
    _ = _ := by ring

theorem setFld_toNat (w : Word) (hi lo v : Nat) (h : lo ≤ hi) (h32 : hi < 32) :
    (setFld w hi lo v).toNat = putBits w.toNat hi lo v := by
  simp only [setFld, BitVec.toNat_ofNat]
  exact Nat.mod_eq_of_lt (putBits_lt _ _ _ _ h w.isLt h32)

/-- A field reads as written. -/
theorem fld_setFld_self (w : Word) (hi lo v : Nat) (h : lo ≤ hi) (h32 : hi < 32) :
    fld (setFld w hi lo v) hi lo = v % 2 ^ (hi + 1 - lo) := by
  rw [fld, setFld_toNat w hi lo v h h32, bits_putBits_self _ _ _ _ h]

/-- The bits of a number with a field replaced: inside the field those written, outside as before. -/
theorem testBit_putBits (w hi lo v i : Nat) (h : lo ≤ hi) :
    (putBits w hi lo v).testBit i = if lo ≤ i ∧ i ≤ hi then v.testBit (i - lo) else w.testBit i := by
  have e : 2 ^ (hi + 1) = 2 ^ lo * 2 ^ (hi + 1 - lo) := by rw [← pow_add]; congr 1; omega
  have h1 : w % 2 ^ lo < 2 ^ lo := Nat.mod_lt _ (by positivity)
  rw [putBits_eq w hi lo v h]
  have : w % 2 ^ lo + v % 2 ^ (hi + 1 - lo) * 2 ^ lo + w / 2 ^ (hi + 1) * 2 ^ (hi + 1)
      = 2 ^ lo * (2 ^ (hi + 1 - lo) * (w / 2 ^ (hi + 1)) + v % 2 ^ (hi + 1 - lo)) + w % 2 ^ lo := by rw [e]; ring
  rw [this, Nat.testBit_two_pow_mul_add _ h1]
  by_cases hi1 : i < lo
  · simp only [hi1, if_true]
    rw [if_neg (by omega), Nat.testBit_mod_two_pow]; simp [hi1]
  · simp only [hi1, if_false]
    rw [Nat.testBit_two_pow_mul_add _ (Nat.mod_lt _ (by positivity))]
    by_cases hi2 : i ≤ hi
    · rw [if_pos (by omega), if_pos ⟨by omega, hi2⟩, Nat.testBit_mod_two_pow]; simp; omega
    · rw [if_neg (by omega), if_neg (by omega), Nat.testBit_div_two_pow]; congr 1; omega

theorem testBit_bits (v hi lo i : Nat) : (bits v hi lo).testBit i = (decide (i < hi + 1 - lo) && v.testBit (lo + i)) := by
  rw [bits_eq, Nat.testBit_mod_two_pow, Nat.testBit_div_two_pow, Nat.add_comm lo i]

/-- A field that does not meet the one written reads as before. -/
theorem fld_setFld_ne (w : Word) (hi lo v hi' lo' : Nat) (h : lo ≤ hi) (h32 : hi < 32) (hd : hi' < lo ∨ hi < lo') :
    fld (setFld w hi lo v) hi' lo' = fld w hi' lo' := by
  rw [fld, setFld_toNat w hi lo v h h32, fld]
  apply Nat.eq_of_testBit_eq
  intro i
  rw [testBit_bits, testBit_bits, testBit_putBits _ _ _ _ _ h]
  by_cases hi1 : i < hi' + 1 - lo'
  · rw [if_neg (by omega)]
  · simp [hi1]

theorem wbit_setFld (w : Word) (hi lo v i : Nat) (h : lo ≤ hi) (h32 : hi < 32) :
    wbit (setFld w hi lo v) i = if lo ≤ i ∧ i ≤ hi then v.testBit (i - lo) else wbit w i := by
  rw [wbit, setFld_toNat w hi lo v h h32, testBit_putBits _ _ _ _ _ h, wbit]

theorem wbit_setBit_self (w : Word) (i : Nat) (b : Bool) (h : i < 32) : wbit (setBit w i b) i = b := by
  rw [setBit, wbit_setFld _ _ _ _ _ (Nat.le_refl i) h]; cases b <;> simp

theorem wbit_setBit_ne (w : Word) (i j : Nat) (b : Bool) (h : i < 32) (hj : j ≠ i) : wbit (setBit w i b) j = wbit w j := by
  rw [setBit, wbit_setFld _ _ _ _ _ (Nat.le_refl i) h, if_neg (by omega)]

/-! ### Registers -/

@[simp] theorem regGet_regSet_self (x : Slice) (b o : Nat) (v : Word) : regGet (regSet x b o v) b o = v := by
  simp [regGet, regSet, sFind_sPut_self]

theorem regGet_regSet_ne (x : Slice) (b o b' o' : Nat) (v : Word) (h : regKey b' o' ≠ regKey b o) :
    regGet (regSet x b o v) b' o' = regGet x b' o' := by
  simp [regGet, regSet, sFind_sPut_ne _ _ _ h]

/-- Two registers with offsets inside their blocks have one key only if they are one register. -/
theorem regKey_ne {b o b' o' : Nat} (ho : o < 0x100000) (ho' : o' < 0x100000) (h : b' ≠ b ∨ o' ≠ o) :
    regKey b' o' ≠ regKey b o := by
  unfold regKey; omega

@[simp] theorem regFld_regSet_self (x : Slice) (b o hi lo : Nat) (v : Word) : regFld (regSet x b o v) b o hi lo = fld v hi lo := by
  simp [regFld]

@[simp] theorem regBit_regSet_self (x : Slice) (b o i : Nat) (v : Word) : regBit (regSet x b o v) b o i = wbit v i := by
  simp [regBit]

@[simp] theorem regGet_regPut_self (x : Slice) (b o hi lo v : Nat) :
    regGet (regPut x b o hi lo v) b o = setFld (regGet x b o) hi lo v := by simp [regPut]

theorem regGet_regPut_ne (x : Slice) (b o b' o' hi lo v : Nat) (h : regKey b' o' ≠ regKey b o) :
    regGet (regPut x b o hi lo v) b' o' = regGet x b' o' := regGet_regSet_ne x b o b' o' _ h

theorem regFld_regPut_self (x : Slice) (b o hi lo v : Nat) (h : lo ≤ hi) (h32 : hi < 32) :
    regFld (regPut x b o hi lo v) b o hi lo = v % 2 ^ (hi + 1 - lo) := by
  simp [regFld, fld_setFld_self _ _ _ _ h h32]

theorem regFld_regPut_other (x : Slice) (b o hi lo hi' lo' v : Nat) (h : lo ≤ hi) (h32 : hi < 32) (hd : hi' < lo ∨ hi < lo') :
    regFld (regPut x b o hi lo v) b o hi' lo' = regFld x b o hi' lo' := by
  simp [regFld, fld_setFld_ne _ _ _ _ _ _ h h32 hd]

theorem regFld_regPut_ne (x : Slice) (b o b' o' hi lo hi' lo' v : Nat) (h : regKey b' o' ≠ regKey b o) :
    regFld (regPut x b o hi lo v) b' o' hi' lo' = regFld x b' o' hi' lo' := by
  simp [regFld, regGet_regPut_ne x b o b' o' hi lo v h]

theorem regBit_regPut_self (x : Slice) (b o i v : Nat) (h32 : i < 32) :
    regBit (regPut x b o i i v) b o i = decide (v % 2 = 1) := by
  simp only [regBit, regGet_regPut_self]
  rw [wbit_setFld _ _ _ _ _ (Nat.le_refl i) h32]
  simp [Nat.testBit_zero]

theorem regBit_setRegBit (x : Slice) (b o i : Nat) (h : i < 32) : regBit (setRegBit x b o i) b o i = true := by
  rw [setRegBit, regBit_regPut_self _ _ _ _ _ h]; rfl

theorem regBit_clrRegBit (x : Slice) (b o i : Nat) (h : i < 32) : regBit (clrRegBit x b o i) b o i = false := by
  rw [clrRegBit, regBit_regPut_self _ _ _ _ _ h]; rfl

@[simp] theorem regSet_id (x : Slice) (b o : Nat) (v : Word) : (regSet x b o v).id = x.id := rfl
@[simp] theorem regPut_id (x : Slice) (b o hi lo v : Nat) : (regPut x b o hi lo v).id = x.id := rfl

/-! ### Operations that change registers only -/

/-- An operation's result differs from its argument in registers only. -/
def RegsOnly (x y : Slice) : Prop := ∃ r, y = x.setRegs r

theorem RegsOnly.refl (x : Slice) : RegsOnly x x := ⟨x.regs, (setRegs_self x).symm⟩

theorem RegsOnly.trans {x y z : Slice} (h : RegsOnly x y) (g : RegsOnly y z) : RegsOnly x z := by
  obtain ⟨r, rfl⟩ := h
  obtain ⟨q, rfl⟩ := g
  exact ⟨q, setRegs_setRegs x r q⟩

theorem regsOnly_regSet (x : Slice) (b o : Nat) (v : Word) : RegsOnly x (regSet x b o v) := ⟨_, rfl⟩

theorem regsOnly_regPut (x : Slice) (b o hi lo v : Nat) : RegsOnly x (regPut x b o hi lo v) := ⟨_, rfl⟩

theorem regsOnly_pairSet (x : Slice) (b o v : Nat) : RegsOnly x (pairSet x b o v) :=
  (regsOnly_regSet x b o _).trans (regsOnly_regSet _ b _ _)

theorem regsOnly_count (x : Slice) (b o n : Nat) : RegsOnly x (count x b o n) := regsOnly_pairSet x b o _

theorem regsOnly_raiseSrc (x : Slice) (n : Nat) : RegsOnly x (raiseSrc x n) := by
  unfold raiseSrc
  split
  · exact regsOnly_count ..
  · exact regsOnly_regPut ..

theorem regsOnly_raise (x : Slice) (b c : Nat) : RegsOnly x (raise x b c) := regsOnly_raiseSrc x _

theorem regsOnly_flagRaise (x : Slice) (b o i c : Nat) : RegsOnly x (flagRaise x b o i c) := by
  unfold flagRaise
  split
  · exact RegsOnly.refl x
  · exact (regsOnly_regPut x b o i i 1).trans (regsOnly_raise _ b c)

theorem regsOnly_postDrop (x : Slice) (b o : Nat) : RegsOnly x (postDrop x b o) := by
  unfold postDrop
  refine RegsOnly.trans ?_ (regsOnly_raise _ b 15)
  split
  · exact RegsOnly.refl x
  · exact (regsOnly_regPut x b _ _ _ _).trans (regsOnly_regPut _ b _ _ _ _)

/-- Raising a cause leaves every register outside ICN. -/
theorem regGet_raise (x : Slice) (b c b' o' : Nat) (h : b' < 17 ∨ 18 ≤ b') (ho' : o' < 0x100000) (hc : b * 16 + c < 512) :
    regGet (raise x b c) b' o' = regGet x b' o' := by
  have hs : (b * 16 + c) / 32 < 16 := by omega
  have hk : ∀ o, o < 0x100000 → regKey b' o' ≠ regKey kICN o := fun o ho => regKey_ne ho ho' (Or.inl (by show b' ≠ 17; omega))
  unfold raise raiseSrc
  split
  · simp only [count, pairSet]
    rw [regGet_regSet_ne _ _ _ _ _ _ (hk _ (by norm_num)), regGet_regSet_ne _ _ _ _ _ _ (hk _ (by norm_num))]
  · simp only [setPending]
    rw [regGet_regPut_ne _ _ _ _ _ _ _ _ (hk _ (by omega))]

/-! ### Pairs and counters -/

theorem pairGet_pairSet (x : Slice) (b o v : Nat) (h : v < 2 ^ 64) : pairGet (pairSet x b o v) b o = v := by
  have hk : regKey b o ≠ regKey b (o + 4) := by unfold regKey; omega
  simp only [pairGet, pairSet, regGet_regSet_self]
  rw [regGet_regSet_ne _ _ _ _ _ _ hk, regGet_regSet_self]
  simp only [w32, BitVec.toNat_ofNat, Nat.shiftRight_eq_div_pow]
  have : v / 2 ^ 32 < 2 ^ 32 := by rw [Nat.div_lt_iff_lt_mul (by norm_num)]; omega
  rw [Nat.mod_eq_of_lt this]
  omega

theorem pairGet_lt (x : Slice) (b o : Nat) : pairGet x b o < 2 ^ 64 := by
  have h1 := (regGet x b (o + 4)).isLt
  have h2 := (regGet x b o).isLt
  unfold pairGet; omega

/-- A 64-bit counter wraps. -/
theorem pairGet_count (x : Slice) (b o n : Nat) : pairGet (count x b o n) b o = (pairGet x b o + n) % 2 ^ 64 := by
  have hk : regKey b o ≠ regKey b (o + 4) := by unfold regKey; omega
  simp only [count, pairGet, pairSet, regGet_regSet_self]
  rw [regGet_regSet_ne _ _ _ _ _ _ hk, regGet_regSet_self]
  simp only [w32, BitVec.toNat_ofNat, Nat.shiftRight_eq_div_pow]
  omega

/-! ### Tables -/

theorem tabKey_inj {t i w t' i' w' : Nat} (hi : i < 2 ^ 24) (hi' : i' < 2 ^ 24) (hw : w < 64) (hw' : w' < 64)
    (h : tabKey t i w = tabKey t' i' w') : t = t' ∧ i = i' ∧ w = w' := by
  unfold tabKey at h; omega

@[simp] theorem tabGet_tabSet_self (x : Slice) (t i w : Nat) (v : Word) : tabGet (tabSet x t i w v) t i w = v := by
  simp [tabGet, tabSet]

theorem tabGet_tabSet_ne (x : Slice) (t i w t' i' w' : Nat) (v : Word) (h : tabKey t' i' w' ≠ tabKey t i w) :
    tabGet (tabSet x t i w v) t' i' w' = tabGet x t' i' w' := by
  simp [tabGet, tabSet, sGet_sPut_ne _ _ _ h]

/-! ### Slices -/

@[simp] theorem slice_setSlice_self (s : State) (sl : SliceId) (x : Slice) : (s.setSlice sl x).slice sl = x := by
  simp [State.slice, State.setSlice]

theorem slice_setSlice_ne (s : State) (sl n : SliceId) (x : Slice) (h : n ≠ sl) : (s.setSlice sl x).slice n = s.slice n := by
  have : sl.val ≠ n.val := fun e => h (Fin.ext e.symm)
  simp [State.slice, State.setSlice, Vector.getElem_set_ne _ _ this]

@[simp] theorem setSlice_hub (s : State) (sl : SliceId) (x : Slice) : (s.setSlice sl x).hub = s.hub := rfl
@[simp] theorem setSlice_pending (s : State) (sl : SliceId) (x : Slice) : (s.setSlice sl x).pending = s.pending := rfl
@[simp] theorem setSlice_slice (s : State) (sl : SliceId) : s.setSlice sl (s.slice sl) = s := by
  simp [State.slice, State.setSlice]

theorem twin_ne (sl : SliceId) : twin sl ≠ sl := by revert sl; decide

@[simp] theorem twin_twin (sl : SliceId) : twin (twin sl) = sl := by revert sl; decide

@[simp] theorem deliver_hub (s : State) (sl : SliceId) (ms : List TwinMsg) : (s.deliver sl ms).hub = s.hub := rfl
@[simp] theorem deliver_pending (s : State) (sl : SliceId) (ms : List TwinMsg) : (s.deliver sl ms).pending = s.pending := rfl

theorem slice_deliver_ne (s : State) (sl n : SliceId) (ms : List TwinMsg) (h : n ≠ sl) : (s.deliver sl ms).slice n = s.slice n :=
  slice_setSlice_ne s sl n _ h

@[simp] theorem slice_deliver_self (s : State) (sl : SliceId) (ms : List TwinMsg) :
    (s.deliver sl ms).slice sl = (s.slice sl).receives ms := slice_setSlice_self s sl _

/-! ### Commands on one slice -/

theorem onSlice_next (sl : SliceId) (f : Slice → Slice) (s : State) :
    onSlice sl f s = .next (s.setSlice sl (f (s.slice sl))) := rfl

theorem onStarted_on (sl : SliceId) (f : Slice → Slice) (s : State) (h : (s.slice sl).on = true) :
    onStarted sl f s = .next (s.setSlice sl (f (s.slice sl))) := by simp [onStarted, onSlice, h]

theorem onStarted_off (sl : SliceId) (f : Slice → Slice) (s : State) (h : (s.slice sl).on = false) :
    onStarted sl f s = .next s := by simp [onStarted, onSlice, h]

theorem onAlive_alive (sl : SliceId) (f : Slice → Slice) (s : State) (h : (s.slice sl).alive = true) :
    onAlive sl f s = .next (s.setSlice sl (f (s.slice sl))) := by simp [onAlive, onSlice, h]

theorem onAlive_not (sl : SliceId) (f : Slice → Slice) (s : State) (h : (s.slice sl).alive = false) :
    onAlive sl f s = .next s := by simp [onAlive, onSlice, h]

/-- A command on one slice answers a state in which only that slice may differ. -/
theorem onStarted_frame (sl : SliceId) (f : Slice → Slice) (s : State) :
    ∃ x, onStarted sl f s = .next (s.setSlice sl x) := ⟨_, rfl⟩

theorem onAlive_frame (sl : SliceId) (f : Slice → Slice) (s : State) :
    ∃ x, onAlive sl f s = .next (s.setSlice sl x) := ⟨_, rfl⟩

end Sys2Proof.Machine
end

