-- ==== Sys2Proof/Laws/Hub.lean ====
section
/-! SUPPORT. The hub's targets and events: what queueing an event changes. -/

namespace Sys2Proof.Machine

theorem length_setNth {α : Type} (l : List α) (i : Nat) (a : α) : (setNth l i a).length = l.length := by
  induction l generalizing i with
  | nil => rfl
  | cons b l ih => cases i <;> simp [setNth, ih]

theorem getElem?_setNth_self {α : Type} (l : List α) (i : Nat) (a : α) (h : i < l.length) : (setNth l i a)[i]? = some a := by
  induction l generalizing i with
  | nil => simp at h
  | cons b l ih =>
    cases i with
    | zero => rfl
    | succ i => simp only [List.length_cons] at h; simpa [setNth] using ih i (by omega)

theorem getElem?_setNth_ne {α : Type} (l : List α) (i j : Nat) (a : α) (h : j ≠ i) : (setNth l i a)[j]? = l[j]? := by
  induction l generalizing i j with
  | nil => rfl
  | cons b l ih =>
    cases i with
    | zero => cases j with
      | zero => exact absurd rfl h
      | succ j => rfl
    | succ i => cases j with
      | zero => rfl
      | succ j => simpa [setNth] using ih i j (by omega)

theorem mem_setNth {α : Type} {l : List α} {i : Nat} {a b : α} (h : b ∈ setNth l i a) : b = a ∨ b ∈ l := by
  induction l generalizing i with
  | nil => simp [setNth] at h
  | cons c l ih =>
    cases i with
    | zero => simp only [setNth, List.mem_cons] at h ⊢; tauto
    | succ i =>
      simp only [setNth, List.mem_cons] at h ⊢
      rcases h with h | h
      · exact Or.inr (Or.inl h)
      · rcases ih h with h | h <;> tauto

theorem map_setNth_of {α β : Type} (f : α → β) (l : List α) (i : Nat) (a : α) (h : ∀ b, l[i]? = some b → f a = f b) :
    (setNth l i a).map f = l.map f := by
  induction l generalizing i with
  | nil => rfl
  | cons b l ih =>
    cases i with
    | zero => simp [setNth, h b rfl]
    | succ i => simp only [setNth, List.map_cons]; rw [ih i fun c hc => h c (by simpa using hc)]

/-! ### Targets -/

theorem tgt_setTgt_self (h : Hub) (n : Nat) (t : HubSlice) (hl : h.slices.length = 8) : (h.setTgt n t).tgt n = t := by
  unfold Hub.setTgt Hub.tgt
  split
  · rw [getElem?_setNth_self _ _ _ (by omega)]; rfl
  · rfl

theorem tgt_setTgt_ne (h : Hub) (n m : Nat) (t : HubSlice) (hm : m ≤ 8) (hn : n ≤ 8) (hne : m ≠ n) :
    (h.setTgt n t).tgt m = h.tgt m := by
  unfold Hub.setTgt Hub.tgt
  by_cases h8 : n < 8
  · by_cases h8' : m < 8
    · simp only [h8, h8', if_true]; rw [getElem?_setNth_ne _ _ _ _ hne]
    · simp only [h8, h8', if_true, if_false]
  · by_cases h8' : m < 8
    · simp only [h8, h8', if_true, if_false]
    · omega

/-- A change of a target leaves the rest of the hub. -/
theorem setTgt_frame (h : Hub) (n : Nat) (t : HubSlice) :
    ∃ l u, h.setTgt n t = { h with slices := l, hubTgt := u } ∧ l.length = h.slices.length := by
  unfold Hub.setTgt
  split
  · exact ⟨_, h.hubTgt, rfl, length_setNth _ _ _⟩
  · exact ⟨h.slices, t, rfl, rfl⟩

/-! ### Events -/

theorem bumpOut_frame (h : Hub) (id : Nat) :
    ∃ ss, h.bumpOut id = { h with sessions := ss } ∧ ss.map sesKey = h.sessions.map sesKey := by
  refine ⟨_, rfl, ?_⟩
  rw [List.map_map]
  apply List.map_congr_left
  intro s _
  simp only [Function.comp]
  split <;> rfl

theorem sendEvent_frame (h : Hub) (n : Nat) (e : EventRec) :
    ∃ ss cs fs, h.sendEvent n e = ({ e with copies := cs }, { h with sessions := ss, tx := fs })
      ∧ ss.map sesKey = h.sessions.map sesKey := by
  unfold Hub.sendEvent
  generalize h.sessions.filter (·.target = n) = l
  suffices H : ∀ (l : List Session) (e : EventRec) (h : Hub), ∃ ss cs fs,
      l.foldl (fun (r : EventRec × Hub) s => ({ r.1 with copies := r.1.copies ++ [(s.id, s.out + 1, 0)] },
          (r.2.bumpOut s.id).queueTx s.target (r.2.sessionBytes s (eventFrame s.id (s.out + 1) e)))) (e, h)
        = ({ e with copies := cs }, { h with sessions := ss, tx := fs }) ∧ ss.map sesKey = h.sessions.map sesKey from H l e h
  intro l
  induction l with
  | nil => intro e h; exact ⟨h.sessions, e.copies, h.tx, rfl, rfl⟩
  | cons a l ih =>
    intro e h
    obtain ⟨ss, hb, hk⟩ := bumpOut_frame h a.id
    simp only [List.foldl_cons, hb]
    obtain ⟨ss', cs', fs', he, hk'⟩ := ih { e with copies := e.copies ++ [(a.id, a.out + 1, 0)] }
      (({ h with sessions := ss }).queueTx a.target (h.sessionBytes a (eventFrame a.id (a.out + 1) e)))
    exact ⟨ss', cs', fs', he, hk'.trans hk⟩

/-- What queueing an event changes: the hub's counter of free values, the sessions' SEQ numbers, the frames
to be sent, and the queue of its target, which takes the event or counts it as lost. -/
theorem event_frame (h : Hub) (n c sl : Nat) (d : Dword) :
    ∃ f ss fs t, h.event n c sl d = ({ h with free := f, sessions := ss, tx := fs }).setTgt n t ∧ ss.map sesKey = h.sessions.map sesKey
      ∧ t = { h.tgt n with events := t.events, evLost := t.evLost }
      ∧ (256 ≤ (h.tgt n).events.length ∧ t.events = (h.tgt n).events ∧ t.evLost = (h.tgt n).evLost + 1
        ∨ (h.tgt n).events.length < 256 ∧ t.evLost = (h.tgt n).evLost
          ∧ ∃ e, e.code = c ∧ e.slice = sl ∧ e.data = d ∧ t.events = (h.tgt n).events ++ [e]) := by
  unfold Hub.event
  split
  · next hf =>
    exact ⟨h.free, h.sessions, h.tx, _, rfl, rfl, rfl, Or.inl ⟨hf, rfl, rfl⟩⟩
  · next hf =>
    obtain ⟨ss, cs, fs, he, hk⟩ := sendEvent_frame h.freeD.2 n ⟨c, sl, h.freeD.1, d, []⟩
    simp only [he]
    refine ⟨h.free + 1, ss, fs, _, rfl, hk, rfl, Or.inr ⟨by omega, rfl, _, rfl, rfl, rfl, rfl⟩⟩

end Sys2Proof.Machine
end

