-- ==== Sys2Proof/Laws/Frames.lean ====
section
/-! SUPPORT. Frames of the shared operations, and commands on one slice. -/

namespace Sys2Proof.Machine

/-! ### Registers -/

theorem RegsBut.refl (x : Slice) (ks : List (Nat × Nat)) : RegsBut x x ks := fun _ _ _ _ => rfl

theorem RegsBut.mono {x y : Slice} {ks ls : List (Nat × Nat)} (h : RegsBut x y ks) (hs : ks ⊆ ls) : RegsBut x y ls :=
  fun b o ho hn => h b o ho fun hm => hn (hs hm)

theorem RegsBut.trans {x y z : Slice} {ks : List (Nat × Nat)} (h : RegsBut x y ks) (g : RegsBut y z ks) : RegsBut x z ks :=
  fun b o ho hn => (g b o ho hn).trans (h b o ho hn)

/-- The reads of registers depend on the slice's number and register contents alone. -/
theorem regsBut_of_eq {x y z : Slice} {ks : List (Nat × Nat)} (h : RegsBut x y ks) (hr : z.regs = y.regs) (hi : z.id = y.id) :
    RegsBut x z ks := fun b o ho hn => by
  rw [← h b o ho hn]; simp [regGet, hr, hi]

theorem regsBut_regSet {x y : Slice} {ks : List (Nat × Nat)} (h : RegsBut x y ks) (b o : Nat) (v : Word) (ho : o < 0x100000)
    (hm : (b, o) ∈ ks) : RegsBut x (regSet y b o v) ks := fun b' o' ho' hn => by
  rw [regGet_regSet_ne _ _ _ _ _ _ (regKey_ne ho ho' ?_), h b' o' ho' hn]
  by_contra hc
  push Not at hc
  exact hn (by rw [hc.1, hc.2]; exact hm)

theorem regsBut_regPut {x y : Slice} {ks : List (Nat × Nat)} (h : RegsBut x y ks) (b o hi lo v : Nat) (ho : o < 0x100000)
    (hm : (b, o) ∈ ks) : RegsBut x (regPut y b o hi lo v) ks := regsBut_regSet h b o _ ho hm

theorem regsBut_pairSet {x y : Slice} {ks : List (Nat × Nat)} (h : RegsBut x y ks) (b o v : Nat) (ho : o + 4 < 0x100000)
    (hm : (b, o) ∈ ks) (hm' : (b, o + 4) ∈ ks) : RegsBut x (pairSet y b o v) ks :=
  regsBut_regSet (regsBut_regSet h b o _ (by omega) hm) b (o + 4) _ ho hm'

theorem regsBut_count {x y : Slice} {ks : List (Nat × Nat)} (h : RegsBut x y ks) (b o n : Nat) (ho : o + 4 < 0x100000)
    (hm : (b, o) ∈ ks) (hm' : (b, o + 4) ∈ ks) : RegsBut x (count y b o n) ks := regsBut_pairSet h b o _ ho hm hm'

/-- A raise changes the registers of `raiseKeys` alone. -/
theorem regsBut_raise {x y : Slice} {ks : List (Nat × Nat)} (h : RegsBut x y ks) (b c : Nat) (hb : b * 16 + c < 0x10000)
    (hm : raiseKeys b c ⊆ ks) : RegsBut x (raise y b c) ks := by
  have h1 : (kICN, 0x800 + 4 * ((b * 16 + c) / 32)) ∈ ks := hm (by simp [raiseKeys])
  have h2 : (kICN, 0x2000) ∈ ks := hm (by simp [raiseKeys])
  have h3 : (kICN, 0x2004) ∈ ks := hm (by simp [raiseKeys])
  unfold raise raiseSrc
  split
  · exact regsBut_count h _ _ _ (by norm_num) h2 h3
  · exact regsBut_regPut h _ _ _ _ _ (by omega) h1

theorem regsBut_flagRaise {x y : Slice} {ks : List (Nat × Nat)} (h : RegsBut x y ks) (b o i c : Nat) (ho : o < 0x100000)
    (hb : b * 16 + c < 0x10000) (hm : (b, o) ∈ ks) (hk : raiseKeys b c ⊆ ks) : RegsBut x (flagRaise y b o i c) ks := by
  unfold flagRaise
  split
  · exact h
  · exact regsBut_raise (regsBut_regPut h _ _ _ _ _ ho hm) _ _ hb hk

theorem RegsOnly.but {x y : Slice} {ks : List (Nat × Nat)} (h : RegsOnly x y) (hb : RegsBut x y ks) : RegsOnlyBut x y ks := ⟨h, hb⟩

/-! ### Commands -/

theorem Runs.intro {c : Instr} {s t : State} {P : State → Prop} (h : exec c s = .next t) (hp : P t) : Runs c s P := ⟨t, h, hp⟩

theorem RunsHub.intro {c : Instr} {s : State} {h : Hub} {P : Hub → Prop} (e : exec c s = .next { s with hub := h }) (hp : P h) :
    RunsHub c s P := ⟨h, e, hp⟩

theorem RunsOn.intro {c : Instr} {s : State} {sl : SliceId} {y : Slice} {P : Slice → Prop}
    (e : exec c s = .next (s.setSlice sl y)) (hp : P y) : RunsOn c s sl P := ⟨y, e, hp⟩

theorem runsHub_onHub {c : Instr} {s : State} {f : Hub → Hub} {P : Hub → Prop} (h : exec c s = onHub f s) (hp : P (f s.hub)) :
    RunsHub c s P := ⟨_, h, hp⟩

theorem runsOn_onSlice {c : Instr} {s : State} {sl : SliceId} {f : Slice → Slice} {P : Slice → Prop}
    (h : exec c s = onSlice sl f s) (hp : P (f (s.slice sl))) : RunsOn c s sl P := ⟨_, h, hp⟩

theorem runsOn_onStarted {c : Instr} {s : State} {sl : SliceId} {f : Slice → Slice} {P : Slice → Prop}
    (h : exec c s = onStarted sl f s) (hon : (s.slice sl).on = true) (hp : P (f (s.slice sl))) : RunsOn c s sl P :=
  ⟨_, h.trans (onStarted_on sl f s hon), hp⟩

theorem runsOn_onAlive {c : Instr} {s : State} {sl : SliceId} {f : Slice → Slice} {P : Slice → Prop}
    (h : exec c s = onAlive sl f s) (hon : (s.slice sl).alive = true) (hp : P (f (s.slice sl))) : RunsOn c s sl P :=
  ⟨_, h.trans (onAlive_alive sl f s hon), hp⟩

theorem runsPair_onPair {c : Instr} {s : State} {sl : SliceId} {f : Slice → Slice × List TwinMsg}
    {P : Slice → List TwinMsg → Prop} (h : exec c s = onPair sl f s) (hon : (s.slice sl).on = true)
    (hp : P (f (s.slice sl)).1 (f (s.slice sl)).2) : RunsPair c s sl P :=
  ⟨_, _, by rw [h, onPair, if_pos hon], hp⟩

theorem runsPair_onLink {c : Instr} {s : State} {sl : SliceId} {f : Slice → Slice}
    {P : Slice → List TwinMsg → Prop} (h : exec c s = onLink sl f s) (hon : (s.slice sl).on = true)
    (hp : P (f (s.slice sl)) (sentSince (s.slice sl) (f (s.slice sl)))) : RunsPair c s sl P :=
  runsPair_onPair h hon hp

/-- A command to the time domain is posted while no other write waits, and dropped otherwise. -/
theorem runsOn_timCommand {c : Instr} {s : State} {sl : SliceId} {o : Nat} {v : Slice → Word} {P : Slice → Prop}
    (h : exec c s = timCommand sl o v s) (hon : (s.slice sl).on = true)
    (hf : pendBusy (s.slice sl) kTIM = false →
      P { setRegBit { s.slice sl with posted := (s.slice sl).posted ++ [(kTIM, o, v (s.slice sl))] } kTIM 0x10 31 with bus := .done })
    (hb : pendBusy (s.slice sl) kTIM = true → P { postDrop (s.slice sl) kTIM o with bus := .done }) : RunsOn c s sl P := by
  refine runsOn_onStarted h hon ?_
  unfold postWrites
  split
  · next e => exact hb e
  · next e => exact hf (Bool.eq_false_iff.mpr e)

/-- What a register write that the bus delivers leaves besides the register: _STAT.CHANGED, and the bus. -/
theorem written_frame {x y : Slice} {ks : List (Nat × Nat)} (h : RegsBut x y ks) (b o : Nat) (hm : (b, 8) ∈ ks) :
    ∃ r, written y b o = { y.setRegs r with bus := .done } ∧ RegsBut x (written y b o) ks := by
  unfold written noteReg
  split
  · refine ⟨_, rfl, ?_⟩
    exact regsBut_of_eq (regsBut_regPut h b 8 5 5 1 (by norm_num) hm) rfl rfl
  · exact ⟨y.regs, rfl, regsBut_of_eq h rfl rfl⟩

/-- What a port's accesses to DRAM leave besides its count and the quarters that did not fill 256 bytes. -/
theorem portQuarters_eq (x : Slice) (d : List (Fin 32 × Fin 3)) (wr : Bool) (p q : Nat) :
    ∃ r dp, portQuarters { x with rankDown := d } wr p q = { x with regs := r, drcPart := dp, rankDown := d } := by
  unfold portQuarters
  extract_lets k n
  obtain ⟨r, h⟩ := regsOnly_count { x with rankDown := d, drcPart := sPut 0 x.drcPart k (n % 4) } kDRC
    ((if wr then 0x2068 else 0x2028) + 8 * p) (n / 4)
  exact ⟨r, _, h⟩

/-- What a port's accesses to DRAM change: the port's count, and the ranks they wake. -/
theorem portMoved_frame (x : Slice) (wr : Bool) (p a n : Nat) (hp : p < 8) : PortsMoved x (portMoved x wr p a n) (portKeys wr p) := by
  have hw : ∃ d, wakeRanks x a n = { x with rankDown := d } := by
    unfold wakeRanks
    split
    · exact ⟨x.rankDown, rfl⟩
    · exact ⟨_, rfl⟩
  obtain ⟨d, hd⟩ := hw
  have hr : RegsBut x (portMoved x wr p a n) (portKeys wr p) := by
    unfold portMoved portQuarters
    rw [hd]
    refine regsBut_count (regsBut_of_eq (RegsBut.refl x _) rfl rfl) _ _ _ ?_ ?_ ?_
    · cases wr <;> simp <;> omega
    · simp [portKeys, pairKeys]
    · simp [portKeys, pairKeys]
  obtain ⟨r, dp, h⟩ := portQuarters_eq x d wr p (spanQuarters a n)
  have h' : portMoved x wr p a n = { x with regs := r, drcPart := dp, rankDown := d } := by
    rw [portMoved, hd, h]
  rw [h'] at hr ⊢
  exact ⟨rfl, hr⟩

theorem alive_on {x : Slice} (h : x.alive = true) : x.on = true := by
  have h1 : x.phase = .running := by
    unfold Slice.alive at h
    exact of_decide_eq_true (Bool.and_eq_true _ _ ▸ h).1
  unfold Slice.on
  rw [h1]; rfl

end Sys2Proof.Machine
end

