-- ==== Sys2Proof/Laws/Faults.lean ====
section
/-! SUPPORT. What a fault log entry changes. -/

namespace Sys2Proof.Machine

/-- Registers only, none of them outside FLT and ICN. -/
structure LogOnly (x y : Slice) : Prop where
  regs : RegsOnly x y
  keeps : ∀ b o, o < 0x100000 → b ≠ kFLT → b ≠ kICN → regGet y b o = regGet x b o

theorem LogOnly.refl (x : Slice) : LogOnly x x := ⟨RegsOnly.refl x, fun _ _ _ _ _ => rfl⟩

theorem LogOnly.trans {x y z : Slice} (h : LogOnly x y) (g : LogOnly y z) : LogOnly x z :=
  ⟨h.regs.trans g.regs, fun b o ho h1 h2 => (g.keeps b o ho h1 h2).trans (h.keeps b o ho h1 h2)⟩

theorem logOnly_regSet {x y : Slice} (h : LogOnly x y) (o : Nat) (v : Word) (ho : o < 0x100000) : LogOnly x (regSet y kFLT o v) :=
  h.trans ⟨regsOnly_regSet y kFLT o v, fun _ _ ho' h1 _ => regGet_regSet_ne _ _ _ _ _ _ (regKey_ne ho ho' (Or.inl h1))⟩

theorem logOnly_regPut {x y : Slice} (h : LogOnly x y) (o hi lo v : Nat) (ho : o < 0x100000) : LogOnly x (regPut y kFLT o hi lo v) :=
  logOnly_regSet h o _ ho

theorem logOnly_count {x y : Slice} (h : LogOnly x y) (o n : Nat) (ho : o + 4 < 0x100000) : LogOnly x (count y kFLT o n) :=
  logOnly_regSet (logOnly_regSet h o _ (by omega)) (o + 4) _ ho

theorem logOnly_raise {x y : Slice} (h : LogOnly x y) (b c : Nat) (hb : b * 16 + c < 0x10000) : LogOnly x (raise y b c) :=
  h.trans ⟨regsOnly_raise y b c, fun b' o' ho' _ h2 => by
    refine regsBut_raise (RegsBut.refl y (raiseKeys b c)) b c hb (List.Subset.refl _) b' o' ho' ?_
    simp only [raiseKeys, List.mem_cons, Prod.mk.injEq, List.not_mem_nil, or_false, not_or]
    exact ⟨fun e => h2 e.1, fun e => h2 e.1, fun e => h2 e.1⟩⟩

theorem logOnly_flagRaise {x y : Slice} (h : LogOnly x y) (o i c : Nat) (ho : o < 0x100000) (hc : c < 16) :
    LogOnly x (flagRaise y kFLT o i c) := by
  unfold flagRaise
  split
  · exact h
  · exact logOnly_raise (logOnly_regPut h o i i 1 ho) _ _ (by show 21 * 16 + c < _; omega)

theorem logOnly_fltSlot {x y : Slice} (h : LogOnly x y) (k : Nat) (w0 w1 w2 w3 : Word) (hk : k < 512) :
    LogOnly x (fltSlot y k w0 w1 w2 w3) := by
  unfold fltSlot
  exact logOnly_regSet (logOnly_regSet (logOnly_regSet (logOnly_regSet h _ _ (by omega)) _ _ (by omega)) _ _ (by omega)) _ _
    (by omega)

theorem fltHead_lt (x : Slice) : fltHead x < 512 := by
  unfold fltHead regFld fld bits
  exact Nat.mod_lt _ (by norm_num)

theorem fltOldest_lt {x : Slice} {cls k : Nat} (h : fltOldest x cls = some k) : k < 512 := by
  unfold fltOldest at h
  have := List.mem_of_find?_eq_some h
  simp only [List.mem_map] at this
  obtain ⟨i, -, rfl⟩ := this
  exact Nat.mod_lt _ (by norm_num)

theorem logOnly_fltLostEntry {x y : Slice} (h : LogOnly x y) : LogOnly x (fltLostEntry y) :=
  logOnly_flagRaise (logOnly_count h _ _ (by norm_num)) _ _ _ (by norm_num) (by norm_num)

theorem logOnly_fltStore {x y : Slice} (h : LogOnly x y) (cls : Nat) (w0 w1 w2 w3 : Word) :
    LogOnly x (fltStore y cls w0 w1 w2 w3) := by
  unfold fltStore
  split
  · exact logOnly_regPut (logOnly_regPut (logOnly_fltSlot h _ _ _ _ _ (fltHead_lt y)) _ _ _ _ (by norm_num)) _ _ _ _ (by norm_num)
  · split
    · exact logOnly_fltLostEntry h
    · split
      · next k hk =>
        have : k < 512 := by
          cases hs : fltOldest y fcSoft with
          | some j => rw [hs] at hk; simp only [Option.orElse_some, Option.some.injEq] at hk; exact hk ▸ fltOldest_lt hs
          | none => rw [hs] at hk; exact fltOldest_lt hk
        exact logOnly_fltLostEntry (logOnly_fltSlot h _ _ _ _ _ this)
      · exact logOnly_fltLostEntry h

/-- A fault log entry of a class below LOST changes registers of FLT and ICN, and what the slice has for the hub. -/
theorem faultLog_frame (x : Slice) (cls blk unit code detail : Nat) (hc : cls < 3) :
    ∃ r ns, faultLog x cls blk unit code detail = { x.setRegs r with toHub := x.toHub ++ ns } ∧ LogOnly x (x.setRegs r) := by
  unfold faultLog
  have hl : ¬cls = fcLost := by unfold fcLost; omega
  simp only [hl, if_false]
  generalize hw : w32 (2 ^ 31 + cls * 2 ^ 28 + blk * 2 ^ 16 + unit * 2 ^ 8 + code) = w0
  have h0 := logOnly_fltStore (LogOnly.refl x) cls w0 (w32 (secOf (baseNow x 0))) (w32 (nsOf (baseNow x 0))) (w32 detail)
  generalize fltStore x cls w0 (w32 (secOf (baseNow x 0))) (w32 (nsOf (baseNow x 0))) (w32 detail) = y at h0
  have h1 : LogOnly x (if cls = fcSoft then count y kFLT 0x1008 1 else if cls = fcSpared then count y kFLT 0x1010 1
    else if cls = fcDegraded then count y kFLT 0x1018 1 else y) := by
    split
    · exact logOnly_count h0 _ _ (by norm_num)
    · split
      · exact logOnly_count h0 _ _ (by norm_num)
      · split
        · exact logOnly_count h0 _ _ (by norm_num)
        · exact h0
  generalize (if cls = fcSoft then count y kFLT 0x1008 1 else if cls = fcSpared then count y kFLT 0x1010 1
    else if cls = fcDegraded then count y kFLT 0x1018 1 else y) = z at h1
  have h2 := logOnly_raise h1 kFLT 0 (by norm_num)
  generalize raise z kFLT 0 = u at h2
  have h3 : LogOnly x (if cls = fcSpared then raise u kFLT 1 else if cls = fcDegraded then raise u kFLT 2 else u) := by
    split
    · exact logOnly_raise h2 _ _ (by norm_num)
    · split
      · exact logOnly_raise h2 _ _ (by norm_num)
      · exact h2
  generalize (if cls = fcSpared then raise u kFLT 1 else if cls = fcDegraded then raise u kFLT 2 else u) = v at h3
  obtain ⟨r, rfl⟩ := h3.regs
  split
  · exact ⟨r, [], by rw [List.append_nil]; rfl, h3⟩
  · exact ⟨r, _, rfl, h3⟩

end Sys2Proof.Machine
end

