-- ==== Sys2Proof/Tests/Slice0.lean ====
section
/-! SUPPORT. Tests of single operations against the spec, the smoke test of well-formedness, and for every statement with
hypotheses a witness that states meet them. -/

namespace Sys2Proof.Tests

set_option Elab.async false

open Sys2Proof Sys2Proof.Machine

/-! ### Small states -/

/-- A slice 0 that runs. -/
def x0 : Slice := Slice.blank 0 .running

/-- A slice with registers written. -/
def wr (x : Slice) (l : List (Nat × Nat × Word)) : Slice := l.foldl (fun x r => regSet x r.1 r.2.1 r.2.2) x

/-- A hub that runs with the charter in force empty. -/
def h0 : Hub := { Hub.reset with felt := true, powered := true, phase := .running }

/-- The part with a slice 0 and a hub. -/
def st (x : Slice) (h : Hub) : State := { State.reset.setSlice 0 x with hub := h }

/-- A state is put together from its slice 0 and its hub, so that hypotheses are shown of the two. -/
theorem st_slice (x : Slice) (h : Hub) : (st x h).slice 0 = x ∧ (st x h).hub = h := by simp [st, State.slice, State.setSlice]


/-- Twill fields all zero but D, A, B, MOD and IMM. -/
def tf (d a b : BitVec 5) (m : BitVec 4) (i : Word) : TwFields := ⟨false, 0, false, d, a, b, m, i⟩

/-! ### Well-formedness: for every check a command that it refuses, and one beside it that it takes -/

theorem smoke_twill : (Instr.twPop 0 0 (tf 0 0 0 5 0)).wf = false ∧ (Instr.twPop 0 0 (tf 0 0 0 4 1)).wf = true
    ∧ (Instr.twEnd 0 0 (tf 1 0 0 0 0)).wf = false ∧ (Instr.fctlSync 0 0 (tf 0 0 0 0 1)).wf = false
    ∧ (Instr.fctlDset 0 0 (tf 0 0 0 9 0xFFFC)).wf = true ∧ (Instr.twAdd 0 0 { tf 1 2 3 0 0 with ps := true }).wf = false
    ∧ (Instr.twAdd 0 0 { tf 1 2 3 0 0 with pe := true, ps := true }).wf = true := by decide

theorem smoke_operands : (Instr.mgtFrameReceive (List.replicate 13 0)).wf = false
    ∧ (Instr.mgtFrameReceive (List.replicate 14 0)).wf = true ∧ (Instr.mgtFrameTransmit 0 []).wf = false
    ∧ (Instr.frameReceive 0 0 [] true).wf = false ∧ (Instr.frameReceive 0 0 [1] true).wf = true
    ∧ (Instr.overheadReceive 0 0 0 ⟨true, 0, 0, 0, 0, [⟨false, 0⟩]⟩).wf = false
    ∧ (Instr.overheadReceive 0 0 0 ⟨true, 0, 0, 0, 0, []⟩).wf = true
    ∧ (Instr.trap 0 0 7 0).wf = false ∧ (Instr.trap 0 0 0 0).wf = false ∧ (Instr.trap 0 0 6 0).wf = true
    ∧ (Instr.lockTimeout 0 .l2 131072).wf = false ∧ (Instr.lockTimeout 0 .endpoint 131072).wf = true
    ∧ (Instr.cellFault 0 196608).wf = false ∧ (Instr.cellFault 0 196607).wf = true := by decide +kernel

theorem smoke_frames : (Instr.claim []).wf = false ∧ (Instr.hraOpen (List.replicate 13 0)).wf = false
    ∧ (Instr.hraClose []).wf = false ∧ (Instr.request []).wf = false ∧ (Instr.eventAck []).wf = false
    ∧ ∀ c ∈ [Instr.claim (List.replicate 14 0), .hraOpen (List.replicate 14 0), .hraClose (List.replicate 14 0),
        .request (List.replicate 14 0), .eventAck (List.replicate 14 0)], c.wf = true := by decide +kernel

theorem smoke_addresses : (Instr.registerRead 0 .hra .m (.mem 0x40000002) none).wf = false
    ∧ (Instr.registerRead 0 .hra .m (.mem 0x5000FFFC) none).wf = true ∧ (Instr.registerRead 0 .hra .m (.mem 0x50010000) none).wf = false
    ∧ (Instr.registerRead 0 .hra .m (.csr .cycle) none).wf = false ∧ (Instr.registerRead 0 (.cpu 0) .m (.csr .cycle) none).wf = true
    ∧ (Instr.registerWrite 0 .hra .m (.mem 0x3FFFFFFC) 0).wf = false ∧ (Instr.lowWordRead 0 .hra .m 0x41100104 false).wf = false
    ∧ (Instr.lowWordRead 0 .hra .m 0x41100100 true).wf = true ∧ (Instr.lowWordWrite 0 .hra .m 0x41100104 0 none).wf = false
    ∧ (Instr.highWordWrite 0 .hra .m 0x41100100 0).wf = false ∧ (Instr.highWordWrite 0 .hra .m 0x41100104 0).wf = true
    ∧ (Instr.ringConfigWrite 0 0xB0040C 0).wf = false ∧ (Instr.ringConfigWrite 0 0xB00408 0).wf = true
    ∧ (Instr.onDieWindowWrite 0 0 2 [0, 0, 0, 0]).wf = false ∧ (Instr.onDieWindowWrite 0 0 8 [0, 0, 0]).wf = false
    ∧ (Instr.onDieWindowWrite 0 0 4 [0, 0, 0, 0]).wf = true
    ∧ (Instr.parityScan 0 (some ⟨0x100008, .block, false⟩)).wf = false
    ∧ (Instr.parityScan 0 (some ⟨0x201000, .block, false⟩)).wf = true := by decide

/-! ### Single operations, their results from the spec's formulas and tables -/

/-- R289: the fields of a word, and R293: a nop of zeros. -/
theorem test_word : twWord 0x01 ⟨true, 5, true, 3, 4, 6, 1, 0xFFFFFFFF⟩ = 0x01D8C861FFFFFFFF ∧ twWord 0 (tf 0 0 0 0 0) = 0 := by
  decide

/-- R294: wrap, sign of a shift, the 128-bit product's low half, a compare of signs, and chash of one bucket. -/
theorem test_arithmetic : bextVal (tf 0 0 0 0 0x1F07) 0x12345678_00000000 = 0xF0 ∧ binsVal (tf 0 0 0 0 0x0807) 0xAB 0x1234 = 0xAB34
    ∧ twCond 2 (0 - 1) 0 = true ∧ twCond 4 (0 - 1) 0 = false ∧ taddWord 1 (0 - 1) 5 = 0 - 1
    ∧ taddWord 2 0xFFFFFFFF 1 = 0 ∧ chashVal 12345 1 = 0 := by decide

/-- CRC-32C and the CRC-16 of R160 over the digits 1 to 9: the published check values of these polynomials. -/
theorem test_crcs : crcVal 8 0x3132333435363738 0 ≠ 0 ∧ (crc32cRun 0xFFFFFFFF [0x31, 0x32, 0x33, 0x34, 0x35, 0x36, 0x37, 0x38, 0x39])
    ^^^ 0xFFFFFFFF = 0xE3069283 ∧ crc16Run 0xFFFF [0x31, 0x32, 0x33, 0x34, 0x35, 0x36, 0x37, 0x38, 0x39] = 0x29B1 := by decide +kernel

/-- R392: the 30 logical pseudo-channels in turn, shifted by one after each row of 30 blocks. -/
theorem test_blocks : blockLoc 0 = (0, 0) ∧ blockLoc 29 = (29, 0) ∧ blockLoc 30 = (1, 1) ∧ blockLoc 59 = (0, 1) := by decide

/-- R370: the residual shrinks toward 0 and never crosses it. -/
theorem test_slew : slewed 5 10 = 0 ∧ slewed (-5) 10 = 0 ∧ slewed 25 10 = 15 ∧ slewed (-25) 10 = -15 := by decide

/-- R10: the twins. -/
theorem test_twins : twin 0 = 1 ∧ twin 1 = 0 ∧ twin 6 = 7 ∧ twin 7 = 6 := by decide


/-! ### Witnesses: for every statement with hypotheses, states that meet the hypotheses of its clauses -/

theorem witness_AnEmptyQueueIsOneClock : (st x0 h0).pending = [] ∧ ((st x0 h0).slice 1).on = false ∧ ((st x0 h0).slice 0).on = true
    ∧ napping x0 = false ∧ napping { wr x0 [(kSLC, 0x100, 0x80)] with clk := 31 } = true ∧ h0.tx = [] ∧ h0.answers = true
    ∧ (∀ e ∈ { h0 with tx := [(8, [0])] }.tx, e.1 < 9) ∧ routineRuns (wr x0 [(kMCS, 0x1018, 0)]) 4 = true
    ∧ (x0.passes[4]).due ≤ x0.clk + 1 ∧ (x0.passes[4]).late = false ∧ (x0.passes[4]).done = true
    ∧ ({ x0 with clk := 799999999 } : Slice).clk % 800000000 = 799999999
    ∧ ((seqOf x0 0).inTrap = false ∧ seqState x0 0 ≠ sqTrap) := by decide

theorem reset_limits : State.reset.hub.Limits :=
  ⟨by decide, by decide, fun n => by simp [State.reset, Hub.reset], by decide, by decide, by decide, by decide⟩

theorem witness_StepKeepsHubLimits : ∃ t, State.reset.hub.Limits ∧ step State.reset = .next t := ⟨_, reset_limits, rfl⟩

/-- A hub that waits for its start with one anchor, and a session with the hub. -/
def hOff : Hub := { h0 with phase := .off, anchors := [List.replicate 32 0] }
def ses (n target : Nat) : Session :=
  { id := n, target, mac := List.replicate 6 1, hostKey := (List.range 16).map (BitVec.ofNat 8), hubKey := List.replicate 16 2,
    h := 0, seen := [], cache := [], tagFails := [], out := 0, run := none, waiting := [], lastReply := none }

theorem witness_SupplyAndHubStart : Hub.reset.ov = false ∧ h0.answers = true ∧ h0.warn = false ∧ h0.hubTgt.events.length < 256
    ∧ { h0 with ov := true }.ov = true ∧ hOff.felt = true ∧ hOff.powered = true ∧ hOff.phase = .off ∧ hOff.anchors ≠ []
    ∧ { hOff with anchors := [] }.anchors = [] ∧ (∀ n, (State.reset.slice n).stayActive = false) ∧ hOff.slices.length = 8
    ∧ Hub.reset.powered = false ∧ { hOff with phase := .off }.answers = false ∧ h0.running = true ∧ hOff.running = false
    ∧ (State.reset.slice 1).on = false ∧ chStart (List.replicate 0x163 0 ++ [4]) 0 = true ∧ (hOff.tgt 1).thermal = false
    ∧ (hOff.tgt 1).zeroing = false ∧ x0.on = true ∧ srcOf (wr x0 [(kTIM, 0x1040, 0x40000000)]) 0 0 = 1 ∧ h0.wdCount = 0 ∧ 1 ≤ { h0 with wdCount := 1 }.wdCount
    ∧ { h0 with sessions := [ses 1 8] }.hubSession 1 = true := by decide

theorem witness_StatusAndFeltClock : h0.answers = true ∧ h0.slices.length = 8 ∧ (x0.on && (dozing x0 || inNap x0)) = false
    ∧ pwCur (wr x0 [(kSLC, 0x100, 0x80)]) = 2 ∧ (wr x0 [(kSLC, 0x100, 0x80)]).move = .none ∧ h0.felt = true
    ∧ hubUp (st x0 h0) = true
    ∧ dueIn x0 (500000 * nsUnits, 0) ≤ 500000 * nsUnits ∧ 500000 * nsUnits < dueIn x0 (500001 * nsUnits, 0)
    ∧ ((h0.modTgt 0 fun t => { t with wakes := [(500000 * nsUnits, 0)] }).tgt 0).wakes = [(500000 * nsUnits, 0)]
    ∧ pwCur x0 = 0 := by decide

/-- A slice that is OFF, and a hub whose slice 0 has been asked to start. -/
def xOff : Slice := Slice.blank 0 .off
def hStart : Hub := h0.modTgt 0 fun t => { t with start := true }

/-- The public key whose private key is 1, that is the generator, and its SHA-256. -/
def kG : Bytes := beBytes 64 0x6b17d1f2e12c4247f8bce6e563a440f277037d812deb33a0f4a13945d898c2964fe342e2fe1a7f9b8ee7eb4a7c0f9e162bce33576b315ececbb6406837bf51f5
def fpG : Bytes := beBytes 32 0xd875db7def232236aec738c6b0bb3e80142f5d0fd8f4df24fed6eef5cbb50d9f
def zeros (n : Nat) : Bytes := List.replicate n 0

/-- An image of no payload, version 7, to be loaded at 0x80000000 and entered at 0x80001000, its digest the SHA-256 of nothing;
its signature was made outside the model. -/
def hdr : Bytes := [0x4E, 0x49, 0x4D, 0x47, 0, 1, 0, 0, 0, 0, 0, 7, 0, 0, 0, 0] ++ beBytes 8 0x80000000 ++ beBytes 8 0x80001000
  ++ beBytes 32 0xe3b0c44298fc1c149afbf4c8996fb92427ae41e4649b934ca495991b7852b855 ++ kG
  ++ beBytes 64 0xea68d7b6fedf0b71878938d51d71f8729e0acb8c2c6df8b3d79e8a4b90949ee0a0cbfb69c09fb16f9cd3769fb6d6f9d7f9a4070b876931be7fe2d507b3931fb7
  ++ zeros 64

/-- A hub with a valid image of slice 0 in bank A, owned by that key. -/
def hImg (h : Hub) : Hub := { h.nvmPut (slicePart false 0) hdr with charter := zeros 0x100 ++ fpG ++ zeros 64 ++ [0, 5] }

/-- R66: the signed image is valid, its digest that of an empty payload. -/
theorem test_header : headerValid hdr 0 slicePartSize 0 fpG = true ∧ payloadValid hdr [] = true := by decide +kernel

/-- Bytes programmed in NVM read back from any place within them. -/
theorem nvm_read (h : Hub) (a i n : Nat) (bs : Bytes) (v : Sparse Byte) (e : h.nvm = sPutBytes v a bs) (l : i + n ≤ bs.length) :
    h.nvmGet (a + i) n = (bs.drop i).take n := by
  rw [Hub.nvmGet, e]; exact sGetBytes_sPutBytes v a i n bs l

theorem hImg_header (h : Hub) : (hImg h).sliceHeader false 0 = hdr := by
  have l : hdr.length = 256 := by decide +kernel
  have e := nvm_read (hImg h) (slicePart false 0) 0 256 hdr h.nvm (by simp only [hImg, Hub.nvmPut]) (by rw [l])
  rw [Hub.sliceHeader, ← Nat.add_zero (slicePart false 0), e, List.drop_zero, ← l, List.take_length]

theorem hImg_ok (h : Hub) : (hImg h).sliceImageOk false 0 = true := by
  have c : chMinver (hImg h).charter 0 = 0 ∧ chOwnFp (hImg h).charter 0 = fpG ∧ imgLen hdr = 0 := by
    simp only [hImg]; decide +kernel
  rw [Hub.sliceImageOk, hImg_header, c.1, c.2.1, c.2.2]
  exact Bool.and_eq_true _ _ ▸ ⟨test_header.1, test_header.2⟩

theorem test_file : fileOk (hImg h0) 0 hdr = true ∧ fileOk (hImg h0) 0 (hdr.take 255) = false := by decide +kernel

/-- A hub in which slices 0 and 1 wait for their starts of the power policy. -/
def hTwo : Hub :=
  (h0.modTgt 0 fun t => { t with start := true, policy := true }).modTgt 1 fun t => { t with start := true, policy := true }

theorem witness_SliceStart : (st xOff hStart).slice 0 = xOff ∧ xOff.phase = .off ∧ hStart.running = true ∧ hStart.slices.length = 8
    ∧ (hStart.tgt 0).start = true ∧ (hStart.tgt 0).zeroing = false ∧ ((hStart.tgt 0).thermal && (hStart.tgt 0).hot) = false
    ∧ hStart.warn = false ∧ { hStart with warn := true }.warn = true ∧ bootPlan hStart 0 (regBit xOff kSLC 0x140 14) = []
    ∧ bootPlan (hImg hStart) 0 (regBit xOff kSLC 0x140 14) ≠ []
    ∧ (∃ m < 1, (hTwo.tgt m).start = true ∧ (hTwo.tgt m).policy = true ∧ (hTwo.tgt m).zeroing = false
      ∧ ((hTwo.tgt m).thermal && (hTwo.tgt m).hot) = false) ∧ (hTwo.tgt 1).policy = true ∧ (hTwo.tgt 1).start = true
    ∧ (hStart.tgt 0).policy = false ∧ ¬ ∃ m < 0, (hTwo.tgt m).start = true := by
  have b : bootPlan (hImg hStart) 0 (regBit xOff kSLC 0x140 14) ≠ [] := by
    have e : regBit xOff kSLC 0x140 14 = false := by decide
    have f : ((hImg hStart).tgt 0).active = false ∧ bankMark ((hImg hStart).tgt 0).failed false = false := by simp only [hImg]; decide
    have g : chNetfirst (hImg hStart).charter 0 = false ∧ chNetboot (hImg hStart).charter 0 = false := by simp only [hImg]; decide
    simp [bootPlan, e, f, g, hImg_ok]
  refine ⟨(st_slice _ _).1, rfl, rfl, rfl, ?_⟩
  and_intros
  all_goals first | exact b | decide +kernel

/-- Slices in the phases of a start. -/
def xPh (p : Phase) : Slice := Slice.blank 0 p

theorem witness_SliceBootAndConfirmation : h0.slices.length = 8 ∧ h0.answers = true
    ∧ (xPh (.training [.bank false false])).phase = .training [.bank false false]
    ∧ popCount (0x1FFFFFFF : Word).toNat 32 < 30 ∧ 30 ≤ popCount (0x3FFFFFFF : Word).toNat 32
    ∧ ((hImg h0).tgt 0).events.length < 255 ∧ h0.sliceImageOk false 0 = false ∧ (hImg h0).answers = true
    ∧ chVlan (hImg h0).charter 0 ≠ 0 ∧ (∀ b ∈ [List.replicate 1468 (0 : Byte)], b.length = 1468) ∧ ([] : Bytes).length < 1468
    ∧ hdr.length < 1468 ∧ fileOk (hImg h0) 0 (zeros 1468) = false ∧ chVlan h0.charter 0 = 0
    ∧ x0.phase = .running ∧ regBit x0 kSLC 0x140 15 = false
    ∧ bootBank x0 = some false ∧ bootBank (wr x0 [(kSLC, 0x140, 0x400)]) = none
    ∧ ({ x0 with confirmAt := some 5 } : Slice).confirmAt = some 5 ∧ ({ x0 with confirmAt := some 5 } : Slice).clk < 5
    ∧ 5 ≤ ({ x0 with confirmAt := some 5, clk := 5 } : Slice).clk ∧ (h0.tgt 0).thermal = false ∧ h0.running = true ∧ (h0.tgt 0).started = false
    ∧ ((h0.modTgt 0 fun t => { t with started := true }).tgt 0).started = true ∧ x0.on = true
    ∧ fld (0x1A5 : Word) 7 0 = 0xA5 ∧ fld (0x5A : Word) 7 0 ≠ 0xA5 := by decide +kernel

theorem witness_PowerRequests : h0.felt = true ∧ h0.phase ≠ .off ∧ Hub.reset.felt = false ∧ x0.heldWake = none
    ∧ dueIn x0 (499999 * nsUnits, 0) < 500000 * nsUnits ∧ postedTimes x0 [(0x48, 0x8007A11F)] ≠ []
    ∧ (∃ w ∈ postedTimes x0 [(0x48, 0x8007A11F)], dueIn x0 w < 500000 * nsUnits) ∧ x0.on = true ∧ pwMax x0 < 2 ∧ 2 ≤ pwMax (wr x0 [(kSLC, 0x100, 8)])
    ∧ pwCur (wr x0 [(kSLC, 0x100, 8)]) ≠ 2 ∧ (wr x0 [(kSLC, 0x100, 8)]).move = .none
    ∧ (wr x0 [(kSLC, 0x100, 8)]).stayActive = false ∧ linkIsUp (wr x0 [(kSLC, 0x100, 8)]) = false
    ∧ beingTrained (wr x0 [(kSLC, 0x100, 8)]) = false ∧ pwMax (wr x0 [(kSLC, 0x100, 12)]) = 3 := by decide

/-- A slice that asks for DOZE, its delay 1. -/
def xDoze : Slice := wr x0 [(kSLC, 0x100, 0x10001)]

theorem witness_PowerEntriesAndWakes : h0.felt = true ∧ h0.phase ≠ .off ∧ xDoze.heldWake = none ∧ pwReq xDoze < 2
    ∧ pwReq (wr x0 [(kSLC, 0x100, 2)]) = 2 ∧ linkIsUp (wr x0 [(kSLC, 0x100, 2)]) = false ∧ beingTrained (wr x0 [(kSLC, 0x100, 2)]) = false
    ∧ napping (wr x0 [(kSLC, 0x100, 0x82)]) = true ∧ (∀ u ∈ h0.sessions, ∀ r, u.run = some r → r.ops ≠ []) ∧ xDoze.on = true ∧ pwCur xDoze = 0 ∧ xDoze.move = .none ∧ xDoze.stayActive = false
    ∧ pwReq xDoze = 1 ∧ regFld xDoze kSLC 0x100 23 16 ≠ 0 ∧ dozeQuiet xDoze = true
    ∧ ({ x0 with move := .enterNap } : Slice).on = true ∧ pwCur (wr x0 [(kSLC, 0x100, 0x41)]) = 1
    ∧ pwCur (wr x0 [(kSLC, 0x100, 0x82)]) = 2 ∧ wakesNap (wr x0 [(kSLC, 0x100, 0x82)]) .hostCommand = true
    ∧ WakeCause.hostCommand ≠ .signalDetect ∧ ({ x0 with move := .enterDoze } : Slice).heldWake = none
    ∧ ({ x0 with move := .waking .feltAlarm } : Slice).move = .waking .feltAlarm := by decide

theorem witness_ThermalReadAndPllUnlock : h0.answers = true ∧ x0.on = true ∧ h0.slices.length = 8
    ∧ max (895 : BitVec 16).toInt (0 : BitVec 16).toInt < 896
    ∧ max (max (895 : BitVec 16).toInt (0 : BitVec 16).toInt) (max (0 : BitVec 16).toInt (0 : BitVec 16).toInt) < 896
    ∧ 896 ≤ max (max (896 : BitVec 16).toInt (0 : BitVec 16).toInt) (max (0 : BitVec 16).toInt (0 : BitVec 16).toInt)
    ∧ regFld x0 kSLC 0x110 31 30 = 0 ∧ regBit x0 kSLC 0x110 29 = false ∧ regBit (wr x0 [(kSLC, 0x110, 0x20000000)]) kSLC 0x110 29 = true
    ∧ regBit (wr x0 [(kSLC, 0x120, 0xFFF)]) kSLC 0x120 (0 : Fin 12).val = true
    ∧ regBit (wr x0 [(kSLC, 0x120, 0xFFF)]) kSLC 0x120 (11 : Fin 12).val = true := by decide

theorem witness_MediumClocksAndTestPort : h0.answers = true ∧ Hub.reset.answers = false ∧ { h0 with f10m := true }.f10m = true
    ∧ hubUp (st x0 h0) = true ∧ x0.on = true ∧ srcOf (wr x0 [(kTIM, 0x1040, 0x40000000)]) 0 0 = 1
    ∧ (∀ b < 4, ∀ k < 2, srcOf x0 b k ≠ 1) ∧ chDebug h0.charter 0 = false ∧ chDebug (zeros 0x162 ++ [0x40]) 0 = true
    ∧ h0.trst = true ∧ { h0 with trst := false }.trst = false ∧ h0.slices.length = 8 := by decide +kernel

/-- A plain charter of a serial, every key in it the generator, its other fields 0; its signature was made outside the model. -/
def chart (n : Byte) (sig : Nat) : Bytes :=
  [0x4E, 0x43, 0x48, 0x54, 0, 1, 5, 0x40, 0, 0, 0, 0, 0, 0, 0, n] ++ fpG ++ kG ++ zeros 144
    ++ (List.range 8).flatMap (fun _ => fpG ++ kG ++ zeros 32) ++ beBytes 64 sig

def chart1 : Bytes := chart 1 0x8e533b6fa0bf7b4625bb30667c01fb607ef9f8b8a80fef5b300628703187b2a393c342be03892f5875384b6781829bb7a0c9d84b12be1042e5b2fe68949f6a26
def chart2 : Bytes := chart 2 0x8e533b6fa0bf7b4625bb30667c01fb607ef9f8b8a80fef5b300628703187b2a3df32d89b546725e903e240508c872b969cf89db30457cb55e7b4baa04f7abd18

/-- The first rules of R76 that charters fail: none of the two signed ones, rule 3 with another signature, rule 4 in force. -/
theorem chart_claim : claimFails chart1 = none := by decide +kernel
theorem chart_apply : chFails [fpG] 1 chart2 chAll = none := by decide +kernel
theorem chart_bad : claimFails (chart 1 5) = some 3 ∧ chFails [fpG] 1 [] chAll = some 1 := by decide +kernel

/-- A hub that runs with the first charter, its copy in slot 0 the second, and a session with an operation on the hub. -/
def hCh : Hub :=
  { (h0.nvmPut 0 chart2) with
      charter := chart1, hubChar := chart1, anchors := [fpG]
      sessions := [{ ses 1 8 with run := some ⟨1, 0, [.charterApply 0, .wake], 0, []⟩ }] }

theorem hCh_copy : hCh.charterCopy 0 = chart2 := by
  have l : chart2.length = 0x540 := by decide +kernel
  have e := nvm_read hCh (charterSlot 0) 6 2 chart2 h0.nvm (by simp only [hCh, Hub.nvmPut]; rfl) (by rw [l]; decide)
  have g := nvm_read hCh (charterSlot 0) 0 0x540 chart2 h0.nvm (by simp only [hCh, Hub.nvmPut]; rfl) (by rw [l])
  rw [List.drop_zero, ← l, List.take_length, l, Nat.add_zero] at g
  rw [Hub.charterCopy, e, if_neg (by decide +kernel), g]

/-- An HRA frame without a tag, laid out by the table of R87, with its AES-CMAC tag. -/
def hfr (type : Nat) (ses seq nops : Nat) (body : Bytes) (tag : Nat) : Bytes :=
  zeros 12 ++ [0x88, 0xB5] ++ beBytes 1 (0x10 + type) ++ [0] ++ beBytes 2 ses ++ beBytes 4 seq ++ beBytes 2 body.length
    ++ beBytes 1 nops ++ [0] ++ body ++ beBytes 16 tag

/-- CLAIM frames of a charter. -/
def claimF (c : Bytes) : Bytes := hfr 8 0 0 0 c 0
def hUn : Hub := { h0 with phase := .unclaimed }

theorem claim_arrives : hraBody (hraPart (claimF chart1)) = chart1 ∧ hraFormed (hraPart (claimF chart1)) = true
    ∧ isHra (claimF chart1) = true ∧ hraKind (hraPart (claimF chart1)) = 8 ∧ hUn.mgtTarget (claimF chart1) = some 8
    ∧ hraBody (hraPart (claimF (chart 1 5))) = chart 1 5 := by decide +kernel

/-- An entry's fields of the charters, beside one whose slice 0 has another owner and one whose slice 0 has another MINVER. -/
theorem chart_entries : ownerChanged chart1 chart2 0 = false ∧ imageChanged chart1 chart2 0 = false
    ∧ chPaired chart1 0 = chPaired chart2 0 ∧ ownerChanged chart1 (zeros 0x100 ++ [1]) 0 = true
    ∧ ownerChanged chart1 (chart1.take 0x168 ++ [1]) 0 = false
    ∧ imageChanged chart1 (chart1.take 0x168 ++ [1]) 0 = true ∧ chVlan chart1 0 ≠ chVlan (zeros 0x160 ++ [0, 5]) 0 := by decide +kernel

theorem witness_ClaimAndCharter : hCh.slices.length = 8 ∧ hCh.nvmSets.length = 9 ∧ Arrives (st x0 hUn) 8 8 (claimF chart1)
    ∧ hUn.phase = .unclaimed ∧ claimFails (hraBody (hraPart (claimF chart1))) = none
    ∧ claimFails (hraBody (hraPart (claimF (chart 1 5)))) = some 3
    ∧ chFails hCh.anchors 1 (hCh.charterCopy 0) chAll = none ∧ chSerial hCh.charter = 1
    ∧ ((h0.modTgt 0 fun t => { t with zeroing := true }).tgt 0).zeroing = true
    ∧ (∃ t r, OpTurn (st x0 hCh) 1 none t r (.charterApply 0) [.wake]) := by
  rw [hCh_copy, claim_arrives.1, claim_arrives.2.2.2.2.2]
  exact ⟨rfl, rfl, ⟨rfl, claim_arrives.2.2.1, claim_arrives.2.2.2.1, claim_arrives.2.2.2.2.1⟩, rfl, chart_claim, chart_bad.1, chart_apply,
    by decide +kernel, by decide +kernel, ⟨_, _, rfl, rfl, rfl, rfl⟩⟩

/-- A frame with a VLAN tag and no more. -/
def mframe (vid : Nat) : Bytes := List.replicate 12 0 ++ [0x81, 0x00] ++ beBytes 2 vid ++ [8, 0]

/-- A hub whose charter gives slice 0 VLAN 5, its other fields 0. -/
def hVlan : Hub := { h0 with charter := List.replicate 0x160 0 ++ [0, 5] }

theorem witness_ManagementPort : hVlan.answers = true ∧ hVlan.slices.length = 8 ∧ hVlan.mgtTarget (mframe 6) = none
    ∧ hVlan.mgtTarget (mframe 5) = some 0 ∧ isHra (mframe 5) = false ∧ isHra (zeros 12 ++ [0x88, 0xB5, 0x12]) = true
    ∧ hraKind (hraPart (zeros 12 ++ [0x88, 0xB5, 0x12])) ∉ [1, 3, 6, 7, 8]
    ∧ h0.mgtTarget (zeros 12 ++ [0x88, 0xB5, 0x12]) = some 8
    ∧ ((hVlan.tgt 0).rx.map (·.length)).foldl (· + ·) 0 + (mframe 5).length ≤ 262144 ∧ x0.on = true
    ∧ chVlan hVlan.charter 0 ≠ 0 := by decide +kernel

/-- A session on the hub under the key 00 to 0F, and what it has seen and answered. -/
def tSes : Session := ses 1 8
def tSeen (p : Bytes) (cache : List CachedReply) : Session := { tSes with h := 100, seen := [(100, hraTag p)], cache := cache }

/-- Frames of that session with SEQ 100: a WAKE, a REQUEST without operations, one of an operation that does not exist, an
EVENT_ACK and a CLOSE; their AES-CMAC tags were made outside the model. -/
def fWake : Bytes := hfr 3 1 100 1 [0x30] 0x95b782ffa7ed995f4ea22bde133c1f3d
def fNone : Bytes := hfr 3 1 100 0 [] 0x273e5af5e972d4d33ea1562003e70bfe
def fBad : Bytes := hfr 3 1 100 1 [0x99] 0x59879072b4d25ade11b19502754564b0
def fAck : Bytes := hfr 6 1 100 0 [0, 0, 0, 9] 0x8ad9270ba4ef73ea21f5aa6b0af398e6
def fClose : Bytes := hfr 7 1 100 0 [] 0x51affd7706f200a76b274db613a7ea4e

/-- R87: the tags verify, and another does not. -/
theorem test_tags : hraTagOk tSes.hostKey (hraPart fWake) = true ∧ hraTagOk tSes.hostKey (hraPart fAck) = true
    ∧ hraTagOk tSes.hostKey (hraPart fClose) = true := by decide +kernel
theorem test_tags_more : hraTagOk tSes.hostKey (hraPart fNone) = true ∧ hraTagOk tSes.hostKey (hraPart fBad) = true
    ∧ hraTagOk tSes.hostKey (hraPart (hfr 7 1 100 0 [] 0)) = false := by decide +kernel

/-- What the frames hold. -/
def frames : List (Bytes × Nat) := [(fWake, 3), (fNone, 3), (fBad, 3), (fAck, 6), (fClose, 7)]
theorem frames_hold : ∀ f ∈ frames, isHra f.1 = true
    ∧ hraKind (hraPart f.1) = f.2 ∧ h0.mgtTarget f.1 = some 8 ∧ hraFormed (hraPart f.1) = true ∧ hraSes (hraPart f.1) = 1
    ∧ hraSeq (hraPart f.1) = 100 := by decide +kernel

/-- A hub with one session. -/
def hSes (t : Session) : Hub := { h0 with sessions := [t] }

/-- Any of the frames arrives in any state of that session. -/
theorem in_session (f : Bytes) (k : Nat) (t : Session) (hm : (f, k) ∈ frames)
    (ht : hraTagOk tSes.hostKey (hraPart f) = true) (hk : t.hostKey = tSes.hostKey) (hi : t.id = 1) (hn : t.target = 8) :
    InSession (st x0 (hSes t)) k f t := by
  have g := frames_hold (f, k) hm
  have a : (st x0 (hSes t)).hub.mgtTarget f = h0.mgtTarget f := rfl
  refine ⟨⟨rfl, g.1, g.2.1, a.trans (g.2.2.1.trans (by rw [hn]))⟩, g.2.2.2.1, ?_, hk ▸ ht⟩
  rw [g.2.2.2.2.1]
  simp [st, hSes, Hub.session, hi]

/-- An OPEN of target 0xFF by the owner of the hub, signed outside the model, its ephemeral key the generator; and one of another key. -/
def openB : Bytes := [0xFF, 0, 0, 0] ++ kG ++ kG ++ zeros 16
  ++ beBytes 64 0x3ed113b7883b4c590638379db0c21cda16742ed0255048bf433391d374bc21d1fce21486c315338f6bb0f0c778a5a83ffe72c33ba064aa3f10611ec21f7c17c3
def fOpen (b : Bytes) : Bytes := hfr 1 0 0 0 b 0
def hOwn : Hub := { h0 with charter := chart1, hubChar := chart1 }

theorem test_open : hOwn.openRefusal 8 8 openB = none := by decide +kernel
theorem open_frame : isHra (fOpen openB) = true ∧ hraKind (hraPart (fOpen openB)) = 1 ∧ hOwn.mgtTarget (fOpen openB) = some 8
    ∧ openFormed (hraPart (fOpen openB)) = true ∧ hraBody (hraPart (fOpen openB)) = openB ∧ openTarget openB = 0xFF
    ∧ h0.mgtTarget (fOpen openB) = some 8 ∧ openFormed (hraPart (fOpen [])) = false ∧ hraKind (hraPart (fOpen [])) = 1
    ∧ h0.mgtTarget (fOpen []) = some 8 ∧ isHra (fOpen []) = true := by decide +kernel

/-- States of the session in which a frame is accepted, answered again, answered as stale, and dropped. -/
def FrameMet (f : Bytes) (k : Nat) : Prop :=
  let p := hraPart f
  (InSession (st x0 (hSes tSes)) k f tSes ∧ tSes.judge 100 (hraTag p) = .accept)
  ∧ (∀ q, q.seq = 100 → InSession (st x0 (hSes (tSeen p [q]))) k f (tSeen p [q]) ∧ (tSeen p [q]).judge 100 (hraTag p) = .resend q)
  ∧ (InSession (st x0 (hSes (tSeen p []))) k f (tSeen p []) ∧ (tSeen p []).judge 100 (hraTag p) = .stale)
  ∧ (InSession (st x0 (hSes (tSeen (hraPart fBad) []))) k f (tSeen (hraPart fBad) [])
      ∧ (tSeen (hraPart fBad) []).judge 100 (hraTag p) = .drop)
  ∧ hraSeq p = 100 ∧ h0.session (hraSes p) = none

theorem frame_met (f : Bytes) (k : Nat) (hm : (f, k) ∈ frames)
    (ht : hraTagOk tSes.hostKey (hraPart f) = true) (hd : hraTag (hraPart fBad) ≠ hraTag (hraPart f)) : FrameMet f k := by
  have g := frames_hold (f, k) hm
  refine ⟨⟨in_session _ _ _ hm ht rfl rfl rfl, ?_⟩, fun q hq => ⟨in_session _ _ _ hm ht rfl rfl rfl, ?_⟩,
    ⟨in_session _ _ _ hm ht rfl rfl rfl, ?_⟩, ⟨in_session _ _ _ hm ht rfl rfl rfl, ?_⟩, g.2.2.2.2.2, rfl⟩
  · simp [Session.judge, tSes, ses]
  · simp [Session.judge, tSeen, tSes, ses, hq]
  · simp [Session.judge, tSeen, tSes, ses]
  · simp [Session.judge, tSeen, tSes, ses, hd]

theorem witness_HraSessions :
    (Arrives (st x0 hOwn) 8 1 (fOpen openB) ∧ openFormed (hraPart (fOpen openB)) = true ∧ targetOf 0xFF = some 8
      ∧ hraBody (hraPart (fOpen openB)) = openB ∧ hOwn.openRefusal 8 8 openB = none ∧ ∀ e ∈ (hOwn.tgt 8).events, e.copies ≠ [])
    ∧ (Arrives (st x0 h0) 8 1 (fOpen openB) ∧ h0.openRefusal 8 8 openB = some 1)
    ∧ (Arrives (st x0 h0) 8 1 (fOpen []) ∧ openFormed (hraPart (fOpen [])) = false)
    ∧ FrameMet fWake 3 ∧ FrameMet fAck 6 ∧ FrameMet fClose 7
    ∧ ({ tSes with target := 3 }.target ≠ 8 ∧ (hSes { tSes with target := 3 }).session 1 = some { tSes with target := 3 })
    ∧ hraTagOk tSes.hostKey (hraPart (hfr 7 1 100 0 [] 0)) = false
    ∧ (tSes.tagFails.filter fun c => decide (h0.clk < c + 800000000)).length < 15
    ∧ ((List.replicate 15 0).filter fun c => decide (h0.clk < c + 800000000)).length = 15 := by
  have o := open_frame
  refine ⟨⟨⟨rfl, o.1, o.2.1, o.2.2.1⟩, o.2.2.2.1, by decide, o.2.2.2.2.1, test_open, fun e h => absurd (show e ∈ [] from h) List.not_mem_nil⟩,
    ⟨⟨rfl, o.1, o.2.1, o.2.2.2.2.2.2.1⟩, by decide +kernel⟩,
    ⟨⟨rfl, o.2.2.2.2.2.2.2.2.2.2, o.2.2.2.2.2.2.2.2.1, o.2.2.2.2.2.2.2.2.2.1⟩, o.2.2.2.2.2.2.2.1⟩,
    frame_met _ _ (by simp [frames]) test_tags.1 (by decide +kernel), frame_met _ _ (by simp [frames]) test_tags.2.1 (by decide +kernel),
    frame_met _ _ (by simp [frames]) test_tags.2.2 (by decide +kernel), ⟨by decide, rfl⟩, test_tags_more.2.2, by decide +kernel, by decide +kernel⟩

theorem witness_HraRequestsAndEvents :
    (InSession (st x0 (hSes tSes)) 3 fBad tSes ∧ requestOps (hraNops (hraPart fBad)) (hraBody (hraPart fBad)) = .error 0)
    ∧ (InSession (st x0 (hSes tSes)) 3 fWake tSes ∧ requestOps (hraNops (hraPart fWake)) (hraBody (hraPart fWake)) = .ok [.wake])
    ∧ (InSession (st x0 (hSes tSes)) 3 fNone tSes ∧ requestOps (hraNops (hraPart fNone)) (hraBody (hraPart fNone)) = .ok []
      ∧ (st x0 (hSes tSes)).targetSleeps 8 = false)
    ∧ (∀ r, InSession (st x0 (hSes { tSes with run := some r })) 3 fWake { tSes with run := some r })
    ∧ (InSession (st x0 (hSes tSes)) 6 fAck tSes ∧ tSes.target ≤ 8 ∧ (h0.tgt tSes.target).evLost = 0)
    ∧ (∀ p, tSes.judge 100 p = .accept) ∧ tSes.run = none ∧ h0.slices.length = 8
    ∧ requestOps 2 [0x30] = .error 1 ∧ requestOps 1 [0x30, 0] = .error 1 ∧ (hSes tSes).session 1 = some tSes ∧ h0.session 1 = none :=
  ⟨⟨in_session _ _ _ (by simp [frames]) test_tags_more.2.1 rfl rfl rfl, by decide +kernel⟩,
    ⟨in_session _ _ _ (by simp [frames]) test_tags.1 rfl rfl rfl, by decide +kernel⟩,
    ⟨in_session _ _ _ (by simp [frames]) test_tags_more.1 rfl rfl rfl, by decide +kernel, by decide +kernel⟩,
    fun r => in_session _ _ _ (by simp [frames]) test_tags.1 rfl rfl rfl,
    ⟨in_session _ _ _ (by simp [frames]) test_tags.2.1 rfl rfl rfl, by decide, by decide⟩,
    fun p => by simp [Session.judge, tSes, ses], rfl, rfl, rfl, rfl, rfl, rfl⟩

/-- A hub with a REQUEST of session 1 on slice 0 in progress. -/
def hOp (op : HraOp) : Hub := { h0 with sessions := [{ ses 1 0 with run := some ⟨1, 0, [op, .wake], 0, []⟩ }] }

theorem op_turn (op : HraOp) : OpTurn (st x0 (hOp op)) 1 (some 0) { ses 1 0 with run := some ⟨1, 0, [op, .wake], 0, []⟩ }
    ⟨1, 0, [op, .wake], 0, []⟩ op [.wake] := by
  refine ⟨rfl, rfl, rfl, rfl, ?_⟩
  rw [(st_slice _ _).1]; decide

theorem witness_HraRegisterOperations :
    (∀ op, ∃ t r, OpTurn (st x0 (hOp op)) 1 (some 0) t r op [.wake] ∧ t.waiting = []) ∧ [HraOp.wake] ≠ []
    ∧ ((st x0 h0).hraReads (some 0) 0x40100100 1).1 = .done [0, 0x14, 0, 0]
    ∧ ((st x0 h0).hraRead (some 0) 0x40100100).1 = .ok 0x140000 ∧ ((st x0 h0).hraRead (some 0) 0x40100104).1 = .ok 0
    ∧ ((st x0 h0).hraWrite (some 0) 0x40100100 0 0xFFFFFFFF).1 = .ok 0
    ∧ (0x140000 : Word) &&& 0xFF0000 = 0x140000 ∧ (0x140000 : Word) &&& 1 ≠ 1
    ∧ ((st x0 h0).hraRead none 0x100100).1 = .bad :=
  ⟨fun op => ⟨_, _, op_turn op, rfl⟩, by decide, by decide +kernel, by decide +kernel, by decide +kernel, by decide +kernel,
    by decide, by decide, by decide +kernel⟩

theorem witness_HraSliceOperations : (∀ op, (hOp op).slices.length = 8 ∧ ∃ t r, OpTurn (st x0 (hOp op)) 1 (some 0) t r op [.wake] ∧ t.waiting = [])
    ∧ ((h0.tgt 0).thermal && (h0.tgt 0).hot) = false
    ∧ ((h0.modTgt 0 fun t => { t with thermal := true, hot := true }).tgt 0).hot = true ∧ regBit x0 kDMA 0x1008 31 = false ∧ regBit (wr x0 [(kDMA, 0x1008, 0x80000000)]) kDMA 0x1008 31 = true :=
  ⟨fun op => ⟨rfl, _, _, op_turn op, rfl⟩, by decide, by decide, by decide, by decide⟩

/-- A hub whose charter lets slice 0 reach page 2, its NVM set of slice 0 as given. -/
def hNvm (v : NvmSet) : Hub := { h0 with charter := List.replicate 0x167 0 ++ [4], nvmSets := setNth h0.nvmSets 0 v }
def vAt (a : Word) : NvmSet := { NvmSet.blank with addr := a }

theorem witness_NvmAndTimeOutput : (hNvm (vAt 0)).answers = true ∧ (hNvm (vAt 0)).nvmSets.length = 9
    ∧ pagePermitted (hNvm (vAt 0)) (.slice 0) 2 = true ∧ ((hNvm (vAt 0)).nvmSet 0).op = none
    ∧ ((hNvm (vAt 0)).nvmSet 0).words.length < 1024 ∧ (hNvm (vAt 0)).inRange 0 0 = false
    ∧ (hNvm (vAt 0)).inRange 0 (slicePart true 0) = true ∧ (hNvm (vAt 0)).writeRefused 0 (slicePart true 0) = false
    ∧ (hNvm (vAt 0)).inRange 0 (slicePart false 0) = true ∧ (hNvm (vAt 0)).writeRefused 0 (slicePart false 0) = true
    ∧ ((hNvm { vAt 0 with op := some (false, 0) }).nvmSet 0).op.isSome = true ∧ pagePermitted h0 (.slice 0) 2 = false
    ∧ h0.slices.length = 8
    ∧ ((hNvm { vAt 0 with op := some (true, 0), words := List.replicate 1024 0 }).nvmSet 0).words.length = 1024 := by decide +kernel

/-- The row of a register. -/
def row (b o : Nat) : RegRow := (rowAt b o).getD { off := 0 }

theorem witness_RegisterWrite : x0.on = true ∧ cpuState x0 0 ≠ cpuFenced ∧ kBUF ≠ kSRG ∧ Reaches x0 .hra .s 0x40A00120 kBUF 0x120 (row kBUF 0x120) ∧ (row kBUF 0x120).slow = false
    ∧ (row kBUF 0x120).sh = false ∧ pairLow kBUF 0x120 = none ∧ (row kBUF 0x120).rw ≠ 0 ∧ blkState x0 kBUF = 0 ∧ kBUF ≠ kLNE
    ∧ (row kBUF 0x120).lv = 0 ∧ (row kBUF 0x120).w1c = 0 ∧ blkState (wr x0 [(kBUF, 8, 1)]) kBUF ≠ 0
    ∧ Reaches (wr x0 [(kBUF, 8, 1)]) .hra .m 0x40A00120 kBUF 0x120 (row kBUF 0x120)
    ∧ Reaches x0 .hra .m 0x40A00180 kBUF 0x180 (row kBUF 0x180) ∧ (row kBUF 0x180).rw = 0 ∧ (row kBUF 0x180).writable = true
    ∧ (row kBUF 0x180).slow = false ∧ (row kBUF 0x180).sh = false ∧ pairLow kBUF 0x180 = none
    ∧ coreWrite x0 .hra .m false kBUF 0x180 (row kBUF 0x180) 0 = none ∧ ownWrite x0 kBUF 0x180 0 = none := by
  unfold Reaches; and_intros <;> decide +kernel

theorem witness_WrittenBits : rowAt kSLC 0x140 = some (row kSLC 0x140) ∧ rowAt kSLC 0x120 = some (row kSLC 0x120) := by decide +kernel

/-- A slice with the strict decode of NLS4. -/
def xStrict : Slice := wr x0 [(kRIF, 0x140, 0x80000000)]

theorem witness_RegisterReads : Reaches x0 .hra .m 0x40C00114 kTMG 0x114 (row kTMG 0x114) ∧ pairLow kTMG 0x114 = none
    ∧ (row kTMG 0x114).slow = false ∧ reloading x0 kTMG = false ∧ x0.on = true
    ∧ wbit ({ mcounteren := 1, scounteren := 0, half := 0 } : CoreSt).mcounteren 0 = true ∧ cpuState x0 0 ≠ cpuFenced
    ∧ inRegSpace 0x40F00004 = true ∧ inRegSpace 0x41600000 = true ∧ regAt x0 0x1600000 = none ∧ strictDecode x0 = false
    ∧ strictDecode xStrict = true ∧ regAt xStrict 0x100104 = none ∧ regBit xStrict kRIF 0x140 30 = false
    ∧ regAt x0 0x1300100 = some (kPRF, 0x100, row kPRF 0x100) ∧ prfCounter 0x100 = none ∧ h0.answers = true
    ∧ inHubWindow 0x50001000 = true ∧ h0.slices.length = 8 ∧ pagePermitted h0 (.slice 0) 1 = false
    ∧ inRegSpace 0x60000000 = false ∧ inHubWindow 0x60000000 = false ∧ inBootRom 0x60000000 = false
    ∧ Reaches x0 .hra .m 0x40000108 kRIF 0x108 (row kRIF 0x108) ∧ Reaches x0 .hra .m 0x4000010C kRIF 0x10C (row kRIF 0x10C)
    ∧ pairLow kRIF 0x108 = some 0x108 ∧ (row kRIF 0x108).slow = false ∧ (row kRIF 0x108).rw = 0 ∧ (row kRIF 0x10C).sh = true
    ∧ (row kRIF 0x10C).lv ≠ 0 ∧ (row kRIF 0x108).sh = false ∧ rowAt kRIF 0x10C = some (row kRIF 0x10C) ∧ (row kRIF 0x108).lv ≠ 0
    ∧ (row kRIF 0x108).w1c = 0 ∧ (row kRIF 0x10C).w1c = 0
    ∧ tagFind { x0 with holding := [(.hra, regKey kRIF 0x108, 9)] }.holding .hra (regKey kRIF 0x108) = some 9
    ∧ tagFind x0.holding .hra (regKey kRIF 0x108) = none
    ∧ Reaches x0 .hra .m (0x40000108 + 4) kRIF (0x108 + 4) (row kRIF 0x10C) ∧ (0x40000108 : Word).toNat + 4 < 2 ^ 32
    ∧ (row kRIF 0x10C).rw = 0 ∧ (row kRIF 0x10C).slow = false ∧ kRIF ≠ kSWC ∧ kRIF ≠ kDMA := by
  unfold Reaches; and_intros <;> decide +kernel

theorem witness_OnDieWindowWrite : x0.on = true ∧ l2Entry 0x1000004 = none ∧ (winCell 0x1000004 = .tab tData 0 1 true)
    ∧ l2Entry 0x5000018 = some 0x5000010 ∧ l2Entry 0x5000010 = some 0x5000010
    ∧ ([(0, 0x5000010, 7)].find? fun h : Cpu × Nat × Dword => decide (h.1 = 0) && decide (h.2.1 = 0x5000010)).map (·.2.2) = some 7
    ∧ winCell 0xF000000 = .none ∧ winCell 0x7000004 = .tab tHandle 0 1 false ∧ ([0, 0, 0] : Bytes).length ≠ 4 := by
  and_intros <;> (first | rfl | decide +kernel)

/-- A muslin item: BUF's register 0x120 takes 0x6D. -/
def itB : Item := [1, 0, 0, 16, 0x40, 0xA0, 0x01, 0x20, 0, 0, 0, 0x6D, 0, 0, 0, 0xFF]

/-- A slice whose buffer 0 is in a state, and holds the item beside what is given. -/
def xMus (state : Word) (b : MusBuf) : Slice :=
  { wr x0 [(kRIF, 0x110, state <<< 28)] with bufs := #v[{ b with items := [itB] }, MusBuf.empty] }

/-- A muslin that commits with the twin. -/
def bTwin : MusBuf := { MusBuf.empty with op := 0x1000000000000000#64 }
def bNext : MusBuf := { MusBuf.empty with op := 0x2000000000000000#64, checkOk := true, preloaded := [10] }

theorem witness_BlockStates : x0.on = true ∧ Quiet x0 ∧ kBUF ≠ kTWN ∧ ctlHeld (xMus 5 bNext) kBUF = true ∧ ctlHeld x0 kBUF = false
    ∧ kBUF ≠ kLNE ∧ wbit (3 : Word) 1 = true ∧ ctlHeld (wr x0 [(kCLS, 8, 1)]) kCLS = false ∧ blkState (wr x0 [(kCLS, 8, 1)]) kCLS = 1
    ∧ fld (0 : Word) 1 0 = 0 ∧ bufIn x0 msPolling = none ∧ { x0 with heldCtl := [(kBUF, 3)] }.heldCtl = [(kBUF, 3)]
    ∧ inflight (wr x0 [(kBUF, 8, 3)]) kBUF = 0 ∧ blkState (wr x0 [(kBUF, 8, 3)]) kBUF = 3
    ∧ inflight { wr x0 [(kDMK, 8, 2)] with reserved := 0, rerunq := [] } kDMK = 0
    ∧ inflight { wr x0 [(kTIM, 8, 2)] with scenes := [⟨0, 0, false, false, [], []⟩] } kTIM ≠ 0 := by
  and_intros <;> decide +kernel

/-- A mismatch in the block's own copy of BUF's register 0x120, that the committed image has or has not. -/
def hitB (bad : Bool) : ParityHit := ⟨0xA00120, .block, bad⟩
/-- A write posted to a lane's register. -/
def xPost : Slice := { wr x0 [(kLNE, 0x10, 0x80000000)] with posted := [(kLNE, 0x2004, 1)] }

theorem witness_ParityAndSlowWrites : x0.on = true ∧ rowAt kBUF 0x120 = some (row kBUF 0x120) ∧ (row kBUF 0x120).rw ≠ 0
    ∧ fenced x0 kBUF = false ∧ recurs x0 (regKey kBUF 0x120) .block = false ∧ (hitB false).imageBad = false ∧ (hitB true).imageBad = true
    ∧ recurs { x0 with mism := [(regKey kBUF 0x120, .block, 0)] } (regKey kBUF 0x120) .block = true ∧ (hitB true).unit = .block ∧ kBUF ≠ kSRG
    ∧ Quiet x0 ∧ reloading (wr x0 [(kBUF, 8, 0x10)]) kBUF = true ∧ sFind [(regKey kBUF 0x120, 7)] (regKey kBUF 0x120) = some 7
    ∧ xPost.on = true ∧ pendBusy xPost kLNE = true ∧ xPost.posted.filter (·.1 = kLNE) = [(kLNE, 0x2000 + 4 * (1 : Lane).val, 1)]
    ∧ fld (1 : Word) 31 30 = 0 ∧ Reaches xPost .hra .m 0x40202008 kLNE 0x2008 (row kLNE 0x2008)
    ∧ Reaches x0 .hra .m 0x40202008 kLNE 0x2008 (row kLNE 0x2008) ∧ (row kLNE 0x2008).slow = true ∧ (row kLNE 0x2008).sh = false
    ∧ (row kLNE 0x2008).writable = true ∧ pairLow kLNE 0x2008 = none ∧ pendBusy x0 kLNE = false := by
  unfold Reaches; and_intros <;> decide +kernel

theorem witness_MuslinStagingAndCheck : x0.on = true ∧ [(0 : Word)].length + 1 < itemWords (([16, 0] : List Word).head?.getD 0)
    ∧ itemWords ([4].head?.getD 0) ≤ ([] : List Word).length + 1 ∧ musState x0 0 ≠ 4 ∧ musState x0 0 ≠ 5
    ∧ (musBuf x0 0).items.length < 65536 ∧ musState (xMus 4 bNext) 0 = 4 ∧ musState (xMus 1 bNext) 0 = 1 ∧ musState (xMus 2 bNext) 0 = 2
    ∧ ∀ k c v, ∃ t r, OpTurn (st x0 (hOp (.cmd k c v))) 1 (some 0) t r (.cmd k c v) [.wake] := by
  refine ⟨by decide, by decide, by decide, by decide, by decide, by decide, by decide, by decide, by decide, ?_⟩
  exact fun k c v => ⟨_, _, op_turn _⟩

theorem witness_MuslinArmAndPoll : x0.on = true ∧ armRefusal (regSet x0 kRIF 0x100 3) false 0 (musBuf x0 0) = some 5
    ∧ armRefusal (regSet (xMus 3 bNext) kRIF 0x100 3) false 0 { musBuf (xMus 3 bNext) 0 with tag := 0 } = none
    ∧ musState x0 0 ≠ 4 ∧ musState (xMus 4 bNext) 0 = 4 ∧ bufIn (xMus 4 MusBuf.empty) 4 = some 0
    ∧ 10 ∈ touchedBlocks (musBuf (xMus 4 MusBuf.empty) 0).items ∧ 10 ∉ (musBuf (xMus 4 MusBuf.empty) 0).preloaded
    ∧ opNext (musBuf (xMus 4 MusBuf.empty) 0) = false ∧ opNext (musBuf (xMus 4 bNext) 0) = true
    ∧ (touchedBlocks (musBuf (xMus 4 bNext) 0).items).all (· ∈ (musBuf (xMus 4 bNext) 0).preloaded) = true ∧ 5 < 16
    ∧ 10000 * nsUnits < timeDiff (20000 * nsUnits) (baseNow x0 0)
    ∧ timeDiff (musBuf (xMus 4 MusBuf.empty) 0).instant (baseNow (xMus 4 MusBuf.empty) (opBase (musBuf (xMus 4 MusBuf.empty) 0)))
        ≤ 10000 * nsUnits := by decide

theorem witness_MuslinReadinessAndCommit : bufIn (xMus 5 bNext) 5 = some 0 ∧ 10 ∈ touchedBlocks (musBuf (xMus 5 bNext) 0).items
    ∧ (musBuf (xMus 5 bNext) 0).answers.any (·.1 = 10) = false ∧ opTwin (musBuf (xMus 5 bNext) 0) = false
    ∧ blockReady (xMus 5 MusBuf.empty) (musBuf (xMus 5 MusBuf.empty) 0) 10 = false
    ∧ blockReady (xMus 5 bNext) (musBuf (xMus 5 bNext) 0) 10 = true ∧ (musBuf (xMus 5 bNext) 0).passed = false
    ∧ takeMsg asReady [.readyAck, .ready true 5] = some ((true, 5), [.readyAck]) ∧ linkIsUp (wr x0 [(kTWN, 0x100, 0x30000000)]) = true
    ∧ bufIn (xMus 4 bTwin) 4 = some 0 ∧ opTwin (musBuf (xMus 4 bTwin) 0) = true
    ∧ readyInTime (xMus 4 { bTwin with instant := 3 * usUnits }) 0 = true ∧ bufIn x0 4 = none ∧ bufIn x0 5 = none
    ∧ takeMsg asReadyAck [.readyAck] = some ((), []) ∧ (musBuf (xMus 5 { bTwin with sentReady := true }) 0).sentReady = true
    ∧ timeDiff (musBuf (xMus 5 bNext) 0).instant (baseNow (xMus 5 bNext) (opBase (musBuf (xMus 5 bNext) 0))) ≤ 0
    ∧ ¬ timeDiff (nsUnits * 5) (baseNow x0 0) ≤ 0 ∧ fenced (wr x0 [(kTWN, 0x100, 0x30000000)]) kTWN = false
    ∧ allAnswered (musBuf (xMus 5 { bNext with answers := [(10, true)] }) 0) = true ∧ itemTouch itB = .reg kBUF 0x120
    ∧ itemBlock itB = kBUF ∧ itemKind itB = 1 ∧ musState (xMus 5 bNext) 1 ≠ 2
    ∧ musState (xMus 5 bNext) 1 ≠ 3 ∧ (musBuf (xMus 5 bTwin) 0).twinReady ≠ some (true, (musBuf (xMus 5 bTwin) 0).tag)
    ∧ regBit (wr x0 [(kRIF, 0x130, 0x800000)]) kRIF 0x130 23 = true ∧ oldCount (wr x0 [(kRIF, 0x130, 0x800000)]) = 0
    ∧ ∀ v, ownWrite (xMus 5 bNext) kBUF 0x120 v = none := by
  and_intros <;> (first | (intro v; rfl) | decide +kernel)

theorem witness_NoticesLocksAndAgeing : x0.on = true ∧ 1 < 131072 ∧ 3 < 524288 ∧ 2 * 0 < 4194304
    ∧ PlainDram x0 (dramBase + region x0 kDRC 0x110 + 64 * (2 * 0)) 4 ∧ PlainDram x0 (dramBase + region x0 kDRC 0x110) 128
    ∧ PlainDram x0 (dramBase + region x0 kDRC 0x110 + 64 * (2 * 2097151)) 4 ∧ seqRuns (wr x0 [(kMCS, 0x1018, 0)]) qSWP = true
    ∧ regBit (wr x0 [(kFWD, 0x130, 0x80000000)]) kFWD 0x130 31 = true ∧ regBit (wr x0 [(kFWD, 0x134, 0x80000000)]) kFWD 0x134 31 = true
    ∧ wbit (0x40000000 : Word) 30 = true ∧ wbit (0x40000000 : Word) 29 = false ∧ wbit (0x50000000 : Word) 28 = true
    ∧ wbit (tabGet (tabSet x0 tL2 3 0 0x40000000) tL2 (4 * (3 / 4)) 0) 31 = false
    ∧ w32 (beNat (dramGet (dramPut x0 (region x0 kDRC 0x110) [0x50]) (region x0 kDRC 0x110) 4)) = 0x50000000 := by
  unfold PlainDram Unmirrored; and_intros <;> decide +kernel

theorem witness_EpochsHandlesAndCam : x0.on = true ∧ wbit (0x40000000 : Word) 30 = true ∧ wbit (0x80000000 : Word) 30 = false
    ∧ wbit (0xC0000000 : Word) 31 = true ∧ regBit (wr x0 [(kFWD, 0x140, 0x40000000)]) kFWD 0x140 30 = true
    ∧ (¬ ∃ t, x0.lastBump = some t ∧ x0.clk < t + 800 * max 1 0) ∧ 16 ≤ fld (0x80000010 : Word) 15 0 ∧ fld (0x80000001 : Word) 15 0 < 16
    ∧ wbit (regGet (wr x0 [(kCAM, 0x250, 0x80000000)]) kCAM 0x250) 31 = true
    ∧ (wr x0 [(kCAM, 0x250, 0x80000000)]).camBusy = false ∧ wbit (regGet x0 kCAM 0x250) 31 = false := by decide

/-- A packet of lane 1, with the action word of key profile 0. -/
def pk : Packet :=
  { id := 0, lane := 1, serge := false, pipe := 0, frame := List.replicate 60 0, fcsOk := true, epoch := 0, stamp := ⟨0, 0, 0, 0⟩,
    xbuf := [], xval := [], cls := 0, hdrs := [], dex := false, lcf := false, pass2 := false, pbase := 0, stop := 0, resume := 0,
    prof := 0, prim := none, camHit := none, mmatch := false, act := [0, 0, 0, 0], eng := 0, rule := 0, again := none }

/-- The key of that packet: no chunk in use. -/
def kf : FKey := ⟨0, 1, List.replicate 48 0⟩
/-- A record, its hot way, and a tracker of the key at a stage. -/
def r16 : List Dword := List.replicate 16 0
def hw (r : List Dword) : HotWay := ⟨0, 0, 0, 1, List.replicate 48 0, 3, r, false⟩
def tk (op : TrkOp) (st : TrkStage) : Tracker := ⟨5, 0, 1, List.replicate 48 0, op, st, [pk], none⟩

/-- A slice that forwards, FLW and FWD enabled, key profile 0 valid with a mode, and the packet before FLW. -/
def xFl (mode : Word) : Slice :=
  { tabSet (wr x0 [(kFLW, 8, 1), (kFWD, 8, 1), (kDMK, 8, 1)]) tKeyProf 0 0 (0x80000000 + mode <<< 26) with flowIn := [pk] }

theorem witness_FlowLookups : accepts x0 kFLW = false ∧ threadsFull (xFl 0) 0 = false ∧ actMirror pk.act = none
    ∧ (xFl 0).trackers.foldl (fun n u => n + u.chain.length) 0 < 16384 ∧ regFld (wr x0 [(kFWD, 0x150, 1)]) kFWD 0x150 7 0 ≠ 0
    ∧ ({ x0 with provTok := 1 } : Slice).provTok ≠ 0 ∧ (xFl 0).alive = true ∧ Quiet (xFl 0) ∧ accepts (xFl 0) kFLW = true
    ∧ (xFl 0).flowIn.find? (fun q => q.pipe = 0) = some pk ∧ buildKey { xFl 0 with tabs := [] } pk = none
    ∧ buildKey (xFl 0) pk = some kf ∧ trackerOf { xFl 0 with trackers := [tk .fetch .bucket1] } kf = some (tk .fetch .bucket1)
    ∧ trackerOf (xFl 0) kf = none ∧ hotFind { xFl 0 with hot := [hw r16] } kf = some (hw r16)
    ∧ stale (xFl 0) pk r16 = false ∧ rProv r16 = false ∧ stale (xFl 1) pk [0, 0x100000000] = true
    ∧ stale (xFl 1) pk [0, 0x80000000] = false ∧ rProv [0, 0x80000000] = true ∧ kpMode (xFl 1) false 0 ≠ 0
    ∧ (xFl 0).trackers.length < 4096 ∧ hotFind (xFl 0) kf = none
    ∧ ¬({ xFl 0 with trackers := List.replicate 4096 (tk .fetch .bucket2) }.trackers.length < 4096) := by
  unfold Quiet; and_intros <;> decide +kernel

/-- A bucket whose slot 0 holds the key with record 9, and one whose four slots are taken. -/
def bKey : Bytes := putEntry (List.replicate 256 0) 0 (mkEntry kf 9 7)
def bFull : Bytes := [0, 1, 2, 3].foldl (fun b s => putEntry b s (mkEntry ⟨1, 1, List.replicate 48 0⟩ 9 7)) (List.replicate 256 0)

theorem witness_FlowFetchesAndResolution : fenced (wr (xFl 0) [(kTWN, 0x100, 0x30000000)]) kTWN = false
    ∧ (∀ u ∈ { xFl 0 with inflight := [(7, bFull)] }.trackers, u.stage ≠ .insertWait ∧ u.stage ≠ .moving 7)
    ∧ (∀ u ∈ { xFl 0 with victim := [(9, r16)] }.trackers, ∀ j q d, u.stage ≠ .wayWait j q d)
    ∧ hotMakeRoom (xFl 0) 0 = some (0, xFl 0) ∧ Unmirrored (xFl 0) (region (xFl 0) kFLW 0x130 + 256 * 7) 256
    ∧ (xFl 0).alive = true ∧ blkState (xFl 0) kFLW = 1 ∧ reloading (xFl 0) kFLW = false
    ∧ trackerId { xFl 0 with trackers := [tk .fetch .bucket1] } 5 = some (tk .fetch .bucket1) ∧ (xFl 0).inflight.find? (·.1 = 7) = none
    ∧ PlainDram (xFl 0) (dramBase + region (xFl 0) kFLW 0x130 + 256 * 7) 256 ∧ slotOf bKey kf = some 0 ∧ entRec bKey 0 = 9
    ∧ slotOf (List.replicate 256 0) kf = none ∧ victimOf (xFl 0) 9 = none ∧ 9 ∉ (xFl 0).lostRecs
    ∧ PlainDram (xFl 0) (dramBase + region (xFl 0) kFLW 0x134 + 128 * 9) 128 ∧ hotFind (xFl 0) kf = none
    ∧ (hotMakeRoom { xFl 0 with waysFenced := (List.range 16).map fun w => (0, w) } 0).isNone = true
    ∧ linkIsUp (wr (xFl 0) [(kTWN, 0x100, 0x30000000)]) = true ∧ (xFl 0).twinLost = false ∧ freeSlot bFull = none ∧ entAlt bFull 0 = 7
    ∧ (7, 1) ∉ ([] : List KickPos) ++ [(3, 0)] ∧ bFull.length = 256
    ∧ { xFl 0 with inflight := [(7, bFull)] }.inflight.find? (·.1 = 7) = some (7, bFull)
    ∧ { xFl 0 with victim := [(9, r16)] }.victim.find? (·.1 = 9) = some (9, r16) ∧ r16.length = 16
    ∧ blkState (xFl 1) kFWD = 1 ∧ reloading (xFl 1) kFWD = false ∧ (tk .resolve .resolving).stage = .resolving
    ∧ hotFind { xFl 1 with hot := [hw r16] } (tk .resolve .resolving).fkey = some (hw r16) ∧ (tk .resolve .resolving).chain = pk :: []
    ∧ kpMode (xFl 1) false (tk .resolve .resolving).kp = 1 := by
  unfold PlainDram Unmirrored; and_intros <;> (first | decide +kernel | (intro u h; cases h))

/-- A slice whose sweeper runs over record 3. -/
def xSw (r : List Dword) : Slice :=
  { wr x0 [(kFLW, 8, 1), (kFLW, 0x120, 0x80000000), (kMCS, 0x1018, 0)] with hot := [hw r], recUsed := [3] }

theorem witness_FlowRemoval : (xSw r16).on = true ∧ regBit (xSw r16) kFLW 0x120 31 = true ∧ seqRuns (xSw r16) qSWP = true
    ∧ (xSw r16).stash = [] ∧ (xSw r16).trackers = [] ∧ shadState (xSw r16) ≠ shPromoted ∧ 3 ∈ (xSw r16).recUsed
    ∧ inUse (xSw r16) 3 = false ∧ hotByIdx (xSw r16) 3 = some (hw r16) ∧ fld (tabGet (xSw r16) tKeyProf (rKp (hw r16).rcd) 4) 15 0 = 0
    ∧ rRepoch r16 = regFld (xSw r16) kFWD 0x140 15 0 ∧ rRepoch [0, 0x500000000] ≠ regFld (xSw r16) kFWD 0x140 15 0
    ∧ rRepoch [0, 0x500000000] ≠ 0xFFFF ∧ idleOut (xSw r16) r16 = false ∧ regBit (wr x0 [(kFLW, 0x120, 0)]) kFLW 0x120 31 = false
    ∧ idleOut { tabSet (xSw r16) tKeyProf 0 2 0x10000 with bases := #v[⟨⟨secUnits, 0⟩, ⟨0, 0⟩, 0, 0, 0⟩, Base.zero, Base.zero, Base.zero] }
        r16 = true
    ∧ ({ tk .remove .recheck with chain := [] }).chain = [] ∧ (tk .remove .recheck).op = .remove ∧ removeBusy (xSw r16) kf = false ∧ delWaits (xSw r16) 3 r16 = false
    ∧ wbit (0x80010000 : Word) 31 = true ∧ fld (0x80010000 : Word) 17 16 = 1 ∧ fld (0x80020000 : Word) 17 16 = 2
    ∧ regBit (wr x0 [(kFLW, 0x230, 0x80000000)]) kFLW 0x230 31 = true ∧ regBit x0 kFLW 0x230 31 = false
    ∧ trackerOf x0 (softKey x0 0x80010000) = none ∧ x0.trackers.length < 4096
    ∧ { xSw r16 with soft := some (false, ⟨0, 1, List.replicate 48 0, 0⟩) }.soft = some (false, ⟨0, 1, List.replicate 48 0, 0⟩)
    ∧ hotFind (xSw r16) kf = some (hw r16) ∧ (hw r16).rcd.length = 16 ∧ (hw r16).idx < 2 ^ 24 := by
  and_intros <;> decide +kernel

/-- A thread at the start of the bundle 4, for a packet without a record or with record 3, and the slice that runs it, with an
instruction in slot 0. -/
def thr (i : Option Nat) : ThreadSt := startThread 0 0 511 ⟨pk, i, 0, 4⟩ r16
def xTw (op : Nat) (f : TwFields) (t : ThreadSt) : Slice :=
  { tabSet (tabSet (wr x0 [(kDMK, 8, 1)]) tProg 4 0 (w32 (twWord op f / 2 ^ 32))) tProg 4 1 (w32 (twWord op f)) with threads := [t] }

/-- The hypotheses of the statements about Twill instructions, on such a slice. -/
def twMet (op : Nat) (f : TwFields) (t : ThreadSt) : Bool :=
  let x := xTw op f t
  x.alive && decide (blkState x kDMK = 1) && !reloading x kDMK
    && decide ((x.threads.find? (·.th = 0)).bind (runningThread x) = some t) && !t.ended
    && decide (nextWord x t = some (twWord op f))

theorem tw_ready (op : Nat) (f : TwFields) (t : ThreadSt) (h : twMet op f t = true) : TwReady (st (xTw op f t) h0) 0 0 op f t := by
  unfold TwReady
  rw [(st_slice _ _).1]
  simpa [twMet, and_assoc] using h

theorem witness_TwillRegisterResults : (∀ op ∈ [1, 2, 3, 4, 5, 6, 7, 8, 9, 10, 11, 12, 13, 16, 17, 48, 49, 64, 96, 97],
    TwReady (st (xTw op (tf 1 2 3 1 5) (thr none)) h0) 0 0 op (tf 1 2 3 1 5) (thr none))
    ∧ takesEffect (thr none).atIssue.snap (tf 1 2 3 1 5) = true := by
  refine ⟨fun op h => tw_ready _ _ _ ?_, by decide⟩
  revert op; decide +kernel

theorem witness_TwillPredicatesTablesAndControl : (∀ op ∈ [0, 1, 32, 33, 34, 65, 66, 80, 81, 82, 83, 84, 85, 112, 128, 129, 130, 131, 132, 144, 145],
      TwReady (st (xTw op (tf 1 2 3 1 5) (thr (some 3))) h0) 0 0 op (tf 1 2 3 1 5) (thr (some 3))
      ∧ TwReady (st (xTw op { tf 1 2 3 1 5 with pe := true, ps := true } (thr none)) h0) 0 0 op { tf 1 2 3 1 5 with pe := true, ps := true }
        (thr none))
    ∧ (∀ m ∈ [0, 1, 2, 3, 4], TwReady (st (xTw 112 (tf 0 0 0 m 2) (thr (some 3))) h0) 0 0 112 (tf 0 0 0 m 2) (thr (some 3)))
    ∧ takesEffect (thr (some 3)).atIssue.snap (tf 1 2 3 1 5) = true
    ∧ takesEffect (thr none).atIssue.snap { tf 1 2 3 1 5 with pe := true, ps := true } = false
    ∧ (thr none).logPos = (thr none).log.length ∧ ({ thr none with log := [7] } : ThreadSt).log[(thr none).logPos]? = some 7
    ∧ (thr (some 3)).f ≠ [] ∧ (thr none).pkt.pbase + 5 + 1 < (thr none).frame.length ∧ { thr none with ending := true }.ending = true
    ∧ (thr none).ending = false ∧ (thr none).released = false ∧ (endBundle { thr none with ending := true }).released = true
    ∧ ((thr none).atIssue.snap.rd 2).toNat % 4 ≠ 3 := by
  refine ⟨fun op h => ⟨tw_ready _ _ _ ?_, tw_ready _ _ _ ?_⟩, fun m h => tw_ready _ _ _ ?_, by decide⟩
  · revert op; decide +kernel
  · revert op; decide +kernel
  · revert m; decide +kernel

/-- A slice with a port on lane 1 that is up, and the blocks of the path enabled. -/
def xIn (l : List (Nat × Nat × Word)) : Slice :=
  wr x0 ([(kLNE, 8, 1), (kLNE, 0x1004, 3), (kLNE, 0x1080, 2), (kLNE, 0x1040, 2), (kPRS, 8, 1), (kCLS, 8, 1), (kCAM, 8, 1), (kBUF, 8, 1),
    (kSWC, 8, 1), (kTMG, 8, 1), (kDMK, 8, 1)] ++ l)

/-- A slice whose profile 0 takes every packet and searches the CAM. -/
def xCam : Slice := tabSet (tabSet (xIn []) tProf 0 0 0x8000FFFF) tProf 0 3 0x20000000

theorem cam_profile (p : Packet) : selectProfile xCam p = some 0 := by
  have o (w n : Nat) : profW xCam (isOld xCam p.epoch) n w = tabGet xCam tProf n w := by
    have : isOld xCam p.epoch = false := by
      unfold isOld; rw [show regBit xCam kRIF 0x130 23 = false by decide +kernel, Bool.false_and]
    unfold profW tabGetEp; rw [this]; rfl
  have m : tabGet xCam tProf 0 0 = 0x8000FFFF ∧ tabGet xCam tProf 0 1 = 0 ∧ tabGet xCam tProf 0 2 = 0 := by decide +kernel
  have b : List.range 64 = 0 :: (List.range 63).map (1 + ·) := by decide
  have l : ∀ l : Lane, wbit (0x8000FFFF : Word) l.val = true := by decide
  unfold selectProfile
  simp only [o, b, List.find?_cons, m, l]
  simp [show wbit 0x8000FFFF#32 31 = true by decide, show fld 0x8000FFFF#32 23 20 = 0 by decide]

/-- A packet that reads tree node 0x800005 while it waits in the CAM queue, and a slice with a node of one child. -/
def eTree : WinEntry := ⟨pk, some 0x800005, [], none, true, false⟩
def node (c : Nat) : Bytes := wordBytes 0x80000000 ++ List.replicate 16 0 ++ wordBytes (w32 c) ++ List.replicate 40 0
def xTree (c : Nat) : Slice := dramPut { xIn [] with win := [eTree] } (region (xIn []) kDRC 0x114 + 64 * 5) (node c)

/-- A slice with a Serge group on lane 2, in a protection pair or not, and a group that has reassembled a frame. -/
def xGrp (cfg : Word) (gs : List Group) : Slice :=
  { xIn [(kLNE, 0x1008, 9), (kLNE, 0x1080, 6), (kSRG, 0x1020, cfg), (kSRG, 8, 1), (kSRG, 0x102C, 1)] with groups := gs }
def gRx : Group := { Group.blank x0 2 with rxFrames := [([1], true, 5)] }

theorem witness_IngressAndClassification : xCam.alive = true ∧ rxPort x0 1 = false ∧ rxPort xCam 1 = true ∧ [(0 : Byte)] ≠ []
    ∧ isGroup xCam 1 = false ∧ isGroup (xGrp 0xA0000000 []) 2 = true ∧ (xGrp 0xA0000000 []).groups.find? (·.lane = 2) = none
    ∧ (xGrp 0x80000000 [Group.blank x0 2]).groups.find? (·.lane = 2) = some (Group.blank x0 2) ∧ (Group.blank x0 2).rxFrames = []
    ∧ rxPort (xGrp 0xA0000000 [gRx]) 2 = true ∧ (xGrp 0xA0000000 [gRx]).groups.find? (·.lane = 2) = some gRx
    ∧ gRx.rxFrames = [([1], true, 5)] ∧ pairIdle (xGrp 0xA0000000 [gRx]) 2 = true ∧ pairIdle (xGrp 0x80000000 [gRx]) 2 = false
    ∧ rxPort (xGrp 0x80000000 [gRx]) 2 = true ∧ xCam.ready = []
    ∧ 524288 < fifoBytes { xCam with fifo := List.replicate 9 (0, 1, List.replicate 60000 0, true, ⟨0, 0, 0, 0⟩) } 0 + 64
    ∧ camFull xCam 0 = false ∧ xCam.win = [] ∧ accepts (wr xCam [(kPRS, 8, 2)]) kPRS = false ∧ Quiet xCam ∧ accepts xCam kPRS = true
    ∧ accepts xCam kCLS = true ∧ portHeld xCam 0 = false ∧ portHeld xCam 1 = false ∧ xCam.recirc = [] ∧ xCam.flowIn = []
    ∧ xCam.pipesFenced = [] ∧ regBit xCam kRIF 0x130 23 = false ∧ (∀ k < 64, wbit (tabGet (xIn []) tProf k 0) 31 = false)
    ∧ (∀ q, selectProfile xCam q = some 0) ∧ wbit (tabGet xCam tProf 0 3) 29 = true ∧ fld (tabGet xCam tProf 0 3) 31 30 = 0
    ∧ (xTree 7).fifo = [] ∧ (xTree 7).win = [eTree] ∧ eTree.inCam = true ∧ eTree.done = false ∧ eTree.node = some 0x800005
    ∧ PlainDram (xTree 7) (dramBase + region (xTree 7) kDRC 0x114 + 64 * bits 0x800005 22 0) 64
    ∧ nodeValid (bytesWords (node 7)) = true ∧ nodeType (bytesWords (node 7)) = 0
    ∧ treeChild (bytesWords (node 0x800007)) [] = 0x800007 ∧ bit 0x800007 23 = true ∧ treeChild (bytesWords (node 0xFFFFFF)) [] = 0xFFFFFF
    ∧ dramGet (xTree 7) (region (xTree 7) kDRC 0x114 + 64 * bits 0x800005 22 0) 64 = node 7
    ∧ (xTree 7).camBusy = false ∧ accepts (xTree 7) kCAM = true ∧ { xCam with camBusy := true }.camBusy = true
    ∧ blocked xCam 0 = false ∧ { xCam with recirc := [{ pk with again := some (4, 0, true) }] }.recirc ≠ [] := by
  unfold PlainDram Unmirrored Quiet
  and_intros <;> (first | exact cam_profile | decide +kernel)

/-- A slice with the seal of a program at bundle 4, the packets given waiting for threads. -/
def xDm (rs : List Ready) : Slice := { tabSet (wr x0 [(kDMK, 8, 1)]) tProg 3 0 0xFE010080 with ready := rs }
def rd (i : Option Nat) : Ready := ⟨pk, i, 0, 4⟩

theorem witness_DamaskPlacement : (∀ q ∈ ([] : List Ready), q.pkt.id ≠ (rd none).pkt.id) ∧ actMirror (rd none).pkt.act = none
    ∧ (thr (some 3)).seq < (xDm []).seqNo + 1 ∧ { thr (some 3) with released := true }.released = true
    ∧ (∀ t ∈ (xDm []).threads, t.idx ≠ some 3) ∧ (xDm []).trackers = [] ∧ (xDm [rd none]).alive = true ∧ accepts (xDm [rd none]) kDMK = true ∧ (xDm [rd none]).rerunq = []
    ∧ (xDm [rd none]).ready = [rd none] ∧ (rd none).pkt.pipe = 0 ∧ sealBefore (xDm []) false 4 = true ∧ sealBefore x0 false 4 = false
    ∧ placeThread (xDm []) = some 0 ∧ placeThread (wr x0 [(kDMK, 0x110, 0xFFFFFFFF), (kDMK, 0x114, 0xFFFFFFFF), (kDMK, 0x118, 15)]) = none
    ∧ hotByIdx { xDm [rd (some 3)] with hot := [hw r16] } 3 = some (hw r16) ∧ (rd (some 3)).idx = some 3 ∧ (thr (some 3)).idx = some 3
    ∧ (thr (some 3)).released = false ∧ blkState (xDm []) kDMK = 1 ∧ reloading (xDm []) kDMK = false
    ∧ { xDm [] with rerunq := [thr none] }.rerunq = thr none :: [] := by
  and_intros <;> decide +kernel

/-- A thread at the end of its program, and the slice that holds it and the record 3. -/
def tEnd (i : Option Nat) (d : Disp) : ThreadSt := { thr i with ended := true, disp := d }
def xCm (t : ThreadSt) : Slice := { xIn [] with threads := [t], hot := [hw r16] }
def frm (n : Nat) : Frame :=
  { id := 0, bytes := [], owner := 1, cells := [], pages := [], need := n, slot := 0, copies := [], lanes := some 1, stamp := none,
    epoch := 0, bad := false, stomped := false, green := true, tx := none, mir := none }

theorem witness_Commits : (xCm (tEnd none (.drop 2))).alive = true ∧ blkState (xCm (thr none)) kDMK = 1
    ∧ reloading (xCm (thr none)) kDMK = false ∧ (thr none).mirror = none ∧ actMirror (thr none).pkt.act = none ∧ (thr none).emits = []
    ∧ (thr none).ended = false ∧ (tEnd (some 3) (.drop 2)).ended = true ∧ (tEnd (some 3) (.drop 2)).disp = .drop 2
    ∧ (tEnd (some 3) (.drop 2)).sync = false ∧ hotByIdx (xCm (thr none)) 3 = some (hw r16) ∧ (hw r16).rcd.length = 16
    ∧ (tEnd (some 3) (.drop 2)).f.length = 16 ∧ linkIsUp (xCm (thr none)) = false ∧ (xCm (thr none)).held = []
    ∧ (tEnd (some 3) (.drop 2)).tabs = [] ∧ (⟨0, 0, 1, none, true, 9⟩ : TabWrite).inRange = true
    ∧ replicates (wr (xCm (thr none)) [(kTWN, 0x100, 0x30000000)]) = true ∧ (xCm (thr none)).logq = []
    ∧ (tEnd none (.forward 1 0 none)).disp = .forward 1 0 none ∧ actPol pk.act = none ∧ (1 : BitVec 16).toNat = (1 : Lane).val
    ∧ isPort (xIn []) 1 = true ∧ portUp (xIn []) 1 = true ∧ unselected (xIn []) 1 = false ∧ portTakes (xIn []) (ingressSlot pk) = true
    ∧ accepts (xIn []) kTMG = true ∧ (allCopies (xIn [])).length < 262144
    ∧ queueLen (xIn [(kTMG, tmgOff 1 + 0xA0, 8)]) (.cls 1 (clsOf 0)) < (queueLim (xIn [(kTMG, tmgOff 1 + 0xA0, 8)]) (.cls 1 (clsOf 0))).1
    ∧ blkState (xIn []) kBUF = 1 ∧ Quiet (xIn [])
    ∧ { xIn [] with frames := [frm 2] }.frames.find? (fun g => g.slot = (0 : Fin 4) && decide (g.need ≠ 0)) = some (frm 2)
    ∧ (frm 2).owner < 22 ∧ usedC (xIn [(kBUF, 0x1014, 8)]) 1 < minC (xIn [(kBUF, 0x1014, 8)]) 1 ∧ 0 < freeC (xIn [])
    ∧ (frm 2).need ≠ 1 ∧ ((frm 1).pages = [] ∧ (frm 1).copies = [] ∧ (frm 1).mir = none) ∧ BitVec.ofNat 4 (2 ^ (0 : Fin 4).val) = 1
    ∧ policyWait (xIn [(kBUF, 0x1014, 0), (kBUF, 0x1010, 0)]) 1 = false ∧ (xCm (thr none)).rerunq = []
    ∧ (∀ g ∈ (xIn []).frames, g.id ≠ (xIn []).nextFrm) ∧ (1 : Nat) < 1048576 ∧ rDurable r16 / 4 = 0 ∧ minC (xIn [(kBUF, 0x1014, 0), (kBUF, 0x1010, 0x80000000)]) 1 ≤ 0
    ∧ limC (xIn [(kBUF, 0x1014, 0), (kBUF, 0x1010, 0x80000000)]) 1 ≤ usedC (xIn []) 1
    ∧ policyWait (xIn [(kBUF, 0x1014, 0), (kBUF, 0x1010, 0x80000000)]) 1 = true := by
  unfold Quiet; and_intros <;> decide +kernel

/-- A packet held for the twin, a log entry that waits, and one received. -/
def hld : Held := ⟨pk, 3, 0, some 6, true, .drop 2, 0, [], [], none⟩
def lit (del : Bool) : LogItem := ⟨3, del, true, false, false, 0, 1, List.replicate 48 0, 0, 0, 0⟩
def lge (k : Nat) (a : Option (List Dword)) : LogEntry := ⟨6, k, false, 3, 0, 0, 1, List.replicate 48 0, 0, a, none, false⟩

/-- A slice whose link is up and whose resync states and shadow are as given. -/
def xLk (sync shad : Word) : Slice := wr x0 [(kTWN, 8, 1), (kTWN, 0x100, 0x3F000000), (kTWN, 0x130, sync), (kFLW, 0x160, shad)]

theorem witness_Replication : fenced (xLk 0x80000000 0) kTWN = false ∧ fenced x0 kTWN = false ∧ x0.on = true
    ∧ (∀ g ∈ x0.held, g.lseq ≠ some 6) ∧ (∀ v ∈ (xLk 0 0x80000000).trackers, v.stage ≠ .promotion)
    ∧ [(7, List.replicate 256 (0 : Byte))].find? (·.1 = 7) = some (7, List.replicate 256 0) ∧ takeMsg asLogAck [.logAck 6] = some (6, []) ∧ hld.disp = .drop 2 ∧ hld.emits = []
    ∧ hld.lseq = some 6 ∧ [hld].find? (fun q => decide (q.pkt.id = 1)) = none ∧ linkIsUp (xLk 0x80000000 0) = true
    ∧ 2 ≤ txst (xLk 0x80000000 0) ∧ idleNs (xLk 0x80000000 0) (lit true).first ≤ 50000 ∧ (lit true).isDel = true
    ∧ (lit false).isDel = false ∧ (lit false).sync = false ∧ rShadowed [0x0008000000000000#64] = true
    ∧ shadState x0 = 0 ∧ shadState (xLk 0 0) = 0 ∧ takeMsg asLog [.log (lge 2 (some (List.replicate 8 7)))] = some (lge 2 (some (List.replicate 8 7)), [])
    ∧ (lge 2 (some (List.replicate 8 7))).blockB = none ∧ mapped (dramBase + region x0 kFLW 0x13C + 128 * 3) 128 = true
    ∧ mirrored x0 = true ∧ Unmirrored x0 (region x0 kFLW 0x13C + 128 * 3) 128 ∧ Unmirrored x0 (region x0 kFLW 0x134 + 128 * 3) 128
    ∧ mapped (dramBase + region x0 kFLW 0x134 + 128 * 3) 128 = true
    ∧ (lge 1 none).kind = 1 ∧ shadState (xLk 0 0x80000000) = 2 ∧ hasLog x0.inbox = false ∧ hasLog [.log (lge 1 none)] = true
    ∧ takeMsg asFetch [.fetch 4 0 1 [] none] = some ((4, ⟨0, 1, []⟩), [])
    ∧ takeMsg asReply [.fetchReply 5 (some (3, r16))] = some ((5, some (3, r16)), [])
    ∧ trackerId { x0 with trackers := [tk .fetch (.remote (some 3))] } 5 = some (tk .fetch (.remote (some 3)))
    ∧ (tk .fetch (.remote none)).stage = .remote none ∧ slotOf (List.replicate 256 0) kf = none
    ∧ (freeSlot (List.replicate 256 0)).isSome = true ∧ gapFrom 0 x0.recUsed < 16777216 := by
  unfold Unmirrored; and_intros <;> decide +kernel

theorem witness_Resync : fenced (xLk 0x10000000 0) kTWN = false ∧ 3 + 1 < 2 ^ 24 ∧ (xLk 0x10000000 0).on = true ∧ linkIsUp (xLk 0x10000000 0) = true ∧ rxst (xLk 0x10000000 0) = 1
    ∧ takeMsg asCleared [.cleared] = some ((), []) ∧ txst (xLk 0x80000000 0) = 2 ∧ nextLogged (xLk 0x80000000 0) 0 = none
    ∧ nextLogged { xLk 0x80000000 0 with hot := [hw (0x000800000000000C#64 :: List.replicate 15 0)], recUsed := [3] } 0
      = some (3, kf, 0x000800000000000C#64 :: List.replicate 15 0)
    ∧ rShadowed (0x000800000000000C#64 :: List.replicate 15 0) = true ∧ rxst (xLk 0x20000000 0) = 2 ∧ takeEnd [.endResync] = some []
    ∧ wbit (0x40000000 : Word) 30 = true ∧ regBit (xLk 0x8000000 0) kTWN 0x130 27 = true := by
  and_intros <;> decide +kernel

/-- Two paired slices whose TWN is enabled. -/
def sPair : State :=
  (st (wr x0 [(kTWN, 8, 1)]) { h0 with charter := List.replicate 0x162 0 ++ [0x80] ++ List.replicate 127 0 ++ [0x80] }).setSlice 1
    (wr (Slice.blank 1 .running) [(kTWN, 8, 1)])

theorem witness_TwinLink : bothEnabled sPair 0 = true ∧ ¬(regFld x0 kTWN 0x100 31 28 = 3 ∨ regFld x0 kTWN 0x100 31 28 = 4)
    ∧ ¬(regFld x0 kTWN 0x100 31 28 = 0 ∧ regFld x0 kTWN 0x100 23 16 = 5)
    ∧ fenced x0 kTWN = false ∧ regFld (wr x0 [(kTWN, 0x100, 0x21000000)]) kTWN 0x100 31 28 = 2
    ∧ popCount (regFld (wr x0 [(kTWN, 0x100, 0x23000000)]) kTWN 0x100 27 24) 4 < 3
    ∧ regFld (wr x0 [(kTWN, 0x100, 0x10000000)]) kTWN 0x100 31 28 = 1 ∧ regFld x0 kTWN 0x100 31 28 = 0 ∧ regFld (wr x0 [(kTWN, 0x100, 0x2F000000)]) kTWN 0x100 31 28 = 2
    ∧ takeMsg asHello [.hello 1 true false] = some ((1, true, false), []) ∧ 1 = (twin 0).val
    ∧ takeMsg asHello [.hello 2 true false] = some ((2, true, false), []) ∧ 2 ≠ (twin 0).val
    ∧ regFld (wr x0 [(kTWN, 0x100, 0x50000)]) kTWN 0x100 23 16 = 5
    ∧ [(⟨9, 7, .down⟩ : Transfer)].find? (·.seq = 9) = some ⟨9, 7, .down⟩
    ∧ [(⟨9, 8, .down⟩ : Transfer)].find? (·.seq = 9) = some ⟨9, 8, .down⟩
    ∧ regFld (xLk 0 0) kTWN 0x100 31 28 = 3 ∧ (xLk 0 0).held = [] ∧ (xLk 0 0).trackers = []
    ∧ regBit (xLk 0 0) kTWN 0x100 (24 + (2 : Fin 4).val) = true ∧ regBit x0 kTWN 0x100 (24 + (2 : Fin 4).val) ≠ true
    ∧ popCount (regFld (xLk 0 0) kTWN 0x100 27 24) 4 = 4
    ∧ popCount (regFld (wr x0 [(kTWN, 0x100, 0x47000000)]) kTWN 0x100 27 24) 4 = 3
    ∧ takeMsg asNotice [.sleep] = some (true, []) ∧ takeMsg asNotice [] = none := by
  and_intros <;> decide +kernel

theorem witness_TwinSupervision : (xLk 0 0).on = true ∧ napping (xLk 0 0) = false ∧ napping (wr x0 [(kSLC, 0x100, 0x80)]) = true
    ∧ takeMsg asHeartbeat [.heartbeat 1 false 0 1 0] = some ((1, false), []) ∧ takeMsg asHeartbeat [.heartbeat 1 true 0 1 0] = some ((1, true), [])
    ∧ (xLk 0 0).twinLost = false ∧ (xLk 0 0).trackers = [] ∧ min 15 (regFld (xLk 0 0) kTWN 0x110 27 24 + 1) < 3
    ∧ 3 ≤ min 15 (regFld (wr (xLk 0 0) [(kTWN, 0x110, 0x2000000)]) kTWN 0x110 27 24 + 1) ∧ hubShowsRunning (st (xLk 0 0) h0) 1 = false
    ∧ hubShowsRunning (st (xLk 0 0) (h0.modTgt 1 fun t => { t with run := true })) 1 = true ∧ (xLk 0 0).held = []
    ∧ ((h0.modTgt 1 fun t => { t with fbits := true }).slices[(twin 0).val]?).map (·.fbits) = some true
    ∧ hubUp (st (xLk 0 0) h0) = true ∧ fenced (xLk 0 0) kTWN = false ∧ regFld (xLk 0 0) kTWN 0x100 31 28 = 3
    ∧ (enabled (wr x0 [(kTWN, 8, 1), (kTWN, 0x100, 0x40000)]) kTWN = true
      ∧ regFld (wr x0 [(kTWN, 8, 1), (kTWN, 0x100, 0x40000)]) kTWN 0x100 31 28 = 0
      ∧ regFld (wr x0 [(kTWN, 8, 1), (kTWN, 0x100, 0x40000)]) kTWN 0x100 23 16 = 4)
    ∧ enabled x0 kTWN = false ∧ regFld x0 kTWN 0x100 31 28 ≠ 3 ∧ regFld x0 kTWN 0x100 31 28 ≠ 4 ∧ paired sPair 0 = true ∧ takeMsg asDeclared [.declared] = some ((), []) ∧ x0.lost = false
    ∧ takeMsg asDeclared [] = none ∧ (((st x0 h0).slice (twin 0)).twinLost && hubUp (st x0 h0)) = false := by
  and_intros <;> decide +kernel

/-- A frame of 64 bytes as a Serge payload's blocks, fillers about it, its start block at 7. -/
def sgLine : List (Nat × Line) := (0, filler) :: (frameLines (zeros 64)).map (fun l => (7, l)) ++ [(9, filler)]

theorem witness_SergeCarriesFrames : zeros 64 ≠ []
    ∧ (sgLine.map (·.2)).filter (· ≠ filler) = frameLines (zeros 64)
    ∧ (sgLine.find? (·.2 ≠ filler)).map (·.1) = some 7
    ∧ (frameLines (zeros 16)).length = 2 * ((frameLines (zeros 16)).length / 2) := by
  and_intros <;> decide +kernel

/-- An overhead that is not valid, and one that is: the checksum of its first 30 bytes stands in its last two. -/
def ohBad : Overhead := ⟨false, 0, 0, 0, 0, []⟩
def ohGood : Overhead :=
  let o := d64 (fapPattern * 2 ^ 16)
  ⟨true, o, 0, 0, d64 (crc16Run 0xFFFF (dwordBytes o ++ List.replicate 22 0)), []⟩

/-- A slice with a member on lane 1 in an alignment state, alone or in a group. -/
def mem1 : Member := Member.blank 1
def grp1 : Group := { Group.blank x0 1 with gid := 7, seqs := [(1, 0)], txMap := 1 }
def xSg (al : Word) (m : Member) (gs : List Group) : Slice :=
  { wr x0 [(kLNE, 8, 1), (kLNE, 0x1004, 9), (kLNE, 0x1080, 2), (kSRG, 8, 1), (kSRG, 0x2004, al <<< 29)] with members := [m], groups := gs }

theorem witness_PortsAndSearch : negotiates (wr x0 [(kLNE, 0x1004, 0x2000003)]) 1 = true ∧ negotiates (xIn []) 1 = false
    ∧ mayComeUp (wr x0 [(kLNE, 8, 1), (kLNE, 0x1004, 0x2000003), (kLNE, 0x1080, 2)]) 1 = true
    ∧ 1 ∈ ({ xIn [] with eeeAgreed := [1] } : Slice).eeeAgreed ∧ 1 ∉ (xIn []).eeeAgreed ∧ looped (xSg 0 mem1 []) 1 = false
    ∧ looped (wr x0 [(kLNE, 0x2004, 0x40000000)]) 1 = true ∧ regFld (xSg 4 mem1 []) kSRG 0x2004 31 29 = 4 ∧ x0.on = true ∧ mayComeUp (wr x0 [(kLNE, 8, 1), (kLNE, 0x1004, 3), (kLNE, 0x1080, 2)]) 1 = true
    ∧ isGroup (xIn []) 1 = false ∧ mayComeUp (xIn []) 1 = false ∧ isEth (xIn []) 1 = true ∧ regBit (xIn []) kLNE 0x1040 1 = true
    ∧ isEth x0 1 = false ∧ lanePort (xIn []) 1 = some 1 ∧ wbit (lnePort (wr (xIn []) [(kLNE, 0x1004, 0x4000003)]) 1) 26 = true
    ∧ lanePort (wr (xIn []) [(kLNE, 0x1004, 0x4000003)]) 1 = some 1
    ∧ serMember x0 1 = none ∧ serMember (xSg 0 mem1 []) 1 = some mem1 ∧ regFld (xSg 0 mem1 []) kSRG 0x2004 31 29 = 0
    ∧ groupOfLane (xSg 0 mem1 []) 1 = none ∧ groupOfLane (xSg 3 mem1 [grp1]) 1 = some grp1 ∧ mem1.lost = false
    ∧ 3 ≤ regFld (xSg 3 mem1 [grp1]) kSRG 0x2004 31 29 ∧ regFld (xSg 1 mem1 []) kSRG 0x2004 31 29 = 1
    ∧ mem1.cands.any (fun c => c.pos = (5 : BitVec 14).toNat) = false ∧ mem1.cands.length < 8
    ∧ { mem1 with cands := List.replicate 8 ⟨1, 1⟩ }.cands.any (fun c => c.pos = (5 : BitVec 14).toNat) = false
    ∧ 8 ≤ { mem1 with cands := List.replicate 8 ⟨1, 1⟩ }.cands.length ∧ ohValid ohGood = true ∧ ohValid ohBad = false
    ∧ { mem1 with cands := [⟨5, 1⟩] }.cands.find? (fun c : Cand => c.pos = (5 : BitVec 14).toNat) = some ⟨5, 1⟩ ∧ (⟨5, 1⟩ : Cand).count < 2
    ∧ 2 ≤ (⟨5, 2⟩ : Cand).count ∧ regFld (xSg 2 mem1 []) kSRG 0x2004 31 29 = 2 ∧ (0 : BitVec 14).toNat = mem1.fixed ∧ mem1.miss < 3
    ∧ regFld (xSg 4 { mem1 with miss := 3 } []) kSRG 0x2004 31 29 = 4 ∧ { mem1 with miss := 3 }.miss = 3 := by
  and_intros <;> decide +kernel

/-- A slice with an acknowledged request to join on lane 1. -/
def xAck (valid : Bool) : Slice :=
  wr (xSg 3 { mem1 with ackSeen := true, lastValid := valid } [grp1]) [(kSRG, 0x2004, 0x60200000)]

/-- A working group 1, and the part whose twin protects it. -/
def xWk : Slice := wr (xLk 0 0) [(kSRG, 0x1010, 0xA0000007)]
def sPt : State := (st xWk h0).setSlice 1 { wr (Slice.blank 1 .running) [(kSRG, 0x1020, 0xC0000007)] with groups := [{ grp1 with lane := 2 }] }

/-- A message of one byte as GMC carries it, its CRC-32C computed outside the model; and one with another CRC. -/
def gmGood : Bytes := [0xA6, 0, 5, 0xC4, 0x90, 0x63, 0xCE]
def gmBad : Bytes := [0xA6, 0, 5, 0xC4, 0x90, 0x63, 0xCF]
def xMs (b : Bytes) : Slice := xSg 3 { mem1 with gmcRx := b } [grp1]

theorem witness_SergeGroups : groupOfLane x0 1 = none ∧ grp1.idx % 32 = 31 ∧ { grp1 with idx := 3 }.idx % 32 ≠ 31
    ∧ sends (xSg 3 mem1 [grp1]) 1 1 = true ∧ groupSends (xSg 3 mem1 [grp1]) grp1 = true ∧ groupSends x0 grp1 = false
    ∧ seqRuns (wr x0 [(kMCS, 0x118, 0xA0000000)]) qSOH = false ∧ requests (xSg 3 mem1 [grp1]) grp1 = [] ∧ requests (xAck true) grp1 ≠ []
    ∧ (∀ q ∈ grp1.seqs, farLost (xAck true) grp1 q.2 = false ∧ ∀ k ∈ (xAck true).members, k.lane.val = q.1 → k.lost = false ∧ k.dropped = false)
    ∧ serMember (xMs gmGood) 1 = some { mem1 with gmcRx := gmGood } ∧ gmGood.length = 7 ∧ beAt gmGood 1 1 = 0
    ∧ beAt gmGood 3 4 = crc32cRun 0xFFFFFFFF (slab gmGood 1 2) ^^^ 0xFFFFFFFF
    ∧ ¬ beAt gmBad 3 4 = crc32cRun 0xFFFFFFFF (slab gmBad 1 2) ^^^ 0xFFFFFFFF ∧ serMember x0 1 = none ∧ x0.on = true ∧ groupOf x0 1 = none ∧ groupOf (xSg 3 mem1 [grp1]) 1 = some grp1
    ∧ (grp1.seqs.map (·.1)).Nodup ∧ (grp1.seqs.map (·.2)).Nodup ∧ (∀ q ∈ grp1.seqs, q.1 < 16 ∧ q.2 < 16)
    ∧ regBit x0 kSRG 0x4004 31 = false ∧ acked (xSg 3 mem1 [grp1]) grp1 = [] ∧ acked (xAck true) grp1 = [(1, 0)]
    ∧ groupQuiet (xAck true) grp1 = true ∧ groupQuiet (xAck false) grp1 = false
    ∧ (baseOf x0 0).latched < secOf (baseNow (setBase x0 0 { Base.zero with res := 3000000000 * (nsUnits : Int) }) 0)
    ∧ secOf (baseNow x0 0) ≤ (baseOf x0 0).latched ∧ takeMsg asSf [.sf 1 7] = some (7, []) ∧ takeMsg asSf [] = none
    ∧ protRole (wr x0 [(kSRG, 0x1010, 0xC0000007)]) 1 = 2 ∧ grp1.gid = 7 ∧ fld (1 : Word) 1 0 = 1 ∧ protRole xWk 1 = 1
    ∧ xWk.twinLost = false ∧ linkIsUp xWk = true ∧ linkIsUp (wr x0 [(kSRG, 0x1010, 0xA0000007)]) = false
    ∧ (sPt.slice (twin 0)).groups.find? (fun h => decide (h.gid = fld (srgCfg xWk 1) 15 0)
        && decide (protRole (sPt.slice (twin 0)) h.lane.val = 2)) = some { grp1 with lane := 2 } ∧ sPt.slice 0 = xWk
    ∧ fld (0 : Word) 1 0 ≠ 1 ∧ wbit (0x80000000 : Word) 31 = true ∧ regBit (wr x0 [(kSRG, 0x4004, 0x80000000)]) kSRG 0x4004 31 = true
    ∧ seqRuns x0 qSOH = true ∧ x0.msgIn.length < 8
    ∧ 8 ≤ { x0 with msgIn := List.replicate 8 ⟨1, 0, [0]⟩ }.msgIn.length := by
  and_intros <;> decide +kernel

/-- A copy in a queue, and a slice with BUF and the egress path enabled that holds a frame and queues. -/
def cp (q : QId) (moved cut : Bool) : Copy := ⟨0, 0, 1, q, 0, false, 0, false, cut, moved, none, none⟩
def xBf (l : List (Nat × Nat × Word)) (f : Frame) (qs : List Queue) : Slice := { xIn l with frames := [f], queues := qs, nextFrm := 1 }
def snd1 (cut : Bool) : Sending := ⟨1, cp (.cls 1 0) false cut, ⟨0, 0, 0, 0⟩, []⟩

theorem witness_Buffers : seqRuns x0 qSWP = true ∧ seqRuns (wr x0 [(kMCS, 0x114, 0xA0000000)]) qSWP = false
    ∧ (∀ p ∈ x0.cellsOut, p.1 ∈ refdCells x0) ∧ (∀ p ∈ x0.pagesOut, p.1 ∈ refdPages x0) ∧ x0.suspects = [] ∧ x0.frames = [] ∧ x0.scenes = []
    ∧ ({ x0 with suspects := [(false, 5)], cellsOut := [(5, 1)] } : Slice).suspects = [(false, 5)]
    ∧ (∀ j ∈ (frm 0).cells, sFind x0.cellsOut j = some (frm 0).owner) ∧ (frm 0).lanes = some 1
    ∧ (∀ d ∈ ([] : List Copy), d.moved = true ∧ ∀ g, frameOf x0 d.frm = some g → g.need ≠ 0 ∨ g.cells ≠ [])
    ∧ (∀ h ∈ x0.held, h.frm ≠ some 0) ∧ groupOf (xGrp 0x80000000 [gRx]) 2 = some gRx ∧ pairIdle (xGrp 0x80000000 [gRx]) 2 = false
    ∧ (∀ d ∈ x0.sending, d.copy.frm ≠ 0) ∧ (xIn []).alive = true ∧ blkState (xIn []) kBUF = 1 ∧ reloading (xIn []) kBUF = false
    ∧ [cp (.cls 1 0) false false].find? (fun d => !d.moved) = some (cp (.cls 1 0) false false)
    ∧ frameOf (xBf [] (frm 0) []) 0 = some (frm 0) ∧ (frm 0).need = 0 ∧ (frm 0).pages = [] ∧ (frm 0).cells = [] ∧ (frm 0).owner < 21
    ∧ (frm 0).id ≠ (xBf [] (frm 0) []).nextFrm ∧ (cp (.cls 1 0) false false).len + 4 ≤ 4096
    ∧ usedP (xBf [(kBUF, 0x101C, 8)] (frm 0) []) (frm 0).owner < minP (xBf [(kBUF, 0x101C, 8)] (frm 0) []) (frm 0).owner
    ∧ 0 < freeP (xBf [] (frm 0) []) ∧ (xIn []).queues = [] ∧ (cp (.cls 1 0) true false).moved = true
    ∧ 2 * segCells [] < spillAt (xIn [(kBUF, 0x140, 8)]) (.cls 1 0) ∧ regBit (wr x0 [(kBUF, 0x180, 0x80000000)]) kBUF 0x180 31 = true
    ∧ (∀ n < 22, usedC x0 n = (x0.cellsOut.filter (·.2 = n)).length ∧ usedP x0 n = (x0.pagesOut.filter (·.2 = n)).length)
    ∧ (∀ n < 22, usedC (wr x0 [(kBUF, 0x1408, 1)]) n = (if n = 1 then 1 else 0) ∧ usedP (wr x0 [(kBUF, 0x1408, 1)]) n = 0)
    ∧ regBit (wr x0 [(kBUF, 0x180, 0)]) kBUF 0x180 31 = false ∧ (snd1 true).copy.cut = true ∧ (snd1 true).copy.frm = 0 ∧ x0.sending = [] := by
  and_intros <;> decide +kernel

theorem witness_Egress : (xIn []).alive = true ∧ portFree (xIn []) 1 = true ∧ gateEn (xIn []) 1 = false
    ∧ frameOf (xBf [] (frm 0) []) 0 = some (frm 0) ∧ (frm 0).need = 0 ∧ (frm 0).bad = false ∧ (frm 0).tx = none
    ∧ wbit (timPort (xIn []) 1) 31 = false ∧ portShaped (xIn []) 1 = false ∧ clsShaped (xIn []) 1 0 = false
    ∧ clsStrict (xIn [(kTMG, tmgOff 1 + 0x20, 0x80000000)]) 1 0 = true ∧ (dwrrOf (xIn []) 1 (some 0)).cur = 0
    ∧ (((cp (.cls 1 0) false false).len + 4 + regFld (xIn []) kTMG 0x1100 5 0 : Nat) : Int)
        ≤ sGet 0 (dwrrOf { xIn [] with dwrr := [⟨1, some 0, 0, 0, [(0, 99)]⟩] } 1 (some 0)).defs 0
    ∧ portFree x0 1 = false ∧ [snd1 false].find? (·.lane = 1) = some (snd1 false) ∧ (frm 2).need ≠ 0 ∧ (frm 0).copies = []
    ∧ { frm 0 with bad := true }.bad = true ∧ (xIn []).puntFrames = [] ∧ (xIn []).queues = [] ∧ { frm 0 with copies := [cp (.cls 1 0) false false] }.copies ≠ [] ∧ (xIn []).sending.find? (·.lane = 1) = none
    ∧ wbit (0x90000000 : Word) 31 = true ∧ fld (0x90000000 : Word) 29 28 = 1 ∧ fld (0xA0000000 : Word) 29 28 = 2
    ∧ regBit x0 kTMG 0x300 31 = false ∧ queueEmpty x0 (.aq 0) = true
    ∧ regBit (wr x0 [(kTMG, 0x300, 0x80000000)]) kTMG 0x300 31 = true ∧ regFld (wr x0 [(kTMG, 0x300, 0x80000000)]) kTMG 0x300 15 0 = 0
    ∧ regBit x0 kTMG 0x110 28 = false ∧ regBit (wr x0 [(kTMG, 0x110, 0x10000000)]) kTMG 0x110 28 = true := by
  and_intros <;> decide +kernel

/-- A slice with time gates enabled on port 1, a list of one or two entries, and a switch pending or not. -/
def gte (oper : List GateEntry) : GateSt := ⟨1, [(0, ⟨255, 1000⟩)], oper, 2000, 0, 0, 0⟩
def xGt (ctl stat : Word) (oper : List GateEntry) : Slice :=
  { wr x0 [(kTMG, tmgOff 1 + 0xC0, ctl), (kTMG, tmgOff 1 + 0xD4, 1), (kTMG, tmgOff 1 + 0xCC, 2000), (kTMG, tmgOff 1 + 0xD8, stat)] with
    gates := [gte oper] }

theorem witness_TimeGates : x0.on = true ∧ glOper (wr x0 [(kTMG, 0x200, 0x8000)]) = true ∧ glOper x0 = false
    ∧ gatePend (wr x0 [(kTMG, gstatOff 0, 0x80000000)]) (glPort x0) = true ∧ gatePend x0 (glPort x0) = false
    ∧ gatePend (xGt 0x80000000 0x80000000 []) 1 = true ∧ gatePend (xGt 0x80000000 0 []) 1 = false ∧ configBad x0 1 = true
    ∧ configBad (xGt 0x80000000 0 []) 1 = false ∧ gateEn (xGt 0x80000000 0 []) 1 = true ∧ gateEn (xGt 0 0 []) 1 = false
    ∧ configBad (xGt 0 0 []) 1 = false ∧ gateEn (xGt 0x80000000 0x80000000 []) 1 = true ∧ operEff (gte []) = []
    ∧ operEff (gte [⟨255, 1000⟩]) ≠ [] ∧ (0 + 1) % (operEff (gte [⟨255, 1000⟩])).length = 0
    ∧ (0 + 1) % (operEff (gte [⟨255, 1000⟩, ⟨1, 1000⟩])).length ≠ 0
    ∧ heldUntil (pendAt (xGt 0x80000000 0x80000000 []) 1) (gext (xGt 0x80000000 0x80000000 []) 1) 0 = false
    ∧ heldUntil (pendAt { xGt 0x80000000 0x80000000 [] with gates := [{ gte [] with entryAt := 0, base := 0 }] } 1)
        (gext (wr (xGt 0x80000000 0x80000000 []) [(kTMG, tmgOff 1 + 0xD0, 1)]) 1) 0 = true
    ∧ (gte []).base ≤ baseNow (xGt 0x80000000 0x80000000 []) (portBase (xGt 0x80000000 0x80000000 []) 1).val
    ∧ baseNow (xGt 0x80000000 0x80000000 []) (portBase (xGt 0x80000000 0x80000000 []) 1).val < { gte [] with base := 1 }.base
    ∧ baseNow (xGt 0x80000000 0 []) 0 < (gte [⟨255, 1000⟩]).entryAt + (entryOf (operEff (gte [⟨255, 1000⟩])) 0).interval * nsUnits
    ∧ (gte [⟨255, 0⟩, ⟨1, 0⟩]).entryAt + (entryOf (operEff (gte [⟨255, 0⟩, ⟨1, 0⟩])) 0).interval * nsUnits ≤ baseNow (xGt 0x80000000 0 []) 0
    ∧ (gte [⟨255, 1000⟩]).entryAt + (entryOf (operEff (gte [⟨255, 1000⟩])) 0).interval * nsUnits
        ≤ baseNow (setBase (xGt 0x80000000 0 []) 0 { Base.zero with res := 5000 * nsUnits }) 0 := by
  and_intros <;> decide +kernel

/-- A slice whose tracker 0 of base 1 has a source and a state. -/
def xTm (src st : Word) : Slice := wr x0 [(kTWN, 8, 1), (kTWN, 0x100, 0x3F000000), (kTIM, trkOff 1 0, src <<< 30), (kTIM, trkOff 1 0 + 4, st <<< 29)]

/-- A slice with the word `v` posted for the TIM register `off` and not yet taken by the time domain. -/
def xTp (off : Nat) (v : Word) : Slice := { wr x0 [(kTIM, 0x10, 0x80000000)] with posted := [(kTIM, off, v)] }

theorem witness_TimeBases : x0.on = true ∧ pendBusy (wr x0 [(kTIM, 0x10, 0x80000000)]) kTIM = true ∧ pendBusy x0 kTIM = false
    ∧ timeDiff ((((baseOf x0 1).trk (aselOf x0 1)).time) % timeMod) (baseNow x0 1) ≤ 0
    ∧ 0 < timeDiff (((baseOf (setBase x0 1 { Base.zero with res := -5 }) 1).trk 0).time % timeMod) (baseNow (setBase x0 1 { Base.zero with res := -5 }) 1)
    ∧ x0.gates = [] ∧ bufIn x0 msArmed = none ∧ bufIn x0 msPolling = none ∧ (baseOf x0 1).res = 0
    ∧ (baseOf (setBase x0 1 { Base.zero with res := -5 }) 1).res ≠ 0 ∧ srcOf x0 1 0 = 0 ∧ srcOf (xTm 1 0) 1 0 ≠ 0
    ∧ trkState (xTm 1 0) 1 0 ≠ tkLoop ∧ trkState (xTm 2 4) 1 0 = tkLoop ∧ srcOf (xTm 1 0) 1 0 ≠ 2 ∧ linkIsUp x0 = false
    ∧ srcOf (xTm 2 0) 1 0 = 2 ∧ linkIsUp (xTm 2 0) = true
    ∧ (srcOf (((st (xTm 2 0) h0).setSlice 1 (xTm 2 0)).slice (twin 0)) 1 0 = 2 ∧ (0 : SliceId).val % 2 = 0)
    ∧ ¬((0 : SliceId).val % 2 = 0 ∧ (srcOf ((st (xTm 2 0) h0).slice (twin 0)) 1 0 = 2 ∨ srcOf ((st (xTm 2 0) h0).slice (twin 0)) 1 1 = 2))
    ∧ napping (wr x0 [(kSLC, 0x100, 0x80)]) = true ∧ napping x0 = false ∧ hubUp State.reset = false
    ∧ hubUp (st x0 { h0 with f10m := true }) = true ∧ { h0 with f10m := true }.f10m = true
    ∧ (xTp 0x1000 1).posted.filter (·.1 = kTIM) = [(kTIM, 0x1000, 1)] ∧ pendBusy (xTp 0x1000 1) kTIM = true
    ∧ fld (1 : Word) 31 31 = aselOf (xTp 0x1000 1) 0 ∧ fld (1 : Word) 1 0 = 1 ∧ fld (2 : Word) 31 31 = aselOf (xTp 0x1000 2) 3
    ∧ fld (2 : Word) 1 0 = 2 ∧ fld (0x80000000 : Word) 1 0 = 0 ∧ fld (1 : Word) 2 0 = 1 ∧ fld (0x80000000 : Word) 2 0 ≠ 1
    ∧ fld (0x40000000 : Word) 31 30 = 1 ∧ fld (0xC0000000 : Word) 31 30 = 3 ∧ regBit x0 kTIM 0x10 30 = false := by
  and_intros <;> decide +kernel

/-- A slice with a row of the scene table and the staged words of an entry, a run of scene 0 being fetched. -/
def xSc (row : Word) (l : List (Nat × Nat × Word)) (slots : List (Option Bytes)) : Slice :=
  { tabSet (xIn l) tScene 0 0 row with scenes := [⟨0, 0, false, false, slots, [5]⟩], cellsOut := [(5, 19)] }

/-- A slice with a scene command posted and not yet taken by the time domain. -/
def xScP (v : Word) : Slice := { xSc 0 [(kTIM, 0x10, 0x80000000)] [] with posted := [(kTIM, 0x430, v)] }

theorem witness_Scenes : (xSc 0 [] []).alive = true ∧ pendBusy (xSc 0 [] []) kTIM = false ∧ wbit (0x90000000 : Word) 31 = true
    ∧ fld (0x90000000 : Word) 29 28 = 1 ∧ fld (0xA0000000 : Word) 29 28 = 2
    ∧ regBit (xSc 0 [(kTIM, 0x410, 0x80000000)] []) kTIM 0x410 31 = true ∧ regBit (xSc 0 [] []) kTIM 0x410 31 = false
    ∧ sceneState (xSc 0 [] []) 0 = 0 ∧ sceneState (xSc 0x90000000 [] []) 0 = scArmed ∧ sceneState (xSc 0xA0000000 [] []) 0 = scFetching
    ∧ baseNow (xSc 0 [(kTIM, 0x410, 0x80000000), (kTIM, 0x414, 9)] []) (fld (0x80000000 : Word) 27 26) + 200000 * nsUnits
      ≤ unitsOf (fld (0x80000000 : Word) 15 0 * 2 ^ 32 + (9 : Word).toNat) (0 : Word).toNat
    ∧ ¬(baseNow (xSc 0 [] []) 0 + 200000 * nsUnits ≤ unitsOf 0 0) ∧ fld (0 : Word) 19 0 + fld (0x80000000 : Word) 23 16 ≤ 1048575
    ∧ sceneCount (xSc 0x90000000 [] []) 0 = (runOf (xSc 0x90000000 [] []) 0).slots.length + 1
    ∧ usedC (xSc 0x90000000 [(kBUF, 0x1134, 8)] []) 19 < minC (xSc 0x90000000 [(kBUF, 0x1134, 8)] []) 19 ∧ 0 < freeC (xSc 0x90000000 [] [])
    ∧ PlainDram (wr (xSc 0x90000000 [] []) [(kDRC, 0x118, 0)]) (dramBase + 256) 256
    ∧ sceneCount (xSc 0x90000000 [] [none]) 0 ≤ (runOf (xSc 0x90000000 [] [none]) 0).slots.length
    ∧ accepts (xSc 0xA0000000 [] [none]) kSWC = true ∧ accepts (xSc 0xA0000000 [] [none]) kBUF = true
    ∧ accepts (xSc 0xA0000000 [] [none]) kTMG = true ∧ (runOf (xSc 0xA0000000 [] [none]) 0).slots[0]? = some none
    ∧ 0 + 1 < sceneCount (xSc 0xA0010000 [] [none]) 0 ∧ 0 + 1 = sceneCount (xSc 0xA0000000 [] [none]) 0
    ∧ (runOf (xSc 0xA0010000 [] [some (List.replicate 256 0)]) 0).slots[0]? = some (some (List.replicate 256 0))
    ∧ wbit (handleW (xSc 0xA0000000 [] []) (beAt (0 :: 0 :: 0 :: 20 :: List.replicate 252 0) 2 2) 0) 31 = false
    ∧ sFind (xSc 0xA0000000 [] []).cellsOut 5 = some 19
    ∧ scenePorts (xSc 0xA0010000 [] []) (beAt (0 :: 0 :: 0 :: 1 :: List.replicate 252 0) 2 2) = some [1]
    ∧ fld (handleW (xSc 0xA0010000 [] []) 1 0) 30 28 = 0 ∧ portUp (xSc 0xA0010000 [] []) 1 = true ∧ unselected (xSc 0xA0010000 [] []) 1 = false
    ∧ queueLen (xSc 0xA0010000 [] []) (.scene (laneOf 1)) < 256 ∧ (allCopies (xSc 0xA0010000 [] [])).length < 262144
    ∧ pendBusy (xScP 0x10000000) kTIM = true ∧ (xScP 0x10000000).posted.filter (·.1 = kTIM) = [(kTIM, 0x430, 0x10000000)]
    ∧ awake (xSc 0x90000000 [] []) = true ∧ awake (wr x0 [(kSLC, 0x100, 0x80)]) = false
    ∧ sceneT (xSc 0x90000000 [] []) 0 ≤ baseNow (xSc 0x90000000 [] []) (sceneBase (xSc 0x90000000 [] []) 0) + 100000 * nsUnits
    ∧ ¬(sceneT (xSc 0x90000001 [] []) 0 ≤ baseNow (xSc 0x90000001 [] []) (sceneBase (xSc 0x90000001 [] []) 0) + 100000 * nsUnits)
    ∧ mapped (dramBase + (region (xSc 0x90000000 [(kTIM, 0x400, 0x1FF)] []) kTIM 0x400
        + 256 * (fld (sceneW (tabSet (xSc 0x90000000 [] []) tScene 0 5 0xFFFFF) 0 5) 19 0))) 256 = false
    ∧ sceneInstant (xSc 0xA0010000 [] []) 0 0 ≤ baseNow (xSc 0xA0010000 [] []) (sceneBase (xSc 0xA0010000 [] []) 0)
    ∧ ¬(sceneInstant (xSc 0xA0010000 [] []) 0 0 + 1000 * nsUnits < baseNow (xSc 0xA0010000 [] []) (sceneBase (xSc 0xA0010000 [] []) 0))
    ∧ (runOf (xSc 0xA0010000 [] []) 0).overdue = false ∧ Quiet (xSc 0xA0010000 [] [some []]) ∧ serves (xSc 0xA0010000 [] []) kBUF = true
    ∧ wantsCell (xSc 0xA0010000 [] [some [], some []]) 2 = none ∧ (xSc 0xA0010000 [] []).scenes = [runOf (xSc 0xA0010000 [] []) 0]
    ∧ (liveSlots (runOf (xSc 0xA0010000 [] [some [], some []]) 0))[1]? = some 1
    ∧ limC (xSc 0xA0010000 [(kBUF, 0x1130, 0)] []) 19 = 0 ∧ minC (xSc 0xA0010000 [(kBUF, 0x1134, 0)] []) 19 = 0
    ∧ policyWait (xSc 0xA0010000 [(kBUF, 0x1130, 0)] []) 19 = false ∧ policyWait (xSc 0xA0010000 [(kBUF, 0x1130, 0x80000000)] []) 19 = true := by
  unfold PlainDram Unmirrored Quiet; and_intros <;> decide +kernel

/-- A slice with punt ring 0 enabled, its descriptor 0 at the start of DRAM handed over with a buffer, and a transmit ring 0 whose
descriptor 0, at the same place, is handed over to be sent. -/
def xRg (own : Byte) : Slice :=
  { wr (xBf [(kSWC, 0x408, 0x80000010), (kSWC, 0x400, w32 dramBase), (kSWC, 0x404, w32 (dramBase / 2 ^ 32)), (kDRC, 0x118, 0)] (frm 0) [])
      [(kSWC, 0x488, 0x80000010), (kSWC, 0x480, w32 dramBase), (kSWC, 0x484, w32 (dramBase / 2 ^ 32)), (kSWC, 0x48C, 1)] with
    puntFrames := [cp (.punt 0) false false],
    dram := (List.range 12).foldl (fun m k => sIns m k (((own :: beBytes 7 (dramBase + 4096) ++ beBytes 2 64 ++ beBytes 2 1)[k]?).getD 0)) [] }

theorem witness_Rings : (xRg 0x80).alive = true ∧ (xRg 0x80).puntFrames.find? (fun k => k.q = .punt 0) = some (cp (.punt 0) false false)
    ∧ frameOf (xRg 0x80) 0 = some (frm 0) ∧ serves (xRg 0x80) kSWC = true ∧ (frm 0).owner < 22 ∧ wbit (prCfg (xRg 0x80) 0) 31 = true
    ∧ bit (beAt (dramGet (xRg 0x80) (prDesc (xRg 0x80) 0 (prHead (xRg 0x80) 0) - dramBase) 32 ) 0 1) 7 = true
    ∧ bit (beAt (dramGet (xRg 0) (prDesc (xRg 0) 0 (prHead (xRg 0) 0) - dramBase) 32) 0 1) 7 = false
    ∧ mapped (prDesc (xRg 0x80) 0 0) 32 = true ∧ prDesc (xRg 0x80) 0 0 = dramBase ∧ mapped (dramBase + 4096) 0 = true
    ∧ bits (beAt (dramGet (xRg 0x80) 0 32) 0 8) 39 0 = dramBase + 4096 ∧ Unmirrored (xRg 0x80) 0 32 ∧ Unmirrored (xRg 0x80) 4096 0
    ∧ wbit (prCfg x0 0) 31 = false ∧ { frm 0 with bad := true }.bad = true ∧ x0.puntFrames.find? (fun k => k.q = .punt 0) = none
    ∧ (0xB00408 : BitVec 28).toNat = kSWC * 0x100000 + (0x400 + 16 * 0) + 8 ∧ entriesOk (fld (0x80000010 : Word) 15 0) = true
    ∧ entriesOk 16 = true ∧ entriesOk 32768 = true ∧ entriesOk (fld (0x80000011 : Word) 15 0) = false
    ∧ fld (0x80000020 : Word) 15 0 ≠ fld (prCfg (xRg 0x80) 0) 15 0 ∧ wbit (regGet x0 kSWC 0x408) 31 = false
    ∧ (0xB00400 : BitVec 28).toNat = kSWC * 0x100000 + (0x400 + 16 * 0) ∧ (0xB00404 : BitVec 28).toNat = kSWC * 0x100000 + (0x400 + 16 * 0) + 4
    ∧ (5 : Word).toNat % 256 ≠ (regGet (xRg 0x80) kSWC 0x404).toNat
    ∧ txNext (xRg 0x80) 0 ≠ regFld (xRg 0x80) kSWC 0x48C 14 0 % fld (regGet (xRg 0x80) kSWC 0x488) 15 0
    ∧ bit (beAt (txDesc (xRg 0x80) 0 0).2 0 1) 7 = true ∧ ¬(wbit (regGet x0 kSWC 0x488) 31 = true)
    ∧ portTakes (xRg 0x80) 2 = true ∧ accepts (xRg 0x80) kTMG = true ∧ wbit (handleW (xRg 0x80) 1 0) 31 = true
    ∧ fld (handleW (xRg 0x80) 1 0) 30 28 = 0 ∧ fld (handleW (xRg 0x80) 1 0) 15 0 = (1 : Lane).val ∧ beAt (txDesc (xRg 0x80) 0 0).2 10 2 = 1
    ∧ isPort (xRg 0x80) 1 = true ∧ portUp (xRg 0x80) 1 = true ∧ unselected (xRg 0x80) 1 = false ∧ (allCopies (xRg 0x80)).length < 262144
    ∧ queueLen (wr (xRg 0x80) [(kTMG, tmgOff 1 + 0xA0, 8)]) (.cls 1 0) < (queueLim (wr (xRg 0x80) [(kTMG, tmgOff 1 + 0xA0, 8)]) (.cls 1 0)).1
    ∧ PlainDram (xRg 0x80) (dramBase + 4096) 64 ∧ mapped 0 64 = false ∧ mapped (txDesc (xRg 0x80) 0 0).1 1 = true
    ∧ (frm 0).tx = none ∧ (frm 0).pages = [] ∧ (frm 0).cells = [] ∧ (frm 0).bad = false ∧ fld (0x80010010 : Word) 27 16 < fld (0x80100010 : Word) 27 16
    ∧ prFilled { xRg 0 with filled := [(0, 0)] } 0 ≠ [] ∧ fld (0x80010010 : Word) 27 16 ≤ (prFilled { xRg 0 with filled := [(0, 0)] } 0).length
    ∧ fld (0x80010010 : Word) 15 0 = fld (prCfg (xRg 0) 0) 15 0 ∧ wbit (0x80010010 : Word) 31 = true := by
  unfold PlainDram Unmirrored; and_intros <;> decide +kernel

/-- A slice with DRC status of channel 31 a spare, channel 0 serving logical channel 0 with failures counted. -/
def xDr (fails : Word) (l : List (Nat × Nat × Word)) : Slice :=
  { wr x0 ([(kDRC, 0x1100, fails <<< 26), (kDRC, 0x1100 + 124, 0x20000000)] ++ l) with training := some 0 }

/-- A slice whose logical channel 0 is rebuilt at word `w`, with FLW, DRC and BUF regions far apart and mirroring off. -/
def xRb (w : Word) (l : List (Nat × Nat × Word)) : Slice :=
  { wr x0 ([(kDRC, 0x1000, 0x40000000 ||| w), (kDRC, 0x118, 0)] ++ l) with rebuilds := [0] }

theorem witness_DramUpkeep : x0.on = true ∧ mapped dramBase 4 = true ∧ inLower x0 (coreOff x0) = true
    ∧ inUpper x0 (coreOff x0 + 2 ^ 30) = true ∧ (1 : BitVec 3).toNat < regFld (wr x0 [(kDRC, 0x124, 2)]) kDRC 0x124 2 0
    ∧ regFld (wr x0 [(kDRC, 0x124, 2)]) kDRC 0x124 2 0 ≤ (2 : BitVec 3).toNat
    ∧ regFld (wr x0 [(kDRC, 0x12C, 0)]) kDRC 0x12C 15 0 = 0 ∧ regFld (wr x0 [(kDRC, 0x12C, 5)]) kDRC 0x12C 15 0 ≠ 0
    ∧ (0, 0) ∈ { x0 with rankDown := [(0, 0)] }.rankDown ∧ ((0 : Fin 32), (0 : Fin 3)) ∉ x0.rankDown ∧ mapped 0 1 = false
    ∧ regBit x0 kDRC 0x148 31 = false ∧ regBit (wr x0 [(kDRC, 0x148, 0x80000000)]) kDRC 0x148 31 = true
    ∧ inLower x0 (coreOff x0 + 2 ^ 31) = false
    ∧ ¬(seqRuns x0 qBST = true ∧ regBit (wr x0 [(kDRC, 0x134, 0)]) kDRC 0x134 31 = true)
    ∧ seqRuns x0 qBST = true ∧ regBit (wr x0 [(kDRC, 0x134, 0x80000000)]) kDRC 0x134 31 = true ∧ x0.poison = []
    ∧ (xDr 0 []).training ≠ none ∧ x0.training = none ∧ seqRuns x0 qTRN = true ∧ seqRuns (wr x0 [(kMCS, 0x110, 0xA0000000)]) qTRN = false ∧ pcState x0 0 ≠ psRetired
    ∧ pcState (wr x0 [(kDRC, 0x1100, 0x60000000)]) 0 = psRetired ∧ x0.training ≠ some 0 ∧ (xDr 0 []).training = some 0
    ∧ regFld (xDr 1 []) kDRC 0x1100 28 26 < 2 ∧ 2 ≤ regFld (xDr 2 []) kDRC 0x1100 28 26
    ∧ servesL (xDr 2 [(kDRC, 0x1000, 31 <<< 22)]) 0 = none ∧ servesL (xDr 2 []) 0 = some 0 ∧ pcState (xDr 2 []) 31 = psSpare
    ∧ (∀ j < 31, j ≠ 0 → pcState (xDr 2 ((List.range 31).map fun k => (kDRC, 0x1104 + 4 * k, 0))) j ≠ psSpare)
    ∧ (∀ j < 32, j ≠ 0 → pcState (xDr 2 ((List.range 31).map fun k => (kDRC, 0x1104 + 4 * k, 0))) j ≠ psSpare)
    ∧ 8 ≤ sGet 0 { x0 with owed := [(0, 8)] }.owed 0 ∧ sGet 0 x0.owed 0 < 8 ∧ { x0 with poison := [3] }.poison = [3]
    ∧ sGet 0 x0.drcPart portMnt < 4 ∧ inLower x0 (0x1000 : BitVec 40).toNat = false := by
  and_intros <;> decide +kernel

/-- The same with every region at the end of DRAM but core memory's. -/
def xFar (w : Nat) (core : Word) : Slice :=
  xRb (w32 w) [(kFLW, 0x130, 511), (kFLW, 0x134, 511), (kFLW, 0x138, 511), (kFLW, 0x13C, 511), (kDRC, 0x110, 511), (kDRC, 0x114, 511),
    (kBUF, 0x120, 511), (kDRC, 0x118, core)]

theorem witness_Rebuild : (xRb 0 []).on = true ∧ (xRb 0 []).rebuilds = 0 :: [] ∧ regFld (xRb 0 []) kDRC 0x1000 21 0 < 3145728
    ∧ inRegion (wr (xRb 0 []) [(kFLW, 0x134, 0)]) kFLW 0x134 (2 * 2 ^ 30) (256 * blockAt 0 0) = true
    ∧ linkUp (wr (xRb 0 []) [(kTWN, 0x100, 0x30000000)]) = true ∧ (∀ j, residentRecord (xRb 0 []) j = none)
    ∧ inRegion (xRb 0 [(kFLW, 0x134, 256)]) kFLW 0x134 (2 * 2 ^ 30) (256 * blockAt 0 0) = false
    ∧ inRegion (xRb 0 [(kFLW, 0x130, 0)]) kFLW 0x130 (2 ^ 30) (256 * blockAt 0 0) = true
    ∧ (let x := xRb 0 [(kFLW, 0x130, 256), (kFLW, 0x134, 256), (kFLW, 0x138, 256), (kFLW, 0x13C, 256), (kDRC, 0x110, 0), (kDRC, 0x138, 0x80000000)]
      inRegion x kFLW 0x134 (2 * 2 ^ 30) 0 = false ∧ inRegion x kFLW 0x130 (2 ^ 30) 0 = false
      ∧ (inRegion x kFLW 0x138 (2 ^ 30) 0 || inRegion x kFLW 0x13C (2 * 2 ^ 30) 0) = false ∧ inRegion x kDRC 0x110 (256 * 2 ^ 20) 0 = true
      ∧ regBit x kDRC 0x138 31 = true ∧ linkUp x = false)
    ∧ (let x := xRb 0 [(kFLW, 0x130, 256), (kFLW, 0x134, 256), (kFLW, 0x138, 256), (kFLW, 0x13C, 256), (kDRC, 0x110, 256), (kDRC, 0x114, 0)]
      inRegion x kDRC 0x110 (256 * 2 ^ 20) 0 = false ∧ inRegion x kDRC 0x114 (512 * 2 ^ 20) 0 = true ∧ inUpper x 0 = false ∧ inLower x 0 = false)
    ∧ seqRuns (xRb 0 []) qTRN = true
    ∧ seqRuns (xRb 0 [(kMCS, 0x110, 0xA0000000)]) qTRN = false
    ∧ (∀ w ∈ [(0 : Nat), 139811], let o := 256 * blockAt 0 w
      inRegion (xFar w 0x80000000) kFLW 0x134 (2 * 2 ^ 30) o = false ∧ inRegion (xFar w 0x80000000) kFLW 0x130 (2 ^ 30) o = false
      ∧ (inRegion (xFar w 0x80000000) kFLW 0x138 (2 ^ 30) o || inRegion (xFar w 0x80000000) kFLW 0x13C (2 * 2 ^ 30) o) = false
      ∧ inRegion (xFar w 0x80000000) kDRC 0x110 (256 * 2 ^ 20) o = false ∧ inRegion (xFar w 0x80000000) kDRC 0x114 (512 * 2 ^ 20) o = false
      ∧ inRegion (xFar w 0x80000000) kBUF 0x120 (10 * 2 ^ 30) o = false)
    ∧ inLower (xFar 0 0x80000000) (256 * blockAt 0 0) = true ∧ inUpper (xFar 139811 0x80000000) (256 * blockAt 0 139811) = true
    ∧ inLower (xFar 0 0) (256 * blockAt 0 0) = false ∧ inUpper (xFar 0 0) (256 * blockAt 0 0) = false
    ∧ x0.rebuilds = [] ∧ 3145728 ≤ regFld (xRb 3145728 []) kDRC 0x1000 21 0 ∧ (xRb 3145728 []).rebuilds = 0 :: [] := by
  refine ⟨?_, ?_, ?_, ?_, ?_, fun j => rfl, ?_, ?_, ?_, ?_, ?_, ?_, ?_, ?_, ?_, ?_, ?_, ?_, ?_, ?_⟩ <;> decide +kernel

theorem witness_InterruptRaises : x0.on = true ∧ (0x105 : BitVec 9).toNat = 16 * 16 + 5 ∧ (0x15F : BitVec 9).toNat = 21 * 16 + 15
    ∧ (0x160 : BitVec 9).toNat = 22 * 16 + 0 ∧ pending x0 0x105 = false ∧ pending (wr x0 [(kICN, 0x820, 0x20)]) 0x105 = true := by decide

/-- A slice whose CPU 0 runs, with an argument written and a slot's words 0 and 1 given. -/
def xTs (arg : Word) (slot : Nat) (w0 : Word) : Slice :=
  tabSet (wr x0 [(kTSK, 0x110, 1), (kTSK, 0x1004, arg)]) tSlot slot 0 w0

theorem witness_PrivilegedSlots : (xTs 5 0 0).on = true ∧ cpuState (xTs 5 0 0) 0 = cpuRunning ∧ fld (regGet (xTs 5 0 0) kTSK 0x1004) 13 0 < 64
    ∧ fld (regGet (xTs 63 0 0) kTSK 0x1004) 13 0 < 64 ∧ 64 ≤ fld (regGet (xTs 64 0 0) kTSK 0x1004) 13 0
    ∧ 24 ≤ fld (regGet (wr (xTs 64 0 0) [(kTSK, 0x1010, 0x18000000)]) kTSK 0x1010) 28 24
    ∧ ¬(24 ≤ fld (regGet (wr (xTs 64 0 0) [(kTSK, 0x1010, 0x17000000)]) kTSK 0x1010) 28 24) := by decide +kernel

/-- A slice whose source 5 is routed as given, and pending. -/
def xIc (route : Word) : Slice := wr x0 [(kTSK, 0x110, 1), (kICN, 0x1014, route), (kICN, 0x800, 0x20)]

/-- Tasks READY and unprivileged, as many as the ready list holds. -/
def full : List Nat := (List.range 4032).map (64 + ·)

theorem witness_Interrupts : (xIc 0).on = true ∧ ¬(pending x0 5 = true) ∧ pending (xIc 0xC0000002) 5 = true
    ∧ wbit (regGet (xIc 0xC0000002) kICN 0x1014) 31 = true ∧ wbit (regGet (xIc 0xC0000002) kICN 0x1014) 30 = true
    ∧ signalRefused { xIc 0xC0000002 with waiters := [(70, 2)], rdy := full } 2 = true ∧ 5 ∉ (xIc 0).hwWait ∧ (xIc 0).waiters = []
    ∧ eventCount (xIc 0) 2 ≠ 65535 ∧ eventCount (wr (xIc 0) [(kTSK, 0x4008, 0xFFFF)]) 2 = 65535
    ∧ bestOffer (xIc 0x84100000) 0 false = some 5 ∧ offered (xIc 0x84100000) 0 false 5 = true ∧ bestOffer x0 0 false = none
    ∧ (.cpu 1 : Requester) ≠ .cpu 0 ∧ mtimeDue (wr x0 [(kICN, 0x110, 0), (kICN, 0x114, 0)]) 0 = true
    ∧ mtimeDue (wr x0 [(kICN, 0x110, 9)]) 0 = false ∧ wbit (0 : Word) 0 = false ∧ wbit (1 : Word) 0 = true
    ∧ cpuState (xIc 0) 0 ≠ cpuParked ∧ cpuState (wr x0 [(kTSK, 0x110, 0)]) 0 = cpuParked ∧ cpuState (wr x0 [(kTSK, 0x110, 2)]) 0 = cpuFenced
    ∧ cpuState (xIc 0) 0 ≠ cpuFenced ∧ (xIc 0).claims = [] ∧ curTask (wr x0 [(kTSK, 0x100C, 0x80000000)]) 0 = none
    ∧ curTask (wr x0 [(kTSK, 0x100C, 9)]) 0 = some 9 := by
  and_intros <;> decide +kernel

/-- A slice whose CPU 0 runs task 9 or none. -/
def xTk (arg cur : Word) (slot : Nat) (w0 : Word) : Slice := wr (xTs arg slot w0) [(kTSK, 0x100C, cur)]

theorem witness_Tasks : (xTk 0 0 0 0).on = true ∧ cpuState (wr x0 [(kTSK, 0x110, 0)]) 0 ≠ cpuRunning ∧ cpuState (xTk 0 0 0 0) 0 = cpuRunning
    ∧ pickTask { xTk 0 0 9 0x40000000 with rdy := [9] } 0 = some 9 ∧ pickTask (xTk 0 0 0 0) 0 = none
    ∧ (∀ k : Fin 4, fld (regGet (xTk (BitVec.ofNat 32 (k.val * 2 ^ 30)) 0 0 0) kTSK 0x1004) 31 30 = k.val)
    ∧ curTask (xTk 0 0x80000000 0 0) 0 = none ∧ curTask (xTk 0 9 0 0) 0 = some 9 ∧ curTask (xTk 0 0x46 0 0) 0 = some 70
    ∧ rdyFull (xTk 0 9 0 0) 9 = false ∧ (xTk 0 9 0 0).rdy = [] ∧ bit (slotAff (xTk 0 9 0 0) 9) 0 = true
    ∧ rdyFull { xTk 0 0x46 0 0 with rdy := full } 70 = true ∧ 0 < eventCount (wr (xTk 0 9 0 0) [(kTSK, 0x4008, 1)]) 2
    ∧ eventCount (xTk 0 9 0 0) 2 = 0 ∧ slotFld (xTk 0 9 0 0) 9 0 15 8 = 0 ∧ slotFld (xTk 0 9 9 0x100) 9 0 15 8 ≠ 0
    ∧ ¬(slotPriv 70 = true ∧ Priv.u = Priv.u) ∧ slotState (xTk 0x46 0 70 0) 70 = tsFree ∧ slotState (xTk 0x46 0 70 0xC0000000) 70 = tsLost
    ∧ slotState (xTk 0x46 0 70 0x20000000) 70 = 1 ∧ slotState { xTk 0x46 0 70 0x20000000 with rdy := full } 70 = 1
    ∧ rdyFull { xTk 0x46 0 70 0x20000000 with rdy := full } 70 = true ∧ tsReady ≤ slotState (xTk 0x46 0 70 0x40000000) 70
    ∧ slotState (xTk 0x46 0 70 0x40000000) 70 ≠ tsLost ∧ signalRefused { xTk 0x46 0 70 0 with waiters := [(70, 2)], rdy := full } 2 = true
    ∧ bestWaiter { xTk 0x46 0 70 0 with waiters := [(70, 2)] } 2 = some 70 ∧ rdyFull (xTk 0 9 0 0) 70 = false
    ∧ slotState (xTk 0x46 0 70 0x80000000) 70 ≤ tsWaiting ∧ tsReady < fld (0x60000000 : Word) 31 29 ∧ fld (0x40000000 : Word) 31 29 ≤ tsReady
    ∧ slotState (xTk 0x46 0 70 0) 70 < tsReady ∧ fld (0x57000000 : Word) 28 24 < 24 ∧ (xTk 0 0 0 0).delays = []
    ∧ tickAfter (⟨9, 5⟩ : Delay).wtick.toNat ((tskTick x0 + 1) % 2 ^ 32) = true
    ∧ tickAfter (⟨9, 1⟩ : Delay).wtick.toNat ((tskTick x0 + 1) % 2 ^ 32) = false ∧ rdyFull x0 (⟨9, 1⟩ : Delay).slot = false
    ∧ slotState x0 9 ≠ tsWaiting ∧ slotState (xTk 0 0 9 0xA0000000) 9 = tsWaiting := by
  and_intros <;> decide +kernel

/-- A DMA descriptor of an operation, flags, length, source and destination. -/
def dsc (op fl : Byte) (len src dst : Nat) : Bytes :=
  [op, fl, 0, 0] ++ beBytes 4 len ++ beBytes 8 src ++ beBytes 8 dst ++ List.replicate 8 0

/-- A slice whose channel 0 is in a state, with 16 entries at the start of DRAM, the descriptor given at its head. -/
def xDa (state tail : Word) (d : Bytes) : Slice :=
  { wr x0 [(kDMA, 8, 1), (kDMA, 0x1000, w32 dramBase), (kDMA, 0x1004, w32 (dramBase / 2 ^ 32)), (kDMA, 0x1008, 0x80000010), (kDMA, 0x1010, tail),
      (kDMA, 0x1018, state <<< 29), (kDRC, 0x118, 0)] with
    dram := (List.range d.length).foldl (fun m k => sIns m k ((d[k]?).getD 0)) [] }

/-- The same channel, holding what is given. -/
def xDc (state : Word) (c : DmaCh) : Slice := let x := xDa state 1 []; { x with dma := x.dma.setIfInBounds 0 c }
def dch (d : Option Bytes) (fl : Option (Nat × Bytes)) (fence : Bool) (badw : Option Nat) : DmaCh := ⟨0, d, fl, 0, false, fence, badw⟩
def dNop : Bytes := dsc 0 0 0 0 0
def dCopy : Bytes := dsc 1 0 64 (dramBase + 4096) (dramBase + 4128)

theorem witness_DmaDescriptors : (xDa 1 1 dNop).on = true ∧ chEntries (xDa 1 1 dNop) 0 ≤ fld (16 : Word) 14 0 ∧ fld (0xFFFF8000 : Word) 14 0 < chEntries (xDa 1 1 dNop) 0
    ∧ (dmaCh (xDa 1 1 dNop) 0).desc = none ∧ accepts (xDa 1 1 dNop) kDMA = true ∧ chState (xDa 1 1 dNop) 0 = chRunning
    ∧ chHead (xDa 1 1 dNop) 0 ≠ chTail (xDa 1 1 dNop) 0 ∧ PlainDram (xDa 1 1 dNop) (descAddr (xDa 1 1 dNop) 0) 32
    ∧ dNop = dramGet (xDa 1 1 dNop) (descAddr (xDa 1 1 dNop) 0 - dramBase) 32 ∧ dCopy = dramGet (xDa 1 1 dCopy) 0 32
    ∧ (∀ op ∈ [0, 1, 2, 3, 4], dOp (dsc (BitVec.ofNat 8 op) 0x20 0 0 0) = op ∧ badDesc (dsc (BitVec.ofNat 8 op) 0x20 0 0 0) = true)
    ∧ opUnlock < dOp (dsc 5 0 0 0 0) ∧ badDesc dNop = false ∧ badDesc dCopy = false
    ∧ (∀ op ∈ [2, 3, 4], badDesc (dsc (BitVec.ofNat 8 op) 0 0 0 0) = false ∧ dFlag (dsc (BitVec.ofNat 8 op) 0 0 0 0) 0 = false)
    ∧ (∀ op ∈ [3, 4], badDesc (dsc (BitVec.ofNat 8 op) 1 0 0 0) = false ∧ dFlag (dsc (BitVec.ofNat 8 op) 1 0 0 0) 0 = true)
    ∧ (dSrc dCopy < dDst dCopy ∧ dDst dCopy < dSrc dCopy + dLen dCopy) ∧ Unmirrored (xDa 1 1 dCopy) (dSrc dCopy / 64 * 64 - dramBase) 64
    ∧ (xDa 1 1 dCopy).poison = [] ∧ (xDa 1 1 dCopy).rebuilds = [] ∧ (xDa 1 1 dCopy).lostChans = []
    ∧ mapped (dSrc dCopy / 64 * 64) ((dSrc dCopy + dLen dCopy + 63) / 64 * 64 - dSrc dCopy / 64 * 64) = true
    ∧ wbit (tabGet x0 tL2 0 0) 31 = false ∧ wbit (tabGet (tabSet x0 tL2 0 0 0x80000000) tL2 0 0) 31 = true
    ∧ PlainDram (wr (xDa 1 1 (dsc 3 1 0 0 0)) [(kDRC, 0x110, 256)]) (dramBase + region (wr x0 [(kDRC, 0x110, 256)]) kDRC 0x110) 4
    ∧ bit (beNat (dramGet x0 (region x0 kDRC 0x110) 4)) 31 = false
    ∧ (dmaCh (xDc 1 (dch (some dCopy) (some (dramBase + 4096, [7])) false none)) 0).desc = some dCopy
    ∧ (dmaCh (xDc 1 (dch (some dCopy) (some (dramBase + 4096, [7])) false none)) 0).flight = some (dramBase + 4096, [7])
    ∧ chCnt (xDc 1 (dch (some dCopy) none false none)) 0 = 0 ∧ dmaGoes (xDc 1 (dch (some dCopy) none false none)) = true
    ∧ mapped ((dramBase + 4096) / 64 * 64) ((dramBase + 4096 + 1 + 63) / 64 * 64 - (dramBase + 4096) / 64 * 64) = true
    ∧ Unmirrored (xDc 1 (dch (some dCopy) none false none)) 4096 1 ∧ descAddr (xDc 1 (dch none none false none)) 0 + 32 ≤ dramBase + 4096
    ∧ Unmirrored (xDc 1 (dch (some dCopy) none false none)) 0 32 ∧ (dch (some dCopy) none true none).fencing = true
    ∧ (dch (some dCopy) none true (some 9)).badWrite = some 9 ∧ (dmaCh x0 0).flight = none ∧ (dmaCh x0 0).fencing = false
    ∧ chState (xDc 2 (dch (some dCopy) none false none)) 0 ≠ chRunning := by
  unfold PlainDram Unmirrored; and_intros <;> decide +kernel

theorem witness_DmaChannels : chState (xDa 0 0 []) 0 = chIdle ∧ chState (xDa 1 1 []) 0 = chRunning ∧ chState (xDa 2 1 []) 0 = chPaused
    ∧ chState (xDa 3 1 []) 0 = chHalted ∧ (dmaCh (xDc 1 { dch none none false none with pauseReq := true }) 0).pauseReq = true
    ∧ (dmaCh (xDc 1 (dch none none false none)) 0).pauseReq = false ∧ (dmaCh (xDc 2 (dch (some dNop) none false none)) 0).desc = some dNop
    ∧ (dmaCh (xDc 2 (dch none none false none)) 0).desc = none ∧ Unmirrored (xDa 2 1 []) (descAddr (xDa 2 1 []) 0 - dramBase) 32
    ∧ mapped (descAddr (xDa 2 1 []) 0) 32 = true := by
  unfold Unmirrored; and_intros <;> decide +kernel

/-- A slice whose telemetry ring 0 has 64 records, a head and a tail, and whose counter 0 is selected. -/
def xPf (head tail sel par cfg : Word) : Slice :=
  wr x0 [(kPRF, 0x3008, 6), (kPRF, 0x300C, head), (kPRF, 0x3010, tail), (kPRF, 0x3014, cfg), (kPRF, 0x400, sel), (kPRF, 0x600, par),
    (kPRF, 0x1000, 0xFFFFFFFF), (kPRF, 0x1004, 0xFFFF)]

theorem witness_SequencersAndCounters : x0.on = true ∧ seqState x0 0 ≠ sqHalted ∧ seqState (wr x0 [(kMCS, 0x110, 0xA0000000)]) 0 = sqHalted
    ∧ (1 : BitVec 4).toNat = 1 ∧ (7 : BitVec 4).toNat = 7 ∧ (seqOf x0 0).inTrap = false ∧ (5 : BitVec 13).toNat ∉ (seqOf x0 0).romFails
    ∧ (⟨true, (0, 0), [], false, false⟩ : SeqSt).inTrap = true ∧ (⟨false, (5, 3), [5], false, false⟩ : SeqSt).retries = (5, 3)
    ∧ regBit x0 kMCS 0x200 31 = false ∧ regBit (wr x0 [(kMCS, 0x200, 0x81000000)]) kMCS 0x200 31 = true
    ∧ regBit (wr x0 [(kMCS, 0x200, 0x81000000)]) kMCS 0x200 28 = false ∧ regBit (wr x0 [(kMCS, 0x200, 0x81000000)]) kMCS 0x200 24 = true
    ∧ wbit (regGet x0 kPRF 0x400) 31 = false ∧ wbit (regGet (xPf 0 0 0x84000000 0 0) kPRF 0x400) 31 = true
    ∧ pairGet (xPf 0 0 0x84000000 0 0) kPRF 0x1000 = 2 ^ 48 - 1 ∧ windowLen x0 0 = none
    ∧ windowLen (xPf 0 0 0xC0000000 1000 0) 0 = some 1000 ∧ napping x0 = false
    ∧ (let close := fun (e : List (Nat × Nat)) => sGet 0 { xPf 0 0 0xC0000000 1000 0 with winEnd := e }.winEnd 0
      let us := usOf (baseNow (setBase (xPf 0 0 0xC0000000 1000 0) 0 { Base.zero with res := 2500000 * nsUnits }) 0)
      close [(0, 2000)] ≤ us ∧ (close [(0, 2000)] - 1000) % 1000000 / 1000 = (1 : BitVec 20).toNat ∧ ¬(close [(0, 3000)] ≤ us)
      ∧ (close [(0, 2000)] - 1000) % 1000000 / 1000 ≠ (2 : BitVec 20).toNat)
    ∧ fld (4 : Word) 23 0 < trSize (xPf 5 2 0 0 0) 0 ∧ (4 + trSize (xPf 5 2 0 0 0) 0 - 2 % trSize (xPf 5 2 0 0 0) 0) % trSize (xPf 5 2 0 0 0) 0
      ≤ trHeld (xPf 5 2 0 0 0) 0 ∧ trSize (xPf 5 2 0 0 0) 0 ≤ fld (64 : Word) 23 0
    ∧ trHeld (xPf 5 2 0 0 0) 0 < (6 + trSize (xPf 5 2 0 0 0) 0 - 2 % trSize (xPf 5 2 0 0 0) 0) % trSize (xPf 5 2 0 0 0) 0
    ∧ regFld (xPf 5 2 0 0 0x10000) kPRF 0x3014 31 16 ≠ 0 ∧ trHeld (xPf 5 2 0 0 0x10000) 0 ≠ 0 ∧ trHeld (xPf 2 2 0 0 0) 0 = 0
    ∧ sGet 0 x0.telPosted 0 = 0 ∧ sGet 0 { xPf 5 2 0 0 3 with telPosted := [(0, 1)] }.telPosted 0 ≠ 0
    ∧ regFld (xPf 5 2 0 0 3) kPRF 0x3014 15 0 ≤ trHeld (xPf 6 2 0 0 3) 0 := by
  and_intros <;> decide +kernel

/-- A frame of cells 5, and a slice that holds it with one copy in a class queue. -/
def f5 : Frame := { frm 0 with cells := [5] }
def c5 : Copy := cp (.cls 1 0) false false

theorem witness_UnitFaults : x0.on = true ∧ engineActive x0 3 = true ∧ engineActive x0 67 = false ∧ spFree x0 ≠ 0
    ∧ spFree (wr x0 [(kDMK, 0x120, 0x400000)]) = 0 ∧ 0 < regFld (wr x0 [(kDMK, 0x120, 0x400000)]) kDMK 0x120 22 16
    ∧ engineActive (wr x0 [(kDMK, 0x120, 0x400000)]) 3 = true ∧ blkState x0 kCAM ≠ 4 ∧ x0.banksFenced = []
    ∧ (2 : Fin 33).val ∈ { x0 with banksFenced := [2] }.banksFenced ∧ { x0 with banksFenced := [2] }.banksFenced = [2] ∧ (2 : Fin 33).val ≠ 1 ∧ (0, (0 : Fin 16).val) ∉ x0.waysFenced
    ∧ { x0 with hot := [hw r16] }.hot.find? (fun g => decide (g.set = 0) && decide (g.way = (0 : Fin 16).val)) = some (hw r16)
    ∧ x0.hot.find? (fun g => decide (g.set = 0) && decide (g.way = (0 : Fin 16).val)) = none ∧ 5 ∉ x0.cellsRetired
    ∧ 196608 ≤ 196608 ∧ 196607 < 196608 ∧ x0.frames = [] ∧ x0.scenes = [] ∧ 5 ∈ f5.cells ∧ f5.copies = [] ∧ f5.tx = none ∧ f5.pages = []
    ∧ f5.owner < 22 ∧ (∀ j ∈ f5.cells, sFind { x0 with cellsOut := [(5, 1)] }.cellsOut j = some f5.owner) ∧ c5.frm = f5.id
    ∧ (true, (0 : Pipe)) ∈ { x0 with pipesFenced := [(true, (0 : Pipe))] }.pipesFenced ∧ (false, (0 : Pipe)) ∉ x0.pipesFenced
    ∧ (x0.pipesFenced.any fun k => k.1 == true) = false
    ∧ ([((false, 0) : Bool × Pipe)].any fun k => k.1 == false) = true ∧ (false, (1 : Pipe)) ∉ [((false, 0) : Bool × Pipe)]
    ∧ regBit (wr x0 [(kFLT, 0x110, 0x80000000)]) kFLT 0x110 31 = true ∧ regBit x0 kFLT 0x110 31 = false
    ∧ wbit (0x8000000F : Word) 31 = true ∧ 22 ≤ fld (0x80000016 : Word) 4 0 ∧ kPRS ∈ lostBlocks ∧ fenced x0 kDMA = false
    ∧ fld (0x8000000F : Word) 4 0 ∉ lostBlocks ∧ fenced (wr x0 [(kDMA, 8, 4)]) (fld (0x8000000F : Word) 4 0) = true ∧ x0.recovering = none
    ∧ { x0 with recovering := some kDMA }.recovering = some 15 ∧ 15 ≠ kSRG ∧ 15 ≠ kICN ∧ 15 ≠ kFLT
    ∧ seqRuns x0 qBST = true ∧ seqRuns (wr x0 [(kMCS, 0x11C, 0xA0000000)]) qBST = false ∧ (∀ h ∈ x0.held, h.frm ≠ some f5.id) := by
  and_intros <;> decide +kernel

end Sys2Proof.Tests
end

section
/-! Proofs. The rows of the register table, and the bits of a register that a write changes (R4, R489). -/

namespace Sys2Proof.Machine

/-! ### Rows of the register table (R102, R489) -/

/-- The bits that a row's register takes from a write lie in the register. -/
def RegRow.fits (r : RegRow) : Bool := decide (r.rw ||| r.lv < 2 ^ 32)

theorem rowsCommon_fit : ∀ r ∈ rowsCommon, r.fits = true := by decide

theorem rowsOf_fit : ∀ b < 22, ∀ r ∈ rowsOf b, r.fits = true := by decide +kernel

theorem rowAt_fits {blk off : Nat} {r : RegRow} (h : rowAt blk off = some r) : r.rw ||| r.lv < 2 ^ 32 := by
  unfold rowAt at h
  split at h
  · next hb =>
    have hm := List.mem_of_find?_eq_some h
    split at hm
    · exact of_decide_eq_true (rowsCommon_fit r hm)
    · exact of_decide_eq_true (rowsOf_fit blk hb r hm)
  · exact nomatch h

theorem rowAt_blk_lt {blk off : Nat} {r : RegRow} (h : rowAt blk off = some r) : blk < 22 := by
  unfold rowAt at h
  split at h
  · next hb => exact hb
  · exact nomatch h

/-- Of the common registers none is RW or the high word of a pair, and _CTL alone is LV (R102). -/
theorem rowsCommon_types : ∀ off < 0x18,
    ((rowsCommon.find? (·.has off)).all fun r => decide (r.rw = 0 ∧ r.sh = false ∧ (r.lv = 0 ∨ off = 4))) = true := by decide

theorem rowAt_common {blk off : Nat} {r : RegRow} (h : rowAt blk off = some r) (ho : off < 0x18) :
    r.rw = 0 ∧ r.sh = false ∧ (r.lv = 0 ∨ off = 4) := by
  have ht := rowsCommon_types off ho
  rw [rowAt, if_pos (rowAt_blk_lt h), if_pos ho] at h
  rw [h] at ht
  exact of_decide_eq_true ht

/-! ### Written bits (R4) -/

/-- Bits of a register outside a mask. -/
theorem testBit_all32_sub {m i : Nat} (hm : m < 2 ^ 32) (hi : i < 32) : (all32 - m).testBit i = !m.testBit i := by
  rw [show all32 - m = 2 ^ 32 - (m + 1) by unfold all32; omega, Nat.testBit_two_pow_sub_succ hm, decide_eq_true hi, Bool.true_and]

theorem wbit_w32 (n : Nat) {i : Nat} (hi : i < 32) : wbit (w32 n) i = n.testBit i := by
  rw [wbit, w32, BitVec.toNat_ofNat, Nat.testBit_mod_two_pow, decide_eq_true hi, Bool.true_and]

theorem word_ext {a b : Word} (h : ∀ i < 32, wbit a i = wbit b i) : a = b :=
  BitVec.eq_of_getLsbD_eq fun i hi => h i hi

theorem wbit_maskedNew (r : RegRow) (old v : Word) {i : Nat} (hr : r.rw ||| r.lv < 2 ^ 32) (hi : i < 32) :
    wbit (maskedNew r old v) i =
      if r.rw.testBit i || r.lv.testBit i then wbit v i else wbit old i && !(r.w1c.testBit i && wbit v i) := by
  have hc : v.toNat &&& r.w1c < 2 ^ 32 := Nat.and_le_left.trans_lt v.isLt
  rw [maskedNew, wbit_w32 _ hi]
  simp only [Nat.testBit_or, Nat.testBit_and, testBit_all32_sub hr hi, testBit_all32_sub hc hi, wbit]
  cases r.rw.testBit i || r.lv.testBit i with
  | true => simp
  | false => simp [Bool.and_comm]

/-- A write of the value a register holds leaves a register without W1C bits as it is. -/
theorem maskedNew_same (r : RegRow) (v : Word) (hr : r.rw ||| r.lv < 2 ^ 32) (hc : r.w1c = 0) : maskedNew r v v = v :=
  word_ext fun i hi => by rw [wbit_maskedNew r v v hr hi, hc]; simp

/-- A write through a row without writable bits leaves the register as it is. -/
theorem maskedNew_of_ro (r : RegRow) (old v : Word) (hw : r.rw = 0) (hl : r.lv = 0) (hc : r.w1c = 0) : maskedNew r old v = old :=
  word_ext fun i hi => by rw [wbit_maskedNew r old v (by simp [hw, hl]) hi, hw, hl, hc]; simp

/-- Settles O22: a written register bit by bit, every row of the table lying within its 32 bits. -/
theorem writtenBits : Obligations.WrittenBits := by
  intro blk off r old v i hrow hi
  exact wbit_maskedNew r old v (rowAt_fits hrow) hi

end Sys2Proof.Machine
end

section
/-! Proofs. What an access to a register reaches, and the state it leaves (R4, R100, R101, R112, R113). -/

namespace Sys2Proof.Machine

/-! ### Slices of a state -/

@[simp] theorem setSlice_setSlice (s : State) (sl : SliceId) (x y : Slice) : (s.setSlice sl x).setSlice sl y = s.setSlice sl y := by
  simp [State.setSlice, Vector.set_set]

theorem runsOn_bus {c : Instr} {s : State} {sl : SliceId} {y : Slice} {b : BusReply} {P : Slice → Prop}
    (h : exec c s = .next ((s.setSlice sl y).setBus sl b)) (hp : P { y with bus := b }) : RunsOn c s sl P :=
  ⟨_, by rw [h, State.setBus, slice_setSlice_self, setSlice_setSlice], hp⟩

theorem runsOn_bus_self {c : Instr} {s : State} {sl : SliceId} {b : BusReply} {P : Slice → Prop}
    (h : exec c s = .next (s.setBus sl b)) (hp : P { s.slice sl with bus := b }) : RunsOn c s sl P := ⟨_, h, hp⟩

/-- An access of a slice's registers: it leaves the slice as `y`, and reaches its twin's inbox besides. -/
structure Accessed (s t : State) (sl : SliceId) (y : Slice) : Prop where
  slice : t.slice sl = y
  hub : t.hub = s.hub
  pending : t.pending = s.pending
  others : ∀ n, n ≠ sl → n ≠ twin sl → t.slice n = s.slice n

theorem Accessed.trans {s t u : State} {sl : SliceId} {y z : Slice} (h : Accessed s t sl y) (g : Accessed t u sl z) :
    Accessed s u sl z :=
  ⟨g.slice, g.hub.trans h.hub, g.pending.trans h.pending, fun n hn ht => (g.others n hn ht).trans (h.others n hn ht)⟩

/-- A change of a slice, with the messages that go to its twin. -/
theorem accessed_deliver (s : State) (sl : SliceId) (y : Slice) (ms : List TwinMsg) :
    Accessed s ((s.setSlice sl y).deliver (twin sl) ms) sl y :=
  ⟨by rw [slice_deliver_ne _ _ _ _ (twin_ne sl).symm, slice_setSlice_self], rfl, rfl,
    fun n hn ht => by rw [slice_deliver_ne _ _ _ _ ht, slice_setSlice_ne _ _ _ _ hn]⟩

theorem Accessed.setBus {s t : State} {sl : SliceId} {y : Slice} (h : Accessed s t sl y) (b : BusReply) :
    Accessed s (t.setBus sl b) sl { y with bus := b } :=
  h.trans ⟨by rw [State.setBus, slice_setSlice_self, h.slice], rfl, rfl, fun _ hn _ => slice_setSlice_ne _ _ _ _ hn⟩

/-- An access that begins no entry of a power state posts no wake time. -/
theorem posting_of_move_eq (s : State) (sl : SliceId) (was : PwrMove) (h : (s.slice sl).move = was) : s.posting sl was = s := by
  simp [State.posting, h]

/-! ### Addresses of registers (R112, R113) -/

theorem decodeOff_lt {blk o f : Nat} (h : decodeOff blk o = some f) : f < 0x10000 := by
  unfold decodeOff at h
  extract_lets o' g t at h
  split at h
  · exact nomatch h
  · split at h
    · obtain rfl := Option.some.inj h
      have hg : g < 16 := by simp only [g, o']; omega
      have hm : o' % 0x1000 % pow2At t ≤ o' % 0x1000 := Nat.mod_le _ _
      show g * 0x1000 + o' % 0x1000 % pow2At t < _
      omega
    · exact nomatch h

theorem rowAt_of_regAt {x : Slice} {o blk off : Nat} {r : RegRow} (h : regAt x o = some (blk, off, r)) :
    rowAt blk off = some r ∧ off < 0x100000 := by
  unfold regAt at h
  extract_lets b f at h
  split at h
  · obtain ⟨q, hq, he⟩ := Option.map_eq_some_iff.mp h
    simp only [Prod.mk.injEq] at he
    obtain ⟨rfl, rfl, rfl⟩ := he
    exact ⟨hq, Nat.mod_lt _ (by norm_num)⟩
  · obtain ⟨g, hg, h⟩ := Option.bind_eq_some_iff.mp h
    obtain ⟨q, hq, he⟩ := Option.map_eq_some_iff.mp h
    simp only [Prod.mk.injEq] at he
    obtain ⟨rfl, rfl, rfl⟩ := he
    exact ⟨hq, (decodeOff_lt hg).trans (by norm_num)⟩

/-! ### Accesses that reach a register -/

section
variable {x : Slice} {req : Requester} {mode : Priv} {addr : Word} {blk off : Nat} {r : RegRow}

theorem Reaches.on (h : Reaches x req mode addr blk off r) : x.on = true := h.1

theorem Reaches.inSpace (h : Reaches x req mode addr blk off r) : inRegSpace addr.toNat = true := by
  obtain ⟨-, h, -⟩ := h; exact h

theorem Reaches.regAt (h : Reaches x req mode addr blk off r) : regAt x (addr.toNat - 0x40000000) = some (blk, off, r) := by
  obtain ⟨-, -, h, -⟩ := h; exact h

theorem Reaches.row (h : Reaches x req mode addr blk off r) : rowAt blk off = some r := (rowAt_of_regAt h.regAt).1

theorem Reaches.off_lt (h : Reaches x req mode addr blk off r) : off < 0x100000 := (rowAt_of_regAt h.regAt).2

theorem Reaches.off_ne_ctl (h : Reaches x req mode addr blk off r) : off ≠ 4 := by
  obtain ⟨-, -, -, -, -, -, h, -⟩ := h; exact h

theorem Reaches.notForeign (h : Reaches x req mode addr blk off r) : tskForeign req blk off = false := by
  obtain ⟨-, -, -, -, h, -⟩ := h; exact h

theorem Reaches.notClaim (h : Reaches x req mode addr blk off r) : claimReg blk off = none := by
  obtain ⟨-, -, -, -, -, h, -⟩ := h; exact h

/-- An RW register lies above the common registers. -/
theorem Reaches.off_ge_of_rw (h : Reaches x req mode addr blk off r) (hw : r.rw ≠ 0) : 0x18 ≤ off :=
  Nat.le_of_not_lt fun ho => hw (rowAt_common h.row ho).1

/-- An LV register other than _CTL lies above the common registers. -/
theorem Reaches.off_ge_of_lv (h : Reaches x req mode addr blk off r) (hl : r.lv ≠ 0) : 0x18 ≤ off := by
  by_contra ho
  obtain ⟨-, -, h0 | h4⟩ := rowAt_common h.row (Nat.lt_of_not_le ho)
  · exact hl h0
  · exact h.off_ne_ctl h4

theorem Reaches.prfRefuses (h : Reaches x req mode addr blk off r) (y : Slice) (read : Bool) :
    prfRefuses y req mode blk off read = false := by
  obtain ⟨-, -, -, hp, -⟩ := h
  by_cases hb : blk = kPRF
  · have hm : mode ≠ .u := fun hm => hp ⟨hb, Or.inr hm⟩
    simp [Machine.prfRefuses, hm]
  · simp [Machine.prfRefuses, hb]

theorem Reaches.prfHidden (h : Reaches x req mode addr blk off r) (y : Slice) : prfHidden y req blk off = false := by
  obtain ⟨-, -, -, hp, -⟩ := h
  by_cases hb : blk = kPRF
  · have hq : req ≠ .hra := fun hq => hp ⟨hb, Or.inl hq⟩
    simp [Machine.prfHidden, hq]
  · simp [Machine.prfHidden, hb]

theorem Reaches.prfLocked (h : Reaches x req mode addr blk off r) (y : Slice) (v m : Word) :
    prfLocked y req blk off v m = false := by
  obtain ⟨-, -, -, hp, -⟩ := h
  by_cases hb : blk = kPRF
  · have hq : req ≠ .hra := fun hq => hp ⟨hb, Or.inl hq⟩
    simp [Machine.prfLocked, hq]
  · simp [Machine.prfLocked, hb]

/-- What an access reaches depends on the slice's phase, number and registers alone. -/
theorem Reaches.congr (h : Reaches x req mode addr blk off r) {y : Slice} (hp : y.phase = x.phase) (hi : y.id = x.id)
    (hr : y.regs = x.regs) : Reaches y req mode addr blk off r := by
  obtain ⟨hon, hs, ha, hrest⟩ := h
  refine ⟨by rw [← hon, Slice.on, Slice.on, hp], hs, ?_, hrest⟩
  have hs : strictDecode y = strictDecode x := by simp only [strictDecode, regBit, regGet, hi, hr]
  rw [← ha, Machine.regAt, Machine.regAt, hs]

end

theorem mixWord_allOnes (old v : Word) : mixWord old v allOnes = v := by
  show old &&& ~~~BitVec.allOnes 32 ||| v &&& BitVec.allOnes 32 = v
  simp only [BitVec.not_allOnes, BitVec.and_zero, BitVec.zero_or, BitVec.and_allOnes]

section
variable {s : State} {sl : SliceId} {req : Requester} {mode : Priv} {addr : Word} {blk off : Nat} {r : RegRow}
variable (h : Reaches (s.slice sl) req mode addr blk off r)
include h

theorem Reaches.regsRead : s.regsRead sl req mode (addr.toNat - 0x40000000) =
    (.ok (readReg (s.slice sl) req blk off r).1,
      (s.setSlice sl (readReg (s.slice sl) req blk off r).2).deliver (twin sl)
        (sentSince (s.slice sl) (readReg (s.slice sl) req blk off r).2)) := by
  simp only [State.regsRead, h.regAt, h.prfRefuses, h.prfHidden, Bool.false_eq_true, if_false]

/-- A read of a register that an access reaches. -/
theorem Reaches.readWord : ∃ t, s.readWord sl req mode addr.toNat = (.ok (readReg (s.slice sl) req blk off r).1, t)
    ∧ Accessed s t sl (readReg (s.slice sl) req blk off r).2 := by
  exact ⟨_, by rw [State.readWord, if_pos h.inSpace, h.regsRead], accessed_deliver s sl _ _⟩

/-- A write of a register that an access reaches, where it begins no entry of a power state. -/
theorem Reaches.writeWord (v : Word)
    (hm : (writeReg (s.slice sl) req mode (paired s sl) blk off r v).move = (s.slice sl).move) :
    ∃ t, s.writeWord sl req mode addr.toNat v allOnes = (.ok 0, t)
      ∧ Accessed s t sl (writeReg (s.slice sl) req mode (paired s sl) blk off r v) := by
  have hd := accessed_deliver s sl (writeReg (s.slice sl) req mode (paired s sl) blk off r v)
    (sentSince (s.slice sl) (writeReg (s.slice sl) req mode (paired s sl) blk off r v))
  refine ⟨_, ?_, hd⟩
  obtain ⟨-, -, -, -, -, -, h4, hsrg, hslc⟩ := id h
  have h130 : ¬(blk = kSLC ∧ off = 0x130) := fun ⟨hb, ho⟩ => hslc ⟨hb, Or.inl ho⟩
  have h140 : ¬(blk = kSLC ∧ off = 0x140) := fun ⟨hb, ho⟩ => hslc ⟨hb, Or.inr ho⟩
  rw [State.writeWord, if_pos h.inSpace]
  simp only [State.regsWrite, h.regAt, h.prfRefuses, h.prfLocked, Bool.false_eq_true, if_false, mixWord_allOnes]
  rw [State.regWrite, if_neg h4, if_neg hsrg, if_neg h130, if_neg h140]
  rw [posting_of_move_eq _ _ _ (by rw [hd.slice, hm])]

/-- A 4-byte read of a register that an access reaches. -/
theorem Reaches.busRead : ∃ t, busRead sl req mode addr s = .next t ∧ Accessed s t sl
    { (readReg (s.slice sl) req blk off r).2 with bus := .value (readReg (s.slice sl) req blk off r).1 } := by
  obtain ⟨t, ht, ha⟩ := h.readWord
  exact ⟨_, by rw [Machine.busRead, if_pos h.on, ht]; rfl, ha.setBus _⟩

/-- A 4-byte write of a register that an access reaches. -/
theorem Reaches.busWrite (v : Word)
    (hm : (writeReg (s.slice sl) req mode (paired s sl) blk off r v).move = (s.slice sl).move) :
    ∃ t, busWrite sl req mode addr v s = .next t
      ∧ Accessed s t sl { writeReg (s.slice sl) req mode (paired s sl) blk off r v with bus := .done } := by
  obtain ⟨t, ht, ha⟩ := h.writeWord v hm
  exact ⟨_, by rw [Machine.busWrite, if_pos h.on, ht]; rfl, ha.setBus _⟩

end

/-! ### Stored values -/

theorem regsBut_storeMasked {x y : Slice} {ks : List (Nat × Nat)} (h : RegsBut x y ks) (b o : Nat) (r : RegRow) (v : Word)
    (ho : o < 0x100000) (hm : (b, o) ∈ ks) : RegsBut x (storeMasked y b o r v) ks := regsBut_regSet h b o _ ho hm

@[simp] theorem regGet_storeMasked_self (x : Slice) (b o : Nat) (r : RegRow) (v : Word) :
    regGet (storeMasked x b o r v) b o = maskedNew r (regGet x b o) v := regGet_regSet_self ..

/-- A direct write sets CHANGED of its block at most (R126). -/
theorem regsOnlyBut_noteReg (x : Slice) (b o : Nat) : RegsOnlyBut x (noteReg x b o) [(b, 8)] := by
  unfold noteReg
  split
  · exact (regsOnly_regPut ..).but (regsBut_regPut (RegsBut.refl x _) b 8 5 5 1 (by norm_num) (by simp))
  · exact (RegsOnly.refl x).but (RegsBut.refl x _)

theorem regsBut_noteReg {x y : Slice} {ks : List (Nat × Nat)} (h : RegsBut x y ks) (b o : Nat) (hm : (b, 8) ∈ ks) :
    RegsBut x (noteReg y b o) ks :=
  h.trans ((regsOnlyBut_noteReg y b o).2.mono (by simpa using hm))

theorem regGet_noteReg (x : Slice) (b o : Nat) {o' : Nat} (ho : o' < 0x100000) (h8 : o' ≠ 8) :
    regGet (noteReg x b o) b o' = regGet x b o' :=
  (regsOnlyBut_noteReg x b o).2 b o' ho (by simpa using h8)

end Sys2Proof.Machine
end

section
/-! Proofs. Writes of 32-bit registers and of the counter CSRs (R4, R101, R414). -/

namespace Sys2Proof.Machine

/-! ### Counter CSRs -/

/-- A CSR access of a CPU that is not fenced. -/
theorem runsOn_onCsr {i : Instr} {s : State} {sl : SliceId} {c : Cpu} {f : Slice → Cpu → Slice} {P : Slice → Prop}
    (h : exec i s = onCsr sl (.cpu c) f s) (hon : (s.slice sl).on = true) (hc : cpuState (s.slice sl) c.val ≠ cpuFenced)
    (hp : P (f (s.slice sl) c)) : RunsOn i s sl P :=
  runsOn_onStarted h hon (by simp only [if_neg hc]; exact hp)

theorem csrWrite_eq (x : Slice) (c : Cpu) (mode : Priv) (k : CoreCsr) (v : Word) :
    csrWrite x c mode k v =
      if k = .mcounteren ∧ mode = .m then
        { x with cores := x.cores.set c.val { x.cores[c.val] with mcounteren := v }, bus := .done }
      else if k = .scounteren ∧ mode ≠ .u then
        { x with cores := x.cores.set c.val { x.cores[c.val] with scounteren := v }, bus := .done }
      else { x with bus := .illegal } := by
  cases k with
  | mcounteren => cases mode <;> rfl
  | scounteren => cases mode <;> rfl
  | cycle | time | instret | mhartid => rfl
  | hpmcounter n => rfl

/-! ### Writes of one register -/

section
variable {x : Slice} {req : Requester} {mode : Priv} {pk : Bool} {blk off : Nat} {r : RegRow} {v : Word}

theorem writeReg_single (hs : r.sh = false) (hp : pairLow blk off = none) :
    writeReg x req mode pk blk off r v = writeOne x req mode pk blk off r v := by
  simp only [writeReg, hs, hp, Bool.false_eq_true, if_false]

theorem writable_of_rw (h : r.rw ≠ 0) : r.writable = true := by
  have : r.rw ||| r.lv ||| r.w1c ≠ 0 := fun e => h (Nat.or_eq_zero_iff.mp (Nat.or_eq_zero_iff.mp e).1).1
  simp [RegRow.writable, this]

variable (hf : tskForeign req blk off = false) (hslow : r.slow = false)
include hf hslow

theorem writeOne_rw_disabled (hw : r.rw ≠ 0) (hd : blkState x blk = 0) :
    writeOne x req mode pk blk off r v = rwWrite x blk off r v := by
  rw [writeOne, if_neg (by simp [hf, writable_of_rw hw]), if_neg (by simp [hslow]), if_neg hw]; exact if_pos hd

theorem writeOne_rw_ignored (hw : r.rw ≠ 0) (hd : blkState x blk ≠ 0) :
    writeOne x req mode pk blk off r v = writeIgnored (storeMasked x blk off { r with rw := 0 } v) blk off := by
  rw [writeOne, if_neg (by simp [hf, writable_of_rw hw]), if_neg (by simp [hslow]), if_neg hw]; exact if_neg hd

theorem writeOne_live (hw : r.rw = 0) (hwr : r.writable = true) :
    writeOne x req mode pk blk off r v = liveWrite x req mode pk blk off r v := by
  rw [writeOne, if_neg (by simp [hf, hwr]), if_neg (by simp [hslow]), if_pos hw]

end

/-- An RW register and its committed image take a value, in a block that Serge does not follow (R101, R103). -/
theorem rwWrite_eq (x : Slice) (blk off : Nat) (r : RegRow) (v : Word) (hl : blk ≠ kLNE) (hs : blk ≠ kSRG) :
    rwWrite x blk off r v = noteReg (putRw x blk off (maskedNew r (regGet x blk off) v)) blk off := by
  rw [rwWrite, afterConfig, if_neg (by simp [hl.symm, hs.symm])]

/-- The registers that a write of one register leaves, itself and _STAT.CHANGED apart. -/
theorem regsBut_rwWrite (x : Slice) {blk off : Nat} (r : RegRow) (v : Word) (hl : blk ≠ kLNE) (hs : blk ≠ kSRG)
    (ho : off < 0x100000) : RegsBut x (rwWrite x blk off r v) [(blk, off), (blk, 8)] := by
  rw [rwWrite_eq x blk off r v hl hs]
  refine regsBut_noteReg ?_ blk off (by simp)
  exact regsBut_of_eq (regsBut_regSet (RegsBut.refl x _) blk off _ ho (by simp)) rfl rfl

theorem regGet_rwWrite (x : Slice) {blk off : Nat} (r : RegRow) (v : Word) (hl : blk ≠ kLNE) (hs : blk ≠ kSRG)
    (ho : off < 0x100000) (h8 : off ≠ 8) : regGet (rwWrite x blk off r v) blk off = maskedNew r (regGet x blk off) v := by
  rw [rwWrite_eq x blk off r v hl hs, regGet_noteReg _ _ _ ho h8]
  exact regGet_regSet_self x blk off _

theorem rwWrite_frame (x : Slice) (blk off : Nat) (r : RegRow) (v : Word) (hl : blk ≠ kLNE) (hs : blk ≠ kSRG) :
    rwWrite x blk off r v = { x with regs := (rwWrite x blk off r v).regs, image := (rwWrite x blk off r v).image } := by
  rw [rwWrite_eq x blk off r v hl hs]
  obtain ⟨q, hq⟩ := (regsOnlyBut_noteReg (putRw x blk off (maskedNew r (regGet x blk off) v)) blk off).1
  rw [hq]; rfl

theorem image_rwWrite (x : Slice) (blk off : Nat) (r : RegRow) (v : Word) (hl : blk ≠ kLNE) (hs : blk ≠ kSRG) :
    sGet (resetOf x.id.val blk off) (rwWrite x blk off r v).image (regKey blk off) = maskedNew r (regGet x blk off) v := by
  rw [rwWrite_eq x blk off r v hl hs]
  obtain ⟨q, hq⟩ := (regsOnlyBut_noteReg (putRw x blk off (maskedNew r (regGet x blk off) v)) blk off).1
  rw [hq]; exact sGet_sPut_self _ _ _ _

/-! ### Writes that the block's state refuses (R101) -/

theorem regsOnly_writeIgnored (x : Slice) (blk off : Nat) : RegsOnly x (writeIgnored x blk off) := by
  unfold writeIgnored
  refine RegsOnly.trans ?_ (regsOnly_raise _ blk 13)
  split
  · exact regsOnly_regPut ..
  · exact regsOnly_regSet ..

theorem regsBut_writeIgnored {x y : Slice} {ks : List (Nat × Nat)} (h : RegsBut x y ks) (blk off : Nat) (hb : blk < 22)
    (hm : (blk, 0xC) ∈ ks) (hk : raiseKeys blk 13 ⊆ ks) : RegsBut x (writeIgnored y blk off) ks := by
  unfold writeIgnored
  refine regsBut_raise ?_ blk 13 (by omega) hk
  split
  · exact regsBut_regPut h blk 0xC 30 30 1 (by norm_num) hm
  · exact regsBut_regSet h blk 0xC _ (by norm_num) hm

/-- Raising a cause leaves the common registers of every block. -/
theorem regGet_raise_common (x : Slice) (b c b' : Nat) {o : Nat} (hc : b * 16 + c < 0x10000) (ho : o < 0x18) :
    regGet (raise x b c) b' o = regGet x b' o :=
  regsBut_raise (RegsBut.refl x (raiseKeys b c)) b c hc (List.Subset.refl _) b' o (by omega)
    (by simp [raiseKeys]; omega)

/-- The first ignored write names its offset in _WIGN. -/
theorem wign_writeIgnored_first (x : Slice) {blk off : Nat} (hb : blk < 22) (h : regBit x blk 0xC 31 = false) :
    regGet (writeIgnored x blk off) blk 0xC = w32 (2 ^ 31 + off) := by
  rw [writeIgnored, if_neg (by simp [h]), regGet_raise_common _ _ _ _ (by omega) (by norm_num), regGet_regSet_self]

/-- A further ignored write shows in _WIGN. -/
theorem wign_writeIgnored_again (x : Slice) {blk off : Nat} (hb : blk < 22) (h : regBit x blk 0xC 31 = true) :
    regBit (writeIgnored x blk off) blk 0xC 30 = true := by
  rw [writeIgnored, if_pos h, regBit, regGet_raise_common _ _ _ _ (by omega) (by norm_num)]
  exact regBit_setRegBit x blk 0xC 30 (by norm_num)

/-! ### Writes that take effect at once -/

theorem w1cFields_of_ge (x : Slice) {blk off : Nat} (v : Word) (ho : 0x18 ≤ off) (hr : ¬(blk = kRIF ∧ off = 0x140))
    (hd : ¬(blk = kDRC ∧ off = 0x148)) : w1cFields x blk off v = x := by
  rw [w1cFields, if_neg (by omega), if_neg (by omega), if_neg (by omega), if_neg hr, if_neg hd]

/-- A write of an LV or W1C register that does nothing of its own. -/
theorem liveWrite_eq (x : Slice) {req : Requester} {mode : Priv} {pk : Bool} {blk off : Nat} {r : RegRow} {v : Word}
    (hc : coreWrite x req mode pk blk off r v = none) (hw : ownWrite x blk off v = none) (ho : 0x18 ≤ off)
    (hr : ¬(blk = kRIF ∧ off = 0x140)) (hd : ¬(blk = kDRC ∧ off = 0x148)) :
    liveWrite x req mode pk blk off r v = noteReg (storeMasked x blk off r v) blk off := by
  rw [liveWrite, hc, Option.orElse_none, hw, w1cFields_of_ge _ v ho hr hd]

theorem regsOnly_noteStored (x : Slice) (blk off : Nat) (r : RegRow) (v : Word) :
    RegsOnly x (noteReg (storeMasked x blk off r v) blk off) :=
  (regsOnly_regSet x blk off _).trans (regsOnlyBut_noteReg _ blk off).1

/-- A write that only changes registers, as the access leaves its slice. -/
theorem RegsOnly.withBus {x y : Slice} (h : RegsOnly x y) (b : BusReply) :
    { y with bus := b } = { x with regs := y.regs, bus := b } := by
  obtain ⟨q, rfl⟩ := h; rfl

theorem RegsOnly.move_eq {x y : Slice} (h : RegsOnly x y) : y.move = x.move := by
  obtain ⟨q, rfl⟩ := h; rfl

section
variable {s : State} {sl : SliceId} {req : Requester} {mode : Priv} {addr : Word} {blk off : Nat} {r : RegRow}

/-- REGISTER_WRITE of a register that an access reaches: the state it leaves. -/
theorem Reaches.runs_registerWrite (h : Reaches (s.slice sl) req mode addr blk off r) (v : Word) {y : Slice} {P : State → Prop}
    (hy : writeReg (s.slice sl) req mode (paired s sl) blk off r v = y) (hm : y.move = (s.slice sl).move)
    (hp : ∀ t, Accessed s t sl { y with bus := .done } → P t) : Runs (.registerWrite sl req mode (.mem addr) v) s P := by
  subst hy
  obtain ⟨t, ht, ha⟩ := h.busWrite v hm
  exact Runs.intro ht (hp t ha)

variable (h : Reaches (s.slice sl) req mode addr blk off r) (hslow : r.slow = false) (hsh : r.sh = false)
  (hpair : pairLow blk off = none) (v : Word)
include h hslow hsh hpair

/-- An RW register of a DISABLED block takes the bits that may be written, and so does its committed image (R101). -/
theorem runs_registerWrite_rw (hw : r.rw ≠ 0) (hd : blkState (s.slice sl) blk = 0) (hl : blk ≠ kLNE) (hs : blk ≠ kSRG) :
    Runs (.registerWrite sl req mode (.mem addr) v) s fun t =>
      t.slice sl = { s.slice sl with regs := (t.slice sl).regs, image := (t.slice sl).image, bus := .done }
      ∧ RegsBut (s.slice sl) (t.slice sl) [(blk, off), (blk, 8)]
      ∧ regGet (t.slice sl) blk off = maskedNew r (regGet (s.slice sl) blk off) v
      ∧ sGet (resetOf (s.slice sl).id.val blk off) (t.slice sl).image (regKey blk off) = maskedNew r (regGet (s.slice sl) blk off) v
      ∧ t.hub = s.hub ∧ t.pending = s.pending ∧ ∀ n, n ≠ sl → n ≠ twin sl → t.slice n = s.slice n := by
  have hfr := rwWrite_frame (s.slice sl) blk off r v hl hs
  have h8 : off ≠ 8 := by have := h.off_ge_of_rw hw; omega
  refine h.runs_registerWrite v ((writeReg_single hsh hpair).trans (writeOne_rw_disabled h.notForeign hslow hw hd))
    (by rw [hfr]) fun t ha => ?_
  rw [ha.slice]
  refine ⟨by rw [hfr], ?_, ?_, ?_, ha.hub, ha.pending, ha.others⟩
  · exact regsBut_of_eq (regsBut_rwWrite _ r v hl hs h.off_lt) rfl rfl
  · exact regGet_rwWrite _ r v hl hs h.off_lt h8
  · exact image_rwWrite _ blk off r v hl hs

/-- An RW register of any other block keeps its value, and _WIGN says so (R101). -/
theorem runs_registerWrite_ignored (hw : r.rw ≠ 0) (hlv : r.lv = 0) (hwc : r.w1c = 0) (hd : blkState (s.slice sl) blk ≠ 0) :
    Runs (.registerWrite sl req mode (.mem addr) v) s fun t =>
      t.slice sl = { s.slice sl with regs := (t.slice sl).regs, bus := .done }
      ∧ RegsBut (s.slice sl) (t.slice sl) ((blk, 0xC) :: raiseKeys blk 13)
      ∧ (regBit (s.slice sl) blk 0xC 31 = false → regGet (t.slice sl) blk 0xC = w32 (2 ^ 31 + off))
      ∧ (regBit (s.slice sl) blk 0xC 31 = true → regBit (t.slice sl) blk 0xC 30 = true)
      ∧ t.hub = s.hub ∧ ∀ n, n ≠ sl → n ≠ twin sl → t.slice n = s.slice n := by
  have hb := rowAt_blk_lt h.row
  -- without its RW bits the row stores what the register holds
  have hst : RegsBut (s.slice sl) (storeMasked (s.slice sl) blk off { r with rw := 0 } v) [] := by
    intro b o ho _
    by_cases hk : b = blk ∧ o = off
    · rw [hk.1, hk.2, regGet_storeMasked_self, maskedNew_of_ro { r with rw := 0 } _ _ rfl hlv hwc]
    · exact regGet_regSet_ne _ _ _ _ _ _ (regKey_ne h.off_lt ho (not_and_or.mp hk))
  have hbit : regBit (storeMasked (s.slice sl) blk off { r with rw := 0 } v) blk 0xC 31 = regBit (s.slice sl) blk 0xC 31 := by
    rw [regBit, regBit, hst blk 0xC (by norm_num) List.not_mem_nil]
  have hro := (regsOnly_regSet (s.slice sl) blk off (maskedNew { r with rw := 0 } (regGet (s.slice sl) blk off) v)).trans
    (regsOnly_writeIgnored _ blk off)
  refine h.runs_registerWrite v ((writeReg_single hsh hpair).trans (writeOne_rw_ignored h.notForeign hslow hw hd))
    hro.move_eq fun t ha => ?_
  rw [ha.slice]
  refine ⟨hro.withBus _, ?_, fun hf => ?_, fun ht => ?_, ha.hub, ha.others⟩
  · refine regsBut_of_eq (regsBut_writeIgnored (hst.mono (List.nil_subset _)) blk off hb ?_ ?_) rfl rfl
    · simp
    · simp
  · exact wign_writeIgnored_first _ hb (hbit.trans hf)
  · exact wign_writeIgnored_again _ hb (hbit.trans ht)

/-- An LV or W1C register takes or clears its bits at once (R4). -/
theorem runs_registerWrite_live (hw : r.rw = 0) (hwr : r.writable = true) (ho : 0x18 ≤ off)
    (hc : coreWrite (s.slice sl) req mode (paired s sl) blk off r v = none) (hown : ownWrite (s.slice sl) blk off v = none)
    (hr : ¬(blk = kRIF ∧ off = 0x140)) (hd : ¬(blk = kDRC ∧ off = 0x148)) :
    Runs (.registerWrite sl req mode (.mem addr) v) s fun t =>
      t.slice sl = { s.slice sl with regs := (t.slice sl).regs, bus := .done }
      ∧ RegsBut (s.slice sl) (t.slice sl) [(blk, off), (blk, 8)]
      ∧ regGet (t.slice sl) blk off = maskedNew r (regGet (s.slice sl) blk off) v
      ∧ t.hub = s.hub ∧ ∀ n, n ≠ sl → n ≠ twin sl → t.slice n = s.slice n := by
  have hro := regsOnly_noteStored (s.slice sl) blk off r v
  refine h.runs_registerWrite v ((writeReg_single hsh hpair).trans ((writeOne_live h.notForeign hslow hw hwr).trans
    (liveWrite_eq _ hc hown ho hr hd))) hro.move_eq fun t ha => ?_
  rw [ha.slice]
  refine ⟨hro.withBus _, ?_, ?_, ha.hub, ha.others⟩
  · exact regsBut_of_eq (regsBut_noteReg (regsBut_storeMasked (RegsBut.refl _ _) _ _ _ _ h.off_lt (by simp)) blk off (by simp)) rfl rfl
  · exact (regGet_noteReg _ blk off h.off_lt (by omega)).trans (regGet_storeMasked_self ..)

end

/-- Settles O21: by the type of the register and the state of its block. -/
theorem registerWrite : Obligations.RegisterWrite := by
  intro s sl req mode addr v blk off r c k x x'
  refine ⟨fun hon hc => runsOn_onCsr (f := fun x c => csrWrite x c mode k v) rfl hon hc (csrWrite_eq x c mode k v), fun h hslow hsh hpair => ⟨?_, ?_, ?_⟩⟩
  · exact runs_registerWrite_rw h hslow hsh hpair v
  · exact runs_registerWrite_ignored h hslow hsh hpair v
  · exact runs_registerWrite_live h hslow hsh hpair v

end Sys2Proof.Machine
end

section
/-! Proofs. Reads of 32-bit registers and of the counter CSRs (R4, R103, R112, R113, R414, R462). -/

namespace Sys2Proof.Machine

/-! ### Counter CSRs -/

/-- A counter CSR is read in M mode, in S mode where mcounteren permits it, in U mode where scounteren does too. -/
theorem csrReadable_iff {core : CoreSt} {mode : Priv} {k : CoreCsr} {i : Nat} (hk : counterBit k = some i) :
    csrReadable core mode k = true ↔
      mode = .m ∨ wbit core.mcounteren i = true ∧ (mode = .s ∨ wbit core.scounteren i = true) := by
  cases mode <;> simp [csrReadable, hk]

theorem csrRead_permitted {x : Slice} {c : Cpu} {mode : Priv} {k : CoreCsr} {n : Nat}
    (hr : csrReadable x.cores[c.val] mode k = true) (hv : csrValue x c k = (d64 n, x)) (hn : n < 2 ^ 64) :
    csrRead x c mode k = { x with bus := .pair (w32 (n / 2 ^ 32)) (w32 n) } := by
  have hd : (d64 n).toNat = n := by rw [d64, BitVec.toNat_ofNat, Nat.mod_eq_of_lt hn]
  rw [csrRead, if_pos (by exact hr), hv]
  simp only [hd]

theorem csrRead_refused {x : Slice} {c : Cpu} {mode : Priv} {k : CoreCsr} (hr : ¬csrReadable x.cores[c.val] mode k = true) :
    csrRead x c mode k = { x with bus := .illegal } := if_neg hr

/-- cycle counts the CPU's clocks in 64 bits (R414). -/
theorem csrValue_cycle (x : Slice) (c : Cpu) : csrValue x c .cycle = (d64 (x.cores[c.val].half / 2 % 2 ^ 64), x) := by
  have hd : d64 (x.cores[c.val].half / 2) = d64 (x.cores[c.val].half / 2 % 2 ^ 64) :=
    BitVec.eq_of_toNat_eq (by simp [d64])
  rw [← hd]; rfl

theorem runsOn_csrRead {s : State} {sl : SliceId} {c : Cpu} {mode : Priv} {k : CoreCsr} {b : BusReply}
    (hon : (s.slice sl).on = true) (hc : cpuState (s.slice sl) c.val ≠ cpuFenced)
    (h : csrRead (s.slice sl) c mode k = { s.slice sl with bus := b }) :
    RunsOn (.registerRead sl (.cpu c) mode (.csr k) none) s sl fun y => y = { s.slice sl with bus := b } :=
  runsOn_onCsr (f := fun x c => csrRead x c mode k) rfl hon hc h

/-- A read of mhartid, which M mode alone may read (R409). -/
theorem csrRead_mhartid (x : Slice) (c : Cpu) (mode : Priv) :
    csrRead x c mode .mhartid = { x with bus := if mode = .m then .pair (w32 (c.val / 2 ^ 32)) (w32 c.val) else .illegal } := by
  cases mode with
  | m => rw [csrRead_permitted (n := c.val) rfl rfl (by omega)]; rfl
  | s => rfl
  | u => rfl

/-! ### What a read returns and does -/

section
variable {x : Slice} {req : Requester} {blk off : Nat} {r : RegRow}

/-- A read has nothing to wait for: no reload of its block, no posted write of its slow domain (R103, R107). -/
theorem settleRead_self (hw : r.rw = 0 ∨ reloading x blk = false) (hs : r.slow = false ∨ pendBusy x blk = false) :
    settleRead x blk r = x := by
  have h1 : (decide (r.rw ≠ 0) && reloading x blk) = false := by
    rcases hw with h | h <;> simp [h]
  have h2 : (r.slow && pendBusy x blk) = false := by
    rcases hs with h | h <;> simp [h]
  rw [settleRead, h1]
  simp [h2]

variable (hf : tskForeign req blk off = false) (hc : claimReg blk off = none) (hs : settleRead x blk r = x)
include hf hc hs

theorem readReg_single (hp : pairLow blk off = none) :
    readReg x req blk off r = (regValue x blk off, readEffect x blk off r) := by
  simp only [readReg, hf, hc, hs, hp, Bool.false_eq_true, if_false]

/-- A read of a pair's low word latches its high word (R109). -/
theorem readReg_low (hp : pairLow blk off = some off) : readReg x req blk off r =
    (regValue x blk off, { x with shadow := tagPut x.shadow req (regKey blk off) (regValue x blk (off + 4)) }) := by
  simp only [readReg, hf, hc, hs, hp, Bool.false_eq_true, if_false, if_true]

/-- A read of a pair's high word returns what its requester has latched (R109). -/
theorem readReg_high {lo : Nat} {w : Word} (hp : pairLow blk off = some lo) (hl : lo ≠ off)
    (hw : tagFind x.shadow req (regKey blk lo) = some w) : readReg x req blk off r = (w, x) := by
  simp only [readReg, hf, hc, hs, hp, hl, hw, Bool.false_eq_true, if_false, Option.getD_some]

end

theorem readEffect_rcl (x : Slice) {blk off : Nat} (r : RegRow) (h1 : ¬(blk = kSRG ∧ off = 0x4008))
    (h2 : ¬(blk = kFWD ∧ off = 0x11C)) (h3 : ¬(blk = kTMG ∧ off = 0x208)) (h4 : ¬(blk = kMCS ∧ off = 0x21C)) :
    readEffect x blk off r = rclClear x blk off r := by
  rw [readEffect, if_neg h1, if_neg h2, if_neg h3, if_neg h4]

theorem regsOnly_rclClear (x : Slice) (blk off : Nat) (r : RegRow) : RegsOnly x (rclClear x blk off r) := by
  unfold rclClear
  split
  · exact RegsOnly.refl x
  · exact regsOnly_regSet ..

theorem regsBut_rclClear (x : Slice) {blk off : Nat} (r : RegRow) (ho : off < 0x100000) :
    RegsBut x (rclClear x blk off r) [(blk, off)] := by
  unfold rclClear
  split
  · exact RegsBut.refl x _
  · exact regsBut_regSet (RegsBut.refl x _) blk off _ ho (by simp)

/-- A read clears the RCL bits alone (R4). -/
theorem regGet_rclClear (x : Slice) (blk off : Nat) (r : RegRow) :
    (regGet (rclClear x blk off r) blk off).toNat = (regGet x blk off).toNat &&& (all32 - r.rcl) := by
  have hlt := (regGet x blk off).isLt
  unfold rclClear
  split
  · next h0 => rw [h0, Nat.sub_zero, show all32 = 2 ^ 32 - 1 from rfl, Nat.and_two_pow_sub_one_eq_mod, Nat.mod_eq_of_lt hlt]
  · rw [regGet_regSet_self, w32, BitVec.toNat_ofNat, Nat.mod_eq_of_lt (Nat.and_le_left.trans_lt hlt)]

/-! ### Reads of one register -/

section
variable {s : State} {sl : SliceId} {req : Requester} {mode : Priv} {addr : Word} {blk off : Nat} {r : RegRow}

/-- A read returns the register's value and clears its RCL bits (R4). -/
theorem runs_registerRead (h : Reaches (s.slice sl) req mode addr blk off r) (hp : pairLow blk off = none)
    (hw : r.rw = 0 ∨ reloading (s.slice sl) blk = false) (hs : r.slow = false ∨ pendBusy (s.slice sl) blk = false)
    (h1 : ¬(blk = kSRG ∧ off = 0x4008)) (h2 : ¬(blk = kFWD ∧ off = 0x11C)) (h3 : ¬(blk = kTMG ∧ off = 0x208))
    (h4 : ¬(blk = kMCS ∧ off = 0x21C)) :
    Runs (.registerRead sl req mode (.mem addr) none) s fun t =>
      t.slice sl = { s.slice sl with regs := (t.slice sl).regs, bus := .value (regValue (s.slice sl) blk off) }
      ∧ RegsBut (s.slice sl) (t.slice sl) [(blk, off)]
      ∧ (regGet (t.slice sl) blk off).toNat = (regGet (s.slice sl) blk off).toNat &&& (all32 - r.rcl)
      ∧ t.hub = s.hub ∧ t.pending = s.pending ∧ ∀ n, n ≠ sl → n ≠ twin sl → t.slice n = s.slice n := by
  obtain ⟨t, ht, ha⟩ := h.busRead
  rw [readReg_single h.notForeign h.notClaim (settleRead_self hw hs) hp, readEffect_rcl _ r h1 h2 h3 h4] at ha
  refine Runs.intro ht ?_
  rw [ha.slice]
  refine ⟨(regsOnly_rclClear _ blk off r).withBus _, ?_, ?_, ha.hub, ha.pending, ha.others⟩
  · exact regsBut_of_eq (regsBut_rclClear _ r h.off_lt) rfl rfl
  · exact regGet_rclClear _ blk off r

/-- A read whose parity check finds a mismatch reads after what PARITY_SCAN does with it (R103). -/
theorem registerRead_after_parityScan (h : Reaches (s.slice sl) req mode addr blk off r) (u : ParityUnit) (bad : Bool) :
    ∃ t t', exec (.parityScan sl (some ⟨BitVec.ofNat 28 (blk * 0x100000 + off), u, bad⟩)) s = .next t
      ∧ exec (.registerRead sl req mode (.mem addr) (some (u, bad))) s = .next t'
      ∧ exec (.registerRead sl req mode (.mem addr) none) t = .next t' := by
  have hmis : readMismatch (s.slice sl) req mode addr.toNat (some (u, bad))
      = some ⟨BitVec.ofNat 28 (blk * 0x100000 + off), u, bad⟩ := by
    simp [readMismatch, h.inSpace, h.regAt, h.prfRefuses, h.prfHidden]
  have hnext : ∀ t, ∃ t', busRead sl req mode addr t = .next t' := by
    intro t
    unfold Machine.busRead
    split
    · exact ⟨_, rfl⟩
    · exact ⟨_, rfl⟩
  obtain ⟨t, hscan⟩ : ∃ t, onLink sl (fun x => parityMismatch x ⟨BitVec.ofNat 28 (blk * 0x100000 + off), u, bad⟩) s = .next t :=
    ⟨_, if_pos h.on⟩
  obtain ⟨t', hread⟩ := hnext t
  refine ⟨t, t', hscan, ?_, hread⟩
  show checkedRead sl req mode addr (some (u, bad)) s = _
  simp only [checkedRead, hmis, hscan, hread]

end

/-! ### Registers that a refused read changes (R113, R462) -/

/-- How an access ended is no register. -/
theorem regBit_withBus (x : Slice) (b : BusReply) (blk off i : Nat) : regBit { x with bus := b } blk off i = regBit x blk off i := rfl

theorem regFld_withBus (x : Slice) (b : BusReply) (blk off hi lo : Nat) :
    regFld { x with bus := b } blk off hi lo = regFld x blk off hi lo := rfl

/-- A bus error shows, and the first keeps its offset (R113). -/
theorem busErr_spec (x : Slice) {o : Nat} (ho : o < 2 ^ 28) :
    RegsOnlyBut x (busErr x o) [(kRIF, 0x140)] ∧ regBit (busErr x o) kRIF 0x140 30 = true
      ∧ (regBit x kRIF 0x140 30 = false → regFld (busErr x o) kRIF 0x140 27 0 = o) := by
  unfold busErr
  split
  · next h => exact ⟨(RegsOnly.refl x).but (RegsBut.refl x _), h, fun hf => absurd h (by simp [hf])⟩
  · refine ⟨RegsOnly.but ?_ ?_, ?_, fun _ => ?_⟩
    · exact (regsOnly_regPut x kRIF 0x140 30 30 1).trans (regsOnly_regPut _ kRIF 0x140 27 0 o)
    · exact regsBut_regPut (regsBut_regPut (RegsBut.refl x _) kRIF 0x140 30 30 1 (by norm_num) (by simp)) kRIF 0x140 27 0 o
        (by norm_num) (by simp)
    · rw [regBit, regGet_regPut_self, wbit_setFld _ _ _ _ _ (by norm_num) (by norm_num), if_neg (by norm_num)]
      exact regBit_setRegBit x kRIF 0x140 30 (by norm_num)
    · rw [regFld_regPut_self _ _ _ _ _ _ (by norm_num) (by norm_num)]
      exact Nat.mod_eq_of_lt ho

theorem prfDeny_spec (x : Slice) : RegsOnlyBut x (prfDeny x) [(kPRF, 0x100)] ∧ regBit (prfDeny x) kPRF 0x100 27 = true :=
  ⟨(regsOnly_regPut ..).but (regsBut_regPut (RegsBut.refl x _) kPRF 0x100 27 27 1 (by norm_num) (by simp)),
    regBit_setRegBit x kPRF 0x100 27 (by norm_num)⟩

/-- The counter of refused accesses advances (R83). -/
theorem denied_pageRefused (s : State) (sl : SliceId) (h8 : s.hub.slices.length = 8) :
    ((s.pageRefused sl).hub.tgt sl.val).denied = (s.hub.tgt sl.val).denied + 1 :=
  congrArg HubSlice.denied (tgt_setTgt_self s.hub sl.val { s.hub.tgt sl.val with denied := (s.hub.tgt sl.val).denied + 1 } h8)

/-! ### Reads that reach no register (R83, R112, R113, R462) -/

section
variable {s : State} {sl : SliceId} {req : Requester} {mode : Priv} {addr : Word} {off : Nat} {r : RegRow}
  (hon : (s.slice sl).on = true)
include hon

/-- REGISTER_READ of a started slice, by how its access ends. -/
theorem exec_registerRead_mem {a : Access} {t : State} (h : s.readWord sl req mode addr.toNat = (a, t)) :
    exec (.registerRead sl req mode (.mem addr) none) s = .next (t.setBus sl (busReply a true)) := by
  show busRead sl req mode addr s = _
  rw [Machine.busRead, if_pos hon, h]

/-- An address without a register reads as 0 under the default decode (R112). -/
theorem runsOn_registerRead_no_register (hs : inRegSpace addr.toNat = true)
    (ha : regAt (s.slice sl) (addr.toNat - 0x40000000) = none) (hd : strictDecode (s.slice sl) = false) :
    RunsOn (.registerRead sl req mode (.mem addr) none) s sl fun y => y = { s.slice sl with bus := .value 0 } := by
  have hread : s.readWord sl req mode addr.toNat = (.ok 0, s) := by
    rw [State.readWord, if_pos hs]
    simp only [State.regsRead, ha, hd, Bool.false_eq_true, if_false]
  exact runsOn_bus_self (exec_registerRead_mem hon hread) rfl

/-- Under strict decode it is a bus error (R113). -/
theorem runsOn_registerRead_busError (hs : inRegSpace addr.toNat = true)
    (ha : regAt (s.slice sl) (addr.toNat - 0x40000000) = none) (hd : strictDecode (s.slice sl) = true) :
    RunsOn (.registerRead sl req mode (.mem addr) none) s sl fun y =>
      y = { s.slice sl with regs := y.regs, bus := .busError } ∧ RegsBut (s.slice sl) y [(kRIF, 0x140)]
      ∧ regBit y kRIF 0x140 30 = true
      ∧ (regBit (s.slice sl) kRIF 0x140 30 = false → regFld y kRIF 0x140 27 0 = addr.toNat - 0x40000000) := by
  have ho : addr.toNat - 0x40000000 < 2 ^ 28 := by
    simp only [inRegSpace, Bool.and_eq_true, decide_eq_true_eq] at hs; omega
  have hread : s.readWord sl req mode addr.toNat =
      (.busError, s.setSlice sl (busErr (s.slice sl) (addr.toNat - 0x40000000))) := by
    rw [State.readWord, if_pos hs]
    simp only [State.regsRead, ha, hd, if_true]
  obtain ⟨⟨hregs, hbut⟩, hbit, hoff⟩ := busErr_spec (s.slice sl) ho
  exact runsOn_bus (exec_registerRead_mem hon hread) ⟨RegsOnly.withBus hregs _, regsBut_of_eq hbut rfl rfl,
    (regBit_withBus ..).trans hbit, fun hf => (regFld_withBus ..).trans (hoff hf)⟩

/-- PRF refuses U mode a register that is no counter's (R462). -/
theorem runsOn_registerRead_prfRefused (hs : inRegSpace addr.toNat = true) (hq : req ≠ .hra)
    (ha : regAt (s.slice sl) (addr.toNat - 0x40000000) = some (kPRF, off, r)) (hc : prfCounter off = none) :
    RunsOn (.registerRead sl req .u (.mem addr) none) s sl fun y =>
      y = { s.slice sl with regs := y.regs, bus := .value 0 } ∧ RegsBut (s.slice sl) y [(kPRF, 0x100)]
      ∧ regBit y kPRF 0x100 27 = true := by
  have href : prfRefuses (s.slice sl) req .u kPRF off true = true := by simp [prfRefuses, hq, hc]
  have hread : s.readWord sl req .u addr.toNat = (.ok 0, s.setSlice sl (prfDeny (s.slice sl))) := by
    rw [State.readWord, if_pos hs]
    simp only [State.regsRead, ha, href, if_true]
  obtain ⟨⟨hregs, hbut⟩, hbit⟩ := prfDeny_spec (s.slice sl)
  generalize prfDeny (s.slice sl) = z at hread hregs hbut hbit
  exact runsOn_bus (exec_registerRead_mem hon hread) ⟨RegsOnly.withBus hregs _, regsBut_of_eq hbut rfl rfl,
    (regBit_withBus ..).trans hbit⟩

/-- A page of the hub window that HUBWIN does not permit is an access fault, which the hub counts (R83). -/
theorem runs_registerRead_pageRefused (hh : s.hub.answers = true) (hw : inHubWindow addr.toNat = true)
    (h8 : s.hub.slices.length = 8) (hp : pagePermitted s.hub (.slice sl) ((addr.toNat - 0x50000000) / 4096) = false) :
    Runs (.registerRead sl req mode (.mem addr) none) s fun t => t.slice sl = { s.slice sl with bus := .accessFault }
      ∧ (t.hub.tgt sl.val).denied = (s.hub.tgt sl.val).denied + 1 ∧ ∀ n, n ≠ sl → t.slice n = s.slice n := by
  have hs : inRegSpace addr.toNat = false := by
    simp only [inHubWindow, inRegSpace, Bool.and_eq_true, decide_eq_true_eq, Bool.and_eq_false_iff, decide_eq_false_iff_not] at hw ⊢
    omega
  have hread : s.readWord sl req mode addr.toNat = (.page, s.pageRefused sl) := by
    rw [State.readWord, if_neg (by simp [hs]), if_pos hw]
    simp only [State.winRead, hh, hp, Bool.not_true, Bool.not_false, Bool.false_eq_true, if_false, if_true]
  exact Runs.intro (exec_registerRead_mem hon hread) ⟨slice_setSlice_self .., denied_pageRefused s sl h8,
    fun n hn => slice_setSlice_ne _ _ _ _ hn⟩

/-- An address of nothing is an access fault. -/
theorem runsOn_registerRead_nowhere (hs : inRegSpace addr.toNat = false) (hw : inHubWindow addr.toNat = false)
    (hb : inBootRom addr.toNat = false) :
    RunsOn (.registerRead sl req mode (.mem addr) none) s sl fun y => y = { s.slice sl with bus := .accessFault } := by
  have hread : s.readWord sl req mode addr.toNat = (.bad, s) := by
    rw [State.readWord, if_neg (by simp [hs]), if_neg (by simp [hw]), if_neg (by simp [hb])]
  exact runsOn_bus_self (exec_registerRead_mem hon hread) rfl

end

end Sys2Proof.Machine
end

section
/-! Proofs. The 64-bit pairs: latches, holding registers, and 8-byte accesses (R108 to R111). -/

namespace Sys2Proof.Machine

/-! ### Shadow and holding registers -/

@[simp] theorem tagFind_tagPut_self (l : List (Requester × Nat × Word)) (req : Requester) (key : Nat) (v : Word) :
    tagFind (tagPut l req key v) req key = some v := by
  have hnone : (l.filter fun e => !(decide (e.1 = req) && decide (e.2.1 / 0x100000 = key / 0x100000))).find?
      (fun e => decide (e.1 = req) && decide (e.2.1 = key)) = none := by
    rw [List.find?_eq_none]
    intro e he hk
    simp only [Bool.and_eq_true, decide_eq_true_eq] at hk
    simp [List.mem_filter, hk.1, hk.2] at he
  rw [tagFind, tagPut, List.find?_append, hnone]
  simp

/-- What a requester holds is its own. -/
theorem tagFind_tagPut_ne (l : List (Requester × Nat × Word)) {req q : Requester} (key k : Nat) (v : Word) (h : q ≠ req) :
    tagFind (tagPut l req key v) q k = tagFind l q k := by
  have hkeep : ∀ e : Requester × Nat × Word,
      ((!(decide (e.1 = req) && decide (e.2.1 / 0x100000 = key / 0x100000))) && (decide (e.1 = q) && decide (e.2.1 = k)))
        = (decide (e.1 = q) && decide (e.2.1 = k)) := by
    intro e
    by_cases he : e.1 = q
    · simp [he, h]
    · simp [he]
  rw [tagFind, tagFind, tagPut, List.find?_append, List.find?_filter]
  simp only [Bool.decide_and, Bool.decide_eq_true, hkeep]
  simp [h.symm]

/-- A slice with what a requester holds of a block discarded. -/
def Slice.unheld (x : Slice) (req : Requester) (blk : Nat) : Slice :=
  { x with holding := x.holding.filter fun e => !(decide (e.1 = req) && decide (e.2.1 / 0x100000 = blk)) }

theorem tagFind_unheld (x : Slice) (req : Requester) {blk off : Nat} (ho : off < 0x100000) :
    tagFind (x.unheld req blk).holding req (regKey blk off) = none := by
  have hb : regKey blk off / 0x100000 = blk := by unfold regKey; omega
  rw [tagFind, Option.map_eq_none_iff, List.find?_eq_none]
  intro e he hk
  simp only [Bool.and_eq_true, decide_eq_true_eq] at hk
  simp [Slice.unheld, List.mem_filter, hk.1, hk.2, hb] at he

/-! ### The words of a pair -/

/-- A low word and its high word in the register table. -/
structure PairRows (blk off : Nat) (r rh : RegRow) : Prop where
  low : r.sh = false
  high : rh.sh = true
  highRow : rowAt blk (off + 4) = some rh
  aligned : off % 8 = 0

theorem pairRows_of_pairLow {blk off : Nat} {r : RegRow} (hr : rowAt blk off = some r) (hp : pairLow blk off = some off) :
    ∃ rh, PairRows blk off r rh := by
  rw [pairLow, hr] at hp
  simp only at hp
  split at hp
  · next hs =>
    have h0 : off = 0 := by have := Option.some.inj hp; omega
    exact absurd hs (by rw [(rowAt_common hr (by omega)).2.1]; simp)
  · next hs =>
    split at hp
    · next hk =>
      simp only [Bool.and_eq_true, decide_eq_true_eq] at hk
      cases hrh : rowAt blk (off + 4) with
      | none => rw [hrh] at hk; simp at hk
      | some rh => rw [hrh] at hk; exact ⟨rh, by simpa using hs, by simpa using hk.2, hrh, hk.1⟩
    · exact nomatch hp

theorem PairRows.of_high {blk off : Nat} {r rh rk : RegRow} (h : PairRows blk off r rh) (hk : rowAt blk (off + 4) = some rk) :
    PairRows blk off r rk := by
  obtain rfl : rh = rk := Option.some.inj (h.highRow.symm.trans hk)
  exact h

theorem PairRows.pairLow_high {blk off : Nat} {r rh : RegRow} (h : PairRows blk off r rh) : pairLow blk (off + 4) = some off := by
  simp [pairLow, h.highRow, h.high]

theorem PairRows.high_lt {blk off : Nat} {r rh : RegRow} (h : PairRows blk off r rh) (ho : off < 0x100000) : off + 4 < 0x100000 := by
  have := h.aligned; omega

/-! ### Writes of a pair (R110) -/

/-- Both words of a pair have been stored; the settling of ICN's time may have dropped a timer interrupt (R419). -/
structure PairStored (x y : Slice) (blk off : Nat) (lo hi : Word) : Prop where
  frame : y = { x with regs := y.regs, mtip := y.mtip }
  low : regGet y blk off = lo
  high : regGet y blk (off + 4) = hi
  but : RegsBut x y [(blk, off), (blk, off + 4), (blk, 8)]

section
variable {x y : Slice} {blk off : Nat}

theorem PairStored.noteReg {lo hi : Word} (h : PairStored x y blk off lo hi) (o : Nat) (ho : off + 4 < 0x100000) (h8 : off ≠ 8)
    (h4 : off + 4 ≠ 8) : PairStored x (noteReg y blk o) blk off lo hi := by
  refine ⟨?_, ?_, ?_, regsBut_noteReg h.but blk o (by simp)⟩
  · obtain ⟨q, hq⟩ := (regsOnlyBut_noteReg y blk o).1
    have hf := h.frame
    rw [hq]
    calc y.setRegs q = ({ x with regs := y.regs, mtip := y.mtip } : Slice).setRegs q := congrArg (·.setRegs q) hf
      _ = _ := rfl
  · rw [regGet_noteReg y blk o (by omega) h8, h.low]
  · rw [regGet_noteReg y blk o ho h4, h.high]

/-- Which timer interrupts stand is no part of a pair. -/
theorem PairStored.withMtip {lo hi : Word} (h : PairStored x y blk off lo hi) (m : List Nat) :
    PairStored x { y with mtip := m } blk off lo hi := by
  refine ⟨?_, h.low, h.high, regsBut_of_eq h.but rfl rfl⟩
  have hf := h.frame
  calc ({ y with mtip := m } : Slice)
      = { ({ x with regs := y.regs, mtip := y.mtip } : Slice) with mtip := m } := congrArg (fun z : Slice => { z with mtip := m }) hf
    _ = { x with regs := y.regs, mtip := m } := rfl

/-- The commit of a pair that is neither slow nor the base of a ring or of a DMA channel. -/
theorem pairStored_pairCommit (x : Slice) {rl rh : RegRow} (lo hi : Word) (hslow : rl.slow = false) (hsw : blk ≠ kSWC)
    (hdma : blk ≠ kDMA) (ho : off + 4 < 0x100000) :
    PairStored x (pairCommit x blk off rl rh lo hi) blk off (maskedNew rl (regGet x blk off) lo)
      (maskedNew rh (regGet x blk (off + 4)) hi) := by
  have hk : regKey blk off ≠ regKey blk (off + 4) := by unfold regKey; omega
  have hst : PairStored x (storeMasked (storeMasked x blk off rl lo) blk (off + 4) rh hi) blk off
      (maskedNew rl (regGet x blk off) lo) (maskedNew rh (regGet x blk (off + 4)) hi) := by
    refine ⟨rfl, ?_, ?_, ?_⟩
    · exact (regGet_regSet_ne _ _ _ _ _ _ hk).trans (regGet_storeMasked_self ..)
    · rw [regGet_storeMasked_self]
      exact congrArg (maskedNew rh · hi) (regGet_regSet_ne _ _ _ _ _ _ hk.symm)
    · exact regsBut_storeMasked (regsBut_storeMasked (RegsBut.refl x _) _ _ _ _ (by omega) (by simp)) _ _ _ _ ho (by simp)
  rw [pairCommit, if_neg (by simp [hslow]), if_neg hsw, if_neg (fun h => hdma h.1)]
  extract_lets z
  split
  · exact hst.withMtip (z.mtip.filter (mtimeDue z))
  · exact hst

theorem lowWrite_held {req : Requester} {r rh : RegRow} {v hi : Word} (h : tagFind x.holding req (regKey blk off) = some hi) :
    lowWrite x req blk off r rh v =
      noteReg (noteReg (pairCommit (x.unheld req blk) blk off r rh v hi) blk off) blk (off + 4) := by
  simp only [lowWrite, h]; rfl

theorem lowWrite_alone {req : Requester} {r rh : RegRow} {v : Word} (hslow : r.slow = false)
    (h : tagFind x.holding req (regKey blk off) = none) : lowWrite x req blk off r rh v =
      noteReg (pairCommit (x.unheld req blk) blk off r rh v (regGet x blk (off + 4))) blk off := by
  simp only [lowWrite, h, hslow, Bool.false_eq_true, if_false]; rfl

/-- A write of the low word: both halves where the requester holds the high word, else the low word alone (R110). -/
theorem pairStored_lowWrite (x : Slice) (req : Requester) {r rh : RegRow} (v : Word) (hslow : r.slow = false)
    (hfit : rh.rw ||| rh.lv < 2 ^ 32) (hwc : rh.w1c = 0) (hsw : blk ≠ kSWC) (hdma : blk ≠ kDMA) (ho : off + 4 < 0x100000)
    (h18 : 0x18 ≤ off) :
    PairStored (x.unheld req blk) (lowWrite x req blk off r rh v) blk off (maskedNew r (regGet x blk off) v)
      ((tagFind x.holding req (regKey blk off)).elim (regGet x blk (off + 4)) (maskedNew rh (regGet x blk (off + 4)))) := by
  have hcommit := fun hi => pairStored_pairCommit (x.unheld req blk) (rl := r) (rh := rh) v hi hslow hsw hdma ho
  cases hk : tagFind x.holding req (regKey blk off) with
  | some hi =>
    rw [lowWrite_held hk]
    exact ((hcommit hi).noteReg off ho (by omega) (by omega)).noteReg (off + 4) ho (by omega) (by omega)
  | none =>
    have hsame : maskedNew rh (regGet (x.unheld req blk) blk (off + 4)) (regGet x blk (off + 4)) = regGet x blk (off + 4) :=
      maskedNew_same rh (regGet x blk (off + 4)) hfit hwc
    have hc := (hcommit (regGet x blk (off + 4))).noteReg off ho (by omega) (by omega)
    rw [lowWrite_alone hslow hk]
    rw [hsame] at hc
    exact hc

end

section
variable {x : Slice} {req : Requester} {mode : Priv} {pk : Bool} {blk off : Nat} {r rh : RegRow}

/-- The high word of a writable pair waits in its requester's holding register (R110). -/
theorem writeReg_high (v : Word) (hs : r.sh = true) (hl : r.lv ≠ 0) : writeReg x req mode pk blk off r v =
    { x with holding := tagPut x.holding req (regKey blk (off - 4)) v } := by
  rw [writeReg, if_pos hs, if_neg hl]

theorem writeReg_low (v : Word) (hs : r.sh = false) (hp : pairLow blk off = some off) (hrh : rowAt blk (off + 4) = some rh)
    (hl : r.lv ≠ 0) (hlh : rh.lv ≠ 0) : writeReg x req mode pk blk off r v = lowWrite x req blk off r rh v := by
  simp only [writeReg, hs, hp, hrh, hl, hlh, Bool.false_eq_true, if_false, or_self]

end

/-- How an access leaves a pair whose low word it has written, the slice before it as given. -/
structure PairWritten (x y : Slice) (req : Requester) (blk off : Nat) : Prop where
  holding : tagFind y.holding req (regKey blk off) = none
  but : RegsBut x y [(blk, off), (blk, off + 4), (blk, 8)]
  bus : y.bus = .done
  dram : y.dram = x.dram

section
variable {s : State} {sl : SliceId} {req : Requester} {mode : Priv} {addr : Word} {blk off : Nat} {r rh : RegRow}

/-- A read of the low word latches the high word for its requester alone (R109). -/
theorem runs_lowWordRead (h : Reaches (s.slice sl) req mode addr blk off r) (hslow : r.slow = false)
    (hp : pairLow blk off = some off) (hw : r.rw = 0) : Runs (.lowWordRead sl req mode addr false) s fun t =>
      t.slice sl = { s.slice sl with bus := .value (regValue (s.slice sl) blk off), shadow := (t.slice sl).shadow }
      ∧ tagFind (t.slice sl).shadow req (regKey blk off) = some (regValue (s.slice sl) blk (off + 4))
      ∧ (∀ q k, q ≠ req → tagFind (t.slice sl).shadow q k = tagFind (s.slice sl).shadow q k)
      ∧ t.hub = s.hub ∧ ∀ n, n ≠ sl → n ≠ twin sl → t.slice n = s.slice n := by
  obtain ⟨t, ht, ha⟩ := h.busRead
  rw [readReg_low h.notForeign h.notClaim (settleRead_self (.inl hw) (.inl hslow)) hp] at ha
  refine Runs.intro ht ?_
  rw [ha.slice]
  exact ⟨rfl, tagFind_tagPut_self .., fun q k hq => tagFind_tagPut_ne _ _ _ _ hq, ha.hub, ha.others⟩

/-- A write of the high word waits in its requester's holding register (R110). -/
theorem runs_highWordWrite (h : Reaches (s.slice sl) req mode addr blk off r) (v : Word) (hs : r.sh = true) (hl : r.lv ≠ 0) :
    Runs (.highWordWrite sl req mode addr v) s fun t =>
      t.slice sl = { s.slice sl with bus := .done, holding := (t.slice sl).holding }
      ∧ tagFind (t.slice sl).holding req (regKey blk (off - 4)) = some v
      ∧ (∀ q k, q ≠ req → tagFind (t.slice sl).holding q k = tagFind (s.slice sl).holding q k)
      ∧ t.hub = s.hub ∧ ∀ n, n ≠ sl → n ≠ twin sl → t.slice n = s.slice n := by
  have hwr := writeReg_high (x := s.slice sl) (req := req) (mode := mode) (pk := paired s sl) (blk := blk) (off := off) v hs hl
  obtain ⟨t, ht, ha⟩ := h.busWrite v (by rw [hwr])
  rw [hwr] at ha
  refine Runs.intro ht ?_
  rw [ha.slice]
  exact ⟨rfl, tagFind_tagPut_self .., fun q k hq => tagFind_tagPut_ne _ _ _ _ hq, ha.hub, ha.others⟩

/-- The low word of a writable pair, as one access writes it. -/
theorem Reaches.writeLow (h : Reaches (s.slice sl) req mode addr blk off r) (hslow : r.slow = false) (v : Word)
    (hs : r.sh = false) (hp : pairLow blk off = some off) (hrh : rowAt blk (off + 4) = some rh) (hl : r.lv ≠ 0) (hlh : rh.lv ≠ 0)
    (hwch : rh.w1c = 0) (hsw : blk ≠ kSWC) (hdma : blk ≠ kDMA) :
    ∃ t y, s.writeWord sl req mode addr.toNat v allOnes = (.ok 0, t) ∧ Accessed s t sl y
      ∧ PairStored ((s.slice sl).unheld req blk) y blk off (maskedNew r (regGet (s.slice sl) blk off) v)
          ((tagFind (s.slice sl).holding req (regKey blk off)).elim (regGet (s.slice sl) blk (off + 4))
            (maskedNew rh (regGet (s.slice sl) blk (off + 4)))) := by
  obtain ⟨rk, hrk⟩ := pairRows_of_pairLow h.row hp
  have hst := pairStored_lowWrite (s.slice sl) req (r := r) (rh := rh) v hslow (rowAt_fits hrh) hwch hsw hdma
    (hrk.high_lt h.off_lt) (h.off_ge_of_lv hl)
  have hwr := writeReg_low (x := s.slice sl) (req := req) (mode := mode) (pk := paired s sl) v hs hp hrh hl hlh
  obtain ⟨t, ht, ha⟩ := h.writeWord v (by rw [hwr, hst.frame]; rfl)
  rw [hwr] at ha
  exact ⟨t, _, ht, ha, hst⟩

/-- What remains of a slice once its access is done. -/
theorem PairStored.written {x y : Slice} {lo hi : Word} (h : PairStored (x.unheld req blk) y blk off lo hi) (ho : off < 0x100000) :
    PairWritten x { y with bus := .done } req blk off := by
  have hhold : y.holding = (x.unheld req blk).holding := by rw [h.frame]
  have hdram : y.dram = x.dram := by rw [h.frame]; rfl
  have hbut : RegsBut x y [(blk, off), (blk, off + 4), (blk, 8)] := h.but
  exact ⟨by rw [← tagFind_unheld x req ho, ← hhold], regsBut_of_eq hbut rfl rfl, rfl, hdram⟩

/-- A write of the low word commits the pair, or the low word alone (R110). -/
theorem runs_lowWordWrite (h : Reaches (s.slice sl) req mode addr blk off r) (hslow : r.slow = false) (v : Word)
    (hs : r.sh = false) (hp : pairLow blk off = some off) (hrh : rowAt blk (off + 4) = some rh) (hl : r.lv ≠ 0) (hlh : rh.lv ≠ 0)
    (hwch : rh.w1c = 0) (hsw : blk ≠ kSWC) (hdma : blk ≠ kDMA) :
    Runs (.lowWordWrite sl req mode addr v none) s fun t =>
      regGet (t.slice sl) blk off = maskedNew r (regGet (s.slice sl) blk off) v
      ∧ regGet (t.slice sl) blk (off + 4) = (tagFind (s.slice sl).holding req (regKey blk off)).elim
          (regGet (s.slice sl) blk (off + 4)) (maskedNew rh (regGet (s.slice sl) blk (off + 4)))
      ∧ PairWritten (s.slice sl) (t.slice sl) req blk off
      ∧ t.hub = s.hub ∧ ∀ n, n ≠ sl → n ≠ twin sl → t.slice n = s.slice n := by
  obtain ⟨t, y, ht, ha, hst⟩ := h.writeLow hslow v hs hp hrh hl hlh hwch hsw hdma
  have hb := ha.setBus .done
  refine Runs.intro (t := t.setBus sl .done) ?_ ?_
  · show Machine.busWrite sl req mode addr v s = _
    rw [Machine.busWrite, if_pos h.on, ht]; rfl
  · rw [hb.slice]
    exact ⟨hst.low, hst.high, hst.written h.off_lt, hb.hub, hb.others⟩

/-! ### 8-byte accesses (R111) -/

theorem toNat_add_four (ha : addr.toNat + 4 < 2 ^ 32) : (addr + 4).toNat = addr.toNat + 4 := by
  rw [BitVec.toNat_add]; exact Nat.mod_eq_of_lt ha

variable (h : Reaches (s.slice sl) req mode addr blk off r) (hslow : r.slow = false) (hp : pairLow blk off = some off)
  (hh : Reaches (s.slice sl) req mode (addr + 4) blk (off + 4) rh) (ha : addr.toNat + 4 < 2 ^ 32)
include h hslow hp hh ha

/-- An 8-byte load reads the low word, and then the high word as the low word's read latched it (R111). -/
theorem runs_lowWordRead_wide (hw : r.rw = 0) (hwh : rh.rw = 0) (hsh : rh.slow = false) :
    Runs (.lowWordRead sl req mode addr true) s fun t =>
      t.slice sl = { s.slice sl with bus := .pair (regValue (s.slice sl) blk (off + 4)) (regValue (s.slice sl) blk off),
                                     shadow := (t.slice sl).shadow }
      ∧ tagFind (t.slice sl).shadow req (regKey blk off) = some (regValue (s.slice sl) blk (off + 4))
      ∧ t.hub = s.hub ∧ ∀ n, n ≠ sl → n ≠ twin sl → t.slice n = s.slice n := by
  obtain ⟨rk, hrows⟩ := pairRows_of_pairLow h.row hp
  -- the low word
  obtain ⟨t, ht, hacc⟩ := h.readWord
  rw [readReg_low h.notForeign h.notClaim (settleRead_self (.inl hw) (.inl hslow)) hp] at ht hacc
  -- the high word, of the slice that the first read leaves
  have hh' : Reaches (t.slice sl) req mode (addr + 4) blk (off + 4) rh := hh.congr (by rw [hacc.slice]) (by rw [hacc.slice]) (by rw [hacc.slice])
  have htag : tagFind (t.slice sl).shadow req (regKey blk off) = some (regValue (s.slice sl) blk (off + 4)) := by
    rw [hacc.slice]; exact tagFind_tagPut_self ..
  obtain ⟨u, hu, hacc'⟩ := hh'.readWord
  rw [readReg_high hh'.notForeign hh'.notClaim (settleRead_self (.inl hwh) (.inl hsh)) hrows.pairLow_high (by omega) htag] at hu hacc'
  rw [toNat_add_four ha] at hu
  have hb := (hacc.trans hacc').setBus (.pair (regValue (s.slice sl) blk (off + 4)) (regValue (s.slice sl) blk off))
  refine Runs.intro (t := u.setBus sl (.pair (regValue (s.slice sl) blk (off + 4)) (regValue (s.slice sl) blk off))) ?_ ?_
  · show busRead64 sl req mode addr s = _
    simp only [busRead64, if_pos h.on, ht, onOk, hu]
  · rw [hb.slice]
    exact ⟨by rw [hacc.slice], htag, hb.hub, hb.others⟩

/-- An 8-byte store writes the high word, and then the low word commits both (R111). -/
theorem runs_lowWordWrite_wide (v hi : Word) (hl : r.lv ≠ 0) (hlh : rh.lv ≠ 0) (hwch : rh.w1c = 0) (hsw : blk ≠ kSWC)
    (hdma : blk ≠ kDMA) : Runs (.lowWordWrite sl req mode addr v (some hi)) s fun t =>
      regGet (t.slice sl) blk off = maskedNew r (regGet (s.slice sl) blk off) v
      ∧ regGet (t.slice sl) blk (off + 4) = maskedNew rh (regGet (s.slice sl) blk (off + 4)) hi
      ∧ PairWritten (s.slice sl) (t.slice sl) req blk off
      ∧ t.hub = s.hub ∧ ∀ n, n ≠ sl → n ≠ twin sl → t.slice n = s.slice n := by
  obtain ⟨rk, hrk⟩ := pairRows_of_pairLow h.row hp
  have hrows := hrk.of_high hh.row
  -- the high word waits for its requester
  have hwr := writeReg_high (x := s.slice sl) (req := req) (mode := mode) (pk := paired s sl) (blk := blk) (off := off + 4) hi
    hrows.high hlh
  obtain ⟨t, ht, hacc⟩ := hh.writeWord hi (by rw [hwr])
  rw [toNat_add_four ha] at ht
  rw [hwr] at hacc
  -- the low word commits both
  have h' : Reaches (t.slice sl) req mode addr blk off r := h.congr (by rw [hacc.slice]) (by rw [hacc.slice]) (by rw [hacc.slice])
  have hreg : ∀ o, regGet (t.slice sl) blk o = regGet (s.slice sl) blk o := fun o => by rw [hacc.slice]; rfl
  have htag : tagFind (t.slice sl).holding req (regKey blk off) = some hi := by
    rw [hacc.slice]; exact tagFind_tagPut_self ..
  obtain ⟨u, y, hu, hacc', hst⟩ := h'.writeLow hslow v hrows.low hp hh.row hl hlh hwch hsw hdma
  rw [htag, hreg, hreg] at hst
  have hb := (hacc.trans hacc').setBus .done
  refine Runs.intro (t := u.setBus sl .done) ?_ ?_
  · show busWrite64 sl req mode addr v hi s = _
    simp only [busWrite64, if_pos h.on, ht, onOk, hu]; rfl
  · rw [hb.slice]
    obtain ⟨hhold, hbut, hbus, hdram⟩ := hst.written h.off_lt
    refine ⟨hst.low, hst.high, ⟨hhold, fun b o ho hn => (hbut b o ho hn).trans ?_, hbus, hdram.trans (by rw [hacc.slice])⟩,
      hb.hub, hb.others⟩
    rw [hacc.slice]; rfl

end

/-- Settles O23: by what the access reaches, the pairs through the shadow and holding registers of their requester. -/
theorem registerReads : Obligations.RegisterReads := by
  constructor
  · intro s sl req mode addr blk off r c n x x' core may csr pair
    refine ⟨fun hon hc => ?_, runs_registerRead, runsOn_registerRead_no_register, runsOn_registerRead_busError,
      runsOn_registerRead_prfRefused, runs_registerRead_pageRefused, runsOn_registerRead_nowhere, registerRead_after_parityScan⟩
    have hread : ∀ {k : CoreCsr} {i m : Nat}, counterBit k = some i → csrValue x c k = (d64 m, x) → m < 2 ^ 64 → may i →
        csr k (pair m) := fun hk hv hm hmay => runsOn_csrRead hon hc (csrRead_permitted ((csrReadable_iff hk).mpr hmay) hv hm)
    have hrefuse : ∀ {k : CoreCsr} {i : Nat}, counterBit k = some i → ¬may i → csr k .illegal := fun hk hmay =>
      runsOn_csrRead hon hc (csrRead_refused fun hr => hmay ((csrReadable_iff hk).mp hr))
    refine ⟨hread rfl (csrValue_cycle x c) ?_, hrefuse rfl, hread rfl rfl (pairGet_lt x kICN 0x100), hrefuse rfl,
      hread rfl rfl ?_, hrefuse rfl, runsOn_csrRead hon hc (csrRead_mhartid x c mode)⟩
    · exact Nat.mod_lt _ (by norm_num)
    · exact (Nat.mod_lt _ (by norm_num)).trans (by norm_num)
  · intro s sl req mode addr v hi blk off r rh h hslow x x'
    refine ⟨runs_lowWordRead h hslow, runs_highWordWrite h v, ?_, runs_lowWordRead_wide h hslow, ?_⟩
    · intro hs hp hrh hl hlh _ hwch hsw hdma
      obtain ⟨t, ht, hlow, hhigh, ⟨hhold, hbut, hbus, hdram⟩, hhub, hothers⟩ :=
        runs_lowWordWrite h hslow v hs hp hrh hl hlh hwch hsw hdma
      exact Runs.intro ht ⟨hlow, fun hk => by rw [hhigh, hk]; rfl, fun hk => by rw [hhigh, hk]; rfl, hhold, hbut, hbus, hdram,
        hhub, hothers⟩
    · intro hp hh ha hl hlh _ hwch hsw hdma
      obtain ⟨t, ht, hlow, hhigh, ⟨hhold, hbut, hbus, hdram⟩, hhub, hothers⟩ :=
        runs_lowWordWrite_wide h hslow hp hh ha v hi hl hlh hwch hsw hdma
      exact Runs.intro ht ⟨hlow, hhigh, hhold, hbut, hbus, hdram, hhub, hothers⟩

end Sys2Proof.Machine
end

section
/-! Proofs. The limits of the hub under the changes that commands make to it (R6, R78, R86, R96, R491). -/

namespace Sys2Proof.Machine

set_option Elab.async false

theorem length_modNth {α : Type} (l : List α) (i : Nat) (f : α → α) : (modNth l i f).length = l.length := by
  induction l generalizing i with
  | nil => rfl
  | cons b l ih => cases i <;> simp [modNth, ih]

theorem mem_modNth {α : Type} {l : List α} {i : Nat} {f : α → α} {b : α} (h : b ∈ modNth l i f) : b ∈ l ∨ ∃ a ∈ l, b = f a := by
  induction l generalizing i with
  | nil => exact absurd h (List.not_mem_nil)
  | cons c l ih =>
    cases i with
    | zero =>
      rcases List.mem_cons.mp h with rfl | h
      · exact .inr ⟨c, by simp, rfl⟩
      · exact .inl (by simp [h])
    | succ i =>
      rcases List.mem_cons.mp h with rfl | h
      · exact .inl (by simp)
      · rcases ih h with h | ⟨a, ha, he⟩
        · exact .inl (by simp [h])
        · exact .inr ⟨a, by simp [ha], he⟩

theorem length_filter_target (l : List Session) (n : Nat) :
    (l.filter (·.target = n)).length = (l.map (·.target)).count n := by
  rw [List.count_eq_countP, List.countP_map, List.countP_eq_length_filter]
  congr 1

/-! ### Changes of the hub's fields -/

/-- The fields that the limits speak of. -/
def Hub.limited (h : Hub) : List Bytes × List Session × List HubSlice × List NvmSet × HubSlice :=
  (h.anchors, h.sessions, h.slices, h.nvmSets, h.hubTgt)

theorem Hub.Limits.congr {h g : Hub} (l : h.Limits) (e : g.limited = h.limited := by rfl) : g.Limits := by
  simp only [Hub.limited, Prod.mk.injEq] at e
  obtain ⟨ha, hs, ht, hn, hu⟩ := e
  exact ⟨ha ▸ l.anchors, hs ▸ l.sessions, hs ▸ l.perTarget, ht ▸ l.slices, hn ▸ l.sets, ht ▸ l.events, hu ▸ l.hubEvents⟩

/-- No session is new and none has changed its target. -/
theorem Hub.Limits.withSessions {h : Hub} (l : h.Limits) {ss : List Session}
    (hs : (ss.map (·.target)).Sublist (h.sessions.map (·.target))) : { h with sessions := ss }.Limits :=
  { l with
    sessions := by
      have := hs.length_le
      simp only [List.length_map] at this
      exact this.trans l.sessions
    perTarget := fun n => by
      have h4 := l.perTarget n
      rw [length_filter_target] at h4 ⊢
      exact (hs.count_le n).trans h4 }

/-- The sessions have the targets they had. -/
theorem Hub.Limits.withTargets {h : Hub} (l : h.Limits) {ss : List Session}
    (hs : ss.map (·.target) = h.sessions.map (·.target)) : { h with sessions := ss }.Limits :=
  l.withSessions (hs ▸ List.Sublist.refl _)

theorem map_target_of_sesKey {l m : List Session} (h : l.map sesKey = m.map sesKey) : l.map (·.target) = m.map (·.target) := by
  have := congrArg (List.map Prod.snd) h
  rwa [List.map_map, List.map_map] at this

theorem Hub.Limits.withSlices {h : Hub} (l : h.Limits) {ts : List HubSlice} (hl : ts.length = h.slices.length)
    (he : ∀ t ∈ ts, t.events.length ≤ 256) : { h with slices := ts }.Limits :=
  { l with slices := hl.trans l.slices, events := he }

/-- A change of every slice's entry that queues no event. -/
theorem Hub.Limits.mapSlices {h : Hub} (l : h.Limits) {f : HubSlice → HubSlice}
    (hf : ∀ t, (f t).events.length ≤ t.events.length := by exact fun _ => le_rfl) : { h with slices := h.slices.map f }.Limits :=
  l.withSlices (List.length_map _) fun t ht => by
    obtain ⟨u, hu, rfl⟩ := List.mem_map.mp ht
    exact (hf u).trans (l.events u hu)

theorem Hub.Limits.withHubTgt {h : Hub} (l : h.Limits) {t : HubSlice} (ht : t.events.length ≤ 256) :
    { h with hubTgt := t }.Limits :=
  { l with hubEvents := ht }

theorem Hub.Limits.tgt {h : Hub} (l : h.Limits) (n : Nat) : (h.tgt n).events.length ≤ 256 := by
  unfold Hub.tgt
  split
  · cases e : h.slices[n]? with
    | none => exact Nat.zero_le _
    | some t => exact l.events t (List.mem_of_getElem? e)
  · exact l.hubEvents

theorem Hub.Limits.setTgt {h : Hub} (l : h.Limits) (n : Nat) {t : HubSlice} (ht : t.events.length ≤ 256) : (h.setTgt n t).Limits := by
  unfold Hub.setTgt
  split
  · refine l.withSlices (length_setNth _ _ _) fun u hu => ?_
    rcases mem_setNth hu with rfl | hu
    · exact ht
    · exact l.events u hu
  · exact l.withHubTgt ht

/-- A change of a target that queues no event. -/
theorem Hub.Limits.modTgt {h : Hub} (l : h.Limits) (n : Nat) {f : HubSlice → HubSlice}
    (hf : ∀ t, (f t).events.length ≤ t.events.length := by exact fun _ => le_rfl) : (h.modTgt n f).Limits :=
  l.setTgt n ((hf _).trans (l.tgt n))

theorem Hub.Limits.modNvm {h : Hub} (l : h.Limits) (n : Nat) (f : NvmSet → NvmSet) : (h.modNvm n f).Limits :=
  { l with sets := (length_modNth _ _ _).trans l.sets }

theorem Hub.Limits.modSession {h : Hub} (l : h.Limits) (id : Nat) {f : Session → Session} (hf : ∀ t, (f t).target = t.target := by exact fun _ => rfl) :
    (h.modSession id f).Limits := by
  refine l.withTargets ?_
  rw [List.map_map]
  refine List.map_congr_left fun t _ => ?_
  simp only [Function.comp]
  split
  · exact hf t
  · rfl

theorem Hub.Limits.queueTx {h : Hub} (l : h.Limits) (n : Nat) (f : Bytes) : (h.queueTx n f).Limits := l.congr

theorem Hub.Limits.sendPlain {h : Hub} (l : h.Limits) (n : Nat) (mac : Bytes) (f : HraFrame) : (h.sendPlain n mac f).Limits :=
  l.queueTx n _

/-! ### Events (R95, R96) -/

theorem Hub.Limits.bumpOut {h : Hub} (l : h.Limits) (id : Nat) : (h.bumpOut id).Limits := by
  obtain ⟨ss, he, hk⟩ := bumpOut_frame h id
  rw [he]
  exact l.withTargets (map_target_of_sesKey hk)

theorem Hub.Limits.sendEvent {h : Hub} (l : h.Limits) (n : Nat) (e : EventRec) : (h.sendEvent n e).2.Limits := by
  obtain ⟨ss, cs, fs, he, hk⟩ := sendEvent_frame h n e
  rw [he]
  exact (l.withTargets (map_target_of_sesKey hk)).congr

theorem Hub.Limits.event {h : Hub} (l : h.Limits) (n c sl : Nat) (d : Dword) : (h.event n c sl d).Limits := by
  obtain ⟨f, ss, fs, t, he, hk, -, ht⟩ := event_frame h n c sl d
  rw [he]
  have lh : { h with free := f, sessions := ss, tx := fs }.Limits :=
    (l.withTargets (map_target_of_sesKey hk)).congr
  refine lh.setTgt n ?_
  rcases ht with ⟨-, hev, -⟩ | ⟨hlt, -, e, -, -, -, hev⟩
  · exact hev ▸ l.tgt n
  · rw [hev, List.length_append]
    exact hlt

theorem Hub.Limits.eventOpen {h : Hub} (l : h.Limits) (n c sl : Nat) : (h.eventOpen n c sl).Limits :=
  (l.congr (g := { h with free := h.free + 1 })).event n c sl _

theorem Hub.Limits.overflow {h : Hub} (l : h.Limits) (n : Nat) : (h.overflow n).Limits := by
  unfold Hub.overflow
  extract_lets k
  split
  · exact l
  · refine Hub.Limits.event ?_ _ _ _ _
    exact l.modTgt n

theorem Hub.Limits.sendQueued {h : Hub} (l : h.Limits) (n : Nat) : (h.sendQueued n).Limits := by
  refine List.foldlRecOn _ _ l fun g lg p _ => ?_
  dsimp only
  split
  · exact lg
  · exact (lg.sendEvent n p.1).modTgt n fun t => (length_setNth _ _ _).le

theorem Hub.Limits.takeNotes {h : Hub} (l : h.Limits) (n : Nat) (ns : List HubNote) : (h.takeNotes n ns).Limits := by
  refine List.foldlRecOn _ _ l fun g lg k _ => ?_
  dsimp only
  refine Hub.Limits.event ?_ _ _ _ _
  split
  · exact lg.congr
  · exact lg

/-! ### Resets, the hub's start and the test port (R16, R52, R61, R69) -/

theorem Hub.Limits.resetHub {h : Hub} (l : h.Limits) : h.resetHub.Limits where
  anchors := l.anchors
  sessions := by simp [Hub.resetHub]
  perTarget n := by simp [Hub.resetHub]
  slices := (List.length_map _).trans l.slices
  sets := by simp [Hub.resetHub]
  events t ht := by
    obtain ⟨u, -, rfl⟩ := List.mem_map.mp ht
    exact Nat.zero_le _
  hubEvents := Nat.zero_le _

theorem Hub.Limits.resetPackage {h : Hub} (l : h.Limits) (v : Word) : (h.resetPackage v).Limits where
  anchors := l.anchors
  sessions := Nat.zero_le _
  perTarget _ := Nat.zero_le _
  slices := (List.length_map _).trans l.slices
  sets := by simp [Hub.resetPackage, Hub.reset]
  events t ht := by
    obtain ⟨u, -, rfl⟩ := List.mem_map.mp ht
    exact Nat.zero_le _
  hubEvents := Nat.zero_le _

theorem Hub.Limits.startUp {h : Hub} (l : h.Limits) : h.startUp.Limits := by
  unfold Hub.startUp
  split
  · exact l.congr
  · extract_lets c g
    split
    · exact l.congr
    · exact l.congr

theorem Hub.Limits.tapLoad {h : Hub} (l : h.Limits) (n : Nat) (i : TapInstr) : (h.tapLoad n i).Limits := by
  unfold Hub.tapLoad
  split
  · exact l.modTgt n
  · exact l.congr

/-! ### The NVM (R67, R491) -/

theorem Hub.Limits.nvmProgram {h : Hub} (l : h.Limits) (n : Nat) : (h.nvmProgram n).Limits := by
  unfold Hub.nvmProgram
  extract_lets v a
  split_ifs <;> exact l.modNvm n _

theorem Hub.Limits.nvmRead {h : Hub} (l : h.Limits) (n : Nat) : (h.nvmRead n).Limits := by
  unfold Hub.nvmRead
  extract_lets v
  split <;> exact l.modNvm n _

theorem Hub.Limits.nvmCmd {h : Hub} (l : h.Limits) (n : Nat) (v : Word) : (h.nvmCmd n v).Limits := by
  unfold Hub.nvmCmd
  extract_lets g
  have lg : g.Limits := by
    unfold g
    split
    · exact l.modNvm n _
    · exact l
  split
  · exact lg.nvmProgram n
  · exact lg.nvmRead n
  · exact lg

theorem Hub.Limits.nvmPop {h : Hub} (l : h.Limits) (n : Nat) : (h.nvmPop n).2.Limits := by
  unfold Hub.nvmPop
  split
  · exact l.modNvm n _
  · exact l.congr

/-- Free words take the model's counter of free values on and leave the rest. -/
theorem freeWords_frame (k : Nat) (h : Hub) : ∃ f, (Hub.freeWords k h).2 = { h with free := f } := by
  induction k generalizing h with
  | zero => exact ⟨h.free, rfl⟩
  | succ k ih =>
    obtain ⟨f, hf⟩ := ih h.freeD.2
    exact ⟨f, hf⟩

theorem Hub.Limits.freeWords {h : Hub} (l : h.Limits) (k : Nat) : (Hub.freeWords k h).2.Limits := by
  obtain ⟨f, hf⟩ := freeWords_frame k h
  rw [hf]
  exact l.congr

theorem Hub.Limits.pageDone {h : Hub} (l : h.Limits) (n a : Nat) : (h.pageDone n a).Limits := by
  unfold Hub.pageDone
  extract_lets v r g
  have lg : g.Limits := (l.freeWords _).congr
  split
  · exact lg.modTgt n
  · split
    · exact lg.congr
    · exact lg

theorem Hub.Limits.nvmDone {h : Hub} (l : h.Limits) (n : Nat) : (h.nvmDone n).Limits := by
  unfold Hub.nvmDone
  split
  · exact l
  · exact (l.pageDone n _).modNvm n _
  · exact l.modNvm n _

/-! ### Sessions and claims (R78, R84 to R96) -/

theorem Hub.Limits.closeSession {h : Hub} (l : h.Limits) (id : Nat) : (h.closeSession id).Limits := by
  unfold Hub.closeSession
  extract_lets drop
  have hd : ∀ t, (drop t).events.length ≤ t.events.length := fun t => (List.length_map _).le
  have l1 : { h with sessions := h.sessions.filter (·.id ≠ id) }.Limits :=
    l.withSessions (List.filter_sublist.map _)
  exact (l1.mapSlices hd).withHubTgt ((hd _).trans l.hubEvents)

theorem Hub.Limits.closeTarget {h : Hub} (l : h.Limits) (n : Nat) : (h.closeTarget n).Limits :=
  List.foldlRecOn _ _ l fun _ lg id _ => lg.closeSession id

theorem Hub.Limits.takeClaim {h : Hub} (l : h.Limits) (c : Bytes) : (h.takeClaim c).Limits where
  anchors := by simp [Hub.takeClaim, Hub.banksFrom]
  sessions := l.sessions
  perTarget := l.perTarget
  slices := by simpa [Hub.takeClaim, Hub.banksFrom, Hub.nvmPut] using l.slices
  sets := l.sets
  events t ht := by
    obtain ⟨⟨u, i⟩, hu, rfl⟩ := List.mem_map.mp ht
    exact l.events u (List.mem_of_getElem? (List.mem_zipIdx_iff_getElem?.mp hu))
  hubEvents := l.hubEvents

theorem Hub.Limits.claim {h : Hub} (l : h.Limits) (f : Bytes) : (h.claim f).Limits := by
  unfold Hub.claim
  extract_lets p
  split
  · exact l
  · split
    · exact l.sendPlain _ _ _
    · exact (l.sendPlain _ _ _).takeClaim _

/-- What the hub draws for a session changes its counter of free values alone. -/
theorem acceptDraw_frame (h : Hub) : ∃ f, h.acceptDraw.2 = { h with free := f } := by
  obtain ⟨f, hf⟩ := freeWords_frame 8 h
  obtain ⟨g, hg⟩ := freeWords_frame 4 { h with free := f }
  obtain ⟨k, hk⟩ := freeWords_frame 8 { h with free := g }
  refine ⟨k, ?_⟩
  simp only [Hub.acceptDraw, Hub.freeBits, hf, hg, hk]

/-- A session more, where the hub and the target have room for it. -/
theorem Hub.Limits.addSession {h : Hub} (l : h.Limits) (t : Session) (h64 : h.sessions.length < 64)
    (h4 : (h.sessions.filter (·.target = t.target)).length < 4) : { h with sessions := h.sessions ++ [t] }.Limits :=
  { l with
    sessions := by simpa using h64
    perTarget := fun n => by
      have hn := l.perTarget n
      by_cases e : t.target = n
      · subst e; simpa [List.filter_append] using h4
      · simpa [List.filter_append, e] using hn }

theorem Hub.Limits.accept {h : Hub} (l : h.Limits) (n : Nat) (mac b : Bytes) (h64 : h.sessions.length < 64)
    (h4 : (h.sessions.filter (·.target = n)).length < 4) : (h.accept n mac b).Limits := by
  obtain ⟨f, hf⟩ := acceptDraw_frame h
  unfold Hub.accept
  extract_lets id r k
  have la : { h with sessions := h.sessions ++ [newSession id n mac b r.1] }.Limits := l.addSession _ h64 h4
  refine Hub.Limits.sendQueued (Hub.Limits.sendPlain ?_ n mac k) n
  simp only [r, hf]
  exact la.congr

/-- An OPEN that the hub does not refuse finds room for its session (R86). -/
theorem room_of_openRefusal_none {h : Hub} {eng n : Nat} {b : Bytes} (e : h.openRefusal eng n b = none) :
    h.sessions.length < 64 ∧ (h.sessions.filter (·.target = n)).length < 4 := by
  unfold Hub.openRefusal at e
  by_contra hc
  have hfull : 64 ≤ h.sessions.length ∨ 4 ≤ (h.sessions.filter (·.target = n)).length := by omega
  rw [if_pos hfull] at e
  split_ifs at e

theorem Hub.Limits.opened {h : Hub} (l : h.Limits) (eng : Nat) (f : Bytes) : (h.opened eng f).Limits := by
  unfold Hub.opened
  extract_lets p b
  split
  · split
    · exact l.sendPlain _ _ _
    · next n _ _ _ hr =>
      obtain ⟨h64, h4⟩ := room_of_openRefusal_none hr
      exact l.accept n _ b h64 h4
  · exact l.sendPlain _ _ _

theorem Hub.Limits.tagFail {h : Hub} (l : h.Limits) (id : Nat) : (h.tagFail id).Limits := by
  unfold Hub.tagFail
  split
  · exact l
  · extract_lets k
    split
    · exact l.closeSession id
    · exact l.modSession id

theorem Hub.Limits.sendIn {h : Hub} (l : h.Limits) (t : Session) (f : HraFrame) : (h.sendIn t f).Limits :=
  (l.bumpOut t.id).queueTx _ _

theorem Hub.Limits.answer {h : Hub} (l : h.Limits) (id seq : Nat) (tag : BitVec 128) (status : Byte) (nops : Nat) (body : Bytes) :
    (h.answer id seq tag status nops body).Limits := by
  unfold Hub.answer
  split
  · exact l
  · exact (l.sendIn _ _).modSession id

theorem Hub.Limits.resend {h : Hub} (l : h.Limits) (t : Session) (r : CachedReply) : (h.resend t r).Limits :=
  (l.queueTx _ _).modSession _

theorem Hub.Limits.reply {h : Hub} (l : h.Limits) (id seq : Nat) (tag : BitVec 128) (status : Byte) (nops : Nat) (body : Bytes) :
    (h.reply id seq tag status nops body).Limits := by
  refine (l.answer id seq tag status nops body).modSession id fun t => ?_
  split <;> rfl

theorem length_ackEvent (t : HubSlice) (id seq : Nat) : (t.ackEvent id seq).events.length ≤ t.events.length :=
  List.length_filterMap_le _ _

theorem events_receive (t : HubSlice) (f : Bytes) : (t.receive f).events = t.events := by
  unfold HubSlice.receive
  split <;> rfl

/-! ### The management port (R82) -/

theorem Hub.Limits.mgtTurn {h g : Hub} (l : h.Limits) {n : Nat} (e : h.mgtTurn n = some g) : g.Limits := by
  unfold Hub.mgtTurn at e
  split at e
  · split at e
    · obtain rfl := Option.some.inj e
      exact l.congr
    · exact nomatch e
  · exact nomatch e

theorem Hub.Limits.mgtPick {h : Hub} (l : h.Limits) (k n : Nat) : (Hub.mgtPick k n h).Limits := by
  induction k generalizing h n with
  | zero => exact l
  | succ k ih =>
    unfold Hub.mgtPick
    split
    · next e => exact l.mgtTurn e
    · refine ih ?_ _
      split
      · exact l
      · exact l.congr

theorem Hub.Limits.mgtSend {h : Hub} (l : h.Limits) : h.mgtSend.Limits := by
  unfold Hub.mgtSend
  split
  · exact l
  · exact l.mgtPick _ _

end Sys2Proof.Machine
end

section
/-! Proofs. The limits of the hub under every command and every clock (R6, R78, R86, R96, R491). -/

namespace Sys2Proof.Machine

set_option Elab.async false

/-- What a command answers has a hub within its limits. -/
def LimitsAfter : Res → Prop
  | .next t => t.hub.Limits
  | _ => True

theorem limitsAfter_next {s : State} (l : s.hub.Limits) : LimitsAfter (.next s) := l

theorem limitsAfter_onHub {f : Hub → Hub} {s : State} (l : (f s.hub).Limits) : LimitsAfter (onHub f s) :=
  limitsAfter_next (s := { s with hub := f s.hub }) l

theorem limitsAfter_onPair {sl : SliceId} {f : Slice → Slice × List TwinMsg} {s : State} (l : s.hub.Limits) :
    LimitsAfter (onPair sl f s) := by
  unfold onPair
  split <;> exact limitsAfter_next l

theorem limitsAfter_onLink {sl : SliceId} {f : Slice → Slice} {s : State} (l : s.hub.Limits) : LimitsAfter (onLink sl f s) :=
  limitsAfter_onPair l

theorem Hub.Limits.modTgtOf {s : State} (l : s.hub.Limits) (n : Nat) {f : HubSlice → HubSlice}
    (hf : ∀ t, (f t).events.length ≤ t.events.length := by exact fun _ => le_rfl) : (s.modHubSlice n f).hub.Limits := l.modTgt n hf

theorem Hub.Limits.modSessionOf {s : State} (l : s.hub.Limits) (id : Nat) {f : Session → Session}
    (hf : ∀ t, (f t).target = t.target := by exact fun _ => rfl) : (s.modHub (·.modSession id f)).hub.Limits := l.modSession id hf

/-! ### Commands that change slices alone -/

theorem linkEnabled_hub (s : State) (sl : SliceId) : (linkEnabled s sl).hub = s.hub := by
  unfold linkEnabled
  split_ifs <;> rfl

theorem ctlApply_hub (s : State) (sl : SliceId) (blk : Nat) (v : Word) : (ctlApply s sl blk v).hub = s.hub := by
  unfold ctlApply
  extract_lets was r t
  split
  · exact linkEnabled_hub t sl
  · rfl

theorem ctlWrite_hub (s : State) (sl : SliceId) (blk : Nat) (v : Word) : (ctlWrite s sl blk v).hub = s.hub := by
  unfold ctlWrite
  extract_lets x
  split
  · rfl
  · exact ctlApply_hub s sl blk v

theorem selectWrite_hub (s : State) (sl : SliceId) (grp : Lane) (v : Word) : (selectWrite s sl grp v).hub = s.hub := by
  unfold selectWrite
  extract_lets x t
  split_ifs <;> rfl

theorem hostWake_hub (s : State) (n : Nat) : (s.hostWake n).hub = s.hub := by
  unfold State.hostWake
  split
  · extract_lets x
    split <;> rfl
  · rfl

/-! ### Power states and wake times (R44, R45, R97) -/

theorem Hub.Limits.postWakes {s : State} (l : s.hub.Limits) (sl : SliceId) : (s.postWakes sl).hub.Limits := by
  unfold State.postWakes
  split
  · extract_lets x ts soon t
    have lt : t.hub.Limits := l.modTgtOf sl.val
    split <;> exact lt
  · exact l

theorem Hub.Limits.posting {s : State} (l : s.hub.Limits) (sl : SliceId) (was : PwrMove) : (s.posting sl was).hub.Limits := by
  unfold State.posting
  extract_lets m
  split
  · exact l.postWakes sl
  · exact l

theorem LimitsAfter.andPost {s : State} {sl : SliceId} {r : Res} (l : LimitsAfter r) : LimitsAfter (s.andPost sl r) := by
  cases r with
  | next t => exact limitsAfter_next (Hub.Limits.posting l sl _)
  | fault f => exact l
  | refused f => exact l

theorem limitsAfter_feltWakeAlarm {s : State} (l : s.hub.Limits) (sl : SliceId) : LimitsAfter (execFeltWakeAlarm sl s) := by
  unfold execFeltWakeAlarm
  extract_lets x due t
  split
  · have lt : t.hub.Limits := l.modTgtOf sl.val
    refine limitsAfter_next ?_
    split <;> exact lt
  · exact limitsAfter_next l

theorem Hub.Limits.woken {s : State} (l : s.hub.Limits) (sl : SliceId) (c : WakeCause) : (s.woken sl c).hub.Limits :=
  Hub.Limits.postWakes (s := (s.setSlice sl _).deliver (twin sl) _) l sl

/-! ### Supply and the hub's start (R38 to R42, R68, R69) -/

theorem limitsAfter_supplyWarning {s : State} (l : s.hub.Limits) (mv : BitVec 16) : LimitsAfter (execSupplyWarning mv s) := by
  refine limitsAfter_onHub ?_
  dsimp only
  split_ifs
  · exact l.congr
  · exact l.congr
  · exact Hub.Limits.eventOpen (l.congr) _ _ _

theorem limitsAfter_supplyFailure {s : State} (l : s.hub.Limits) (mv : BitVec 16) : LimitsAfter (execSupplyFailure mv s) := by
  unfold execSupplyFailure
  extract_lets h _ g k _
  have lh : h.Limits := by
    unfold h
    split
    · exact l.congr
    · exact l
  have lg : g.Limits := lh.resetHub.congr
  have lk : k.Limits := lg.mapSlices
  exact limitsAfter_next lk

theorem Hub.Limits.hubDown {s : State} {f : Hub → Hub} (l : (f s.hub).Limits) : (s.hubDown f).hub.Limits := l

theorem Hub.Limits.restartHub {h : Hub} (l : h.Limits) : h.restartHub.Limits := l.resetHub.congr

theorem Hub.Limits.feltBack {s : State} (l : s.hub.Limits) : s.feltBack.hub.Limits := by
  refine List.foldlRecOn (motive := fun s : State => s.hub.Limits) _ _ l fun t lt sl _ => ?_
  dsimp only
  split
  · exact Hub.Limits.posting (s := (t.setSlice sl _).deliver (twin sl) _) lt sl _
  · exact lt

theorem Hub.Limits.policyStarts {s : State} (l : s.hub.Limits) : s.policyStarts.hub.Limits := by
  refine List.foldlRecOn (motive := fun s : State => s.hub.Limits) _ _ l fun t lt sl _ => ?_
  dsimp only
  split
  · exact lt
  · exact lt.modTgtOf sl.val

theorem limitsAfter_hubStart {s : State} (l : s.hub.Limits) : LimitsAfter (execHubStart s) := by
  unfold execHubStart
  split
  · exact limitsAfter_next l
  · extract_lets t
    have lt : t.hub.Limits := Hub.Limits.feltBack (s := { s with hub := s.hub.startUp }) l.startUp
    refine limitsAfter_next ?_
    split
    · exact lt.policyStarts
    · exact lt

theorem limitsAfter_hubWatchdogExpiry {s : State} (l : s.hub.Limits) : LimitsAfter (execHubWatchdogExpiry s) := by
  unfold execHubWatchdogExpiry
  split
  · exact limitsAfter_next l
  · refine limitsAfter_next (Hub.Limits.hubDown ?_)
    dsimp only
    split <;> exact l.resetHub.congr

theorem limitsAfter_hubRestart {s : State} (l : s.hub.Limits) (ses : Nat) : LimitsAfter (execHubRestart ses s) := by
  refine limitsAfter_next ?_
  split
  · exact Hub.Limits.hubDown l.restartHub
  · exact l

theorem limitsAfter_hubStatusRefresh {s : State} (l : s.hub.Limits) : LimitsAfter (execHubStatusRefresh s) := by
  unfold execHubStatusRefresh
  split
  · exact limitsAfter_next l
  · extract_lets t
    have lt : t.hub.Limits := by
      refine List.foldlRecOn (motive := fun s : State => s.hub.Limits) _ _ l fun u lu sl _ => ?_
      extract_lets x new v w
      have lv : v.hub.Limits := lu.takeNotes sl.val _
      have lw : w.hub.Limits := lv.modTgtOf sl.val
      exact lw
    exact limitsAfter_next (lt.congr)

theorem limitsAfter_mgtMediumSwitch {s : State} (l : s.hub.Limits) (p : Bool) : LimitsAfter (execMgtMediumSwitch p s) := by
  refine limitsAfter_onHub ?_
  split <;> exact l.congr

/-! ### A slice's start, its restart and its heat (R39, R55, R57, R62, R68 to R73) -/

theorem Hub.Limits.restartSlice {s : State} (l : s.hub.Limits) (sl : SliceId) (c : BitVec 4) :
    (s.restartSlice sl c).hub.Limits := by
  refine Hub.Limits.modTgtOf (s := s.sliceOff sl) l sl.val fun t => ?_
  split <;> exact le_rfl

theorem Hub.Limits.bootFailed {s : State} (l : s.hub.Limits) (sl : SliceId) : (s.bootFailed sl).hub.Limits := l.eventOpen _ _ _

theorem Hub.Limits.nextBoot {s : State} (l : s.hub.Limits) (sl : SliceId) (plan : List BootStep) :
    (s.nextBoot sl plan).hub.Limits := by
  unfold State.nextBoot
  extract_lets x
  split
  · exact l.bootFailed sl
  · exact Hub.Limits.modTgtOf (s := s.setSlice sl _) l sl.val
  · exact l

theorem limitsAfter_sliceStart {s : State} (l : s.hub.Limits) (sl : SliceId) (spared : List Word) :
    LimitsAfter (execSliceStart sl spared s) := by
  unfold execSliceStart
  extract_lets n x t plan cause u v
  split_ifs
  · exact limitsAfter_next l
  · exact limitsAfter_next (l.modTgtOf n)
  · have lu : u.hub.Limits := l
    cases plan with
    | nil => exact limitsAfter_next ((lu.modTgtOf n).bootFailed sl)
    | cons b bs => exact limitsAfter_next (Hub.Limits.modTgtOf (s := v) l n)

theorem limitsAfter_dramTrainingDone {s : State} (l : s.hub.Limits) (sl : SliceId) (pass : Word) :
    LimitsAfter (execDramTrainingDone sl pass s) := by
  unfold execDramTrainingDone
  extract_lets x
  split
  · split
    · exact limitsAfter_next l
    · exact limitsAfter_next (Hub.Limits.nextBoot (s := s.setSlice sl _) l sl _)
  · exact limitsAfter_next l

theorem limitsAfter_imageChecked {s : State} (l : s.hub.Limits) (sl : SliceId) : LimitsAfter (execImageChecked sl s) := by
  unfold execImageChecked
  extract_lets n x h
  split
  · split_ifs
    · exact limitsAfter_next l
    · exact limitsAfter_next ((l.eventOpen n evBootDone n).eventOpen _ _ _)
    · exact limitsAfter_next (l.eventOpen n evBootDone n)
    · exact limitsAfter_next ((l.modTgtOf n).nextBoot sl _)
  · exact limitsAfter_next l

theorem limitsAfter_networkBoot {s : State} (l : s.hub.Limits) (sl : SliceId) (r : NetBoot) :
    LimitsAfter (execNetworkBoot sl r s) := by
  unfold execNetworkBoot
  extract_lets n x
  split
  · split
    · refine limitsAfter_next ?_
      split
      · exact l
      · exact l.nextBoot sl _
    · split
      · exact limitsAfter_next (l.eventOpen _ _ _)
      · exact limitsAfter_next (l.nextBoot sl _)
  · exact limitsAfter_next l

theorem Hub.Limits.confirmBoot {s : State} (l : s.hub.Limits) (sl : SliceId) : (s.confirmBoot sl).hub.Limits := by
  unfold State.confirmBoot
  extract_lets x _ t
  have lt : t.hub.Limits := l
  refine lt.modTgtOf sl.val fun u => ?_
  split <;> exact le_rfl

theorem Hub.Limits.bootWrite {s : State} (l : s.hub.Limits) (sl : SliceId) (v : Word) : (s.bootWrite sl v).hub.Limits := by
  unfold State.bootWrite
  extract_lets x t
  split
  · exact Hub.Limits.confirmBoot (s := t) l sl
  · exact l

theorem Hub.Limits.rstWrite {s : State} (l : s.hub.Limits) (sl : SliceId) (v : Word) : (s.rstWrite sl v).hub.Limits := by
  unfold State.rstWrite
  split
  · exact l.restartSlice sl _
  · exact l

theorem limitsAfter_bootConfirm {s : State} (l : s.hub.Limits) (sl : SliceId) : LimitsAfter (execBootConfirm sl s) := by
  unfold execBootConfirm
  split
  · exact limitsAfter_next (l.bootWrite sl _)
  · exact limitsAfter_next l

theorem limitsAfter_sliceSelfReset {s : State} (l : s.hub.Limits) (sl : SliceId) (key : Word) :
    LimitsAfter (execSliceSelfReset sl key s) := by
  unfold execSliceSelfReset
  split
  · exact limitsAfter_next (l.rstWrite sl _)
  · exact limitsAfter_next l

theorem limitsAfter_confirmTimeout {s : State} (l : s.hub.Limits) (sl : SliceId) : LimitsAfter (execConfirmTimeout sl s) := by
  unfold execConfirmTimeout
  extract_lets x t
  split
  · exact limitsAfter_next l
  · have lt : t.hub.Limits := l.modTgtOf sl.val (by intro u; split <;> exact le_rfl)
    exact limitsAfter_next (lt.restartSlice sl _)

theorem Hub.Limits.sliceHeat {s : State} (l : s.hub.Limits) (sl : SliceId) (t : Int) : (s.sliceHeat sl t).hub.Limits := by
  unfold State.sliceHeat
  extract_lets n x warm y s1 s2 s3
  split
  · exact l.modTgtOf n
  · have l2 : s2.hub.Limits := by
      unfold s2
      split
      · exact l.eventOpen _ _ _
      · exact l
    split
    · exact l2
    · have l3 : s3.hub.Limits := Hub.Limits.modTgtOf (s := s2.sliceOff sl) l2 n
      exact Hub.Limits.eventOpen (l3.congr) _ _ _

theorem Hub.Limits.hubHeat {s : State} (l : s.hub.Limits) (t : Int) : (s.hubHeat t).hub.Limits := by
  unfold State.hubHeat
  extract_lets u
  have lu : u.hub.Limits := l.congr
  split
  · exact lu
  · exact Hub.Limits.hubDown (lu.resetHub.congr)

theorem limitsAfter_thermalRead {s : State} (l : s.hub.Limits) (sl : SliceId) (t0 t1 t2 t3 h0 h1 : BitVec 16) :
    LimitsAfter (execThermalRead sl t0 t1 t2 t3 h0 h1 s) := by
  unfold execThermalRead
  split
  · exact limitsAfter_next ((l.sliceHeat sl _).hubHeat _)
  · exact limitsAfter_next l

theorem limitsAfter_tapReset {s : State} (l : s.hub.Limits) (low sel : Bool) : LimitsAfter (execTapReset low sel s) := by
  refine limitsAfter_onHub ?_
  cases low with
  | false => exact l.congr
  | true =>
    have lm := l.mapSlices (f := fun t => { t with tap := .idcode })
    exact lm.congr

theorem limitsAfter_tapInstruction {s : State} (l : s.hub.Limits) (irs : List TapInstr) (cells : List Bool) :
    LimitsAfter (execTapInstruction irs cells s) := by
  unfold execTapInstruction
  split
  · exact limitsAfter_next l
  · extract_lets t
    have lt : t.hub.Limits :=
      List.foldlRecOn (motive := fun s : State => s.hub.Limits) _ _ l fun u lu p _ => lu.tapLoad p.1 _
    refine limitsAfter_onHub ?_
    split
    · exact lt.congr
    · exact lt

/-! ### Charters (R79) -/

theorem Hub.Limits.ownerChange {s : State} (l : s.hub.Limits) (sl : SliceId) : (s.ownerChange sl).hub.Limits := by
  unfold State.ownerChange
  extract_lets n t
  have le : { s.hub with nvm := t.hub.nvm }.Limits := l.congr
  have lt : t.hub.Limits := le.modNvm n _
  exact lt.modTgtOf n

theorem Hub.Limits.charterSlice {s : State} (l : s.hub.Limits) (old new : Bytes) (sl : SliceId) :
    (s.charterSlice old new sl).hub.Limits := by
  unfold State.charterSlice
  extract_lets n t u
  have lt : t.hub.Limits := by
    unfold t
    split
    · exact l.closeTarget n
    · exact l
  have lu : u.hub.Limits := by
    unfold u
    split
    · exact lt.modTgtOf n
    · exact lt
  split_ifs
  · exact lu.ownerChange sl
  · exact lu.restartSlice sl _
  · exact lu

/-- A transfer that meets the rules of R76 finds a free anchor slot. -/
theorem room_of_chFails_none {anchors : List Bytes} {serial : Nat} {c : Bytes} (e : chFails anchors serial c chAll = none)
    (ht : chTransfer c = true) : anchors.length < 16 := by
  have h2 := List.find?_eq_none.mp e 2 (by decide)
  simp only [chRule, ht, if_true, Bool.not_eq_true', Bool.not_eq_false, Bool.and_eq_true, decide_eq_true_eq] at h2
  obtain ⟨-, -, hlt⟩ := h2
  exact hlt

theorem Hub.Limits.takeCharter {s : State} (l : s.hub.Limits) (c : Bytes)
    (hroom : chTransfer c = true → s.hub.anchors.length < 16) : (s.takeCharter c).hub.Limits := by
  unfold State.takeCharter
  extract_lets old t
  have lt : t.hub.Limits :=
    { l with
      anchors := by
        show (if chTransfer c then s.hub.anchors ++ [chHubFp c] else s.hub.anchors).length ≤ 16
        split
        · next h => simpa using hroom h
        · exact l.anchors }
  exact List.foldlRecOn (motive := fun s : State => s.hub.Limits) _ _ lt fun u lu sl _ => lu.charterSlice old c sl

theorem limitsAfter_ownerZeroingDone {s : State} (l : s.hub.Limits) (sl : SliceId) : LimitsAfter (execOwnerZeroingDone sl s) := by
  refine limitsAfter_onHub (l.modTgt sl.val fun t => ?_)
  split_ifs <;> exact le_rfl

theorem limitsAfter_mgtFrameTransmit {s : State} (l : s.hub.Limits) (sl : SliceId) (f : Bytes) :
    LimitsAfter (execMgtFrameTransmit sl f s) := by
  unfold execMgtFrameTransmit
  extract_lets v
  split
  · exact limitsAfter_onHub (l.queueTx _ _)
  · exact limitsAfter_next l

/-! ### The hub window and accesses (R83, R112, R490) -/

theorem userBus_hub (s : State) (u : HubUser) (b : BusReply) : (s.userBus u b).hub = s.hub := by
  cases u <;> rfl

theorem Hub.Limits.pageRefused {s : State} (l : s.hub.Limits) (sl : SliceId) : (s.pageRefused sl).hub.Limits := l.modTgtOf sl.val

theorem limitsAfter_nvmAccess {u : HubUser} {f : Hub → Hub} {s : State} (l : s.hub.Limits) (lf : (f s.hub).Limits) :
    LimitsAfter (nvmAccess u f s) := by
  unfold nvmAccess
  split_ifs
  · refine limitsAfter_next ?_
    rw [userBus_hub]
    exact l
  · refine limitsAfter_next ?_
    rw [userBus_hub]
    exact lf
  · cases u with
    | slice sl => exact limitsAfter_next (l.pageRefused sl)
    | hub => exact limitsAfter_next l

theorem limitsAfter_nvmCommandDone {s : State} (l : s.hub.Limits) (u : HubUser) : LimitsAfter (execNvmCommandDone u s) := by
  refine limitsAfter_onHub ?_
  split
  · exact l.nvmDone _
  · exact l

theorem Hub.Limits.selectOutput {s : State} (l : s.hub.Limits) (v : Word) : (s.selectOutput v).hub.Limits := l.congr

theorem limitsAfter_timeOutputSelect {s : State} (l : s.hub.Limits) (u : HubUser) (v : Word) :
    LimitsAfter (execTimeOutputSelect u v s) := by
  refine limitsAfter_next ?_
  split
  · exact l.selectOutput v
  · exact l

theorem Hub.Limits.latchHigh {s : State} (l : s.hub.Limits) (u : HubUser) (req : Requester) (o : Nat) (v : Word) :
    (s.latchHigh u req o v).hub.Limits := by
  cases u with
  | hub => exact l.congr
  | slice sl => exact l

theorem Hub.Limits.hubRead {s : State} (l : s.hub.Limits) (u : HubUser) (req : Requester) (p o : Nat) :
    (s.hubRead u req p o).2.hub.Limits := by
  unfold State.hubRead
  extract_lets h n r
  split
  · split
    · exact l.latchHigh _ _ _ _
    · split <;> exact l
  · split
    · exact l
    · split
      · split
        · exact l
        · split
          · exact l
          · split
            · exact l.nvmPop n
            · exact l
      · split_ifs <;> exact l

theorem Hub.Limits.wakeTimeWrite {s : State} (l : s.hub.Limits) (sl : SliceId) (req : Requester) (o : Nat) (v m : Word) :
    (s.wakeTimeWrite sl req o v m).hub.Limits := by
  unfold State.wakeTimeWrite
  extract_lets put new x held y t
  have lput : ∀ (u : State) (k w : Nat), u.hub.Limits → (put u k w).hub.Limits := fun u _ _ lu => lu.modTgtOf sl.val
  split_ifs
  · exact lput _ _ _ l
  · exact l
  · have lt : t.hub.Limits := lput _ _ _ l
    cases held with
    | some hi => exact lput _ _ _ lt
    | none => exact lt

theorem Hub.Limits.hubWrite {s : State} (l : s.hub.Limits) (u : HubUser) (req : Requester) (p o : Nat) (v m : Word) :
    (s.hubWrite u req p o v m).hub.Limits := by
  unfold State.hubWrite
  extract_lets n
  split
  · cases u with
    | hub => exact l
    | slice sl =>
      dsimp only
      split
      · exact l.wakeTimeWrite sl req o v m
      · exact l
  · split
    · split_ifs
      · exact l.modNvm n _
      · exact l.modNvm n _
      · exact l.nvmCmd n _
      · exact l
    · split
      · split
        · exact l.selectOutput _
        · exact l
      · exact l

theorem Hub.Limits.regWrite {s : State} (l : s.hub.Limits) (sl : SliceId) (req : Requester) (mode : Priv) (blk off : Nat)
    (r : RegRow) (v : Word) : (s.regWrite sl req mode blk off r v).hub.Limits := by
  unfold State.regWrite
  extract_lets x y
  split_ifs
  · rw [ctlWrite_hub]
    exact l
  · rw [selectWrite_hub]
    exact l
  · exact l.rstWrite sl v
  · exact l.bootWrite sl v
  · exact Hub.Limits.posting (s := (s.setSlice sl y).deliver (twin sl) (sentSince x y)) l sl _

theorem Hub.Limits.regsRead {s : State} (l : s.hub.Limits) (sl : SliceId) (req : Requester) (mode : Priv) (o : Nat) :
    (s.regsRead sl req mode o).2.hub.Limits := by
  unfold State.regsRead
  extract_lets x
  split
  · split <;> exact l
  · split_ifs <;> exact l

theorem Hub.Limits.regsWrite {s : State} (l : s.hub.Limits) (sl : SliceId) (req : Requester) (mode : Priv) (o : Nat) (v m : Word) :
    (s.regsWrite sl req mode o v m).2.hub.Limits := by
  unfold State.regsWrite
  extract_lets x
  split
  · split <;> exact l
  · split_ifs
    · exact l
    · exact l
    · exact l.regWrite ..

theorem Hub.Limits.winRead {s : State} (l : s.hub.Limits) (sl : SliceId) (req : Requester) (o : Nat) :
    (s.winRead sl req o).2.hub.Limits := by
  unfold State.winRead
  split_ifs
  · exact l.congr
  · exact l.pageRefused sl
  · exact l.hubRead ..

theorem Hub.Limits.winWrite {s : State} (l : s.hub.Limits) (sl : SliceId) (req : Requester) (o : Nat) (v m : Word) :
    (s.winWrite sl req o v m).2.hub.Limits := by
  unfold State.winWrite
  split_ifs
  · exact l
  · exact l.pageRefused sl
  · exact l.hubWrite ..

theorem Hub.Limits.readWord {s : State} (l : s.hub.Limits) (sl : SliceId) (req : Requester) (mode : Priv) (a : Nat) :
    (s.readWord sl req mode a).2.hub.Limits := by
  unfold State.readWord
  split_ifs
  · exact l.regsRead ..
  · exact l.winRead ..
  · exact l
  · exact l

theorem Hub.Limits.writeWord {s : State} (l : s.hub.Limits) (sl : SliceId) (req : Requester) (mode : Priv) (a : Nat) (v m : Word) :
    (s.writeWord sl req mode a v m).2.hub.Limits := by
  unfold State.writeWord
  split_ifs
  · exact l.regsWrite ..
  · exact l.winWrite ..
  · exact l

theorem limitsAfter_busRead {s : State} (l : s.hub.Limits) (sl : SliceId) (req : Requester) (mode : Priv) (a : Word) :
    LimitsAfter (busRead sl req mode a s) := by
  unfold busRead
  split
  · exact limitsAfter_next (l.readWord ..)
  · exact limitsAfter_next l

theorem limitsAfter_busWrite {s : State} (l : s.hub.Limits) (sl : SliceId) (req : Requester) (mode : Priv) (a v : Word) :
    LimitsAfter (busWrite sl req mode a v s) := by
  unfold busWrite
  split
  · exact limitsAfter_next (l.writeWord ..)
  · exact limitsAfter_next l

theorem Hub.Limits.onOk {r : Access × State} (l : r.2.hub.Limits) {f : Word → State → Access × State}
    (hf : ∀ v t, t.hub.Limits → (f v t).2.hub.Limits) : (onOk r f).2.hub.Limits := by
  unfold Machine.onOk
  split
  · exact hf _ _ l
  · exact l

theorem limitsAfter_busRead64 {s : State} (l : s.hub.Limits) (sl : SliceId) (req : Requester) (mode : Priv) (a : Word) :
    LimitsAfter (busRead64 sl req mode a s) := by
  unfold busRead64
  split
  · exact limitsAfter_next ((l.readWord ..).onOk fun _ _ lt => lt.readWord ..)
  · exact limitsAfter_next l

theorem limitsAfter_busWrite64 {s : State} (l : s.hub.Limits) (sl : SliceId) (req : Requester) (mode : Priv) (a v hi : Word) :
    LimitsAfter (busWrite64 sl req mode a v hi s) := by
  unfold busWrite64
  split
  · exact limitsAfter_next ((l.writeWord ..).onOk fun _ _ lt => lt.writeWord ..)
  · exact limitsAfter_next l

theorem limitsAfter_checkedRead {s : State} (l : s.hub.Limits) (sl : SliceId) (req : Requester) (mode : Priv) (a : Word)
    (hit : Option (ParityUnit × Bool)) : LimitsAfter (checkedRead sl req mode a hit s) := by
  unfold checkedRead
  split
  · exact limitsAfter_busRead l ..
  · next h _ =>
    have ll := limitsAfter_onLink (sl := sl) (f := fun x => parityMismatch x h) l
    cases e : onLink sl (fun x => parityMismatch x h) s with
    | next t =>
      rw [e] at ll
      exact limitsAfter_busRead ll ..
    | fault f => exact trivial
    | refused f => exact trivial

theorem limitsAfter_registerRead {s : State} (l : s.hub.Limits) (sl : SliceId) (req : Requester) (mode : Priv) (p : RegPlace)
    (hit : Option (ParityUnit × Bool)) : LimitsAfter (execRegisterRead sl req mode p hit s) := by
  cases p with
  | mem a => exact limitsAfter_checkedRead l ..
  | csr k => exact limitsAfter_next l

theorem limitsAfter_registerWrite {s : State} (l : s.hub.Limits) (sl : SliceId) (req : Requester) (mode : Priv) (p : RegPlace)
    (v : Word) : LimitsAfter (execRegisterWrite sl req mode p v s) := by
  cases p with
  | mem a => exact limitsAfter_busWrite l ..
  | csr k => exact limitsAfter_next l

theorem limitsAfter_lowWordRead {s : State} (l : s.hub.Limits) (sl : SliceId) (req : Requester) (mode : Priv) (a : Word)
    (wide : Bool) : LimitsAfter (execLowWordRead sl req mode a wide s) := by
  cases wide with
  | true => exact limitsAfter_busRead64 l ..
  | false => exact limitsAfter_busRead l ..

theorem limitsAfter_lowWordWrite {s : State} (l : s.hub.Limits) (sl : SliceId) (req : Requester) (mode : Priv) (a v : Word)
    (hi : Option Word) : LimitsAfter (execLowWordWrite sl req mode a v hi s) := by
  cases hi with
  | some h => exact limitsAfter_busWrite64 l ..
  | none => exact limitsAfter_busWrite l ..

/-! ### REQUESTs and frames from hosts (R80 to R96) -/

theorem Hub.Limits.startRun {s : State} (l : s.hub.Limits) (ses n : Nat) (r : HraRun) : (s.startRun ses n r).hub.Limits := by
  unfold State.startRun
  split
  · exact l.reply ..
  · rw [hostWake_hub]
    exact l.modSession ses

theorem Hub.Limits.nextRun {s : State} (l : s.hub.Limits) (ses : Nat) : (s.nextRun ses).hub.Limits := by
  unfold State.nextRun
  split
  · exact l
  · split
    · exact (l.modSessionOf ses).startRun ses _ _
    · exact l

theorem Hub.Limits.endRun {s : State} (l : s.hub.Limits) (ses : Nat) (r : HraRun) (status index : Byte) :
    (s.endRun ses r status index).hub.Limits := by
  unfold State.endRun
  extract_lets t
  have lt : t.hub.Limits := l.modSession ses
  exact Hub.Limits.nextRun (s := t.modHub (·.reply ses r.seq r.tag status r.done (index :: r.data))) (lt.reply ..) ses

theorem Hub.Limits.emptyRuns {s : State} (l : s.hub.Limits) (n : Nat) : (s.emptyRuns n).hub.Limits := by
  refine List.foldlRecOn (motive := fun s : State => s.hub.Limits) _ _ l fun u lu t _ => ?_
  split
  · split
    · exact lu.endRun ..
    · exact lu
  · exact lu

theorem limitsAfter_wakeDone {s : State} (l : s.hub.Limits) (sl : SliceId) : LimitsAfter (execWakeDone sl s) := by
  unfold execWakeDone
  split
  · refine limitsAfter_next ?_
    split
    · exact l.woken sl _
    · exact (l.woken sl _).emptyRuns _
  · exact limitsAfter_next l

theorem Hub.Limits.requested {s : State} (l : s.hub.Limits) (t : Session) (p : Bytes) : (s.requested t p).hub.Limits := by
  unfold State.requested
  split
  · exact l.reply ..
  · extract_lets r
    split
    · rw [hostWake_hub]
      exact l.modSession t.id
    · exact l.startRun ..

theorem Hub.Limits.eventAcked {s : State} (l : s.hub.Limits) (t : Session) (p : Bytes) : (s.eventAcked t p).hub.Limits :=
  (l.modTgt t.target fun u => length_ackEvent u t.id _).overflow t.target

theorem Hub.Limits.closed {s : State} (l : s.hub.Limits) (t : Session) : (s.closed t).hub.Limits := (l.sendIn t _).closeSession t.id

theorem Hub.Limits.sessionFrame {s : State} (l : s.hub.Limits) (eng : Nat) (f : Bytes) {act : Session → State → State}
    (hact : ∀ t u, u.hub.Limits → (act t u).hub.Limits) : (s.sessionFrame eng f act).hub.Limits := by
  unfold State.sessionFrame
  extract_lets p
  split
  · exact l
  · next t _ =>
    split_ifs
    · exact l
    · exact l.tagFail t.id
    · split
      · exact hact t (s.modHub _) (l.modSession t.id)
      · exact l.resend ..
      · exact l.answer ..
      · exact l.congr

theorem Hub.Limits.hraArrive {s : State} (l : s.hub.Limits) (eng : Nat) (f : Bytes) : (s.hraArrive eng f).hub.Limits := by
  unfold State.hraArrive
  extract_lets p k
  split_ifs
  · exact l.opened eng f
  · exact l.claim f
  · exact l
  · exact l
  · exact l.sessionFrame eng f fun t u lu => lu.requested t p
  · exact l.sessionFrame eng f fun t u lu => lu.eventAcked t p
  · exact l.sessionFrame eng f fun t u lu => lu.closed t
  · exact l

theorem Hub.Limits.mgtArrive {s : State} (l : s.hub.Limits) (f : Bytes) : (s.mgtArrive f).hub.Limits := by
  unfold State.mgtArrive
  split
  · exact l.congr
  · split
    · exact l.hraArrive _ f
    · exact l.modTgt _ fun t => (congrArg List.length (events_receive t f)).le

theorem limitsAfter_mgtFrameReceive {s : State} (l : s.hub.Limits) (f : Bytes) : LimitsAfter (execMgtFrameReceive f s) := by
  refine limitsAfter_next ?_
  split
  · exact l.mgtArrive f
  · exact l

theorem limitsAfter_hraRow {s : State} (l : s.hub.Limits) (type : Nat) (f : Bytes) : LimitsAfter (hraRow type f s) := by
  unfold hraRow
  split
  · exact limitsAfter_mgtFrameReceive l f
  · exact limitsAfter_next l

theorem limitsAfter_eventResend {s : State} (l : s.hub.Limits) (ses : Nat) (seq : Word) : LimitsAfter (execEventResend ses seq s) := by
  refine limitsAfter_onHub ?_
  dsimp only
  split
  · exact l
  · exact List.foldlRecOn _ _ (l.modTgt _ fun _ => (List.length_map _).le) fun g lg e _ => lg.queueTx _ _

theorem Hub.Limits.opEnd {s : State} (l : s.hub.Limits) (ses : Nat) (r : HraRun) (e : OpEnd) : (s.opEnd ses r e).hub.Limits := by
  unfold State.opEnd
  split
  · exact l
  · exact l.endRun ..
  · extract_lets q
    split
    · exact l.endRun ..
    · exact l.modSession ses

/-- An operation in turn keeps the limits where what carries it out does. -/
theorem limitsAfter_runOp {ses : Nat} {f : HraOp → Option (Option SliceId → State → OpEnd × State)} {s : State} (l : s.hub.Limits)
    (hf : ∀ op, ∀ g ∈ f op, ∀ t, (g t s).2.hub.Limits) : LimitsAfter (runOp ses f s) := by
  unfold runOp
  split
  · exact limitsAfter_next l
  · split
    · exact limitsAfter_next l
    · split
      · exact limitsAfter_next l
      · next op _ =>
        split
        · exact limitsAfter_next l
        · next g hg =>
          split
          · exact limitsAfter_next (l.opEnd ..)
          · exact limitsAfter_next ((hf op g hg _).opEnd ..)

/-- A read of a hub session is one of a word of a page of the hub window. The page and the word stay unnamed: the kernel would
compute with the address else. -/
theorem hraRead_hub (s : State) (a : Nat) : ∃ p o, s.hraRead none a =
    if inHubWindow a then (.ok (s.hubRead .hub .hra p o).1, (s.hubRead .hub .hra p o).2) else (.bad, s) := ⟨_, _, rfl⟩

theorem Hub.Limits.hraRead {s : State} (l : s.hub.Limits) (t : Option SliceId) (a : Nat) : (s.hraRead t a).2.hub.Limits := by
  cases t with
  | some sl => exact l.readWord ..
  | none =>
    obtain ⟨p, o, e⟩ := hraRead_hub s a
    rw [e]
    split
    · exact l.hubRead ..
    · exact l

theorem Hub.Limits.hraWrite {s : State} (l : s.hub.Limits) (t : Option SliceId) (a : Nat) (v m : Word) :
    (s.hraWrite t a v m).2.hub.Limits := by
  cases t with
  | some sl => exact l.writeWord ..
  | none =>
    unfold State.hraWrite
    dsimp only
    split
    · exact l.hubWrite .hub .hra _ _ _ _
    · exact l

theorem Hub.Limits.afterAccess {r : Access × State} (l : r.2.hub.Limits) {k : Word → State → OpEnd × State}
    (hk : ∀ v t, t.hub.Limits → (k v t).2.hub.Limits) : (afterAccess r k).2.hub.Limits := by
  unfold Machine.afterAccess
  split
  · exact hk _ _ l
  · exact l

theorem Hub.Limits.hraReads {s : State} (l : s.hub.Limits) (t : Option SliceId) (a n : Nat) : (s.hraReads t a n).2.hub.Limits := by
  induction n generalizing s a with
  | zero => exact l
  | succ n ih =>
    refine (l.hraRead t a).afterAccess fun v u lu => ?_
    have lr := ih lu (a + 4)
    split
    · next e => rw [e] at lr; exact lr
    · exact lr

theorem Hub.Limits.onTarget {s : State} (l : s.hub.Limits) (t : Option SliceId) {f : SliceId → OpEnd × State}
    (hf : ∀ sl, (f sl).2.hub.Limits) : (onTarget t s f).2.hub.Limits := by
  cases t with
  | some sl => exact hf sl
  | none => exact l

end Sys2Proof.Machine
end

section
/-! Proofs. The operations of a REQUEST, and the step: the hub's limits hold after each (R6, R78, R86, R89, R96, R491). -/

namespace Sys2Proof.Machine

set_option Elab.async false

/-! ### Operations of a REQUEST (R89, R91, R92) -/

theorem limitsAfter_hraRead32 {s : State} (l : s.hub.Limits) (ses : Nat) : LimitsAfter (execHraRead32 ses s) := by
  refine limitsAfter_runOp l fun op g hg t => ?_
  cases op <;> cases hg
  exact l.hraReads t _ _

theorem limitsAfter_hraWrite32 {s : State} (l : s.hub.Limits) (ses : Nat) : LimitsAfter (execHraWrite32 ses s) := by
  refine limitsAfter_runOp l fun op g hg t => ?_
  cases op <;> cases hg
  exact (l.hraWrite t _ _ _).afterAccess fun _ _ lu => lu

theorem limitsAfter_hraRead64 {s : State} (l : s.hub.Limits) (ses : Nat) : LimitsAfter (execHraRead64 ses s) := by
  refine limitsAfter_runOp l fun op g hg t => ?_
  cases op <;> cases hg
  exact (l.hraRead t _).afterAccess fun _ _ lu => (lu.hraRead t _).afterAccess fun _ _ lv => lv

theorem limitsAfter_hraWrite64 {s : State} (l : s.hub.Limits) (ses : Nat) : LimitsAfter (execHraWrite64 ses s) := by
  refine limitsAfter_runOp l fun op g hg t => ?_
  cases op <;> cases hg
  exact (l.hraWrite t _ _ _).afterAccess fun _ _ lu => (lu.hraWrite t _ _ _).afterAccess fun _ _ lv => lv

theorem limitsAfter_hraWait {s : State} (l : s.hub.Limits) (ses : Nat) : LimitsAfter (execHraWait ses s) := by
  refine limitsAfter_runOp l fun op g hg t => ?_
  cases op <;> cases hg
  exact (l.hraRead t _).afterAccess fun _ _ lu => lu

theorem limitsAfter_waitTimeout {s : State} (l : s.hub.Limits) (ses : Nat) : LimitsAfter (execWaitTimeout ses s) := by
  refine limitsAfter_runOp l fun op g hg t => ?_
  cases op <;> cases hg
  exact l

theorem limitsAfter_muslinStage {s : State} (l : s.hub.Limits) (ses : Nat) : LimitsAfter (execMuslinStage ses s) := by
  refine limitsAfter_runOp l fun op g hg t => ?_
  cases op <;> cases hg
  exact l.onTarget t fun _ => l

theorem limitsAfter_dmaKick {s : State} (l : s.hub.Limits) (ses : Nat) : LimitsAfter (execDmaKick ses s) := by
  refine limitsAfter_runOp l fun op g hg t => ?_
  cases op <;> cases hg
  refine l.onTarget t fun sl => ?_
  split <;> exact l

theorem limitsAfter_hraWake {s : State} (l : s.hub.Limits) (ses : Nat) : LimitsAfter (execHraWake ses s) := by
  refine limitsAfter_runOp l fun op g hg t => ?_
  cases op <;> cases hg
  exact l.onTarget t fun _ => l

theorem limitsAfter_hraRestart {s : State} (l : s.hub.Limits) (ses : Nat) : LimitsAfter (execHraRestart ses s) := by
  refine limitsAfter_runOp l fun op g hg t => ?_
  cases op <;> cases hg
  cases t with
  | none => exact Hub.Limits.hubDown l.restartHub
  | some sl =>
    dsimp only
    split
    · exact l
    · exact l.restartSlice sl _

theorem limitsAfter_charterApply {s : State} (l : s.hub.Limits) (ses : Nat) : LimitsAfter (execCharterApply ses s) := by
  refine limitsAfter_runOp l fun op g hg t => ?_
  cases op <;> cases hg
  dsimp only
  split
  · exact l
  · split
    · exact l.event ..
    · next e => exact l.takeCharter _ (room_of_chFails_none e)

theorem limitsAfter_sessionMus {s : State} (l : s.hub.Limits) (ses code : Nat) : LimitsAfter (sessionMus ses code s) := by
  refine limitsAfter_runOp l fun op g hg t => ?_
  cases op
  case cmd buf c v =>
    dsimp only at hg
    split at hg
    · cases hg
      exact l.onTarget t fun _ => l
    · cases hg
  all_goals cases hg

theorem limitsAfter_musBy {s : State} (l : s.hub.Limits) (sl : SliceId) (buf : Buf) (who : MusBy) (code : Nat) :
    LimitsAfter (musBy sl buf who code s) := by
  cases who with
  | reg =>
    unfold musBy regMus
    exact limitsAfter_onLink l
  | session ses =>
    unfold musBy
    dsimp only
    split
    · split
      · exact limitsAfter_sessionMus l ..
      · exact limitsAfter_next l
    · exact limitsAfter_next l

/-! ### Other commands that are not on one slice alone -/

theorem limitsAfter_ppsEdge {s : State} (l : s.hub.Limits) : LimitsAfter (execPpsEdge s) := by
  refine limitsAfter_next ?_
  split <;> exact l

theorem limitsAfter_f10mLoss {s : State} (l : s.hub.Limits) : LimitsAfter (execF10mLoss s) := by
  refine limitsAfter_next ?_
  split
  · exact l.congr
  · exact l

theorem limitsAfter_f10mInRestored {s : State} (l : s.hub.Limits) : LimitsAfter (execF10mInRestored s) := by
  refine limitsAfter_next ?_
  split
  · exact l.congr
  · exact l

theorem limitsAfter_f10mMeasure {s : State} (l : s.hub.Limits) : LimitsAfter (execF10mMeasure s) := by
  refine limitsAfter_next ?_
  split <;> exact l

theorem limitsAfter_select {s : State} (l : s.hub.Limits) (sl : SliceId) (grp : Lane) (v : Word) :
    LimitsAfter (execSelect sl grp v s) := by
  unfold execSelect
  split
  · exact limitsAfter_next (s := (selectWrite s sl grp v).setSlice sl _) (selectWrite_hub s sl grp v ▸ l)
  · exact limitsAfter_next l

theorem limitsAfter_twinLinkTrainingDone {s : State} (l : s.hub.Limits) (sl : SliceId) :
    LimitsAfter (execTwinLinkTrainingDone sl s) := by
  unfold execTwinLinkTrainingDone
  split
  · exact limitsAfter_onLink l
  · exact limitsAfter_next l

theorem limitsAfter_helloRetry {s : State} (l : s.hub.Limits) (sl : SliceId) : LimitsAfter (execHelloRetry sl s) := by
  unfold execHelloRetry
  split <;> exact limitsAfter_next l

theorem limitsAfter_hubFaultReport {s : State} (l : s.hub.Limits) (sl : SliceId) : LimitsAfter (execHubFaultReport sl s) := by
  unfold execHubFaultReport
  split
  · exact limitsAfter_next l
  · split
    · extract_lets _ hub
      have lh : hub.Limits := by
        refine l.withSlices (length_modNth _ _ _) fun t ht => ?_
        rcases mem_modNth ht with ht | ⟨u, hu, rfl⟩
        · exact l.events t ht
        · exact l.events u hu
      exact limitsAfter_onLink (s := { s with hub }) lh
    · exact limitsAfter_next l

theorem limitsAfter_ctlWrite {s : State} (l : s.hub.Limits) (sl : SliceId) (blk : Block) (v : Word) :
    LimitsAfter (execCtlWrite sl blk v s) := by
  refine limitsAfter_next ?_
  split
  · exact ctlWrite_hub s sl blk.val v ▸ l
  · exact l

theorem limitsAfter_heldCtlApply {s : State} (l : s.hub.Limits) (sl : SliceId) : LimitsAfter (execHeldCtlApply sl s) := by
  refine limitsAfter_next ?_
  split
  · exact List.foldlRecOn (motive := fun s : State => s.hub.Limits) _ _ l fun u lu w _ => ctlApply_hub u sl w.1 w.2 ▸ lu
  · exact l

theorem limitsAfter_blockDrained {s : State} (l : s.hub.Limits) (sl : SliceId) (blk : Block) :
    LimitsAfter (execBlockDrained sl blk s) := by
  unfold execBlockDrained
  extract_lets x y t
  split
  · refine limitsAfter_next ?_
    split
    · exact linkEnabled_hub t sl ▸ l
    · exact l
  · exact limitsAfter_next l

theorem limitsAfter_sceneCommand {s : State} (l : s.hub.Limits) (sl : SliceId) (v : Word) (op : Nat) (staged : Slice → Bool) :
    LimitsAfter (sceneCommand sl v op staged s) := by
  unfold sceneCommand
  split <;> exact limitsAfter_next l

/-! ### Every command, and every clock -/

/-- Every command keeps the limits. The rows of the last case act on one slice, started or forwarding, and leave the hub. -/
theorem limitsAfter_exec (c : Instr) {s : State} (l : s.hub.Limits) : LimitsAfter (exec c s) := by
  cases c with
  | powerUp mv =>
    unfold exec execPowerUp
    refine limitsAfter_onHub ?_
    split <;> exact l.congr
  | supplyWarning mv => exact limitsAfter_supplyWarning l mv
  | supplyWarningEnd mv =>
    have lm := l.mapSlices (f := fun t => { t with start := t.start || t.deferred, deferred := false })
    exact limitsAfter_next lm.congr
  | supplyFailure mv => exact limitsAfter_supplyFailure l mv
  | packageReset mv => exact limitsAfter_next (l.resetPackage _)
  | overvoltage mv => exact limitsAfter_next (l.resetPackage (mvWord mv)).congr
  | overvoltageRestart mv =>
    unfold exec execOvervoltageRestart
    dsimp only
    split
    · exact limitsAfter_next (l.resetPackage (mvWord mv)).congr
    · exact limitsAfter_next l
  | hubStart => exact limitsAfter_hubStart l
  | hubWatchdogExpiry => exact limitsAfter_hubWatchdogExpiry l
  | hubRestart ses => exact limitsAfter_hubRestart l ses
  | hubStatusRefresh => exact limitsAfter_hubStatusRefresh l
  | feltWakeAlarm sl => exact limitsAfter_feltWakeAlarm l sl
  | sliceStart sl spared => exact limitsAfter_sliceStart l sl spared
  | dramTrainingDone sl pass => exact limitsAfter_dramTrainingDone l sl pass
  | imageChecked sl => exact limitsAfter_imageChecked l sl
  | networkBoot sl r => exact limitsAfter_networkBoot l sl r
  | bootConfirm sl => exact limitsAfter_bootConfirm l sl
  | confirmTimeout sl => exact limitsAfter_confirmTimeout l sl
  | sliceSelfReset sl key => exact limitsAfter_sliceSelfReset l sl key
  | reqNap sl | reqOff sl | dozeEntryDone sl => exact LimitsAfter.andPost (limitsAfter_onLink l)
  | dozeEntry sl =>
    unfold exec execDozeEntry
    exact LimitsAfter.andPost (limitsAfter_next l)
  | wakeDone sl => exact limitsAfter_wakeDone l sl
  | thermalRead sl t0 t1 t2 t3 h0 h1 => exact limitsAfter_thermalRead l sl t0 t1 t2 t3 h0 h1
  | mgtMediumSwitch present => exact limitsAfter_mgtMediumSwitch l present
  | f10mLoss => exact limitsAfter_f10mLoss l
  | f10mInRestored => exact limitsAfter_f10mInRestored l
  | f10mMeasure => exact limitsAfter_f10mMeasure l
  | ppsEdge => exact limitsAfter_ppsEdge l
  | tapReset low sel => exact limitsAfter_tapReset l low sel
  | tapInstruction irs cells => exact limitsAfter_tapInstruction l irs cells
  | mgtFrameReceive f => exact limitsAfter_mgtFrameReceive l f
  | claim f | hraOpen f | hraClose f | request f | eventAck f => exact limitsAfter_hraRow l _ f
  | charterApply ses => exact limitsAfter_charterApply l ses
  | ownerZeroingDone sl => exact limitsAfter_ownerZeroingDone l sl
  | mgtFrameTransmit sl f => exact limitsAfter_mgtFrameTransmit l sl f
  | sessionTimeout ses => exact limitsAfter_next (l.closeSession ses)
  | eventResend ses seq => exact limitsAfter_eventResend l ses seq
  | hraRead32 ses => exact limitsAfter_hraRead32 l ses
  | hraWrite32 ses => exact limitsAfter_hraWrite32 l ses
  | hraRead64 ses => exact limitsAfter_hraRead64 l ses
  | hraWrite64 ses => exact limitsAfter_hraWrite64 l ses
  | hraWait ses => exact limitsAfter_hraWait l ses
  | waitTimeout ses => exact limitsAfter_waitTimeout l ses
  | muslinStage ses => exact limitsAfter_muslinStage l ses
  | dmaKick ses => exact limitsAfter_dmaKick l ses
  | hraWake ses => exact limitsAfter_hraWake l ses
  | hraRestart ses => exact limitsAfter_hraRestart l ses
  | nvmDataWrite u w => exact limitsAfter_nvmAccess l (l.modNvm _ _)
  | nvmProgram u => exact limitsAfter_nvmAccess l (l.nvmProgram _)
  | nvmRead u => exact limitsAfter_nvmAccess l (l.nvmRead _)
  | nvmCommandDone u => exact limitsAfter_nvmCommandDone l u
  | timeOutputSelect u v => exact limitsAfter_timeOutputSelect l u v
  | registerWrite sl req mode p v => exact limitsAfter_registerWrite l sl req mode p v
  | registerRead sl req mode p hit => exact limitsAfter_registerRead l sl req mode p hit
  | lowWordRead sl req mode addr wide => exact limitsAfter_lowWordRead l sl req mode addr wide
  | highWordWrite sl req mode addr v => exact limitsAfter_busWrite l sl req mode addr v
  | lowWordWrite sl req mode addr v hi => exact limitsAfter_lowWordWrite l sl req mode addr v hi
  | ctlWrite sl blk v => exact limitsAfter_ctlWrite l sl blk v
  | heldCtlApply sl => exact limitsAfter_heldCtlApply l sl
  | blockDrained sl blk => exact limitsAfter_blockDrained l sl blk
  | muslinClear sl buf who | muslinCheck sl buf who | muslinArm sl buf who | muslinCancel sl buf who =>
    exact limitsAfter_musBy l sl buf who _
  | select sl grp v => exact limitsAfter_select l sl grp v
  | sceneArm sl v | sceneCancel sl v | sceneRead sl v =>
    unfold exec
    exact limitsAfter_sceneCommand l sl v _ _
  | twinLinkTrainingDone sl => exact limitsAfter_twinLinkTrainingDone l sl
  | helloRetry sl => exact limitsAfter_helloRetry l sl
  | hubFaultReport sl => exact limitsAfter_hubFaultReport l sl
  | flowFetchReadDone | remoteFetchRequest | promotionComplete | sergeBlockLock | lossOfSignal | overheadReceive | frameBoundary
  | multiframeBoundary | logEntrySend | resyncWalk | logEntryApply | shadowClearDone | cleared | endOfResync | twinLinkDown
  | hello | transferResend | twinLaneLock | heartbeatSend | heartbeatReceive | heartbeatInterval | parityScan | recoveryDone
  | readinessAnswer | twinReady | commitInstant | pllUnlock | slowWriteLand =>
    unfold exec
    exact limitsAfter_onLink l
  | _ => exact limitsAfter_next l

theorem Hub.Limits.tick {s : State} (l : s.hub.Limits) : (tick s).hub.Limits := l.mgtSend.congr

/-- Settles O5: the hub's limits hold after the command at the front of the queue, whichever it is, and after a clock. -/
theorem stepKeepsHubLimits : Obligations.StepKeepsHubLimits := by
  intro s t l hstep
  have la : LimitsAfter (step s) := by
    unfold step
    split
    · exact limitsAfter_next l.tick
    · next c cs _ => exact limitsAfter_exec c (s := { s with pending := cs }) l
  rw [hstep] at la
  exact la

end Sys2Proof.Machine
end

section
/-! Proofs. The part after a reset of the whole package (R20, R38, R78, R489). -/

namespace Sys2Proof.Machine

set_option Elab.async false

@[simp] theorem slice_reset (sl : SliceId) : State.reset.slice sl = Slice.blank sl .off := by
  simp [State.slice, State.reset]

theorem limits_reset : Hub.reset.Limits where
  anchors := Nat.zero_le _
  sessions := Nat.zero_le _
  perTarget _ := Nat.zero_le _
  slices := List.length_replicate
  sets := List.length_replicate
  events t ht := by
    rw [List.eq_of_mem_replicate ht]
    exact Nat.zero_le _
  hubEvents := Nat.zero_le _

/-- A slice without register contents of its own reads every register at its reset value. -/
theorem regGet_blank (n : SliceId) (ph : Phase) (b o : Nat) : regGet (Slice.blank n ph) b o = resetOf n.val b o := rfl

/-- Settles O4: a slice after a reset is blank, so that every register reads as the table of R489 gives it; the values written out
are looked up in the table for each of the eight slices. -/
theorem resetState : Obligations.ResetState := by
  refine ⟨rfl, limits_reset, rfl, rfl, rfl, rfl, fun sl => ?_⟩
  rw [slice_reset]
  refine ⟨rfl, rfl, rfl, rfl, rfl, rfl, regGet_blank sl .off, ?_⟩
  simp only [regGet_blank]
  revert sl
  decide +kernel

end Sys2Proof.Machine
end

section
/-! Proofs. Status, the felt clock and the wake alarm (R13, R15, R97, R471). -/

namespace Sys2Proof.Machine

set_option Elab.async false

/-! ### Reads of targets and slices after a change -/

@[simp] theorem slice_eachSlice (s : State) (f : Slice → Slice) (n : SliceId) : (s.eachSlice f).slice n = f (s.slice n) := by
  simp [State.slice, State.eachSlice]

theorem tgt_modTgt_slice (h : Hub) {n : Nat} (f : HubSlice → HubSlice) (h8 : h.slices.length = 8) (hn : n < 8) (m : Nat) :
    (h.modTgt n f).tgt m = if m = n then f (h.tgt n) else h.tgt m := by
  split
  · next e => rw [e]; exact tgt_setTgt_self h n _ h8
  · next e =>
    by_cases hm : m ≤ 8
    · exact tgt_setTgt_ne h n m _ hm hn.le e
    · have hm8 : ¬m < 8 := by omega
      simp only [Hub.modTgt, Hub.setTgt, hn, Hub.tgt, hm8, if_true, if_false]

theorem length_slices_setTgt (h : Hub) (n : Nat) (t : HubSlice) : (h.setTgt n t).slices.length = h.slices.length := by
  obtain ⟨l, u, he, hl⟩ := setTgt_frame h n t
  rw [he, ← hl]

/-! ### HUB_STATUS_REFRESH (R13, R471) -/

/-- What a refresh shows of a slice. -/
def HubSlice.shown (t : HubSlice) : Bool × Bool × Bool := (t.run, t.faulted, t.fbits)

/-- The refresh of one slice. -/
def State.refreshSlice (s : State) (sl : SliceId) : State :=
  let x := s.slice sl
  let new := x.report && !(s.hub.tgt sl.val).faulted
  let s := s.modHub (·.takeNotes sl.val x.toHub)
  let s := s.modHubSlice sl.val fun t => { t with run := x.alive, faulted := x.report, fbits := t.fbits || new }
  s.setSlice sl { s.slice sl with toHub := [] }

theorem exec_hubStatusRefresh {s : State} (h : s.hub.answers = true) :
    exec .hubStatusRefresh s = .next ((List.finRange 8).foldl State.refreshSlice s).timeFlags := by
  show execHubStatusRefresh s = _
  rw [execHubStatusRefresh, if_neg (by simp [h])]
  rfl

/-- An event leaves what is shown of every slice. -/
theorem shown_event {h : Hub} (h8 : h.slices.length = 8) {n : Nat} (hn : n < 8) (c sl : Nat) (d : Dword) (m : SliceId) :
    (h.event n c sl d).slices.length = 8 ∧ ((h.event n c sl d).tgt m.val).shown = (h.tgt m.val).shown := by
  obtain ⟨f, ss, fs, t, he, -, ht, -⟩ := event_frame h n c sl d
  rw [he]
  refine ⟨(length_slices_setTgt _ _ _).trans h8, ?_⟩
  by_cases e : m.val = n
  · rw [e, tgt_setTgt_self _ _ _ (by exact h8), ht]
    rfl
  · rw [tgt_setTgt_ne _ _ _ _ (by omega) hn.le e]
    rfl

/-- So do the notes of a slice. -/
theorem shown_takeNotes {h : Hub} (h8 : h.slices.length = 8) {n : Nat} (hn : n < 8) (ns : List HubNote) (m : SliceId) :
    (h.takeNotes n ns).slices.length = 8 ∧ ((h.takeNotes n ns).tgt m.val).shown = (h.tgt m.val).shown := by
  refine List.foldlRecOn (motive := fun g : Hub => g.slices.length = 8 ∧ (g.tgt m.val).shown = (h.tgt m.val).shown) _ _
    ⟨h8, rfl⟩ fun g hg k _ => ?_
  obtain ⟨g8, gm⟩ := hg
  dsimp only
  split
  · next a b _ =>
    obtain ⟨e8, em⟩ := shown_event (h := g.note n a b) g8 hn k.code n k.data m
    exact ⟨e8, em.trans gm⟩
  · obtain ⟨e8, em⟩ := shown_event g8 hn k.code n k.data m
    exact ⟨e8, em.trans gm⟩

/-- A slice as a refresh leaves it, and what the hub then shows of it. -/
structure Refreshed (s t : State) (n : SliceId) : Prop where
  slice : t.slice n = { s.slice n with toHub := [] }
  shown : (t.hub.tgt n.val).shown = ((s.slice n).alive, (s.slice n).report,
    (s.hub.tgt n.val).fbits || ((s.slice n).report && !(s.hub.tgt n.val).faulted))

/-- A slice that a refresh has not come to, and what the hub shows of it. -/
structure Unrefreshed (s t : State) (n : SliceId) : Prop where
  slice : t.slice n = s.slice n
  shown : (t.hub.tgt n.val).shown = (s.hub.tgt n.val).shown

theorem refreshSlice_spec {s : State} (h8 : s.hub.slices.length = 8) (sl : SliceId) :
    (s.refreshSlice sl).hub.slices.length = 8 ∧ Refreshed s (s.refreshSlice sl) sl
      ∧ ∀ n, n ≠ sl → Unrefreshed s (s.refreshSlice sl) n := by
  unfold State.refreshSlice
  extract_lets x new u v
  have hu : u.hub.slices.length = 8 := (shown_takeNotes h8 sl.isLt x.toHub sl).1
  have hs := fun n => (shown_takeNotes h8 sl.isLt x.toHub n).2
  have hv : ∀ m, v.hub.tgt m = if m = sl.val then
      { u.hub.tgt sl.val with run := x.alive, faulted := x.report, fbits := (u.hub.tgt sl.val).fbits || new } else u.hub.tgt m :=
    tgt_modTgt_slice u.hub _ hu sl.isLt
  refine ⟨(length_slices_setTgt _ _ _).trans hu, ⟨slice_setSlice_self _ _ _, ?_⟩, fun n hn => ⟨slice_setSlice_ne _ _ _ _ hn, ?_⟩⟩
  · have hf : (u.hub.tgt sl.val).fbits = (s.hub.tgt sl.val).fbits := congrArg (·.2.2) (hs sl)
    rw [setSlice_hub, hv, if_pos rfl, HubSlice.shown, hf]
  · rw [setSlice_hub, hv, if_neg (fun e => hn (Fin.ext e))]
    exact hs n

theorem refresh_fold (l : List SliceId) (hl : l.Nodup) {s : State} (h8 : s.hub.slices.length = 8) (n : SliceId) :
    (n ∈ l → Refreshed s (l.foldl State.refreshSlice s) n) ∧ (n ∉ l → Unrefreshed s (l.foldl State.refreshSlice s) n) := by
  induction l generalizing s with
  | nil => exact ⟨fun h => absurd h List.not_mem_nil, fun _ => ⟨rfl, rfl⟩⟩
  | cons a l ih =>
    obtain ⟨ha, hl⟩ := List.nodup_cons.mp hl
    obtain ⟨g8, hself, hne⟩ := refreshSlice_spec h8 a
    obtain ⟨ihin, ihout⟩ := ih hl g8
    simp only [List.foldl_cons, List.mem_cons]
    constructor
    · rintro (rfl | hn)
      · have ho := ihout ha
        exact ⟨ho.slice.trans hself.slice, ho.shown.trans hself.shown⟩
      · have hna := hne n fun e => ha (e ▸ hn)
        have hi := ihin hn
        obtain ⟨-, hfault, hbits⟩ : _ ∧ _ ∧ _ := by simpa only [HubSlice.shown, Prod.mk.injEq] using hna.shown
        exact ⟨by rw [hi.slice, hna.slice], by rw [hi.shown, hna.slice, hfault, hbits]⟩
    · intro hn
      rw [not_or] at hn
      have hna := hne n hn.1
      have ho := ihout hn.2
      exact ⟨ho.slice.trans hna.slice, ho.shown.trans hna.shown⟩

theorem slice_timeFlags (s : State) (n : SliceId) : s.timeFlags.slice n = s.slice n := rfl
theorem tgt_timeFlags (s : State) (m : Nat) : s.timeFlags.hub.tgt m = s.hub.tgt m := rfl

theorem runs_hubStatusRefresh {s : State} (h : s.hub.answers = true) (h8 : s.hub.slices.length = 8) :
    Runs .hubStatusRefresh s fun t => ∀ n : SliceId, t.slice n = { s.slice n with toHub := [] }
      ∧ (t.hub.tgt n.val).run = (s.slice n).alive ∧ (t.hub.tgt n.val).faulted = (s.slice n).report
      ∧ (t.hub.tgt n.val).fbits = ((s.hub.tgt n.val).fbits || ((s.slice n).report && !(s.hub.tgt n.val).faulted)) := by
  refine Runs.intro (exec_hubStatusRefresh h) fun n => ?_
  have hr := (refresh_fold (List.finRange 8) (List.nodup_finRange 8) h8 n).1 (List.mem_finRange n)
  obtain ⟨hrun, hfault, hbits⟩ : _ ∧ _ ∧ _ := by simpa only [HubSlice.shown, Prod.mk.injEq] using hr.shown
  rw [slice_timeFlags, tgt_timeFlags]
  exact ⟨hr.slice, hrun, hfault, hbits⟩

/-! ### Wakes from DOZE and NAP (R15, R44) -/

theorem sleeps_of_pwCur {x : Slice} (hc : pwCur x = 1 ∨ pwCur x = 2) (hm : x.move = .none) : (dozing x || inNap x) = true := by
  rcases hc with hc | hc
  · simp [dozing, cuDoze, hc, hm]
  · simp [inNap, napping, show regFld x kSLC 0x100 7 6 = 2 from hc]

theorem not_sleeps_of_active {x : Slice} (hc : pwCur x = 0) (hm : x.move = .none) : (dozing x || inNap x) = false := by
  simp [dozing, cuDoze, inNap, napping, hc, hm, show regFld x kSLC 0x100 7 6 = 0 from hc]

theorem wakeBy_of_pwCur {x : Slice} (hc : pwCur x = 1 ∨ pwCur x = 2) (hm : x.move = .none) (c : WakeCause) :
    wakeBy x c = { x with move := .waking c } := by
  have h0 : ¬pwCur x = cuActive := by unfold cuActive; omega
  simp only [wakeBy, hm, if_neg h0]

theorem runs_feltClockLoss (s : State) : Runs .feltClockLoss s fun t => t.hub = s.hub ∧ t.pending = s.pending ∧ ∀ n,
    (((s.slice n).on && (dozing (s.slice n) || inNap (s.slice n))) = false → t.slice n = s.slice n)
    ∧ ((s.slice n).on = true → pwCur (s.slice n) = 1 ∨ pwCur (s.slice n) = 2 → (s.slice n).move = .none →
      t.slice n = { s.slice n with move := .waking .feltLoss, stayActive := true }) := by
  refine Runs.intro (t := s.eachSlice feltLost) rfl ⟨rfl, rfl, fun n => ⟨fun h => ?_, fun hon hc hm => ?_⟩⟩
  · rw [slice_eachSlice, feltLost, if_neg (by simp [h])]
  · rw [slice_eachSlice, feltLost, if_pos (by simp [hon, sleeps_of_pwCur hc hm]), wakeBy_of_pwCur hc hm]

/-! ### FELT_WAKE_ALARM (R97) -/

/-- The alarm of a slice raised for the posted times that are due. -/
def State.alarmRaised (s : State) (sl : SliceId) : State :=
  let x := s.slice sl
  let t := s.modHubSlice sl.val fun t => { t with wakes := t.wakes.filter fun w => decide (alarmLead < dueIn x w) }
  if dozing x || inNap x then t.setSlice sl (wakeBy x .feltAlarm) else t

theorem exec_alarmWhenDue {s : State} {sl : SliceId} (hf : s.hub.felt = true) (hu : hubUp s = true) (hon : (s.slice sl).on = true)
    (hd : ∃ w ∈ (s.hub.tgt sl.val).wakes, dueIn (s.slice sl) w ≤ alarmLead) :
    exec (.feltWakeAlarm sl) s = .next (s.alarmRaised sl) := by
  have ha : (s.hub.tgt sl.val).wakes.any (fun w => decide (dueIn (s.slice sl) w ≤ alarmLead)) = true := by simpa using hd
  show execFeltWakeAlarm sl s = _
  simp only [execFeltWakeAlarm, hf, hu, hon, ha, Bool.and_self, if_true, State.alarmRaised, ← not_le, decide_not]

theorem exec_alarmWhenEarly {s : State} {sl : SliceId} (h : ∀ w ∈ (s.hub.tgt sl.val).wakes, alarmLead < dueIn (s.slice sl) w) :
    exec (.feltWakeAlarm sl) s = .next s := by
  have ha : (s.hub.tgt sl.val).wakes.any (fun w => decide (dueIn (s.slice sl) w ≤ alarmLead)) = false := by simpa using h
  show execFeltWakeAlarm sl s = _
  simp only [execFeltWakeAlarm, ha, Bool.and_false, Bool.false_eq_true, if_false]

theorem alarmRaised_hub (s : State) (sl : SliceId) : (s.alarmRaised sl).hub = s.hub.modTgt sl.val fun t =>
    { t with wakes := t.wakes.filter fun w => decide (alarmLead < dueIn (s.slice sl) w) } := by
  unfold State.alarmRaised
  extract_lets x t
  split <;> rfl

theorem slice_alarmRaised_self (s : State) (sl : SliceId) : (s.alarmRaised sl).slice sl =
    if dozing (s.slice sl) || inNap (s.slice sl) then wakeBy (s.slice sl) .feltAlarm else s.slice sl := by
  unfold State.alarmRaised
  extract_lets x t
  split
  · exact slice_setSlice_self _ _ _
  · rfl

theorem alarmRaised_frame (s : State) (sl : SliceId) :
    (s.alarmRaised sl).pending = s.pending ∧ ∀ n, n ≠ sl → (s.alarmRaised sl).slice n = s.slice n := by
  unfold State.alarmRaised
  extract_lets x t
  split
  · exact ⟨rfl, fun n hn => slice_setSlice_ne _ _ _ _ hn⟩
  · exact ⟨rfl, fun _ _ => rfl⟩

/-- Settles O7, row by row: the refresh slice by slice, and the wakes by the slice's state. -/
theorem statusAndFeltClock : Obligations.StatusAndFeltClock := by
  intro s sl
  refine ⟨runs_hubStatusRefresh, runs_feltClockLoss s, fun hf hu hon h8 hd => ?_, exec_alarmWhenEarly⟩
  obtain ⟨hp, hothers⟩ := alarmRaised_frame s sl
  refine Runs.intro (exec_alarmWhenDue hf hu hon hd) ⟨?_, hp, fun m => ?_, hothers, fun hc hm => ?_, fun hc hm => ?_⟩
  · rw [alarmRaised_hub, Hub.modTgt, Hub.setTgt, if_pos sl.isLt]
  · rw [alarmRaised_hub, tgt_modTgt_slice _ _ h8 sl.isLt]
    split
    · next e => rw [e]; rfl
    · rfl
  · rw [slice_alarmRaised_self, if_neg (by simp [not_sleeps_of_active hc hm])]
  · rw [slice_alarmRaised_self, if_pos (sleeps_of_pwCur hc hm), wakeBy_of_pwCur hc hm]

end Sys2Proof.Machine
end

section
/-! Proofs. Support for the twin link: fields after other writes, operations that keep to named blocks, messages to the twin,
what a fault log entry counts. -/

namespace Sys2Proof.Machine

set_option Elab.async false

/-! ### Fields and bits of registers -/

theorem regFld_raise (x : Slice) (b c b' o' hi lo : Nat) (h : b' < 17 ∨ 18 ≤ b') (ho' : o' < 0x100000) (hc : b * 16 + c < 512) :
    regFld (raise x b c) b' o' hi lo = regFld x b' o' hi lo := by
  rw [regFld, regGet_raise x b c b' o' h ho' hc, regFld]

theorem regBit_raise (x : Slice) (b c b' o' i : Nat) (h : b' < 17 ∨ 18 ≤ b') (ho' : o' < 0x100000) (hc : b * 16 + c < 512) :
    regBit (raise x b c) b' o' i = regBit x b' o' i := by
  rw [regBit, regGet_raise x b c b' o' h ho' hc, regBit]

theorem regBit_regPut_other (x : Slice) (b o hi lo i v : Nat) (h : lo ≤ hi) (h32 : hi < 32) (hd : i < lo ∨ hi < i) :
    regBit (regPut x b o hi lo v) b o i = regBit x b o i := by
  rw [regBit, regGet_regPut_self, wbit_setFld _ _ _ _ _ h h32, if_neg (by omega), regBit]

theorem regBit_regPut_ne (x : Slice) (b o b' o' hi lo i v : Nat) (h : regKey b' o' ≠ regKey b o) :
    regBit (regPut x b o hi lo v) b' o' i = regBit x b' o' i := by
  rw [regBit, regGet_regPut_ne _ _ _ _ _ _ _ _ h, regBit]

theorem fenced_congr {x y : Slice} {b : Nat} (h : regGet y b 8 = regGet x b 8) : fenced y b = fenced x b := by
  rw [fenced, blkState, regFld, h, fenced, blkState, regFld]

theorem linkIsUp_iff (x : Slice) : linkIsUp x = true ↔ regFld x kTWN 0x100 31 28 = 3 ∨ regFld x kTWN 0x100 31 28 = 4 := by
  simp [linkIsUp]

theorem linkIsUp_false_iff (x : Slice) : linkIsUp x = false ↔ ¬(regFld x kTWN 0x100 31 28 = 3 ∨ regFld x kTWN 0x100 31 28 = 4) := by
  rw [← linkIsUp_iff, Bool.not_eq_true]

/-! ### Operations that keep to named blocks -/

theorem RegsOnly.eq_with {x y : Slice} (h : RegsOnly x y) : y = { x with regs := y.regs } := by
  obtain ⟨r, rfl⟩ := h
  rfl

/-- A slice differs from another in registers and Serge groups only, and in no register outside the named blocks. -/
structure KeepsTo (bs : List Nat) (x y : Slice) : Prop where
  shape : ∃ r gs, y = { x with regs := r, groups := gs }
  keeps : ∀ b o, o < 0x100000 → b ∉ bs → regGet y b o = regGet x b o

theorem KeepsTo.refl (bs : List Nat) (x : Slice) : KeepsTo bs x x := ⟨⟨x.regs, x.groups, rfl⟩, fun _ _ _ _ => rfl⟩

theorem KeepsTo.trans {bs : List Nat} {x y z : Slice} (h : KeepsTo bs x y) (g : KeepsTo bs y z) : KeepsTo bs x z := by
  refine ⟨?_, fun b o ho hb => (g.keeps b o ho hb).trans (h.keeps b o ho hb)⟩
  obtain ⟨r, gs, rfl⟩ := h.shape
  obtain ⟨r', gs', rfl⟩ := g.shape
  exact ⟨r', gs', rfl⟩

theorem KeepsTo.regFld {bs : List Nat} {x y : Slice} (h : KeepsTo bs x y) (b o hi lo : Nat) (ho : o < 0x100000) (hb : b ∉ bs) :
    regFld y b o hi lo = regFld x b o hi lo := by rw [Machine.regFld, h.keeps b o ho hb, Machine.regFld]

theorem KeepsTo.mono {bs cs : List Nat} {x y : Slice} (h : KeepsTo bs x y) (hs : bs ⊆ cs) : KeepsTo cs x y :=
  ⟨h.shape, fun b o ho hb => h.keeps b o ho fun hm => hb (hs hm)⟩

theorem RegsOnly.keepsTo {bs : List Nat} {x y : Slice} (h : RegsOnly x y)
    (hk : ∀ b o, o < 0x100000 → b ∉ bs → regGet y b o = regGet x b o) : KeepsTo bs x y := by
  obtain ⟨r, rfl⟩ := h
  exact ⟨⟨r, x.groups, rfl⟩, hk⟩

theorem keepsTo_regPut {bs : List Nat} (x : Slice) (b o hi lo v : Nat) (ho : o < 0x100000) (hb : b ∈ bs) :
    KeepsTo bs x (regPut x b o hi lo v) :=
  (regsOnly_regPut x b o hi lo v).keepsTo fun b' o' ho' hb' =>
    regGet_regPut_ne x b o b' o' hi lo v (regKey_ne ho ho' (Or.inl fun e => hb' (e ▸ hb)))

theorem keepsTo_raise {bs : List Nat} (x : Slice) (b c : Nat) (hc : b * 16 + c < 0x10000) (hb : kICN ∈ bs) :
    KeepsTo bs x (raise x b c) :=
  (regsOnly_raise x b c).keepsTo fun b' o' ho' hb' => by
    refine regsBut_raise (RegsBut.refl x (raiseKeys b c)) b c hc (List.Subset.refl _) b' o' ho' ?_
    have hne : b' ≠ kICN := fun e => hb' (e ▸ hb)
    simp [raiseKeys, hne]

theorem keepsTo_ite {bs : List Nat} {x y : Slice} {p : Prop} [Decidable p] (h : KeepsTo bs x y) :
    KeepsTo bs x (if p then y else x) := by
  split
  · exact h
  · exact KeepsTo.refl bs x

theorem keepsTo_foldl {α : Type} {bs : List Nat} {f : Slice → α → Slice} {l : List α}
    (h : ∀ x, ∀ a ∈ l, KeepsTo bs x (f x a)) (x : Slice) : KeepsTo bs x (l.foldl f x) := by
  induction l generalizing x with
  | nil => exact KeepsTo.refl bs x
  | cons a l ih => exact (h x a (List.mem_cons_self ..)).trans (ih (fun y b hb => h y b (List.mem_cons_of_mem a hb)) _)

theorem LogOnly.keepsTo {x y : Slice} (h : LogOnly x y) : KeepsTo [kFLT, kICN] x y :=
  h.regs.keepsTo fun b o ho hb => by
    simp only [List.mem_cons, List.not_mem_nil, or_false, not_or] at hb
    exact h.keeps b o ho hb.1 hb.2

theorem KeepsTo.raise_if {bs : List Nat} {x y : Slice} (h : KeepsTo bs x y) (p : Prop) [Decidable p] (b c : Nat)
    (hc : b * 16 + c < 0x10000) (hb : kICN ∈ bs) : KeepsTo bs x (if p then raise y b c else y) :=
  h.trans (keepsTo_ite (keepsTo_raise y b c hc hb))

theorem keepsTo_setTrkState (x : Slice) {b k : Nat} (st : Nat) (hb : b < 4) (hk : k < 2) :
    KeepsTo [kTIM, kICN] x (setTrkState x b k st) := by
  have hoff : trkOff b k + 4 < 0x100000 := by unfold trkOff; omega
  have hput : KeepsTo [kTIM, kICN] x (regPut x kTIM (trkOff b k + 4) 31 29 st) := keepsTo_regPut x _ _ _ _ _ hoff (by decide)
  by_cases hs : trkState x b k = st
  · rw [setTrkState, if_pos hs]; exact KeepsTo.refl _ x
  · rw [setTrkState, if_neg hs]
    exact ((hput.raise_if _ kTIM 0 (by decide) (by decide)).raise_if _ kTIM 1 (by decide) (by decide)).raise_if _ kTIM 4
        (by decide) (by decide)

/-- Trackers that lose their twin are those of TIM (R374). -/
theorem keepsTo_twinHoldover (x : Slice) : KeepsTo [kTIM, kICN] x (twinHoldover x) := by
  refine keepsTo_foldl (fun y i hi => keepsTo_ite ?_) x
  have h8 : i < 8 := List.mem_range.1 hi
  exact keepsTo_setTrkState y _ (by omega) (by omega)

theorem keepsTo_setGroup (bs : List Nat) (x : Slice) (g : Group) : KeepsTo bs x (setGroup x g) :=
  ⟨⟨x.regs, _, rfl⟩, fun _ _ _ _ => rfl⟩

theorem keepsTo_setSel (x : Slice) (n : Lane) (b : Bool) : KeepsTo [kSRG, kICN] x (setSel x n.val b) := by
  have hoff : protOff n.val < 0x100000 := by unfold protOff; omega
  unfold setSel
  split
  · exact KeepsTo.refl _ x
  · exact (keepsTo_regPut x _ _ _ _ _ hoff (by decide)).trans (keepsTo_raise _ kSRG 4 (by decide) (by decide))

/-- A lost twin changes protect groups alone (R184). -/
theorem keepsTo_protTwinLost (x : Slice) : KeepsTo [kSRG, kICN] x (protTwinLost x) := by
  unfold protTwinLost
  refine keepsTo_foldl (fun y g _ => keepsTo_ite ?_) x
  cases groupOf y g.lane with
  | none => exact KeepsTo.refl _ y
  | some g => exact (keepsTo_setGroup _ y _).trans (keepsTo_setSel _ g.lane true)

/-! ### Work that a lost link ends -/

theorem failRemotes_of_idle {x : Slice} (h : x.trackers = []) : failRemotes x = x := by rw [failRemotes, h]; rfl

theorem releaseAllHeld_of_idle {x : Slice} (h : x.held = []) : releaseAllHeld x = x := by rw [releaseAllHeld, h]; rfl

/-! ### Messages to the twin -/

theorem sendTwin_of_not_fenced {x : Slice} (h : fenced x kTWN = false) (m : TwinMsg) :
    sendTwin x m = { x with unacked := x.unacked ++ [⟨x.nextXfer, 0, m⟩], nextXfer := x.nextXfer + 1 } := by
  simp [sendTwin, h]

theorem sendTwin_of_fenced {x : Slice} (h : fenced x kTWN = true) (m : TwinMsg) : sendTwin x m = discarded x kTWN 1 := by
  simp [sendTwin, h]

theorem not_fenced_of_enabled {x : Slice} {b : Nat} (h : enabled x b = true) : fenced x b = false := by
  simp only [enabled, decide_eq_true_eq] at h
  simp [fenced, h, stEnabled, stFenced]

/-- A message to the twin is a transfer, or one more discarded: no register and nothing else changes. -/
theorem sendTwin_frame (x : Slice) (m : TwinMsg) :
    ∃ u n d, sendTwin x m = { x with unacked := u, nextXfer := n, discards := d } := by
  unfold sendTwin
  split
  · exact ⟨x.unacked, x.nextXfer, _, rfl⟩
  · exact ⟨_, _, x.discards, rfl⟩

theorem regGet_sendTwin (x : Slice) (m : TwinMsg) : regGet (sendTwin x m) = regGet x := by
  obtain ⟨u, n, d, e⟩ := sendTwin_frame x m
  funext b o
  rw [e, regGet, regGet]

/-! ### What a fault log entry counts (R469, R470) -/

/-- An entry is placed, or counted as lost, away from the counters of the classes. -/
theorem regGet_fltStore (x : Slice) (cls : Nat) (w0 w1 w2 w3 : Word) {o : Nat} (h1 : 0x1008 ≤ o) (h2 : o < 0x4000) :
    regGet (fltStore x cls w0 w1 w2 w3) kFLT o = regGet x kFLT o := by
  have hset : ∀ (y : Slice) (o' : Nat) (v : Word), o' ≠ o → regGet (regSet y kFLT o' v) kFLT o = regGet y kFLT o :=
    fun y o' v hne => regGet_regSet_ne _ _ _ _ _ _ (by unfold regKey; omega)
  have hput : ∀ (y : Slice) (o' hi lo v : Nat), o' ≠ o → regGet (regPut y kFLT o' hi lo v) kFLT o = regGet y kFLT o :=
    fun y o' hi lo v hne => hset y o' _ hne
  have hslot : ∀ (y : Slice) (k : Nat), regGet (fltSlot y k w0 w1 w2 w3) kFLT o = regGet y kFLT o := fun y k => by
    unfold fltSlot
    rw [hset _ _ _ (by omega), hset _ _ _ (by omega), hset _ _ _ (by omega), hset _ _ _ (by omega)]
  have hlost : ∀ y : Slice, regGet (fltLostEntry y) kFLT o = regGet y kFLT o := fun y => by
    have hcount : regGet (count y kFLT 0x1000 1) kFLT o = regGet y kFLT o := by
      rw [count, pairSet, hset _ _ _ (by omega), hset _ _ _ (by omega)]
    unfold fltLostEntry flagRaise
    split
    · exact hcount
    · rw [regGet_raise _ _ _ _ _ (by decide) (by omega) (by decide), hput _ _ _ _ _ (by omega), hcount]
  unfold fltStore
  split
  · rw [hput _ _ _ _ _ (by omega), hput _ _ _ _ _ (by omega), hslot]
  · split
    · exact hlost x
    · split
      · rw [hlost, hslot]
      · exact hlost x

/-- A SOFT entry changes the log alone, which counts it; the hub does not hear of it (R471). -/
theorem faultLog_soft (x : Slice) (blk unit code detail : Nat) :
    LogOnly x (faultLog x fcSoft blk unit code detail) ∧ Counted x (faultLog x fcSoft blk unit code detail) kFLT 0x1008 1 := by
  have e : ∃ w0 w1 w2 w3, faultLog x fcSoft blk unit code detail
      = raise (count (fltStore x fcSoft w0 w1 w2 w3) kFLT 0x1008 1) kFLT 0 := by
    have hspared : ¬fcSoft = fcSpared := by decide
    have hdegraded : ¬fcSoft = fcDegraded := by decide
    have hlost : ¬fcSoft = fcLost := by decide
    simp only [faultLog, hspared, hdegraded, hlost, if_true, if_false]
    exact ⟨_, _, _, _, rfl⟩
  obtain ⟨w0, w1, w2, w3, e⟩ := e
  rw [e]
  refine ⟨logOnly_raise (logOnly_count (logOnly_fltStore (LogOnly.refl x) _ _ _ _ _) _ _ (by norm_num)) _ _ (by decide), ?_⟩
  have hpair : pairGet (fltStore x fcSoft w0 w1 w2 w3) kFLT 0x1008 = pairGet x kFLT 0x1008 := by
    simp only [pairGet, regGet_fltStore x fcSoft w0 w1 w2 w3 (o := 0x1008) (by norm_num) (by norm_num),
      regGet_fltStore x fcSoft w0 w1 w2 w3 (o := 0x1008 + 4) (by norm_num) (by norm_num)]
  calc pairGet (raise (count (fltStore x fcSoft w0 w1 w2 w3) kFLT 0x1008 1) kFLT 0) kFLT 0x1008
      = pairGet (count (fltStore x fcSoft w0 w1 w2 w3) kFLT 0x1008 1) kFLT 0x1008 := by
        simp only [pairGet]
        rw [regGet_raise _ _ _ _ _ (by decide) (by decide) (by decide), regGet_raise _ _ _ _ _ (by decide) (by decide) (by decide)]
    _ = (pairGet x kFLT 0x1008 + 1) % 2 ^ 64 := by rw [pairGet_count, hpair]

end Sys2Proof.Machine
end

section
/-! Proofs. How the twin link goes down and comes up (R12, R149 to R153). -/

namespace Sys2Proof.Machine

set_option Elab.async false

theorem shadState_le (x : Slice) : shadState x ≤ 3 := Nat.le_of_lt_succ (bits_lt _ 31 30)

/-! ### The link goes down -/

/-- The writes to TWN_LINK with which the link goes down. -/
def downRegs (x : Slice) (st code : Nat) : Slice :=
  let x := regPut (setLink x st) kTWN 0x100 23 16 code
  if code = 3 then x else regPut x kTWN 0x100 27 24 0

theorem linkDown_eq (x : Slice) (st code : Nat) : linkDown x st code =
    if linkIsUp x then raise (stopReplication (downRegs x st code)) kTWN 1
    else { downRegs x st code with unacked := [], inbox := (downRegs x st code).inbox.filter keptMsg } := rfl

theorem regsOnly_downRegs (x : Slice) (st code : Nat) : RegsOnly x (downRegs x st code) := by
  have h : RegsOnly x (regPut (setLink x st) kTWN 0x100 23 16 code) := (regsOnly_regPut x ..).trans (regsOnly_regPut ..)
  unfold downRegs
  split
  · exact h
  · exact h.trans (regsOnly_regPut ..)

theorem regsBut_downRegs (x : Slice) (st code : Nat) : RegsBut x (downRegs x st code) [(kTWN, 0x100)] := by
  have h : RegsBut x (regPut (setLink x st) kTWN 0x100 23 16 code) [(kTWN, 0x100)] :=
    regsBut_regPut (regsBut_regPut (RegsBut.refl x _) _ _ _ _ _ (by norm_num) (by simp)) _ _ _ _ _ (by norm_num) (by simp)
  unfold downRegs
  split
  · exact h
  · exact regsBut_regPut h _ _ _ _ _ (by norm_num) (by simp)

theorem state_downRegs (x : Slice) {st : Nat} (code : Nat) (h : st < 16) : regFld (downRegs x st code) kTWN 0x100 31 28 = st := by
  unfold downRegs
  split <;> simp (disch := decide) [setLink, regFld_regPut_other, regFld_regPut_self, Nat.mod_eq_of_lt h]

theorem cause_downRegs (x : Slice) (st : Nat) {code : Nat} (h : code < 256) : regFld (downRegs x st code) kTWN 0x100 23 16 = code := by
  unfold downRegs
  split <;> simp (disch := decide) [regFld_regPut_other, regFld_regPut_self, Nat.mod_eq_of_lt h]

/-- A link that is not up has nothing to stop: what was sent is dropped, and what came in but log entries and notices. -/
theorem linkDown_of_not_up {x : Slice} (hup : linkIsUp x = false) {st code : Nat} (hst : st < 16) (hc : code < 256) :
    linkDown x st code = { x with regs := (linkDown x st code).regs, unacked := [], inbox := x.inbox.filter keptMsg }
    ∧ regFld (linkDown x st code) kTWN 0x100 31 28 = st ∧ regFld (linkDown x st code) kTWN 0x100 23 16 = code
    ∧ RegsBut x (linkDown x st code) [(kTWN, 0x100)] := by
  rw [linkDown_eq, hup]
  obtain ⟨r, hr⟩ := regsOnly_downRegs x st code
  exact ⟨by rw [hr]; rfl, state_downRegs x code hst, cause_downRegs x st hc, regsBut_of_eq (regsBut_downRegs x st code) rfl rfl⟩

/-- What a slice shows once a link that was up has gone down, with a state and a cause (R12, R152). -/
structure LinkFell (x y : Slice) (st code : Nat) : Prop where
  state : regFld y kTWN 0x100 31 28 = st
  cause : regFld y kTWN 0x100 23 16 = code
  logq : y.logq = []
  txst : txst y = 0
  rxst : rxst y = 0
  frozen : shadState x = 0 ∨ shadState x = 1 → shadState y = 1
  promoted : 2 ≤ shadState x → shadState y = shadState x
  inbox : y.inbox = x.inbox.filter keptMsg
  tabs : y.tabs = x.tabs
  frames : y.frames = x.frames

/-- The slice without its log, its transfers, and what no promotion needs of its inbox. -/
def Slice.emptied (x : Slice) : Slice := { x with logq := [], unacked := [], inbox := x.inbox.filter keptMsg }

/-- Both ends of resync at rest. -/
def resyncEnded (x : Slice) : Slice := setRxst (setTxst x 0) 0

theorem regsOnly_resyncEnded (x : Slice) : RegsOnly x (resyncEnded x) := (regsOnly_regPut ..).trans (regsOnly_regPut ..)

theorem regsOnly_freezeShadow (x : Slice) : RegsOnly x (freezeShadow x) := by
  unfold freezeShadow; split
  · exact RegsOnly.refl x
  · exact regsOnly_regPut ..

theorem stopReplication_of_idle {x : Slice} (hh : x.held = []) (ht : x.trackers = []) :
    stopReplication x = twinHoldover (freezeShadow (resyncEnded x.emptied)) := by
  obtain ⟨r, hr⟩ := (regsOnly_resyncEnded x.emptied).trans (regsOnly_freezeShadow _)
  obtain ⟨q, gs, hq⟩ := (keepsTo_twinHoldover (freezeShadow (resyncEnded x.emptied))).shape
  have h1 : (twinHoldover (freezeShadow (resyncEnded x.emptied))).trackers = [] := by rw [hq, hr]; exact ht
  have h2 : (twinHoldover (freezeShadow (resyncEnded x.emptied))).held = [] := by rw [hq, hr]; exact hh
  calc stopReplication x = releaseAllHeld (failRemotes (twinHoldover (freezeShadow (resyncEnded x.emptied)))) := rfl
    _ = _ := by rw [failRemotes_of_idle h1, releaseAllHeld_of_idle h2]

theorem keepsTo_freezeShadow (x : Slice) : KeepsTo [kFLW] x (freezeShadow x) := by
  unfold freezeShadow; split
  · exact KeepsTo.refl _ x
  · exact keepsTo_regPut x _ _ _ _ _ (by norm_num) (by simp)

theorem shadState_freezeShadow_of_not_promoting {x : Slice} (h : shadState x = 0 ∨ shadState x = 1) : shadState (freezeShadow x) = 1 := by
  rw [freezeShadow, if_neg (by unfold shPromoting shPromoted; omega)]
  exact regFld_regPut_self x _ _ _ _ _ (by norm_num) (by norm_num)

theorem freezeShadow_of_promoting {x : Slice} (h : 2 ≤ shadState x) : freezeShadow x = x := by
  have := shadState_le x
  rw [freezeShadow, if_pos (by unfold shPromoting shPromoted; omega)]

/-- A link that was up takes replication down with it: the log is discarded and the shadow frozen (R12). -/
theorem linkDown_of_up {x : Slice} (hup : linkIsUp x = true) (hh : x.held = []) (ht : x.trackers = []) {st code : Nat}
    (hst : st < 16) (hc : code < 256) :
    LinkFell x (linkDown x st code) st code ∧ (linkDown x st code).unacked = [] ∧ (linkDown x st code).nextXfer = x.nextXfer
    ∧ (linkDown x st code).twinLost = x.twinLost ∧ fenced (linkDown x st code) kTWN = fenced x kTWN := by
  obtain ⟨r, hr⟩ := regsOnly_downRegs x st code
  have hstate := state_downRegs x code hst
  have hcause := cause_downRegs x st hc
  have hbut := regsBut_downRegs x st code
  rw [linkDown_eq, hup, if_pos rfl, stopReplication_of_idle (by rw [hr]; exact hh) (by rw [hr]; exact ht)]
  generalize downRegs x st code = d at hr hstate hcause hbut
  have hv := regsOnly_resyncEnded d.emptied
  have hvT : ∀ o, o < 0x100000 → o ≠ 0x130 → regGet (resyncEnded d.emptied) kTWN o = regGet d kTWN o := fun o ho hne => by
    rw [resyncEnded, setRxst, setTxst, regGet_regPut_ne _ _ _ _ _ _ _ _ (regKey_ne (by norm_num) ho (Or.inr hne)),
      regGet_regPut_ne _ _ _ _ _ _ _ _ (regKey_ne (by norm_num) ho (Or.inr hne))]
    rfl
  have hshad : shadState (resyncEnded d.emptied) = shadState x := by
    rw [shadState, resyncEnded, setRxst, setTxst, regFld_regPut_ne _ _ _ _ _ _ _ _ _ _ (by decide),
      regFld_regPut_ne _ _ _ _ _ _ _ _ _ _ (by decide)]
    exact congrArg (fld · 31 30) (hbut kFLW 0x160 (by norm_num) (by decide))
  have htx : txst (resyncEnded d.emptied) = 0 := by
    simp (disch := decide) [txst, resyncEnded, setRxst, setTxst, regFld_regPut_other, regFld_regPut_self]
  have hrx : rxst (resyncEnded d.emptied) = 0 := by
    simp (disch := decide) [rxst, resyncEnded, setRxst, regFld_regPut_self]
  generalize resyncEnded d.emptied = v at hv hvT hshad htx hrx
  have hfin : KeepsTo [kTIM, kICN] (freezeShadow v) (raise (twinHoldover (freezeShadow v)) kTWN 1) :=
    (keepsTo_twinHoldover _).trans (keepsTo_raise _ _ _ (by decide) (by decide))
  have hall : KeepsTo [kFLW, kTIM, kICN] v (raise (twinHoldover (freezeShadow v)) kTWN 1) :=
    ((keepsTo_freezeShadow v).mono (by simp)).trans (hfin.mono (by simp))
  have hshadY : shadState (raise (twinHoldover (freezeShadow v)) kTWN 1) = shadState (freezeShadow v) :=
    hfin.regFld _ _ _ _ (by norm_num) (by decide)
  generalize raise (twinHoldover (freezeShadow v)) kTWN 1 = y at hall hshadY
  have htwn : ∀ o hi lo, o < 0x100000 → o ≠ 0x130 → regFld y kTWN o hi lo = regFld d kTWN o hi lo := fun o hi lo ho hne => by
    rw [hall.regFld _ _ _ _ ho (by decide), regFld, hvT o ho hne, regFld]
  obtain ⟨q, gs, hy⟩ := hall.shape
  obtain ⟨p, hp⟩ := hv
  have hfen : fenced y kTWN = fenced x kTWN := by
    unfold fenced blkState
    rw [htwn _ _ _ (by norm_num) (by norm_num), regFld, hbut _ _ (by norm_num) (by decide), regFld]
  refine ⟨{ state := by rw [htwn _ _ _ (by norm_num) (by norm_num), hstate]
            cause := by rw [htwn _ _ _ (by norm_num) (by norm_num), hcause]
            logq := by rw [hy, hp]; rfl
            txst := by rw [← htx]; exact hall.regFld _ _ _ _ (by norm_num) (by decide)
            rxst := by rw [← hrx]; exact hall.regFld _ _ _ _ (by norm_num) (by decide)
            frozen := fun h => by rw [hshadY, shadState_freezeShadow_of_not_promoting (by rw [hshad]; exact h)]
            promoted := fun h => by rw [hshadY, freezeShadow_of_promoting (by rw [hshad]; exact h), hshad]
            inbox := by rw [hy, hp, hr]; rfl
            tabs := by rw [hy, hp, hr]; rfl
            frames := by rw [hy, hp, hr]; rfl }, ?_, ?_, ?_, hfen⟩
  · rw [hy, hp]; rfl
  · rw [hy, hp, hr]; rfl
  · rw [hy, hp, hr]; rfl

/-- A notice sent as the link goes down changes nothing that the link's fall shows. -/
theorem LinkFell.sendTwin {x y : Slice} {st code : Nat} (h : LinkFell x y st code) (m : TwinMsg) :
    LinkFell x (Machine.sendTwin y m) st code := by
  obtain ⟨u, n, d, e⟩ := sendTwin_frame y m
  rw [e]
  exact ⟨h.state, h.cause, h.logq, h.txst, h.rxst, h.frozen, h.promoted, h.inbox, h.tabs, h.frames⟩

/-- The fall of the link seen from a slice before writes to other registers. -/
theorem LinkFell.of_before {x z y : Slice} {st code : Nat} (h : LinkFell z y st code) (hs : shadState z = shadState x)
    (hz : RegsOnly x z) : LinkFell x y st code := by
  obtain ⟨r, rfl⟩ := hz
  exact { h with frozen := fun g => h.frozen (by rwa [hs]), promoted := fun g => by rw [h.promoted (by rwa [hs]), hs] }

/-! ### Lanes -/

theorem bit_eq_testBit (v i : Nat) : bit v i = v.testBit i := by
  rw [bit, Nat.testBit_eq_decide_div_mod_eq, Nat.shiftRight_eq_div_pow]

/-- The number of lanes that TWN_LINK shows locked is a sum over its four bits. -/
theorem popCount_linkLanes (x : Slice) : popCount (linkLanes x) 4 = ∑ j : Fin 4, (regBit x kTWN 0x100 (24 + j.val)).toNat := by
  have hbit : ∀ j, j < 4 → bit (linkLanes x) j = regBit x kTWN 0x100 (24 + j) := fun j hj => by
    rw [bit_eq_testBit, linkLanes, regFld, fld, testBit_bits, regBit, wbit]; simp [hj]
  have hfilter : ∀ (p : Nat → Bool), ((List.range 4).filter p).length = ∑ j : Fin 4, (p j.val).toNat := fun p => by
    rw [← List.countP_eq_length_filter, Fin.sum_univ_four]
    simp [List.range_succ, List.countP_cons, List.countP_nil, Bool.toNat, Bool.cond_eq_ite]
    ring
  rw [popCount, hfilter]
  exact Finset.sum_congr rfl fun j _ => by rw [hbit j.val j.isLt]

/-- A lane's bit as it changes, and the cause that tells of it. -/
def laneSet (x : Slice) (k : Nat) (locked : Bool) : Slice :=
  raise (regPut x kTWN 0x100 (24 + k) (24 + k) locked.toNat) kTWN 2

theorem regsOnly_laneSet (x : Slice) (k : Nat) (locked : Bool) : RegsOnly x (laneSet x k locked) :=
  (regsOnly_regPut ..).trans (regsOnly_raise ..)

theorem regsBut_laneSet (x : Slice) (k : Nat) (locked : Bool) :
    RegsBut x (laneSet x k locked) ((kTWN, 0x100) :: raiseKeys kTWN 2) :=
  regsBut_raise (regsBut_regPut (RegsBut.refl x _) _ _ _ _ _ (by norm_num) (List.mem_cons_self ..)) _ _ (by decide)
    (List.subset_cons_self ..)

theorem linkState_laneSet (x : Slice) {k : Nat} (hk : k < 4) (locked : Bool) :
    regFld (laneSet x k locked) kTWN 0x100 31 28 = regFld x kTWN 0x100 31 28 := by
  rw [laneSet, regFld_raise _ _ _ _ _ _ _ (by decide) (by norm_num) (by decide),
    regFld_regPut_other _ _ _ _ _ _ _ _ (Nat.le_refl _) (by omega) (Or.inr (by omega))]

theorem linkIsUp_laneSet (x : Slice) {k : Nat} (hk : k < 4) (locked : Bool) : linkIsUp (laneSet x k locked) = linkIsUp x := by
  unfold linkIsUp; rw [linkState_laneSet x hk]

theorem lane_laneSet (x : Slice) (k j : Fin 4) (locked : Bool) :
    regBit (laneSet x k.val locked) kTWN 0x100 (24 + j.val) = if j = k then locked else regBit x kTWN 0x100 (24 + j.val) := by
  rw [laneSet, regBit_raise _ _ _ _ _ _ (by decide) (by norm_num) (by decide)]
  split
  · next h =>
    subst h
    rw [regBit_regPut_self _ _ _ _ _ (by omega)]; cases locked <;> rfl
  · next h =>
    have : j.val ≠ k.val := fun e => h (Fin.ext e)
    rw [regBit_regPut_other _ _ _ _ _ _ _ (Nat.le_refl _) (by omega) (by omega)]

/-- A lane that gains or loses its lock is one locked lane more or less. -/
theorem popCount_laneSet {x : Slice} {k : Fin 4} {locked : Bool} (h : regBit x kTWN 0x100 (24 + k.val) ≠ locked) :
    popCount (linkLanes (laneSet x k.val locked)) 4
      = if locked then popCount (linkLanes x) 4 + 1 else popCount (linkLanes x) 4 - 1 := by
  have hrest : ∑ j ∈ Finset.univ.erase k, (regBit (laneSet x k.val locked) kTWN 0x100 (24 + j.val)).toNat
      = ∑ j ∈ Finset.univ.erase k, (regBit x kTWN 0x100 (24 + j.val)).toNat :=
    Finset.sum_congr rfl fun j hj => by rw [lane_laneSet, if_neg (Finset.ne_of_mem_erase hj)]
  rw [popCount_linkLanes, popCount_linkLanes, ← Finset.add_sum_erase _ _ (Finset.mem_univ k), hrest,
    ← Finset.add_sum_erase _ (fun j : Fin 4 => (regBit x kTWN 0x100 (24 + j.val)).toNat) (Finset.mem_univ k), lane_laneSet, if_pos rfl]
  cases locked with
  | true => simp only [ne_eq, Bool.not_eq_true] at h; simp only [h, if_true, Bool.toNat_true, Bool.toNat_false]; omega
  | false => simp only [ne_eq, Bool.not_eq_false] at h; simp [h]

theorem laneLock_of_same {x : Slice} {k : Nat} {locked : Bool} (h : regBit x kTWN 0x100 (24 + k) = locked) : laneLock x k locked = x := by
  rw [laneLock, if_pos h]

/-- A link that is up, with the number of lanes it has left. -/
def lanesRun (x : Slice) : Nat → Slice
  | 4 => setLink x lsUp
  | 3 => setLink x lsUp3
  | _ => linkDown x 0 3

/-- A lane that changes sets the number of lanes that the link runs on, or takes it down (R150). -/
theorem laneLock_of_change {x : Slice} {k : Nat} {locked : Bool} (h : regBit x kTWN 0x100 (24 + k) ≠ locked) :
    laneLock x k locked = if !linkIsUp (laneSet x k locked) then
        (if linkState (laneSet x k locked) = lsAligning ∧ popCount (linkLanes (laneSet x k locked)) 4 < 3 then
          linkDown (laneSet x k locked) 0 3 else laneSet x k locked)
      else lanesRun (laneSet x k locked) (popCount (linkLanes (laneSet x k locked)) 4) := by
  rw [laneLock, if_neg h]; rfl

/-! ### The link comes up -/

/-- The register writes of a link that reaches UP, after its state: heartbeats count anew, and resync starts (R483, R485). -/
def resyncStarts (x : Slice) (peerHeld : Bool) : Slice :=
  let x := regPut x kTWN 0x110 27 24 0
  let x := regPut (setTxst x (if peerHeld then 0 else txAwait)) kTWN 0x130 26 26 peerHeld.toNat
  if holdsShadow x then setRegBit (setRxst x 0) kTWN 0x130 27 else releaseShadow x

/-- The state of a link that reaches UP: on all of its lanes, or on three. -/
def upState (x : Slice) : Slice := raise (setLink x (if popCount (linkLanes x) 4 = 4 then lsUp else lsUp3)) kTWN 0

theorem linkComesUp_eq (x : Slice) (h : Bool) : linkComesUp x h = sendHeartbeat (resyncStarts
    { upState x with twinLost := false, inbox := (upState x).inbox.filter fun m => (asLog m).isNone } h) := rfl

theorem regsOnly_upState (x : Slice) : RegsOnly x (upState x) := (regsOnly_regPut ..).trans (regsOnly_raise ..)

theorem regsOnly_resyncStarts (x : Slice) (h : Bool) : RegsOnly x (resyncStarts x h) := by
  unfold resyncStarts
  extract_lets y z
  have hz : RegsOnly x z := ((regsOnly_regPut x ..).trans (regsOnly_regPut ..)).trans (regsOnly_regPut ..)
  split
  · exact (hz.trans (regsOnly_regPut ..)).trans (regsOnly_regPut ..)
  · exact ((hz.trans (regsOnly_regPut ..)).trans (regsOnly_regPut ..)).trans (regsOnly_regPut ..)

theorem state_upState (x : Slice) :
    regFld (upState x) kTWN 0x100 31 28 = if popCount (linkLanes x) 4 = 4 then 3 else 4 := by
  unfold upState setLink
  split <;> simp (disch := decide) [regFld_raise, regFld_regPut_self, lsUp, lsUp3]

/-- Outside TWN_LINK, what comes up shows as before. -/
theorem regGet_upState (x : Slice) {b o : Nat} (hb : b < 17 ∨ 18 ≤ b) (ho : o < 0x100000) (hne : b ≠ kTWN ∨ o ≠ 0x100) :
    regGet (upState x) b o = regGet x b o := by
  rw [upState, regGet_raise _ _ _ _ _ hb ho (by decide), setLink, regGet_regPut_ne _ _ _ _ _ _ _ _ (regKey_ne (by norm_num) ho hne)]

theorem resyncStarts_shows (x : Slice) (h : Bool) :
    regFld (resyncStarts x h) kTWN 0x100 31 28 = regFld x kTWN 0x100 31 28 ∧ regFld (resyncStarts x h) kTWN 0x110 27 24 = 0
    ∧ txst (resyncStarts x h) = (if h then 0 else 1) ∧ regBit (resyncStarts x h) kTWN 0x130 26 = h
    ∧ regGet (resyncStarts x h) kTWN 8 = regGet x kTWN 8
    ∧ (holdsShadow x = false → rxst (resyncStarts x h) = 1 ∧ shadState (resyncStarts x h) = 1) := by
  have hh : holdsShadow (regPut (setTxst (regPut x kTWN 0x110 27 24 0) (if h then 0 else txAwait)) kTWN 0x130 26 26 h.toNat)
      = holdsShadow x := by
    rw [holdsShadow, shadState, setTxst, regFld_regPut_ne _ _ _ _ _ _ _ _ _ _ (by decide), regFld_regPut_ne _ _ _ _ _ _ _ _ _ _ (by decide),
      regFld_regPut_ne _ _ _ _ _ _ _ _ _ _ (by decide), regBit_regPut_ne _ _ _ _ _ _ _ _ _ (by decide),
      regBit_regPut_ne _ _ _ _ _ _ _ _ _ (by decide), regBit_regPut_ne _ _ _ _ _ _ _ _ _ (by decide)]
    rfl
  unfold resyncStarts
  simp only [hh]
  by_cases hs : holdsShadow x = true
  · rw [if_pos hs]
    cases h <;> simp (disch := decide) [hs, txst, setTxst, setRxst, setRegBit, regFld_regPut_self, regFld_regPut_other,
      regFld_regPut_ne, regGet_regPut_ne, regBit_regPut_self, regBit_regPut_other, txAwait]
  · rw [if_neg hs]
    cases h <;> simp (disch := decide) [txst, rxst, shadState, setTxst, setRxst, clrRegBit, setShad, releaseShadow,
      regFld_regPut_self, regFld_regPut_other, regFld_regPut_ne, regBit_regPut_self, regBit_regPut_other, regBit_regPut_ne,
      regGet_regPut_ne, txAwait, rxClearing, shFrozen]

end Sys2Proof.Machine
end

section
/-! Proofs. The commands of the twin link: hellos, transfers, lanes and notices (R12, R149 to R153). -/

namespace Sys2Proof.Machine

set_option Elab.async false

/-! ### What each command leaves of the slice -/

theorem holdsShadow_eq (x : Slice) : holdsShadow x = (decide (shadState x = 3) && regBit x kTWN 0x120 31) := by
  rw [holdsShadow, shPromoted]

theorem holdsShadow_congr {x y : Slice} (h : regGet y = regGet x) : holdsShadow y = holdsShadow x := by
  rw [holdsShadow_eq, shadState, regFld, regBit, h, holdsShadow_eq, shadState, regFld, regBit]

/-- A link whose lanes have locked and aligned. -/
def lanesTrained (x : Slice) : Slice := regPut (setLink x lsAligning) kTWN 0x100 27 24 15

/-- This end's hello, over lanes that have locked and aligned (R151). -/
theorem trainingDone_shows {x : Slice} (hf : fenced x kTWN = false) (n : Nat) :
    let y := sendTwin (lanesTrained x) (.hello n true (holdsShadow (lanesTrained x)))
    y = { x with regs := y.regs, nextXfer := x.nextXfer + 1, unacked := x.unacked ++ [⟨x.nextXfer, 0, .hello n true
            (decide (shadState x = 3) && regBit x kTWN 0x120 31)⟩] }
      ∧ regFld y kTWN 0x100 31 28 = 2 ∧ regFld y kTWN 0x100 27 24 = 15 ∧ RegsBut x y [(kTWN, 0x100)] := by
  have hbut : RegsBut x (lanesTrained x) [(kTWN, 0x100)] :=
    regsBut_regPut (regsBut_regPut (RegsBut.refl x _) _ _ _ _ _ (by norm_num) (by simp)) _ _ _ _ _ (by norm_num) (by simp)
  have hst : regFld (lanesTrained x) kTWN 0x100 31 28 = 2 := by
    simp (disch := decide) [lanesTrained, setLink, regFld_regPut_other, regFld_regPut_self, lsAligning]
  have hlanes : regFld (lanesTrained x) kTWN 0x100 27 24 = 15 := by simp (disch := decide) [lanesTrained, regFld_regPut_self]
  have hfen : fenced (lanesTrained x) kTWN = false := by rw [← hf]; exact fenced_congr (hbut _ _ (by norm_num) (by decide))
  have hholds : holdsShadow (lanesTrained x) = (decide (shadState x = 3) && regBit x kTWN 0x120 31) := by
    rw [holdsShadow_eq, shadState, regFld, regBit, hbut _ _ (by norm_num) (by decide), hbut _ _ (by norm_num) (by decide), shadState,
      regFld, regBit]
  have hG := regGet_sendTwin (lanesTrained x) (.hello n true (holdsShadow (lanesTrained x)))
  obtain ⟨r, hr⟩ : RegsOnly x (lanesTrained x) := (regsOnly_regPut x ..).trans (regsOnly_regPut ..)
  refine ⟨?_, by rw [regFld, hG, ← regFld, hst], by rw [regFld, hG, ← regFld, hlanes],
    fun b o ho hb => by rw [hG, hbut b o ho hb]⟩
  rw [sendTwin_of_not_fenced hfen, hholds, hr]
  rfl

/-- A heartbeat carries the slice, whether it faults, its power state and its sequence numbers (R153). -/
theorem sendHeartbeat_of_not_fenced {x : Slice} (h : fenced x kTWN = false) : sendHeartbeat x =
    { x with hbSeq := (x.hbSeq + 1) % 2 ^ 32, nextXfer := x.nextXfer + 1, unacked := x.unacked ++ [⟨x.nextXfer, 0,
        .heartbeat x.id.val x.report (BitVec.ofNat 2 (regFld x kSLC 0x100 7 6)) ((x.hbSeq + 1) % 2 ^ 32) (pairGet x kFLW 0x158)⟩] } := by
  have hf : fenced { x with hbSeq := (x.hbSeq + 1) % 2 ^ 32 } kTWN = false := by rw [← h]; exact fenced_congr rfl
  rw [sendHeartbeat, sendTwin_of_not_fenced hf]

theorem regGet_sendHeartbeat (x : Slice) : regGet (sendHeartbeat x) = regGet x := by
  rw [sendHeartbeat, regGet_sendTwin]
  funext b o
  rw [regGet, regGet]

/-- What a slice shows of the start of heartbeats and resync, from one whose link has just reached UP. -/
structure ResyncStarted (u y : Slice) (peerHeld : Bool) : Prop where
  shape : ∃ r, y = { u with regs := r, hbSeq := (u.hbSeq + 1) % 2 ^ 32, nextXfer := u.nextXfer + 1, unacked := y.unacked }
  state : regFld y kTWN 0x100 31 28 = regFld u kTWN 0x100 31 28
  misses : regFld y kTWN 0x110 27 24 = 0
  tx : txst y = if peerHeld then 0 else 1
  peer : regBit y kTWN 0x130 26 = peerHeld
  sent : ∃ f cur q, y.unacked = u.unacked ++ [⟨u.nextXfer, 0, .heartbeat u.id.val f cur ((u.hbSeq + 1) % 2 ^ 32) q⟩]
  rx : holdsShadow u = false → rxst y = 1 ∧ shadState y = 1

theorem resyncStarted {u : Slice} (hf : fenced u kTWN = false) (h : Bool) :
    ResyncStarted u (sendHeartbeat (resyncStarts u h)) h := by
  obtain ⟨hst, hmiss, htx, hpeer, hblk, hrx⟩ := resyncStarts_shows u h
  obtain ⟨q, hq⟩ := regsOnly_resyncStarts u h
  have hG := regGet_sendHeartbeat (resyncStarts u h)
  have hfen : fenced (resyncStarts u h) kTWN = false := by rw [← hf]; exact fenced_congr hblk
  have e := sendHeartbeat_of_not_fenced hfen
  rw [hq] at e
  refine ⟨?_, ?_, ?_, ?_, ?_, ?_, fun hs => ?_⟩
  · rw [hq, e]; exact ⟨q, rfl⟩
  · rw [regFld, hG, ← regFld, hst]
  · rw [regFld, hG, ← regFld, hmiss]
  · rw [txst, regFld, hG, ← regFld, ← txst, htx]
  · rw [regBit, hG, ← regBit, hpeer]
  · rw [hq, e]; exact ⟨_, _, _, rfl⟩
  · rw [rxst, shadState, regFld, regFld, hG, ← regFld, ← regFld, ← rxst, ← shadState]
    exact hrx hs

theorem regGet_withTwin (u : Slice) (b : Bool) (ms : List TwinMsg) : regGet { u with twinLost := b, inbox := ms } = regGet u := by
  funext k o
  rw [regGet, regGet]

/-- A link that comes up clears the loss of the twin and the old log, and starts heartbeats and resync (R151, R483, R485). -/
theorem linkComesUp_shows {x : Slice} (hf : fenced x kTWN = false) (h : Bool) :
    linkComesUp x h = { x with regs := (linkComesUp x h).regs, twinLost := false, inbox := x.inbox.filter (fun m => (asLog m).isNone),
                               hbSeq := (x.hbSeq + 1) % 2 ^ 32, nextXfer := x.nextXfer + 1, unacked := (linkComesUp x h).unacked }
      ∧ regFld (linkComesUp x h) kTWN 0x100 31 28 = (if popCount (linkLanes x) 4 = 4 then 3 else 4)
      ∧ regFld (linkComesUp x h) kTWN 0x110 27 24 = 0 ∧ txst (linkComesUp x h) = (if h then 0 else 1)
      ∧ regBit (linkComesUp x h) kTWN 0x130 26 = h
      ∧ (∃ f cur q, (linkComesUp x h).unacked
          = x.unacked ++ [⟨x.nextXfer, 0, .heartbeat x.id.val f cur ((x.hbSeq + 1) % 2 ^ 32) q⟩])
      ∧ (¬(shadState x = 3 ∧ regBit x kTWN 0x120 31 = true) → rxst (linkComesUp x h) = 1 ∧ shadState (linkComesUp x h) = 1) := by
  obtain ⟨r, hr⟩ := regsOnly_upState x
  have hst := state_upState x
  have hfen : fenced (upState x) kTWN = false := by
    rw [← hf]; exact fenced_congr (regGet_upState x (by decide) (by norm_num) (Or.inr (by norm_num)))
  have hholds : holdsShadow (upState x) = holdsShadow x := by
    rw [holdsShadow_eq, shadState, regFld, regBit, regGet_upState x (by decide) (by norm_num) (Or.inl (by decide)),
      regGet_upState x (by decide) (by norm_num) (Or.inr (by norm_num)), holdsShadow_eq, shadState, regFld, regBit]
  have hv := regGet_withTwin (upState x) false ((upState x).inbox.filter fun m => (asLog m).isNone)
  rw [linkComesUp_eq]
  rw [hr] at hst hfen hholds hv ⊢
  obtain ⟨⟨q, hq⟩, hstate, hmiss, htx, hpeer, hsent, hrx⟩ :=
    resyncStarted ((fenced_congr (congrFun (congrFun hv kTWN) 8)).trans hfen) h
  have hregs := congrArg Slice.regs hq
  refine ⟨?_, ?_, hmiss, htx, hpeer, hsent, fun hn => hrx ?_⟩
  · rw [hregs]; exact hq
  · rw [hstate, regFld, hv, ← regFld, hst]
  · rw [holdsShadow_congr hv, hholds, holdsShadow_eq]
    simpa using hn

/-! ### Lanes (R150) -/

section
variable {x : Slice} {k : Fin 4} {locked : Bool} (h : regBit x kTWN 0x100 (24 + k.val) ≠ locked)
include h

/-- A lane of a link that neither is up nor waits for a hello on too few lanes. -/
theorem laneLock_idle (hup : linkIsUp x = false)
    (hal : ¬(regFld x kTWN 0x100 31 28 = 2 ∧ (if locked then popCount (linkLanes x) 4 + 1 else popCount (linkLanes x) 4 - 1) < 3)) :
    laneLock x k.val locked = laneSet x k.val locked := by
  rw [laneLock_of_change h, linkIsUp_laneSet x k.isLt, hup, Bool.not_false, if_pos rfl, linkState, linkState_laneSet x k.isLt,
    popCount_laneSet h, lsAligning, if_neg hal]

/-- Too few lanes are left for the hello. -/
theorem laneLock_aligning (hal : regFld x kTWN 0x100 31 28 = 2)
    (hfew : (if locked then popCount (linkLanes x) 4 + 1 else popCount (linkLanes x) 4 - 1) < 3) :
    laneLock x k.val locked = linkDown (laneSet x k.val locked) 0 3 := by
  have hup : linkIsUp x = false := (linkIsUp_false_iff x).2 (by omega)
  rw [laneLock_of_change h, linkIsUp_laneSet x k.isLt, hup, Bool.not_false, if_pos rfl, linkState, linkState_laneSet x k.isLt,
    popCount_laneSet h, lsAligning, if_pos ⟨hal, hfew⟩]

/-- A link that is up runs on the lanes it has, from three on. -/
theorem laneLock_up (hup : linkIsUp x = true) : laneLock x k.val locked = lanesRun (laneSet x k.val locked)
    (if locked then popCount (linkLanes x) 4 + 1 else popCount (linkLanes x) 4 - 1) := by
  rw [laneLock_of_change h, linkIsUp_laneSet x k.isLt, hup, Bool.not_true, if_neg Bool.false_ne_true, popCount_laneSet h]

end

theorem laneLock_gained {x : Slice} {k : Fin 4} (h : regBit x kTWN 0x100 (24 + k.val) = false) (hup : linkIsUp x = true) {n : Nat}
    (hn : popCount (linkLanes x) 4 = n) : laneLock x k.val true = lanesRun (laneSet x k.val true) (n + 1) := by
  rw [laneLock_up (ne_of_eq_of_ne h (by decide)) hup, if_pos rfl, hn]

theorem laneLock_lost {x : Slice} {k : Fin 4} (h : regBit x kTWN 0x100 (24 + k.val) = true) (hup : linkIsUp x = true) {n : Nat}
    (hn : popCount (linkLanes x) 4 = n) : laneLock x k.val false = lanesRun (laneSet x k.val false) (n - 1) := by
  rw [laneLock_up (ne_of_eq_of_ne h (by decide)) hup, if_neg (by decide), hn]

/-- A lane's change with the state of the link that follows from it. -/
theorem setLink_laneSet_shows (x : Slice) (k : Fin 4) (locked : Bool) {st : Nat} (hst : st < 16) :
    setLink (laneSet x k.val locked) st = { x with regs := (setLink (laneSet x k.val locked) st).regs }
      ∧ regBit (setLink (laneSet x k.val locked) st) kTWN 0x100 (24 + k.val) = locked
      ∧ regFld (setLink (laneSet x k.val locked) st) kTWN 0x100 31 28 = st
      ∧ RegsBut x (setLink (laneSet x k.val locked) st) ((kTWN, 0x100) :: raiseKeys kTWN 2) := by
  refine ⟨((regsOnly_laneSet x k.val locked).trans (regsOnly_regPut ..)).eq_with, ?_, ?_,
    regsBut_regPut (regsBut_laneSet x k.val locked) _ _ _ _ _ (by norm_num) (List.mem_cons_self ..)⟩
  · rw [setLink, regBit_regPut_other _ _ _ _ _ _ _ (by norm_num) (by norm_num) (Or.inl (by omega)), lane_laneSet, if_pos rfl]
  · rw [setLink, regFld_regPut_self _ _ _ _ _ _ (by norm_num) (by norm_num)]
    exact Nat.mod_eq_of_lt hst

theorem laneSet_shows (x : Slice) (k : Fin 4) (locked : Bool) :
    laneSet x k.val locked = { x with regs := (laneSet x k.val locked).regs }
      ∧ regBit (laneSet x k.val locked) kTWN 0x100 (24 + k.val) = locked
      ∧ RegsBut x (laneSet x k.val locked) ((kTWN, 0x100) :: raiseKeys kTWN 2) :=
  ⟨(regsOnly_laneSet x k.val locked).eq_with, by rw [lane_laneSet, if_pos rfl], regsBut_laneSet x k.val locked⟩

/-- A link that waits for its hello goes down for want of lanes. -/
theorem linkDown_laneSet_shows {x : Slice} (k : Fin 4) (locked : Bool) (hup : linkIsUp x = false) :
    let y := linkDown (laneSet x k.val locked) 0 3
    y = { x with regs := y.regs, unacked := [], inbox := x.inbox.filter keptMsg } ∧ regFld y kTWN 0x100 31 28 = 0
      ∧ regFld y kTWN 0x100 23 16 = 3 ∧ RegsBut x y ((kTWN, 0x100) :: raiseKeys kTWN 2) := by
  obtain ⟨hy, hst, hcause, hbut⟩ := linkDown_of_not_up ((linkIsUp_laneSet x k.isLt locked).trans hup) (st := 0) (code := 3)
    (by norm_num) (by norm_num)
  obtain ⟨r, hr⟩ := regsOnly_laneSet x k.val locked
  refine ⟨?_, hst, hcause, (regsBut_laneSet x k.val locked).trans (hbut.mono (by simp))⟩
  rw [hr] at hy ⊢
  exact hy

theorem shadState_laneSet (x : Slice) (k : Nat) (locked : Bool) : shadState (laneSet x k locked) = shadState x := by
  rw [shadState, regFld, regsBut_laneSet x k locked _ _ (by norm_num) (by decide), shadState, regFld]

/-- A link that is up goes down for want of lanes. -/
theorem linkFell_laneSet {x : Slice} (k : Fin 4) (locked : Bool) (hup : linkIsUp x = true) (hh : x.held = []) (ht : x.trackers = []) :
    LinkFell x (linkDown (laneSet x k.val locked) 0 3) 0 3 ∧ (linkDown (laneSet x k.val locked) 0 3).unacked = [] := by
  obtain ⟨r, hr⟩ := regsOnly_laneSet x k.val locked
  obtain ⟨hfell, hun, -⟩ := linkDown_of_up ((linkIsUp_laneSet x k.isLt locked).trans hup) (by rw [hr]; exact hh) (by rw [hr]; exact ht)
    (st := 0) (code := 3) (by norm_num) (by norm_num)
  exact ⟨hfell.of_before (shadState_laneSet x k.val locked) (regsOnly_laneSet x k.val locked), hun⟩

/-! ### Transfers, and the end of the link (R149, R152) -/

theorem carries_iff (x : Slice) : (linkIsUp x || beingTrained x) = true ↔
    regFld x kTWN 0x100 31 28 = 1 ∨ regFld x kTWN 0x100 31 28 = 2 ∨ regFld x kTWN 0x100 31 28 = 3 ∨ regFld x kTWN 0x100 31 28 = 4 := by
  rw [Bool.or_eq_true, linkIsUp_iff, beingTrained, Bool.or_eq_true, decide_eq_true_iff, decide_eq_true_iff, linkState, lsTraining,
    lsAligning]
  omega

/-- A transfer sent once more, with the count of TWN_LINK (R149). -/
theorem resend_shows (x : Slice) (us : List Transfer) :
    let y := satFld { x with unacked := us } kTWN 0x100 15 0 1
    y = { x with regs := y.regs, unacked := us } ∧ regFld y kTWN 0x100 15 0 = min 65535 (regFld x kTWN 0x100 15 0 + 1)
      ∧ RegsBut x y [(kTWN, 0x100)] := by
  have hG : regGet { x with unacked := us } = regGet x := by funext b o; rw [regGet, regGet]
  refine ⟨rfl, ?_, fun b o ho hb => ?_⟩
  · rw [satFld, regFld_regPut_self _ _ _ _ _ _ (by norm_num) (by norm_num), satAdd, regFld, hG, ← regFld]
    omega
  · have hput := regsBut_regPut (RegsBut.refl { x with unacked := us } [(kTWN, 0x100)]) kTWN 0x100 15 0
      (satAdd (2 ^ (15 + 1 - 0) - 1) (regFld { x with unacked := us } kTWN 0x100 15 0) 1) (by norm_num) (by simp)
    exact (hput b o ho hb).trans (congrFun (congrFun hG b) o)

theorem retrain_shows (x : Slice) :
    let y := { setLink x lsTraining with unacked := [] }
    y = { x with regs := y.regs, unacked := [] } ∧ regFld y kTWN 0x100 31 28 = 1 ∧ RegsBut x y [(kTWN, 0x100)] := by
  have hG : regGet { setLink x lsTraining with unacked := [] } = regGet (setLink x lsTraining) := by funext b o; rw [regGet, regGet]
  obtain ⟨r, hr⟩ : RegsOnly x (setLink x lsTraining) := regsOnly_regPut ..
  refine ⟨by rw [hr]; rfl, ?_, fun b o ho hb => ?_⟩
  · rw [regFld, hG, ← regFld, setLink, regFld_regPut_self _ _ _ _ _ _ (by norm_num) (by norm_num)]; rfl
  · rw [hG]
    exact regsBut_regPut (RegsBut.refl x _) _ _ _ _ _ (by norm_num) (by simp) b o ho hb

/-- The state of a link that has gone down for a cause. -/
def fallState : DownCause → Nat
  | .peerDisable => 6
  | .peerSleep => 6
  | _ => 0

/-- The notice with which this end takes the link down (R152). -/
def fallNotice : DownCause → Option TwinMsg
  | .localDisable => some .down
  | .localSleep => some .sleep
  | _ => none

theorem linkLost_of_up {x : Slice} (hup : linkIsUp x = true) (hh : x.held = []) (ht : x.trackers = []) (c : DownCause) :
    LinkFell x (linkLost x c) (fallState c) (downCode c)
    ∧ (fenced x kTWN = false → (linkLost x c).unacked = (fallNotice c).toList.map fun m => ⟨x.nextXfer, 0, m⟩) := by
  have hst : fallState c < 16 := by cases c <;> decide
  have hcode : downCode c < 256 := by cases c <;> decide
  obtain ⟨hfell, hun, hnext, -, hfen⟩ := linkDown_of_up hup hh ht hst hcode
  have hsent : ∀ m, linkLost x c = sendTwin (linkDown x (fallState c) (downCode c)) m → fallNotice c = some m →
      LinkFell x (linkLost x c) (fallState c) (downCode c)
      ∧ (fenced x kTWN = false → (linkLost x c).unacked = (fallNotice c).toList.map fun m => ⟨x.nextXfer, 0, m⟩) := fun m e hm => by
    rw [e, hm]
    refine ⟨hfell.sendTwin m, fun hf => ?_⟩
    rw [sendTwin_of_not_fenced (hfen.trans hf), hun, hnext]
    rfl
  have hsilent : linkLost x c = linkDown x (fallState c) (downCode c) → fallNotice c = none →
      LinkFell x (linkLost x c) (fallState c) (downCode c)
      ∧ (fenced x kTWN = false → (linkLost x c).unacked = (fallNotice c).toList.map fun m => ⟨x.nextXfer, 0, m⟩) := fun e hn => by
    rw [e, hn]
    exact ⟨hfell, fun _ => hun⟩
  cases c with
  | localDisable => exact hsent .down (if_pos hup) rfl
  | localSleep => exact hsent .sleep (if_pos hup) rfl
  | peerDisable => exact hsilent rfl rfl
  | lanes => exact hsilent rfl rfl
  | resends => exact hsilent rfl rfl
  | helloMismatch => exact hsilent rfl rfl
  | peerSleep => exact hsilent rfl rfl

theorem linkIsUp_withInbox (x : Slice) (ms : List TwinMsg) : linkIsUp { x with inbox := ms } = linkIsUp x := rfl

/-- The spelled-out form of a link's fall. -/
theorem LinkFell.shown {x y : Slice} {st code : Nat} (h : LinkFell x y st code) :
    regFld y kTWN 0x100 31 28 = st ∧ regFld y kTWN 0x100 23 16 = code ∧ y.logq = []
    ∧ Machine.txst y = 0 ∧ Machine.rxst y = 0 ∧ (shadState x = 0 ∨ shadState x = 1 → shadState y = 1)
    ∧ (2 ≤ shadState x → shadState y = shadState x) ∧ y.inbox = x.inbox.filter keptMsg ∧ y.tabs = x.tabs ∧ y.frames = x.frames :=
  ⟨h.state, h.cause, h.logq, h.txst, h.rxst, h.frozen, h.promoted, h.inbox, h.tabs, h.frames⟩

/-! ### What the commands answer -/

/-- A slice's end of the link as it stands after a command, with what it sent delivered to the twin. -/
def State.withEnd (s : State) (sl : SliceId) (y : Slice) : State := (s.setSlice sl y).deliver (twin sl) (sentSince (s.slice sl) y)

theorem runsPair_of_exec {c : Instr} {s : State} {sl : SliceId} {y : Slice} {P : Slice → List TwinMsg → Prop}
    (h : exec c s = .next (s.withEnd sl y)) (hp : P y (sentSince (s.slice sl) y)) : RunsPair c s sl P := ⟨_, _, h, hp⟩

theorem exec_onLink {c : Instr} {s : State} {sl : SliceId} {f : Slice → Slice} {y : Slice} (h : exec c s = onLink sl f s)
    (hon : (s.slice sl).on = true) (hy : f (s.slice sl) = y) : exec c s = .next (s.withEnd sl y) := by
  rw [h, onLink, onPair, if_pos hon, hy]; rfl

theorem exec_onStarted {c : Instr} {s : State} {sl : SliceId} {f : Slice → Slice} {y : Slice} (h : exec c s = onStarted sl f s)
    (hon : (s.slice sl).on = true) (hy : f (s.slice sl) = y) : exec c s = .next (s.setSlice sl y) := by
  rw [h, onStarted_on sl f s hon, hy]

theorem exec_hello (sl : SliceId) (s : State) : exec (.hello sl) s = execHello sl s := rfl
theorem exec_transferAck (sl : SliceId) (n : Nat) (s : State) : exec (.transferAck sl n) s = execTransferAck sl n s := rfl
theorem exec_transferResend (sl : SliceId) (n : Nat) (s : State) : exec (.transferResend sl n) s = execTransferResend sl n s := rfl
theorem exec_twinLaneLock (sl : SliceId) (k : Fin 4) (b : Bool) (s : State) :
    exec (.twinLaneLock sl k b) s = execTwinLaneLock sl k b s := rfl
theorem exec_twinLinkDown (sl : SliceId) (c : DownCause) (s : State) : exec (.twinLinkDown sl c) s = execTwinLinkDown sl c s := rfl
theorem exec_peerDownNotice (sl : SliceId) (s : State) : exec (.peerDownNotice sl) s = execPeerDownNotice sl s := rfl

section
variable {s : State} {sl : SliceId} (hon : (s.slice sl).on = true)
include hon

theorem exec_trainingDone (hb : bothEnabled s sl = true) (hup : linkIsUp (s.slice sl) = false)
    (h5 : ¬(linkState (s.slice sl) = lsDown ∧ lastDown (s.slice sl) = 5)) : exec (.twinLinkTrainingDone sl) s = .next (s.withEnd sl
      (sendTwin (lanesTrained (s.slice sl)) (.hello sl.val true (holdsShadow (lanesTrained (s.slice sl)))))) := by
  refine exec_onLink (if_pos ?_) hon rfl
  rw [hb, hup, ← Bool.decide_and, decide_eq_false h5]; rfl

section
variable {n : Nat} {p h : Bool} {ms : List TwinMsg} (hst : linkState (s.slice sl) = lsAligning)
  (hm : takeMsg asHello (s.slice sl).inbox = some ((n, p, h), ms))
include hst hm

theorem exec_hello_fits (hn : n = (twin sl).val) (hp : p = true) (hl : 3 ≤ popCount (linkLanes (s.slice sl)) 4) :
    exec (.hello sl) s = .next (s.withEnd sl (linkComesUp { s.slice sl with inbox := ms } h)) := by
  refine exec_onLink (exec_hello sl s) hon ?_
  rw [if_neg (not_not.2 hst), hm]
  exact (if_neg (Nat.not_lt.2 hl)).trans (if_pos ⟨hn, hp⟩)

theorem exec_hello_refused (hno : popCount (linkLanes (s.slice sl)) 4 < 3 ∨ n ≠ (twin sl).val ∨ p = false) :
    exec (.hello sl) s = .next (s.withEnd sl (linkDown { s.slice sl with inbox := ms } 0
      (if popCount (linkLanes (s.slice sl)) 4 < 3 then 3 else 5))) := by
  refine exec_onLink (exec_hello sl s) hon ?_
  rw [if_neg (not_not.2 hst), hm]
  by_cases hl : popCount (linkLanes (s.slice sl)) 4 < 3
  · rw [if_pos hl]; exact if_pos hl
  · have hfit : ¬(n = (twin sl).val ∧ p = true) := by rintro ⟨hn, rfl⟩; simp [hl, hn] at hno
    rw [if_neg hl]
    exact (if_neg hl).trans (if_neg hfit)

end

theorem exec_helloRetry (hb : bothEnabled s sl = true) (h0 : linkState (s.slice sl) = lsDown) (h5 : lastDown (s.slice sl) = 5) :
    exec (.helloRetry sl) s = .next (s.setSlice sl { setLink (s.slice sl) lsTraining with unacked := [] }) :=
  exec_onStarted (if_pos hb) hon (if_pos ⟨h0, h5⟩)

theorem exec_transferResend_idle (seq : Nat) (h : (linkIsUp (s.slice sl) || beingTrained (s.slice sl)) = false) :
    exec (.transferResend sl seq) s = .next (s.withEnd sl (s.slice sl)) :=
  exec_onLink (exec_transferResend sl seq s) hon (if_pos (by rw [h]; rfl))

section
variable {seq : Nat} {t : Transfer} (h : (linkIsUp (s.slice sl) || beingTrained (s.slice sl)) = true)
  (hf : (s.slice sl).unacked.find? (·.seq = seq) = some t)
include h hf

theorem exec_transferResend_again (ht : t.resends < 8) : exec (.transferResend sl seq) s = .next (s.withEnd sl (satFld { s.slice sl with
    unacked := (s.slice sl).unacked.map fun u => if u.seq = seq then { u with resends := u.resends + 1 } else u } kTWN 0x100 15 0 1)) := by
  refine exec_onLink (exec_transferResend sl seq s) hon ?_
  rw [h, if_neg (by decide), hf]
  exact if_neg (Nat.not_le.2 ht)

theorem exec_transferResend_spent (ht : 8 ≤ t.resends) :
    exec (.transferResend sl seq) s = .next (s.withEnd sl (linkDown (s.slice sl) 0 4)) := by
  refine exec_onLink (exec_transferResend sl seq s) hon ?_
  rw [h, if_neg (by decide), hf]
  exact if_pos ht

end

theorem exec_peerDownNotice_none (hm : takeMsg asNotice (s.slice sl).inbox = none) :
    exec (.peerDownNotice sl) s = .next (s.setSlice sl (s.slice sl)) := by
  refine exec_onStarted (exec_peerDownNotice sl s) hon ?_
  rw [hm]

theorem exec_peerDownNotice_some {sleep : Bool} {ms : List TwinMsg} (hm : takeMsg asNotice (s.slice sl).inbox = some (sleep, ms)) :
    exec (.peerDownNotice sl) s = .next (s.setSlice sl (linkDown { s.slice sl with inbox := ms } 6 (if sleep then 6 else 2))) := by
  refine exec_onStarted (exec_peerDownNotice sl s) hon ?_
  rw [hm]
  cases sleep with
  | true => rfl
  | false => rfl

end

/-! ### The obligation -/

/-- Settles O42, command by command. -/
theorem twinLink : Obligations.TwinLink := by
  intro s sl seq n p h locked sleep ms t k c hon x st up lanes after down idle
  have hup : up → linkIsUp x = true := (linkIsUp_iff x).2
  have hdown : ¬up → linkIsUp x = false := (linkIsUp_false_iff x).2
  have hcarries : up → (linkIsUp x || beingTrained x) = true := fun hu => by rw [hup hu]; rfl
  have hlane : ∀ b, exec (.twinLaneLock sl k b) s = .next (s.withEnd sl (laneLock x k.val b)) := fun b =>
    exec_onLink (exec_twinLaneLock sl k b s) hon rfl
  refine ⟨fun hb hu h5 => ?_, fun hst hm hn hp hl hf => ?_, fun hst hm hno => ?_, fun hb h0 h5 => ?_, ?_, fun h1 h2 hu => ?_,
    fun hst hf ht => ?_, fun hf ht hu hi => ?_, fun hsame => ?_, fun hne hu hal => ?_, fun hne hst hfew => ?_,
    fun hbit hl hu => ?_, fun hbit hl hu => ?_, fun hbit hl hu hi => ?_, fun hu hi => ?_, fun hm hu hi => ?_, fun hm => ?_⟩
  · have hen : enabled x kTWN = true := by
      simp only [bothEnabled, Bool.and_eq_true] at hb; exact hb.1.2
    obtain ⟨hy, hstate, hlanes, hbut⟩ := trainingDone_shows (not_fenced_of_enabled hen) sl.val
    exact runsPair_of_exec (exec_trainingDone hon hb (hdown hu) h5) ⟨hy, hstate, hlanes, hbut, rfl⟩
  · exact runsPair_of_exec (exec_hello_fits hon hst hm hn hp hl) (linkComesUp_shows (x := { x with inbox := ms }) hf h)
  · have hnot : linkIsUp { x with inbox := ms } = false := (linkIsUp_withInbox x ms).trans (hdown (by omega))
    exact runsPair_of_exec (exec_hello_refused hon hst hm hno)
      (linkDown_of_not_up hnot (by norm_num) (by split <;> norm_num))
  · exact ⟨_, exec_helloRetry hon hb h0 h5, retrain_shows x⟩
  · exact ⟨_, exec_onStarted (exec_transferAck sl seq s) hon rfl, rfl⟩
  · have hidle : (linkIsUp x || beingTrained x) = false := by
      rw [← Bool.not_eq_true, carries_iff]; omega
    exact runsPair_of_exec (exec_transferResend_idle hon seq hidle) rfl
  · exact runsPair_of_exec (exec_transferResend_again hon ((carries_iff x).2 hst) hf ht) (resend_shows x _)
  · obtain ⟨hfell, hun, -⟩ := linkDown_of_up (hup hu) hi.1 hi.2 (st := 0) (code := 4) (by norm_num) (by norm_num)
    exact runsPair_of_exec (exec_transferResend_spent hon (hcarries hu) hf ht) ⟨hfell.shown, hun⟩
  · exact runsPair_of_exec (hlane locked) (laneLock_of_same hsame)
  · refine runsPair_of_exec (hlane locked) ?_
    rw [laneLock_idle hne (hdown hu) hal]
    exact laneSet_shows x k locked
  · refine runsPair_of_exec (hlane locked) ?_
    rw [laneLock_aligning hne hst hfew]
    exact linkDown_laneSet_shows k locked (hdown (by omega))
  · obtain ⟨hy, hbit', hst, hbut⟩ := setLink_laneSet_shows x k true (st := 3) (by norm_num)
    refine runsPair_of_exec (hlane true) ?_
    rw [laneLock_gained hbit (hup hu) hl]
    exact ⟨hy, hbit', hst, hbut⟩
  · obtain ⟨hy, hbit', hst, hbut⟩ := setLink_laneSet_shows x k false (st := 4) (by norm_num)
    refine runsPair_of_exec (hlane false) ?_
    rw [laneLock_lost hbit (hup hu) hl]
    exact ⟨hy, hbit', hst, hbut⟩
  · obtain ⟨hfell, hun⟩ := linkFell_laneSet k false (hup hu) hi.1 hi.2
    refine runsPair_of_exec (hlane false) ?_
    rw [laneLock_lost hbit (hup hu) hl]
    exact ⟨hfell.shown, hun⟩
  · obtain ⟨hfell, hun⟩ := linkLost_of_up (hup hu) hi.1 hi.2 c
    refine runsPair_of_exec (exec_onLink (exec_twinLinkDown sl c s) hon (if_pos (hcarries hu))) ⟨?_, fun hf => ?_⟩
    · cases c <;> exact hfell.shown
    · rw [hun hf]; cases c <;> rfl
  · obtain ⟨hfell, hun, -⟩ := linkDown_of_up (x := { x with inbox := ms }) ((linkIsUp_withInbox x ms).trans (hup hu)) hi.1 hi.2
      (st := 6) (code := if sleep then 6 else 2) (by norm_num) (by split <;> norm_num)
    exact ⟨_, exec_peerDownNotice_some hon hm, hfell.state, hfell.cause, hfell.logq, hun, hfell.inbox, hfell.txst, hfell.rxst⟩
  · exact ⟨_, exec_peerDownNotice_none hon hm, rfl⟩

end Sys2Proof.Machine
end

section
/-! Proofs. Heartbeats and the loss of the twin (R13, R153, R278, R471, R479). -/

namespace Sys2Proof.Machine

set_option Elab.async false

/-! ### The slice declares its twin lost (R278, R479) -/

/-- The loss of the twin, logged as a SOFT fault. -/
def lossLogged (x : Slice) (detail : Nat) : Slice :=
  raise (faultLog { x with twinLost := true } fcSoft kTWN wholeBlock 0x14 detail) kTWN 4

/-- A shadow that is not promoted begins its promotion. -/
def promotes (x : Slice) : Slice := if shadState x = shPromoted then x else setRxst (setShad x shPromoting) 0

/-- The loss is told to the twin over a link that is up, and to the hub. -/
def lossTold (x : Slice) (detail : Nat) : Slice :=
  let y := if linkIsUp x then sendTwin x .declared else x
  { y with toHub := y.toHub ++ [⟨0x0009, d64 detail, none⟩] }

theorem keepsTo_lossLogged (x : Slice) (detail : Nat) : KeepsTo [kFLT, kICN] { x with twinLost := true } (lossLogged x detail) :=
  (faultLog_soft _ _ _ _ _).1.keepsTo.trans (keepsTo_raise _ _ _ (by decide) (by decide))

theorem counted_lossLogged (x : Slice) (detail : Nat) : Counted x (lossLogged x detail) kFLT 0x1008 1 := by
  have hG : regGet { x with twinLost := true } = regGet x := by funext b o; rw [regGet, regGet]
  have hlog := (faultLog_soft { x with twinLost := true } kTWN wholeBlock 0x14 detail).2
  unfold Counted pairGet at hlog ⊢
  rw [lossLogged, regGet_raise _ _ _ _ _ (by decide) (by norm_num) (by decide),
    regGet_raise _ _ _ _ _ (by decide) (by norm_num) (by decide), hlog, hG]

theorem keepsTo_promotes (x : Slice) : KeepsTo [kFLW, kTWN] x (promotes x) := by
  unfold promotes
  split
  · exact KeepsTo.refl _ x
  · exact (keepsTo_regPut x _ _ _ _ _ (by norm_num) (by decide)).trans (keepsTo_regPut _ _ _ _ _ _ (by norm_num) (by decide))

theorem regGet_promotes_twn (x : Slice) {o : Nat} (ho : o < 0x100000) (hne : o ≠ 0x130) :
    regGet (promotes x) kTWN o = regGet x kTWN o := by
  unfold promotes
  split
  · rfl
  · rw [setRxst, regGet_regPut_ne _ _ _ _ _ _ _ _ (regKey_ne (by norm_num) ho (Or.inr hne)), setShad,
      regGet_regPut_ne _ _ _ _ _ _ _ _ (regKey_ne (by norm_num) ho (Or.inl (by decide)))]

theorem promotes_shows {x : Slice} (h : shadState x ≠ 3) : shadState (promotes x) = 2 ∧ rxst (promotes x) = 0 := by
  rw [promotes, if_neg (show ¬shadState x = shPromoted from h)]
  constructor
  · simp (disch := decide) [shadState, setRxst, setShad, regFld_regPut_ne, regFld_regPut_self, shPromoting]
  · simp (disch := decide) [rxst, setRxst, regFld_regPut_self]

/-- A slice before it tells of the loss of its twin. -/
def lossFound (x : Slice) (detail : Nat) : Slice := protTwinLost (twinHoldover (promotes (lossLogged x detail)))

theorem declareTwinLost_eq {x : Slice} (h : x.twinLost = false) (ht : x.trackers = []) (detail : Nat) :
    declareTwinLost x detail = lossTold (lossFound x detail) detail := by
  have hidle : (twinHoldover (promotes (lossLogged x detail))).trackers = [] := by
    obtain ⟨r, gs, e⟩ := (keepsTo_twinHoldover (promotes (lossLogged x detail))).shape
    obtain ⟨r', gs', e'⟩ := (keepsTo_promotes (lossLogged x detail)).shape
    obtain ⟨r'', gs'', e''⟩ := (keepsTo_lossLogged x detail).shape
    rw [e, e', e'']
    exact ht
  calc declareTwinLost x detail
      = lossTold (protTwinLost (failRemotes (twinHoldover (promotes (lossLogged x detail))))) detail := by
        rw [declareTwinLost, h, if_neg Bool.false_ne_true]; rfl
    _ = _ := by rw [failRemotes_of_idle hidle]; rfl

/-- What a slice holds once it has found its twin lost. -/
structure LossFound (x z : Slice) : Prop where
  shape : ∃ r gs, z = { x with regs := r, groups := gs, twinLost := true }
  promoting : shadState x ≠ 3 → shadState z = 2 ∧ rxst z = 0
  counted : Counted x z kFLT 0x1008 1
  twn : ∀ o, o < 0x100000 → o ≠ 0x130 → regGet z kTWN o = regGet x kTWN o

theorem lossFound_of (x : Slice) (detail : Nat) : LossFound x (lossFound x detail) := by
  have hlog := keepsTo_lossLogged x detail
  have hG : regGet { x with twinLost := true } = regGet x := by funext b o; rw [regGet, regGet]
  have hend : KeepsTo [kTIM, kSRG, kICN] (promotes (lossLogged x detail)) (lossFound x detail) :=
    ((keepsTo_twinHoldover _).mono (by simp)).trans ((keepsTo_protTwinLost _).mono (by simp))
  refine ⟨?_, fun hs => ?_, ?_, fun o ho hne => ?_⟩
  · obtain ⟨r, gs, e⟩ := hend.shape
    obtain ⟨r', gs', e'⟩ := (keepsTo_promotes (lossLogged x detail)).shape
    obtain ⟨r'', gs'', e''⟩ := hlog.shape
    rw [e', e''] at e
    exact ⟨r, gs, e⟩
  · have hs' : shadState (lossLogged x detail) ≠ 3 := by
      rw [shadState, regFld, hlog.keeps _ _ (by norm_num) (by decide), hG]; exact hs
    rw [shadState, rxst, hend.regFld _ _ _ _ (by norm_num) (by decide), hend.regFld _ _ _ _ (by norm_num) (by decide)]
    exact promotes_shows hs'
  · have hpair : ∀ o, o < 0x100000 → regGet (lossFound x detail) kFLT o = regGet (lossLogged x detail) kFLT o := fun o ho =>
      (hend.keeps _ _ ho (by decide)).trans ((keepsTo_promotes _).keeps _ _ ho (by decide))
    have hc := counted_lossLogged x detail
    unfold Counted pairGet at hc ⊢
    rw [hpair _ (by norm_num), hpair _ (by norm_num), hc]
  · rw [hend.keeps _ _ ho (by decide), regGet_promotes_twn _ ho hne, hlog.keeps _ _ ho (by decide), hG]

/-- What a slice shows once it has declared its twin lost. -/
structure TwinDeclared (x y : Slice) : Prop where
  twinLost : y.twinLost = true
  promoting : shadState x ≠ 3 → shadState y = 2 ∧ rxst y = 0
  lost : y.lost = x.lost
  told : linkIsUp x = true → fenced x kTWN = false → ∃ q, y.unacked = x.unacked ++ [⟨q, 0, .declared⟩]
  untold : linkIsUp x = false ∨ fenced x kTWN = true → y.unacked = x.unacked
  noted : ∃ d, y.toHub = x.toHub ++ [⟨0x0009, d, none⟩]
  counted : Counted x y kFLT 0x1008 1
  tabs : y.tabs = x.tabs
  frames : y.frames = x.frames

theorem regGet_lossTold (x : Slice) (detail : Nat) : regGet (lossTold x detail) = regGet x := by
  have h : regGet (if linkIsUp x then sendTwin x .declared else x) = regGet x := by
    split
    · exact regGet_sendTwin x _
    · rfl
  rw [← h]
  funext b o
  rw [lossTold, regGet, regGet]

theorem lossTold_frame (x : Slice) (detail : Nat) : ∃ u n d, lossTold x detail =
    { x with unacked := u, nextXfer := n, discards := d, toHub := x.toHub ++ [⟨0x0009, d64 detail, none⟩] } := by
  unfold lossTold
  split
  · obtain ⟨u, n, d, e⟩ := sendTwin_frame x .declared
    rw [e]
    exact ⟨u, n, d, rfl⟩
  · exact ⟨x.unacked, x.nextXfer, x.discards, rfl⟩

theorem lossTold_up {x : Slice} (hup : linkIsUp x = true) (hf : fenced x kTWN = false) (detail : Nat) :
    (lossTold x detail).unacked = x.unacked ++ [⟨x.nextXfer, 0, .declared⟩] := by
  rw [lossTold, if_pos hup, sendTwin_of_not_fenced hf]

theorem lossTold_silent {x : Slice} (h : linkIsUp x = false ∨ fenced x kTWN = true) (detail : Nat) :
    (lossTold x detail).unacked = x.unacked := by
  rw [lossTold]
  split
  · next hup =>
    rw [sendTwin_of_fenced (h.resolve_left (by rw [hup]; exact Bool.noConfusion))]; rfl
  · rfl

theorem LossFound.declared {x z : Slice} (h : LossFound x z) (detail : Nat) :
    TwinDeclared x (lossTold z detail) ∧ (lossTold z detail).inbox = x.inbox
      ∧ regGet (lossTold z detail) kTWN 0x110 = regGet x kTWN 0x110 := by
  have hG := regGet_lossTold z detail
  have hup : linkIsUp z = linkIsUp x := by rw [linkIsUp, regFld, h.twn _ (by norm_num) (by norm_num), linkIsUp, regFld]
  have hfen : fenced z kTWN = fenced x kTWN := fenced_congr (h.twn _ (by norm_num) (by norm_num))
  obtain ⟨u, n, d, e⟩ := lossTold_frame z detail
  obtain ⟨r, gs, hz⟩ := h.shape
  have hun : z.unacked = x.unacked := by rw [hz]
  rw [hz] at e
  refine ⟨⟨by rw [hz, e], fun hs => ?_, by rw [hz, e], fun h1 h2 => ⟨z.nextXfer, ?_⟩, fun h1 => ?_, ⟨d64 detail, by rw [hz, e]⟩, ?_,
    by rw [hz, e], by rw [hz, e]⟩, by rw [hz, e], ?_⟩
  · rw [shadState, rxst, regFld, regFld, hG]; exact h.promoting hs
  · rw [lossTold_up (hup.trans h1) (hfen.trans h2), hun]
  · rw [lossTold_silent (by rw [hup, hfen]; exact h1), hun]
  · unfold Counted pairGet; rw [hG]; exact h.counted
  · rw [hG, h.twn _ (by norm_num) (by norm_num)]

theorem declareTwinLost_shows {x : Slice} (h : x.twinLost = false) (ht : x.trackers = []) (detail : Nat) :
    TwinDeclared x (declareTwinLost x detail) ∧ (declareTwinLost x detail).inbox = x.inbox
      ∧ regGet (declareTwinLost x detail) kTWN 0x110 = regGet x kTWN 0x110 := by
  rw [declareTwinLost_eq h ht]
  exact (lossFound_of x detail).declared detail

/-- The same, seen from the slice before a message was taken and heartbeats were counted. -/
theorem TwinDeclared.of_before {x w y : Slice} (h : TwinDeclared w y) (hs : ∃ r ms, w = { x with regs := r, inbox := ms })
    (hb : RegsBut x w ((kTWN, 0x110) :: raiseKeys kTWN 3)) : TwinDeclared x y := by
  obtain ⟨r, ms, e⟩ := hs
  have hup : linkIsUp w = linkIsUp x := by rw [linkIsUp, regFld, hb _ _ (by norm_num) (by decide), linkIsUp, regFld]
  have hfen : fenced w kTWN = fenced x kTWN := fenced_congr (hb _ _ (by norm_num) (by decide))
  have hshad : shadState w = shadState x := by rw [shadState, regFld, hb _ _ (by norm_num) (by decide), shadState, regFld]
  have hpair : pairGet w kFLT 0x1008 = pairGet x kFLT 0x1008 := by
    rw [pairGet, hb _ _ (by norm_num) (by decide), hb _ _ (by norm_num) (by decide), pairGet]
  have hun : w.unacked = x.unacked := by rw [e]
  obtain ⟨d, hd⟩ := h.noted
  refine ⟨h.twinLost, fun g => h.promoting (by rwa [hshad]), by rw [h.lost, e], fun g1 g2 => ?_, fun g => ?_, ⟨d, by rw [hd, e]⟩, ?_,
    by rw [h.tabs, e], by rw [h.frames, e]⟩
  · rw [← hun]; exact h.told (by rwa [hup]) (by rwa [hfen])
  · rw [← hun]; exact h.untold (by rwa [hup, hfen])
  · rw [Counted, ← hpair]; exact h.counted

/-! ### Heartbeats (R153) -/

/-- A heartbeat that arrives clears the count of missed ones. -/
theorem heard_shows (x : Slice) (ms : List TwinMsg) :
    let y := regPut { x with inbox := ms } kTWN 0x110 27 24 0
    y = { x with regs := y.regs, inbox := ms } ∧ regFld y kTWN 0x110 27 24 = 0 ∧ RegsBut x y [(kTWN, 0x110)] := by
  have hG : regGet { x with inbox := ms } = regGet x := by funext b o; rw [regGet, regGet]
  refine ⟨rfl, regFld_regPut_self _ _ _ _ _ _ (by norm_num) (by norm_num), fun b o ho hb => ?_⟩
  rw [regsBut_regPut (RegsBut.refl _ [(kTWN, 0x110)]) _ _ _ _ _ (by norm_num) (by simp) b o ho hb, hG]

/-- An interval without a heartbeat, counted; the first of them raises its cause. -/
def missed (x : Slice) (m : Nat) : Slice :=
  let x := satFld (regPut x kTWN 0x110 27 24 m) kTWN 0x110 23 0 1
  if m = 1 then raise x kTWN 3 else x

theorem regsOnly_missed (x : Slice) (m : Nat) : RegsOnly x (missed x m) := by
  have h : RegsOnly x (satFld (regPut x kTWN 0x110 27 24 m) kTWN 0x110 23 0 1) := (regsOnly_regPut x ..).trans (regsOnly_regPut ..)
  unfold missed
  split
  · exact h.trans (regsOnly_raise ..)
  · exact h

theorem regsBut_missed (x : Slice) (m : Nat) : RegsBut x (missed x m) ((kTWN, 0x110) :: raiseKeys kTWN 3) := by
  have h : RegsBut x (satFld (regPut x kTWN 0x110 27 24 m) kTWN 0x110 23 0 1) ((kTWN, 0x110) :: raiseKeys kTWN 3) :=
    regsBut_regPut (regsBut_regPut (RegsBut.refl x _) _ _ _ _ _ (by norm_num) (List.mem_cons_self ..)) _ _ _ _ _ (by norm_num)
      (List.mem_cons_self ..)
  unfold missed
  split
  · exact regsBut_raise h _ _ (by decide) (List.subset_cons_self ..)
  · exact h

theorem missed_counts (x : Slice) {m : Nat} (hm : m < 16) : regFld (missed x m) kTWN 0x110 27 24 = m
    ∧ regFld (missed x m) kTWN 0x110 23 0 = min 16777215 (regFld x kTWN 0x110 23 0 + 1) := by
  have hcount : satAdd (2 ^ (23 + 1 - 0) - 1) (regFld x kTWN 0x110 23 0) 1 % 2 ^ (23 + 1 - 0)
      = min 16777215 (regFld x kTWN 0x110 23 0 + 1) := by unfold satAdd; omega
  have hmod : m % 2 ^ (27 + 1 - 24) = m := Nat.mod_eq_of_lt hm
  unfold missed satFld
  split <;> simp (disch := decide) only [regFld_raise, regFld_regPut_self, regFld_regPut_other, hcount, hmod, and_self]

/-- Heartbeats are expected while the link is up, or where it fell without a notice from either end. -/
theorem supervised_iff (x : Slice) : supervised x = true ↔
    (regFld x kTWN 0x100 31 28 = 3 ∨ regFld x kTWN 0x100 31 28 = 4) ∨ (enabled x kTWN = true
      ∧ ((regFld x kTWN 0x100 31 28 = 0 ∧ regFld x kTWN 0x100 23 16 = 3) ∨ (regFld x kTWN 0x100 31 28 = 0 ∧ regFld x kTWN 0x100 23 16 = 4)
        ∨ ((regFld x kTWN 0x100 31 28 = 0 ∧ regFld x kTWN 0x100 23 16 = 0) ∧ 3 ≤ regFld x kTWN 0x110 27 24))) := by
  rw [supervised, fellSilent, Bool.or_eq_true, linkIsUp_iff, linkState, lastDown, lsDown]
  simp only [Bool.and_eq_true, Bool.or_eq_true, decide_eq_true_eq]
  tauto

/-! ### A slice declared lost (R471, R472) -/

theorem stompIn_frame (x : Slice) (id : Nat) : ∃ r fr, stompIn x id = { x with regs := r, frames := fr } := by
  unfold stompIn
  split
  · exact ⟨x.regs, x.frames, rfl⟩
  · split
    · exact ⟨x.regs, x.frames, rfl⟩
    · split
      · obtain ⟨r, e⟩ := regsOnly_count { x with frames := x.frames.map fun g => if g.id = id then { g with stomped := true } else g }
          kSWC _ 1
        exact ⟨r, _, e⟩
      · exact ⟨x.regs, _, rfl⟩

theorem stompAll_frame (l : List Sending) (x : Slice) : ∃ r fr,
    l.foldl (fun x e => stompIn (count x kSWC (0x1100 + 8 * e.lane.val) 1) e.copy.frm) x = { x with regs := r, frames := fr } := by
  induction l generalizing x with
  | nil => exact ⟨x.regs, x.frames, rfl⟩
  | cons e l ih =>
    obtain ⟨r, hr⟩ := regsOnly_count x kSWC (0x1100 + 8 * e.lane.val) 1
    obtain ⟨r', fr', h'⟩ := stompIn_frame (x.setRegs r) e.copy.frm
    obtain ⟨r'', fr'', h''⟩ := ih (stompIn (x.setRegs r) e.copy.frm)
    exact ⟨r'', fr'', by rw [List.foldl_cons, hr, h'', h']; rfl⟩

theorem stompSending_frame (x : Slice) : ∃ r fr, stompSending x = { x with regs := r, frames := fr, sending := [] } := by
  unfold stompSending
  split
  · next h => exact ⟨x.regs, x.frames, by rw [← h]⟩
  · obtain ⟨r, fr, h⟩ := stompAll_frame x.sending { x with sending := [] }
    rw [h]
    obtain ⟨q, hq⟩ := regsOnly_flagRaise { x with regs := r, frames := fr, sending := [] } kSWC 0x110 0 0
    exact ⟨q, fr, hq⟩

/-- A LOST fault stops the slice: what is inside is lost, and nothing but registers and frames changes besides (R472). -/
theorem faultLog_lost (x : Slice) (blk unit code detail : Nat) : ∃ r fr ns, faultLog x fcLost blk unit code detail =
    { x with regs := r, frames := fr, toHub := ns, sending := [], lost := true, report := true, fifo := [], win := [], recirc := [],
             flowIn := [] } := by
  have hsoft : ¬fcLost = fcSoft := by decide
  have hspared : ¬fcLost = fcSpared := by decide
  have hdegraded : ¬fcLost = fcDegraded := by decide
  have e : ∃ z ns, RegsOnly x z ∧ faultLog x fcLost blk unit code detail = sliceLost { z with toHub := z.toHub ++ ns } := by
    simp only [faultLog, hsoft, hspared, hdegraded, if_true, if_false]
    exact ⟨_, _, (logOnly_fltStore (LogOnly.refl x) _ _ _ _ _).regs.trans (regsOnly_raise ..), rfl⟩
  obtain ⟨z, ns, ⟨r, rfl⟩, e⟩ := e
  obtain ⟨q, fr, h⟩ := stompSending_frame { x.setRegs r with toHub := (x.setRegs r).toHub ++ ns }
  rw [e, sliceLost, h]
  exact ⟨q, fr, x.toHub ++ ns, rfl⟩

end Sys2Proof.Machine
end

section
/-! Proofs. The commands by which a slice watches its twin (R13, R153, R278, R471, R479). -/

namespace Sys2Proof.Machine

set_option Elab.async false

theorem getElem?_modNth_self {α : Type} {l : List α} {i : Nat} {a : α} (f : α → α) (h : l[i]? = some a) :
    (modNth l i f)[i]? = some (f a) := by
  induction l generalizing i with
  | nil => simp at h
  | cons b l ih =>
    cases i with
    | zero => simp only [List.getElem?_cons_zero, Option.some.injEq] at h; rw [← h]; rfl
    | succ i => exact ih h

/-- The spelled-out form of a declared loss. -/
theorem TwinDeclared.shown {x y : Slice} (h : TwinDeclared x y) :
    let up := regFld x kTWN 0x100 31 28 = 3 ∨ regFld x kTWN 0x100 31 28 = 4
    y.twinLost = true ∧ (shadState x ≠ 3 → shadState y = 2 ∧ rxst y = 0) ∧ y.lost = x.lost
    ∧ (up → fenced x kTWN = false → ∃ q, y.unacked = x.unacked ++ [⟨q, 0, .declared⟩])
    ∧ (¬up ∨ fenced x kTWN = true → y.unacked = x.unacked)
    ∧ (∃ d, y.toHub = x.toHub ++ [⟨0x0009, d, none⟩]) ∧ Counted x y kFLT 0x1008 1 ∧ y.tabs = x.tabs ∧ y.frames = x.frames :=
  ⟨h.twinLost, h.promoting, h.lost, fun hu => h.told ((linkIsUp_iff x).2 hu),
    fun g => h.untold (g.imp_left (linkIsUp_false_iff x).2), h.noted, h.counted, h.tabs, h.frames⟩

theorem slice_withEnd_self (s : State) (sl : SliceId) (y : Slice) : (s.withEnd sl y).slice sl = y := by
  rw [State.withEnd, slice_deliver_ne _ _ _ _ (twin_ne sl).symm, slice_setSlice_self]

theorem slice_withEnd_ne (s : State) {sl n : SliceId} (y : Slice) (h : n ≠ sl) (ht : n ≠ twin sl) :
    (s.withEnd sl y).slice n = s.slice n := by
  rw [State.withEnd, slice_deliver_ne _ _ _ _ ht, slice_setSlice_ne _ _ _ _ h]

/-- The hub after a slice has taken its twin's fault report. -/
def Hub.reportTaken (h : Hub) (n : SliceId) : Hub := { h with slices := modNth h.slices n.val fun t => { t with fbits := false } }

theorem exec_heartbeatSend (sl : SliceId) (s : State) : exec (.heartbeatSend sl) s = execHeartbeatSend sl s := rfl
theorem exec_heartbeatReceive (sl : SliceId) (s : State) : exec (.heartbeatReceive sl) s = execHeartbeatReceive sl s := rfl
theorem exec_heartbeatInterval (sl : SliceId) (s : State) : exec (.heartbeatInterval sl) s = execHeartbeatInterval sl s := rfl
theorem exec_hubFaultReport (sl : SliceId) (s : State) : exec (.hubFaultReport sl) s = execHubFaultReport sl s := rfl
theorem exec_declared (sl : SliceId) (s : State) : exec (.declared sl) s = execDeclared sl s := rfl

section
variable {s : State} {sl : SliceId} (hon : (s.slice sl).on = true)
include hon

theorem exec_heartbeatSend_up (hup : linkIsUp (s.slice sl) = true) (hn : napping (s.slice sl) = false) :
    exec (.heartbeatSend sl) s = .next (s.withEnd sl (sendHeartbeat (s.slice sl))) :=
  exec_onLink (exec_heartbeatSend sl s) hon (if_pos (by rw [hup, hn]; rfl))

theorem exec_heartbeatSend_silent (h : linkIsUp (s.slice sl) = false ∨ napping (s.slice sl) = true) :
    exec (.heartbeatSend sl) s = .next (s.withEnd sl (s.slice sl)) := by
  refine exec_onLink (exec_heartbeatSend sl s) hon (if_neg ?_)
  rcases h with h | h <;> simp [h]

theorem exec_heartbeatReceive_up {f : Bool} {ms : List TwinMsg} (hup : linkIsUp (s.slice sl) = true)
    (hm : takeMsg asHeartbeat (s.slice sl).inbox = some (((twin sl).val, f), ms)) :
    exec (.heartbeatReceive sl) s = .next (s.withEnd sl (if f then
      declareTwinLost (regPut { s.slice sl with inbox := ms } kTWN 0x110 27 24 0) lostByBit
      else regPut { s.slice sl with inbox := ms } kTWN 0x110 27 24 0)) := by
  have hvalid : (!linkIsUp { s.slice sl with inbox := ms } || decide ((twin sl).val ≠ (twin sl).val)) = false := by
    rw [linkIsUp_withInbox, hup]; simp
  refine exec_onLink (exec_heartbeatReceive sl s) hon ?_
  rw [hm]
  exact if_neg (by rw [hvalid]; exact Bool.false_ne_true)

/-! ### An interval without a heartbeat -/

theorem exec_heartbeatInterval_unsupervised (h : supervised (s.slice sl) = false) :
    exec (.heartbeatInterval sl) s = .next (s.withEnd sl (s.slice sl)) :=
  exec_onLink (exec_heartbeatInterval sl s) hon (if_pos (by rw [h]; rfl))

theorem exec_heartbeatInterval_supervised (h : supervised (s.slice sl) = true) :
    let m := min 15 (regFld (s.slice sl) kTWN 0x110 27 24 + 1)
    let x := missed (s.slice sl) m
    exec (.heartbeatInterval sl) s = .next (s.withEnd sl (if m < 3 then x
      else if hubShowsRunning s (twin sl) then (if linkIsUp x then linkDown x lsDown 0 else x)
      else declareTwinLost x lostByHeartbeats)) := by
  intro m x
  exact exec_onLink (exec_heartbeatInterval sl s) hon (if_neg (by rw [h]; exact Bool.false_ne_true))

/-! ### The hub's report and the twin's declaration -/

theorem exec_hubFaultReport_taken {t : HubSlice} (ht : s.hub.slices[(twin sl).val]? = some t) (hf : t.fbits = true)
    (hu : hubUp s = true) (hp : paired s sl = true) : exec (.hubFaultReport sl) s
      = .next ({ s with hub := s.hub.reportTaken (twin sl) }.withEnd sl (declareTwinLost (s.slice sl) lostByHub)) := by
  have hall : (t.fbits && hubUp s && paired s sl) = true := by rw [hf, hu, hp]; rfl
  have e : exec (.hubFaultReport sl) s
      = onLink sl (fun x => declareTwinLost x lostByHub) { s with hub := s.hub.reportTaken (twin sl) } := by
    rw [exec_hubFaultReport, execHubFaultReport, ht]
    exact if_pos hall
  rw [e, onLink, onPair]
  exact if_pos hon

theorem exec_declared_none (hm : takeMsg asDeclared (s.slice sl).inbox = none)
    (hb : ((s.slice (twin sl)).twinLost && hubUp s) = false) : exec (.declared sl) s = .next (s.setSlice sl (s.slice sl)) := by
  refine exec_onStarted (exec_declared sl s) hon ?_
  rw [hm, hb]

theorem exec_declared_some {ms : List TwinMsg} (hm : takeMsg asDeclared (s.slice sl).inbox = some ((), ms)) :
    exec (.declared sl) s = .next (s.setSlice sl (if (s.slice sl).lost then { s.slice sl with inbox := ms }
      else raise (faultLog { s.slice sl with inbox := ms } fcLost kTWN wholeBlock 0x15 0) kFLT 7)) := by
  refine exec_onStarted (exec_declared sl s) hon ?_
  rw [hm]
  rfl

end

/-! ### The loss of the twin, seen from the slice as it stood -/

theorem declared_missed {x : Slice} (h : x.twinLost = false) (ht : x.trackers = []) {m : Nat} (hm : m < 16) (detail : Nat) :
    TwinDeclared x (declareTwinLost (missed x m) detail)
      ∧ regFld (declareTwinLost (missed x m) detail) kTWN 0x110 27 24 = m := by
  obtain ⟨r, hr⟩ := regsOnly_missed x m
  obtain ⟨hd, -, hk⟩ := declareTwinLost_shows (x := missed x m) (by rw [hr]; exact h) (by rw [hr]; exact ht) detail
  refine ⟨hd.of_before ⟨r, x.inbox, hr⟩ (regsBut_missed x m), ?_⟩
  rw [regFld, hk, ← regFld, (missed_counts x hm).1]

theorem declared_heard {x : Slice} (h : x.twinLost = false) (ht : x.trackers = []) (ms : List TwinMsg) (detail : Nat) :
    let y := declareTwinLost (regPut { x with inbox := ms } kTWN 0x110 27 24 0) detail
    TwinDeclared x y ∧ y.inbox = ms := by
  obtain ⟨-, -, hbut⟩ := heard_shows x ms
  obtain ⟨r, hr⟩ := regsOnly_regPut { x with inbox := ms } kTWN 0x110 27 24 0
  obtain ⟨hd, hi, -⟩ := declareTwinLost_shows (x := regPut { x with inbox := ms } kTWN 0x110 27 24 0) (by rw [hr]; exact h)
    (by rw [hr]; exact ht) detail
  exact ⟨hd.of_before ⟨r, ms, hr⟩ (hbut.mono (by simp)), hi.trans (by rw [hr]; rfl)⟩

theorem linkIsUp_missed (x : Slice) (m : Nat) : linkIsUp (missed x m) = linkIsUp x := by
  rw [linkIsUp, regFld, regsBut_missed x m _ _ (by norm_num) (by decide), linkIsUp, regFld]

/-- A third missed heartbeat, with the twin running as the hub shows: the link goes down (R13). -/
theorem linkFell_missed {x : Slice} (hup : linkIsUp x = true) (hh : x.held = []) (ht : x.trackers = []) (m : Nat) :
    let y := if linkIsUp (missed x m) then linkDown (missed x m) lsDown 0 else missed x m
    regFld y kTWN 0x100 31 28 = 0 ∧ y.logq = [] ∧ y.twinLost = x.twinLost := by
  have hupm : linkIsUp (missed x m) = true := (linkIsUp_missed x m).trans hup
  obtain ⟨r, hr⟩ := regsOnly_missed x m
  obtain ⟨hfell, -, -, hlost, -⟩ := linkDown_of_up hupm (by rw [hr]; exact hh) (by rw [hr]; exact ht) (st := lsDown) (code := 0)
    (by decide) (by norm_num)
  rw [if_pos hupm]
  exact ⟨hfell.state, hfell.logq, hlost.trans (by rw [hr]; rfl)⟩

/-- A slice that its twin has declared lost stops (R472). -/
theorem faultLog_declared_shows (x : Slice) (ms : List TwinMsg) :
    let y := raise (faultLog { x with inbox := ms } fcLost kTWN wholeBlock 0x15 0) kFLT 7
    y.inbox = ms ∧ y.lost = true ∧ y.report = true ∧ y.sending = [] ∧ y.fifo = [] ∧ y.win = [] ∧ y.recirc = [] ∧ y.flowIn = []
      ∧ y.dram = x.dram := by
  obtain ⟨r, fr, ns, e⟩ := faultLog_lost { x with inbox := ms } kTWN wholeBlock 0x15 0
  obtain ⟨q, hq⟩ := regsOnly_raise (faultLog { x with inbox := ms } fcLost kTWN wholeBlock 0x15 0) kFLT 7
  rw [e] at hq
  rw [e, hq]
  exact ⟨rfl, rfl, rfl, rfl, rfl, rfl, rfl, rfl, rfl⟩

/-- Settles O43, command by command. -/
theorem twinSupervision : Obligations.TwinSupervision := by
  intro s sl ms hs hon x up down sup m lost
  have hup : up → linkIsUp x = true := (linkIsUp_iff x).2
  have hdown : ¬up → linkIsUp x = false := (linkIsUp_false_iff x).2
  have hsup : sup → supervised x = true := (supervised_iff x).2
  have hm : m < 16 := by omega
  refine ⟨fun hu hn hf => ?_, fun h => ?_, fun hi hu => ?_, fun hi hu hl ht => ?_, fun h => ?_, fun h hno => ?_,
    fun h h3 hr hl ht => ?_, fun hu h3 hr hh ht => ?_, fun hg hf hu hp hl ht => ?_, fun hi => ?_, fun hi hb => ?_⟩
  · exact runsPair_of_exec (exec_heartbeatSend_up hon (hup hu) hn) ⟨sendHeartbeat_of_not_fenced hf, rfl⟩
  · exact runsPair_of_exec (exec_heartbeatSend_silent hon (h.imp_left hdown)) rfl
  · refine runsPair_of_exec (exec_heartbeatReceive_up hon (hup hu) hi) ?_
    rw [if_neg Bool.false_ne_true]
    exact heard_shows x ms
  · obtain ⟨hd, hin⟩ := declared_heard hl ht ms lostByBit
    refine runsPair_of_exec (exec_heartbeatReceive_up hon (hup hu) hi) ?_
    rw [if_pos rfl]
    exact ⟨hd.shown, hin⟩
  · exact runsPair_of_exec (exec_heartbeatInterval_unsupervised hon (Bool.not_eq_true _ ▸ mt (supervised_iff x).1 h)) rfl
  · refine runsPair_of_exec (exec_heartbeatInterval_supervised hon (hsup h)) ?_
    have hy : (if m < 3 then missed x m else if hubShowsRunning s (twin sl) = true then
        (if linkIsUp (missed x m) = true then linkDown (missed x m) lsDown 0 else missed x m)
        else declareTwinLost (missed x m) lostByHeartbeats) = missed x m := by
      by_cases h3 : m < 3
      · rw [if_pos h3]
      · obtain ⟨hu, hr⟩ := hno.resolve_left h3
        rw [if_neg h3, if_pos hr, linkIsUp_missed, hdown hu, if_neg Bool.false_ne_true]
    rw [hy]
    exact ⟨(regsOnly_missed x m).eq_with, (missed_counts x hm).1, (missed_counts x hm).2, regsBut_missed x m⟩
  · obtain ⟨hd, hc⟩ := declared_missed hl ht hm lostByHeartbeats
    refine runsPair_of_exec (exec_heartbeatInterval_supervised hon (hsup h)) ?_
    rw [if_neg (Nat.not_lt.2 h3), hr, if_neg Bool.false_ne_true]
    exact ⟨hd.shown, hc⟩
  · refine runsPair_of_exec (exec_heartbeatInterval_supervised hon (hsup (Or.inl hu))) ?_
    rw [if_neg (Nat.not_lt.2 h3), if_pos hr]
    exact linkFell_missed (hup hu) hh ht m
  · obtain ⟨hd, -⟩ := declareTwinLost_shows hl ht lostByHub
    refine Runs.intro (exec_hubFaultReport_taken hon hg hf hu hp) ⟨?_, rfl, getElem?_modNth_self _ hg, fun n hn hnt => ?_⟩
    · rw [slice_withEnd_self]; exact hd.shown
    · exact slice_withEnd_ne _ _ hn hnt
  · refine ⟨_, exec_declared_some hon hi, ?_⟩
    by_cases hl : x.lost = true
    · rw [if_pos hl]
      exact ⟨rfl, fun _ => rfl, fun h => absurd hl (by rw [h]; exact Bool.false_ne_true)⟩
    · rw [if_neg hl]
      obtain ⟨hin, hshown⟩ := faultLog_declared_shows x ms
      exact ⟨hin, fun h => absurd h hl, fun _ => hshown⟩
  · exact ⟨_, exec_declared_none hon hi hb, rfl⟩

end Sys2Proof.Machine
end

section
/-! Proofs. The NVM staging sets of the hub window, and the time output (R42, R63, R67, R83, R376, R491). -/

namespace Sys2Proof.Machine

set_option Elab.async false

/-! ### Words and bytes -/

@[simp] theorem length_sGetBytes (m : Sparse Byte) (a n : Nat) : (sGetBytes m a n).length = n := by
  induction n generalizing a with
  | zero => rfl
  | succ n ih => simp [sGetBytes, ih]

theorem sGetBytes_congr {m k : Sparse Byte} {a n : Nat} (h : ∀ i, a ≤ i → i < a + n → sGet 0 k i = sGet 0 m i) :
    sGetBytes k a n = sGetBytes m a n := by
  induction n generalizing a with
  | zero => rfl
  | succ n ih =>
    rw [sGetBytes, sGetBytes, h a (Nat.le_refl a) (by omega), ih fun i hi hn => h i (by omega) (by omega)]

/-- Bytes written read back whole. -/
theorem sGetBytes_sPutBytes_whole (m : Sparse Byte) (a : Nat) (bs : Bytes) {n : Nat} (h : bs.length = n) :
    sGetBytes (sPutBytes m a bs) a n = bs := by
  have hw := sGetBytes_sPutBytes m a 0 n bs (by omega)
  rwa [Nat.add_zero, List.drop_zero, List.take_of_length_le h.le] at hw

/-- Bytes outside those written read as before. -/
theorem sGetBytes_sPutBytes_out (m : Sparse Byte) {a b n : Nat} {bs : Bytes} (h : b + n ≤ a ∨ a + bs.length ≤ b) :
    sGetBytes (sPutBytes m a bs) b n = sGetBytes m b n :=
  sGetBytes_congr fun i hi hn => sGet_sPutBytes_out m a i bs (by omega)

@[simp] theorem length_wordBytes (w : Word) : (wordBytes w).length = 4 := rfl

@[simp] theorem length_wordsBytes (ws : List Word) : (wordsBytes ws).length = 4 * ws.length := by
  simp [wordsBytes, List.length_flatMap, Nat.mul_comm]

/-- Four bytes make a word, and the word those bytes. -/
theorem wordBytes_beNat {bs : Bytes} (h : bs.length = 4) : wordBytes (w32 (beNat bs)) = bs := by
  obtain ⟨a, b, c, d, rfl⟩ : ∃ a b c d, bs = [a, b, c, d] := by
    match bs, h with
    | [a, b, c, d], _ => exact ⟨a, b, c, d, rfl⟩
  have ha := a.isLt
  have hb := b.isLt
  have hc := c.isLt
  have hd := d.isLt
  have hn : (w32 (beNat [a, b, c, d])).toNat = ((a.toNat * 256 + b.toNat) * 256 + c.toNat) * 256 + d.toNat := by
    simp only [w32, BitVec.toNat_ofNat, beNat, List.foldl_cons, List.foldl_nil]
    omega
  simp only [wordBytes, beBytes, hn, Nat.shiftRight_eq_div_pow, List.cons.injEq, and_true]
  refine ⟨?_, ?_, ?_, ?_⟩ <;> (apply BitVec.eq_of_toNat_eq; rw [BitVec.toNat_ofNat]; omega)

theorem slab_of_le {bs : Bytes} {o n : Nat} (h : o + n ≤ bs.length) : slab bs o n = (bs.drop o).take n := by
  have hl : ((bs.drop o).take n).length = n := by rw [List.length_take, List.length_drop]; omega
  simp only [slab, hl, Nat.sub_self, List.replicate_zero, List.append_nil]

/-- A byte string in pieces of four. -/
theorem flatMap_fours {bs : Bytes} {k : Nat} (h : bs.length = 4 * k) :
    (List.range k).flatMap (fun i => (bs.drop (4 * i)).take 4) = bs := by
  induction k generalizing bs with
  | zero => simpa using h
  | succ k ih =>
    rw [List.range_succ_eq_map, List.flatMap_cons, List.flatMap_map, Nat.mul_zero, List.drop_zero]
    have hd := ih (bs := bs.drop 4) (by rw [List.length_drop]; omega)
    simp only [List.drop_drop] at hd
    calc _ = bs.take 4 ++ (List.range k).flatMap (fun i => (bs.drop (4 + 4 * i)).take 4) := by
          simp only [Nat.mul_add, Nat.mul_one, Nat.succ_eq_add_one, Nat.add_comm 4]
      _ = bs := by rw [hd, List.take_append_drop]

theorem length_bytesWords {bs : Bytes} {k : Nat} (h : bs.length = 4 * k) : (bytesWords bs).length = k := by
  rw [bytesWords, List.length_map, List.length_range, cdiv, h]; omega

/-- Bytes taken as words are the bytes of the words. -/
theorem wordsBytes_bytesWords {bs : Bytes} {k : Nat} (h : bs.length = 4 * k) : wordsBytes (bytesWords bs) = bs := by
  have hk : cdiv bs.length 4 = k := by rw [cdiv, h]; omega
  rw [wordsBytes, bytesWords, hk, List.flatMap_map]
  calc _ = (List.range k).flatMap (fun i => (bs.drop (4 * i)).take 4) := by
        refine List.flatMap_congr fun i hi => ?_
        have hi : i < k := List.mem_range.1 hi
        rw [beAt, slab_of_le (by omega), wordBytes_beNat (by rw [List.length_take, List.length_drop]; omega)]
    _ = bs := flatMap_fours h

/-! ### Staging sets (R491) -/

theorem userNum_lt (u : HubUser) : userNum u < 9 := by
  cases u with
  | slice sl => exact Nat.lt_succ_of_lt sl.isLt
  | hub => decide

theorem getElem?_modNth_ne {α : Type} (l : List α) {i j : Nat} (f : α → α) (h : j ≠ i) : (modNth l i f)[j]? = l[j]? := by
  induction l generalizing i j with
  | nil => rfl
  | cons b l ih =>
    cases i with
    | zero => cases j with
      | zero => exact absurd rfl h
      | succ j => rfl
    | succ i => cases j with
      | zero => rfl
      | succ j => simpa [modNth] using ih (i := i) (j := j) (by omega)

theorem nvmSet_modNvm_self {h : Hub} (h9 : h.nvmSets.length = 9) {n : Nat} (hn : n < 9) (f : NvmSet → NvmSet) :
    (h.modNvm n f).nvmSet n = f (h.nvmSet n) := by
  have hget : h.nvmSets[n]? = some (h.nvmSets[n]) := List.getElem?_eq_getElem _
  rw [Hub.nvmSet, Hub.modNvm, getElem?_modNth_self f hget, Hub.nvmSet, hget]
  rfl

theorem nvmSet_modNvm_ne (h : Hub) {n m : Nat} (f : NvmSet → NvmSet) (hm : m ≠ n) : (h.modNvm n f).nvmSet m = h.nvmSet m := by
  rw [Hub.nvmSet, Hub.modNvm, getElem?_modNth_ne _ _ hm, Hub.nvmSet]

theorem modNth_congr {α : Type} {l : List α} {i : Nat} {f g : α → α} (h : ∀ a, l[i]? = some a → f a = g a) :
    modNth l i f = modNth l i g := by
  induction l generalizing i with
  | nil => rfl
  | cons b l ih =>
    cases i with
    | zero => rw [modNth, modNth, h b rfl]
    | succ i => rw [modNth, modNth, ih h]

/-- A change of a set is what it does to the set as it stands. -/
theorem modNvm_congr {h : Hub} {n : Nat} {f g : NvmSet → NvmSet} (e : f (h.nvmSet n) = g (h.nvmSet n)) : h.modNvm n f = h.modNvm n g := by
  rw [Hub.modNvm, Hub.modNvm, modNth_congr fun a ha => ?_]
  rwa [Hub.nvmSet, ha] at e

@[simp] theorem modNvm_nvm (h : Hub) (n : Nat) (f : NvmSet → NvmSet) : (h.modNvm n f).nvm = h.nvm := rfl

theorem stage_of_room {v : NvmSet} (hop : v.op = none) (hw : v.words.length < 1024) (w : Word) :
    v.stage w = { v with words := v.words ++ [w] } := by
  rw [NvmSet.stage, if_neg]
  simp only [hop, Option.isSome_none, Bool.false_eq_true, false_or, pageWords]
  omega

section
variable {h : Hub} {n : Nat}

theorem nvmProgram_busy (hb : (h.nvmSet n).op.isSome = true) : h.nvmProgram n = h.modNvm n fun v => { v with ign := true } := by
  simp only [Hub.nvmProgram, hb, if_true]

theorem nvmProgram_outOfRange (hop : (h.nvmSet n).op = none) (hr : h.inRange n (h.nvmSet n).addr.toNat = false) :
    h.nvmProgram n = h.modNvm n fun v => { v with status := nvRange, words := [] } := by
  simp only [Hub.nvmProgram, hop, hr, Option.isSome_none, Bool.not_false, Bool.false_eq_true, if_false, if_true]

theorem nvmProgram_denied (hop : (h.nvmSet n).op = none) (hr : h.inRange n (h.nvmSet n).addr.toNat = true)
    (hw : h.writeRefused n (h.nvmSet n).addr.toNat = true) :
    h.nvmProgram n = h.modNvm n fun v => { v with status := nvDenied, words := [] } := by
  simp only [Hub.nvmProgram, hop, hr, hw, Option.isSome_none, Bool.not_true, Bool.false_eq_true, if_false, if_true]

theorem nvmProgram_begins (hop : (h.nvmSet n).op = none) (hr : h.inRange n (h.nvmSet n).addr.toNat = true)
    (hw : h.writeRefused n (h.nvmSet n).addr.toNat = false) :
    h.nvmProgram n = h.modNvm n fun v => { v with status := nvOk, op := some (true, (h.nvmSet n).addr.toNat) } := by
  simp only [Hub.nvmProgram, hop, hr, hw, Option.isSome_none, Bool.not_true, Bool.false_eq_true, if_false]

theorem nvmRead_busy (hb : (h.nvmSet n).op.isSome = true) : h.nvmRead n = h.modNvm n fun v => { v with ign := true } := by
  simp only [Hub.nvmRead, hb, if_true]

theorem nvmRead_begins (hop : (h.nvmSet n).op = none) :
    h.nvmRead n = h.modNvm n fun v => { v with status := nvOk, words := [], op := some (false, (h.nvmSet n).addr.toNat) } := by
  simp only [Hub.nvmRead, hop, Option.isSome_none, Bool.false_eq_true, if_false]
  exact modNvm_congr rfl

end

/-! ### Accesses of the NVM page (R83) -/

/-- An access of a hub window user has ended with a reply: the queue and every slice but the user's are as they were. -/
def AccessEnds (s : State) (u : HubUser) (b : BusReply) (t : State) : Prop :=
  t.pending = s.pending ∧ ∀ n, t.slice n = if u = .slice n then { s.slice n with bus := b } else s.slice n

theorem accessEnds_userBus {s t : State} (hp : t.pending = s.pending) (hs : ∀ n, t.slice n = s.slice n) (u : HubUser) (b : BusReply) :
    AccessEnds s u b (t.userBus u b) := by
  cases u with
  | hub => exact ⟨hp, fun n => by rw [if_neg (by simp)]; exact hs n⟩
  | slice sl =>
    refine ⟨hp, fun n => ?_⟩
    by_cases e : n = sl
    · rw [e, if_pos rfl, State.userBus, slice_setSlice_self, hs]
    · rw [if_neg (by simpa using Ne.symm e), State.userBus, slice_setSlice_ne _ _ _ _ e, hs]

section
variable {c : Instr} {s : State} {u : HubUser} {f : Hub → Hub} (hc : exec c s = nvmAccess u f s) (ha : s.hub.answers = true)
include hc ha

theorem runs_nvmAccess (hp : pagePermitted s.hub u 2 = true) {P : State → Prop}
    (h : ∀ t, AccessEnds s u .done t → t.hub = f s.hub → P t) : Runs c s P := by
  refine Runs.intro (t := (s.modHub f).userBus u .done) ?_
    (h _ (accessEnds_userBus rfl (fun _ => rfl) u .done) (userBus_hub _ u .done))
  simp only [hc, nvmAccess, ha, hp, Bool.not_true, Bool.false_eq_true, if_false, if_true]

theorem runs_nvmAccess_refused {sl : SliceId} (hu : u = .slice sl) (hp : pagePermitted s.hub u 2 = false) {P : State → Prop}
    (h : ∀ t, AccessEnds s u .accessFault t → t.hub = (s.pageRefused sl).hub → P t) : Runs c s P := by
  subst hu
  refine Runs.intro (t := (s.pageRefused sl).userBus (.slice sl) .accessFault) ?_
    (h _ (accessEnds_userBus rfl (fun _ => rfl) _ _) (userBus_hub _ _ _))
  simp only [hc, nvmAccess, ha, hp, Bool.not_true, Bool.false_eq_true, if_false]

end

theorem exec_nvmDataWrite (u : HubUser) (w : Word) (s : State) :
    exec (.nvmDataWrite u w) s = nvmAccess u (·.modNvm (userNum u) (·.stage w)) s := rfl
theorem exec_nvmProgram (u : HubUser) (s : State) : exec (.nvmProgram u) s = nvmAccess u (·.nvmProgram (userNum u)) s := rfl
theorem exec_nvmRead (u : HubUser) (s : State) : exec (.nvmRead u) s = nvmAccess u (·.nvmRead (userNum u)) s := rfl

/-- A write to the NVM page is one access of it, whichever of the three rows makes it. -/
theorem exec_nvmWrite {u : HubUser} {w : Word} {i : Instr} (hi : i ∈ [Instr.nvmDataWrite u w, .nvmProgram u, .nvmRead u]) (s : State) :
    ∃ f, exec i s = nvmAccess u f s := by
  simp only [List.mem_cons, List.not_mem_nil, or_false] at hi
  obtain rfl | rfl | rfl := hi
  · exact ⟨_, exec_nvmDataWrite u w s⟩
  · exact ⟨_, exec_nvmProgram u s⟩
  · exact ⟨_, exec_nvmRead u s⟩

/-- A command that finds its set BUSY sets IGN and nothing else (R491). -/
theorem runs_nvmCommand_busy {s : State} {u : HubUser} (ha : s.hub.answers = true) (h9 : s.hub.nvmSets.length = 9)
    (hp : pagePermitted s.hub u 2 = true) (hb : (s.hub.nvmSet (userNum u)).op.isSome = true) {i : Instr}
    (hi : i ∈ [Instr.nvmProgram u, .nvmRead u]) :
    Runs i s fun t => AccessEnds s u .done t ∧ (t.hub.nvmSet (userNum u)).ign = true
      ∧ (t.hub.nvmSet (userNum u)).op = (s.hub.nvmSet (userNum u)).op ∧ t.hub.nvm = s.hub.nvm := by
  have hset := nvmSet_modNvm_self h9 (userNum_lt u) fun v => { v with ign := true }
  simp only [List.mem_cons, List.not_mem_nil, or_false] at hi
  obtain rfl | rfl := hi
  · refine runs_nvmAccess (exec_nvmProgram u s) ha hp fun t he hh => ⟨he, ?_⟩
    rw [hh, nvmProgram_busy hb, hset]
    exact ⟨rfl, rfl, rfl⟩
  · refine runs_nvmAccess (exec_nvmRead u s) ha hp fun t he hh => ⟨he, ?_⟩
    rw [hh, nvmRead_busy hb, hset]
    exact ⟨rfl, rfl, rfl⟩

/-! ### The end of a command (R67, R491) -/

/-- A programmed page holds the words staged, and then words that no rule states. -/
theorem pageDone_shows (h : Hub) (n a : Nat) : ∃ ws, ws.length = pageWords - (h.nvmSet n).words.length
    ∧ (h.pageDone n a).nvm = sPutBytes h.nvm a (wordsBytes ((h.nvmSet n).words ++ ws))
    ∧ (h.pageDone n a).anchors = h.anchors ∧ (h.pageDone n a).nvmSets = h.nvmSets := by
  have hlen : ∀ (k : Nat) (g : Hub), (Hub.freeWords k g).1.length = k := fun k => by
    induction k with
    | zero => exact fun _ => rfl
    | succ k ih => exact fun g => congrArg (· + 1) (ih g.freeD.2)
  obtain ⟨f, hf⟩ := freeWords_frame (pageWords - (h.nvmSet n).words.length) h
  refine ⟨_, hlen (pageWords - (h.nvmSet n).words.length) h, ?_⟩
  unfold Hub.pageDone
  extract_lets v r g
  have hg : g = { h with free := f, nvm := sPutBytes h.nvm a (wordsBytes ((h.nvmSet n).words ++ r.1)) } := by
    show r.2.nvmPut a _ = _
    rw [show r.2 = { h with free := f } from hf]
    rfl
  split
  · obtain ⟨l, u, he, -⟩ := setTgt_frame g n { g.tgt n with failed := setMark (g.tgt n).failed (pageIn a (slicePart true n) slicePartSize) false }
    rw [Hub.modTgt, he, hg]
    exact ⟨rfl, rfl, rfl⟩
  · split <;> rw [hg] <;> exact ⟨rfl, rfl, rfl⟩

theorem exec_nvmCommandDone {s : State} (ha : s.hub.answers = true) (u : HubUser) :
    exec (.nvmCommandDone u) s = .next { s with hub := s.hub.nvmDone (userNum u) } := by
  show onHub _ s = _
  rw [onHub, ha, if_pos rfl]

theorem runsHub_programDone {s : State} {u : HubUser} {a : Nat} (ha : s.hub.answers = true) (h9 : s.hub.nvmSets.length = 9)
    (hop : (s.hub.nvmSet (userNum u)).op = some (true, a)) (hw : (s.hub.nvmSet (userNum u)).words.length = 1024) :
    RunsHub (.nvmCommandDone u) s fun h => h.nvmGet a 4096 = wordsBytes (s.hub.nvmSet (userNum u)).words
      ∧ (h.nvmSet (userNum u)).op = none ∧ (∀ b n, b + n ≤ a ∨ a + 4096 ≤ b → h.nvmGet b n = s.hub.nvmGet b n)
      ∧ h.anchors = s.hub.anchors := by
  obtain ⟨ws, hl, hnvm, hanch, hsets⟩ := pageDone_shows s.hub (userNum u) a
  obtain rfl : ws = [] := List.eq_nil_of_length_eq_zero (by rw [hl, hw]; rfl)
  rw [List.append_nil] at hnvm
  have hlen : (wordsBytes (s.hub.nvmSet (userNum u)).words).length = 4096 := by rw [length_wordsBytes, hw]
  refine RunsHub.intro (exec_nvmCommandDone ha u) ?_
  simp only [Hub.nvmDone, hop]
  refine ⟨?_, ?_, fun b n hb => ?_, hanch⟩
  · rw [Hub.nvmGet, modNvm_nvm, hnvm, sGetBytes_sPutBytes_whole _ _ _ hlen]
  · rw [nvmSet_modNvm_self (by rw [hsets, h9]) (userNum_lt u)]
  · rw [Hub.nvmGet, modNvm_nvm, hnvm, sGetBytes_sPutBytes_out _ (by rwa [hlen]), Hub.nvmGet]

theorem runsHub_readDone {s : State} {u : HubUser} {a : Nat} (ha : s.hub.answers = true) (h9 : s.hub.nvmSets.length = 9)
    (hop : (s.hub.nvmSet (userNum u)).op = some (false, a)) :
    RunsHub (.nvmCommandDone u) s fun h => wordsBytes (h.nvmSet (userNum u)).page = s.hub.nvmGet a 4096
      ∧ (h.nvmSet (userNum u)).op = none ∧ h.nvm = s.hub.nvm := by
  have hl : (s.hub.nvmGet a 4096).length = 4 * 1024 := length_sGetBytes ..
  refine RunsHub.intro (exec_nvmCommandDone ha u) ?_
  simp only [Hub.nvmDone, hop]
  rw [nvmSet_modNvm_self h9 (userNum_lt u)]
  refine ⟨?_, rfl, rfl⟩
  show wordsBytes ((bytesWords (s.hub.nvmGet a 4096)).take 1024) = _
  rw [List.take_of_length_le (length_bytesWords hl).le, wordsBytes_bytesWords hl]

/-! ### The time output (R376) -/

theorem fld_and_mask (w m : Word) {hi lo : Nat} (h : ∀ i, lo ≤ i → i ≤ hi → wbit m i = true) : fld (w &&& m) hi lo = fld w hi lo := by
  rw [fld, BitVec.toNat_and, fld]
  refine Nat.eq_of_testBit_eq fun i => ?_
  rw [testBit_bits, testBit_bits, Nat.testBit_and]
  by_cases hi' : i < hi + 1 - lo
  · rw [show m.toNat.testBit (lo + i) = true from h (lo + i) (by omega) (by omega), Bool.and_true]
  · rw [decide_eq_false hi', Bool.false_and, Bool.false_and]

theorem wbit_and (w m : Word) (i : Nat) : wbit (w &&& m) i = (wbit w i && wbit m i) := by
  rw [wbit, BitVec.toNat_and, Nat.testBit_and, wbit, wbit]

theorem runsHub_timeOutputSelect {s : State} (ha : s.hub.answers = true) (w : Word) :
    RunsHub (.timeOutputSelect .hub w) s fun h =>
      h = { s.hub with tout := w &&& 0x80000073#32,
                       timeFlag := wbit w 31 && !(s.slice ⟨fld w 6 4 % 8, Nat.mod_lt _ (by decide)⟩).on } := by
  have ht : w32 (w.toNat &&& 0x80000073) = w &&& 0x80000073#32 := by
    apply BitVec.eq_of_toNat_eq
    rw [w32, BitVec.toNat_ofNat, BitVec.toNat_and]
    exact Nat.mod_eq_of_lt (Nat.and_le_left.trans_lt w.isLt)
  have hb : wbit (w &&& 0x80000073#32) 31 = wbit w 31 := by
    rw [wbit_and, show wbit 0x80000073#32 31 = true by decide, Bool.and_true]
  have hf : fld (w &&& 0x80000073#32) 6 4 = fld w 6 4 :=
    fld_and_mask w _ fun i h4 h6 => by interval_cases i <;> decide
  refine RunsHub.intro (h := (s.selectOutput w).hub) ?_ ?_
  · show Host.Outcome.next (if s.hub.answers && decide (HubUser.hub = .hub) then s.selectOutput w else s) = _
    rw [ha, if_pos (by decide)]
    rfl
  · simp only [State.selectOutput, State.timeFlags, ht, hb, hf]
    rfl

/-- Settles O20, access by access. -/
theorem nvmAndTimeOutput : Obligations.NvmAndTimeOutput := by
  intro s u w a sl ha h9 v ends
  have hmod := fun f => nvmSet_modNvm_self h9 (userNum_lt u) f
  refine ⟨fun hp hop => ⟨fun hw => ?_, fun hr => ?_, fun hr hd => ?_, fun hr hd => ?_, ?_⟩,
    fun hp hb i hi => runs_nvmCommand_busy ha h9 hp hb hi, fun hu h8 hp i hi => ?_, runsHub_programDone ha h9, runsHub_readDone ha h9,
    runsHub_timeOutputSelect ha w, ?_⟩
  · refine runs_nvmAccess (exec_nvmDataWrite u w s) ha hp fun t he hh => ⟨he, ?_⟩
    rw [hh, hmod, stage_of_room hop hw]
    exact ⟨rfl, rfl, fun n hn => nvmSet_modNvm_ne _ _ hn⟩
  · refine runs_nvmAccess (exec_nvmProgram u s) ha hp fun t he hh => ⟨he, ?_⟩
    rw [hh, nvmProgram_outOfRange hop hr, hmod]
    exact ⟨rfl, hop, rfl⟩
  · refine runs_nvmAccess (exec_nvmProgram u s) ha hp fun t he hh => ⟨he, ?_⟩
    rw [hh, nvmProgram_denied hop hr hd, hmod]
    exact ⟨rfl, hop, rfl⟩
  · refine runs_nvmAccess (exec_nvmProgram u s) ha hp fun t he hh => ⟨he, ?_⟩
    rw [hh, nvmProgram_begins hop hr hd, hmod]
    exact ⟨rfl, rfl, rfl, rfl⟩
  · refine runs_nvmAccess (exec_nvmRead u s) ha hp fun t he hh => ⟨he, ?_⟩
    rw [hh, nvmRead_begins hop, hmod]
    exact ⟨rfl, rfl, rfl⟩
  · obtain ⟨f, hf⟩ := exec_nvmWrite hi s
    refine runs_nvmAccess_refused hf ha hu hp fun t he hh => ⟨he, ?_, ?_⟩ <;> rw [hh]
    · rw [State.pageRefused, State.modHubSlice, State.modHub, tgt_modTgt_slice _ _ h8 sl.isLt, if_pos rfl]
    · obtain ⟨l, t, he, -⟩ := setTgt_frame s.hub sl.val { s.hub.tgt sl.val with denied := (s.hub.tgt sl.val).denied + 1 }
      show (s.hub.setTgt sl.val _).nvmSets = _ ∧ (s.hub.setTgt sl.val _).nvm = _
      rw [he]
      exact ⟨rfl, rfl⟩
  · refine RunsHub.intro ?_ rfl
    show Host.Outcome.next (if s.hub.answers && decide (HubUser.slice sl = .hub) then s.selectOutput w else s) = _
    rw [decide_eq_false (by simp), Bool.and_false, if_neg Bool.false_ne_true]

end Sys2Proof.Machine
end

section
/-! Proofs. The management medium, the time lands and the test port (R36, R50 to R54, R61, R375). -/

namespace Sys2Proof.Machine

set_option Elab.async false

/-! ### Folds that reach a goal for each entry of a list -/

/-- A fold keeps an invariant, and reaches for each entry a goal that its step sets and every later step keeps. -/
theorem foldl_reaches {α β : Type} {f : β → α → β} {I : β → Prop} {G : α → β → Prop} (hI : ∀ y a, I y → I (f y a))
    (hset : ∀ y a, I y → G a (f y a)) (hkeep : ∀ y a b, I y → G a y → G a (f y b)) (l : List α) {x : β} (hx : I x) :
    I (l.foldl f x) ∧ ∀ a ∈ l, G a (l.foldl f x) := by
  have hstay : ∀ (l : List α) (y : β) (a : α), I y → G a y → G a (l.foldl f y) := fun l => by
    induction l with
    | nil => exact fun _ _ _ h => h
    | cons b l ih => exact fun y a hy h => ih _ _ (hI y b hy) (hkeep y a b hy h)
  induction l generalizing x with
  | nil => exact ⟨hx, fun a ha => absurd ha List.not_mem_nil⟩
  | cons b l ih =>
    obtain ⟨hIl, hG⟩ := ih (hI x b hx)
    refine ⟨hIl, fun a ha => ?_⟩
    rcases List.mem_cons.mp ha with rfl | ha
    · exact hstay l _ _ (hI x a hx) (hset x a hx)
    · exact hG a ha

/-! ### F10M at the trackers (R50, R375) -/

/-- F10M as one tracker, of the eight of a slice, shows it. -/
def f10mTracker (v : Bool) (x : Slice) (i : Nat) : Slice :=
  if srcOf x (i / 2) (i % 2) = 1 then regPut x kTIM (trkOff (i / 2) (i % 2) + 4) 28 28 v.toNat else x

theorem f10mShow_of_on {x : Slice} (h : x.on = true) (v : Bool) : f10mShow v x = (List.range 8).foldl (f10mTracker v) x := by
  rw [f10mShow, h, Bool.not_true, if_neg Bool.false_ne_true]
  rfl

theorem f10mShow_of_off {x : Slice} (h : x.on = false) (v : Bool) : f10mShow v x = x := by
  rw [f10mShow, h, Bool.not_false, if_pos rfl]

theorem srcOf_congr {x y : Slice} {b k : Nat} (h : regGet y kTIM (trkOff b k) = regGet x kTIM (trkOff b k)) :
    srcOf y b k = srcOf x b k := by
  rw [srcOf, tctl, h, srcOf, tctl]

/-- A slice that differs in registers only, and not in the sources of its trackers. -/
def KeepsSources (x y : Slice) : Prop := RegsOnly x y ∧ ∀ b k, srcOf y b k = srcOf x b k

theorem KeepsSources.refl (x : Slice) : KeepsSources x x := ⟨RegsOnly.refl x, fun _ _ => rfl⟩

theorem KeepsSources.regPut {x y : Slice} (h : KeepsSources x y) {o : Nat} (hi lo v : Nat) (ho : ∀ b k, o ≠ trkOff b k) :
    KeepsSources x (regPut y kTIM o hi lo v) :=
  ⟨h.1.trans (regsOnly_regPut ..), fun b k => (srcOf_congr (regGet_regPut_ne _ _ _ _ _ _ _ _
    (by have := ho b k; unfold regKey; omega))).trans (h.2 b k)⟩

theorem keepsSources_f10mTracker {x y : Slice} (h : KeepsSources x y) (v : Bool) (i : Nat) : KeepsSources x (f10mTracker v y i) := by
  unfold f10mTracker
  split
  · exact h.regPut _ _ _ fun b k => by unfold trkOff; omega
  · exact h

/-- Every PPS tracker of a started slice shows F10M (R375). -/
theorem f10mShow_shows {x : Slice} (hon : x.on = true) (v : Bool) : RegsOnly x (f10mShow v x)
    ∧ ∀ i < 8, srcOf x (i / 2) (i % 2) = 1 → regBit (f10mShow v x) kTIM (trkOff (i / 2) (i % 2) + 4) 28 = v := by
  have hself : ∀ (y : Slice) (i : Nat), srcOf y (i / 2) (i % 2) = 1 →
      regBit (f10mTracker v y i) kTIM (trkOff (i / 2) (i % 2) + 4) 28 = v := fun y i hs => by
    rw [f10mTracker, if_pos hs, regBit_regPut_self _ _ _ _ _ (by norm_num)]
    cases v <;> rfl
  have hkeep : ∀ (y : Slice) (i j : Nat), KeepsSources x y →
      (srcOf x (i / 2) (i % 2) = 1 → regBit y kTIM (trkOff (i / 2) (i % 2) + 4) 28 = v) →
      srcOf x (i / 2) (i % 2) = 1 → regBit (f10mTracker v y j) kTIM (trkOff (i / 2) (i % 2) + 4) 28 = v := fun y i j hy hg hs => by
    by_cases hij : i / 2 = j / 2 ∧ i % 2 = j % 2
    · rw [hij.1, hij.2]
      exact hself y j ((hy.2 _ _).trans (by rw [← hij.1, ← hij.2]; exact hs))
    · unfold f10mTracker
      split
      · rw [regBit_regPut_ne _ _ _ _ _ _ _ _ _ (by unfold regKey trkOff; omega)]
        exact hg hs
      · exact hg hs
  obtain ⟨hk, hb⟩ := foldl_reaches (f := f10mTracker v) (I := KeepsSources x)
    (G := fun i y => srcOf x (i / 2) (i % 2) = 1 → regBit y kTIM (trkOff (i / 2) (i % 2) + 4) 28 = v)
    (fun y i hy => keepsSources_f10mTracker hy v i) (fun y i hy hs => hself y i ((hy.2 _ _).trans hs))
    hkeep (List.range 8) (KeepsSources.refl x)
  rw [f10mShow_of_on hon]
  exact ⟨hk.1, fun i hi => hb i (List.mem_range.2 hi)⟩

theorem f10mShow_regsOnly (v : Bool) (x : Slice) : RegsOnly x (f10mShow v x) := by
  cases hon : x.on with
  | true => exact (f10mShow_shows hon v).1
  | false => rw [f10mShow_of_off hon]; exact RegsOnly.refl x

/-- What a change of F10M at every slice leaves and shows. -/
theorem slice_f10mShow (s : State) (v : Bool) (n : SliceId) :
    ((s.slice n).on = false → (s.eachSlice (f10mShow v)).slice n = s.slice n)
    ∧ (s.slice n).dram = ((s.eachSlice (f10mShow v)).slice n).dram ∧ ∀ b < 4, ∀ k < 2, (s.slice n).on = true →
      srcOf (s.slice n) b k = 1 → regBit ((s.eachSlice (f10mShow v)).slice n) kTIM (0x1044 + 0x100 * b + 0x40 * k) 28 = v := by
  rw [slice_eachSlice]
  refine ⟨fun h => f10mShow_of_off h v, ?_, fun b hb k hk hon hs => ?_⟩
  · obtain ⟨r, hr⟩ := f10mShow_regsOnly v (s.slice n)
    rw [hr, setRegs_dram]
  · have hi := (f10mShow_shows hon v).2 (2 * b + k) (by omega)
    rw [show (2 * b + k) / 2 = b by omega, show (2 * b + k) % 2 = k by omega] at hi
    rw [show 0x1044 + 0x100 * b + 0x40 * k = trkOff b k + 4 by unfold trkOff; omega]
    exact hi hs

/-! ### PPS edges (R375) -/

/-- A base's nanoseconds latched at an edge. -/
def ppsLatch (x : Slice) (b : Nat) : Slice := regSet x kTIM (timOff b + 0x1C) (w32 (nsOf (baseNow x b)))

/-- A slice in which edges have latched bases: neither the bases nor the sources of the trackers change. -/
structure EdgeLatched (x y : Slice) : Prop where
  regs : RegsOnly x y
  sources : ∀ b k, srcOf y b k = srcOf x b k
  times : ∀ b, baseNow y b = baseNow x b

theorem baseNow_congr {x y : Slice} {b : Nat} (hb : y.bases = x.bases) (hr : regGet y kTIM (timOff b) = regGet x kTIM (timOff b)) :
    baseNow y b = baseNow x b := by
  have ha : aselOf y b = aselOf x b := by rw [aselOf, regFld, hr, aselOf, regFld]
  rw [baseNow, baseOf, hb, ha, baseNow, baseOf]

theorem edgeLatched_ppsLatch {x y : Slice} (h : EdgeLatched x y) (b : Nat) : EdgeLatched x (ppsLatch y b) where
  regs := h.regs.trans (regsOnly_regSet ..)
  sources c k := (srcOf_congr (y := ppsLatch y b) (regGet_regSet_ne _ _ _ _ _ _ (by unfold regKey timOff trkOff; omega))).trans (h.sources c k)
  times c := (baseNow_congr (x := y) (y := ppsLatch y b) (b := c) rfl
    (by rw [ppsLatch, regGet_regSet_ne _ _ _ _ _ _ (by unfold regKey timOff; omega)])).trans (h.times c)

/-- A slice without PPS trackers takes of an edge the latched nanoseconds of its bases and cause 8. -/
theorem ppsSlice_of_no_tracker {x : Slice} (hon : x.on = true) (hs : ∀ b < 4, ∀ k < 2, srcOf x b k ≠ 1) :
    ppsSlice x = raise ((List.range 4).foldl ppsLatch x) kTIM 8 := by
  have hl := (foldl_reaches (f := ppsLatch) (I := EdgeLatched x) (G := fun _ _ => True) (fun _ b h => edgeLatched_ppsLatch h b)
    (fun _ _ _ => trivial) (fun _ _ _ _ _ => trivial) (List.range 4) ⟨RegsOnly.refl x, fun _ _ => rfl, fun _ => rfl⟩).1
  have hraise : ∀ b k, b < 4 → k < 2 → srcOf (raise ((List.range 4).foldl ppsLatch x) kTIM 8) b k = srcOf x b k := fun b k hb hk =>
    (srcOf_congr (regGet_raise _ _ _ _ _ (by decide) (by unfold trkOff; omega) (by decide))).trans (hl.sources b k)
  rw [ppsSlice, hon, Bool.not_true, if_neg Bool.false_ne_true]
  generalize hy : raise ((List.range 4).foldl ppsLatch x) kTIM 8 = y at hraise
  show (List.range 8).foldl (fun x i => ppsTracker x (i / 2) (i % 2)) (raise ((List.range 4).foldl ppsLatch x) kTIM 8) = y
  rw [hy]
  refine List.foldlRecOn (motive := (· = y)) (List.range 8) _ rfl fun z hz i hi => ?_
  have h8 : i < 8 := List.mem_range.1 hi
  rw [hz, ppsTracker, if_pos (by rw [hraise _ _ (by omega) (by omega)]; exact hs _ (by omega) _ (by omega))]

theorem ppsSlice_shows {x : Slice} (hon : x.on = true) (hs : ∀ b < 4, ∀ k < 2, srcOf x b k ≠ 1) :
    RegsOnly x (ppsSlice x) ∧ (∀ b < 4, regGet (ppsSlice x) kTIM (0x101C + 0x100 * b) = w32 (nsOf (baseNow x b)))
    ∧ RegsBut x (ppsSlice x) ([(kTIM, 0x101C), (kTIM, 0x111C), (kTIM, 0x121C), (kTIM, 0x131C)] ++ raiseKeys kTIM 8) := by
  have hkeep : ∀ (y : Slice) (b c : Nat), EdgeLatched x y → regGet y kTIM (timOff b + 0x1C) = w32 (nsOf (baseNow x b)) →
      regGet (ppsLatch y c) kTIM (timOff b + 0x1C) = w32 (nsOf (baseNow x b)) := fun y b c hy hg => by
    by_cases hbc : b = c
    · rw [hbc, ppsLatch, regGet_regSet_self, hy.times]
    · rw [ppsLatch, regGet_regSet_ne _ _ _ _ _ _ (by unfold regKey timOff; omega)]
      exact hg
  obtain ⟨hl, hn⟩ := foldl_reaches (f := ppsLatch) (I := EdgeLatched x)
    (G := fun b y => regGet y kTIM (timOff b + 0x1C) = w32 (nsOf (baseNow x b))) (fun _ b h => edgeLatched_ppsLatch h b)
    (fun y b hy => by rw [ppsLatch, regGet_regSet_self, hy.times]) hkeep (List.range 4)
    (x := x) ⟨RegsOnly.refl x, fun _ _ => rfl, fun _ => rfl⟩
  have hbut : RegsBut x ((List.range 4).foldl ppsLatch x)
      ([(kTIM, 0x101C), (kTIM, 0x111C), (kTIM, 0x121C), (kTIM, 0x131C)] ++ raiseKeys kTIM 8) := by
    refine List.foldlRecOn (motive := fun y => RegsBut x y _) (List.range 4) _ (RegsBut.refl x _) fun y hy b hb => ?_
    have h4 : b < 4 := List.mem_range.1 hb
    refine regsBut_regSet hy _ _ _ (by unfold timOff; omega) (List.mem_append_left _ ?_)
    interval_cases b <;> decide
  rw [ppsSlice_of_no_tracker hon hs]
  refine ⟨hl.regs.trans (regsOnly_raise ..), fun b hb => ?_, regsBut_raise hbut _ _ (by decide) (List.subset_append_right ..)⟩
  rw [regGet_raise _ _ _ _ _ (by decide) (by omega) (by decide), ← hn b (List.mem_range.2 hb)]
  rw [show 0x101C + 0x100 * b = timOff b + 0x1C by unfold timOff; omega]

/-! ### The test port (R52 to R54) -/

theorem tgt_tapClear (h : Hub) {n : Nat} (hn : n < 8) : h.tapClear.tgt n = { h.tgt n with tap := .idcode } := by
  rw [Hub.tgt, if_pos hn, Hub.tgt, if_pos hn, Hub.tapClear, List.getElem?_map]
  cases h.slices[n]? <;> rfl

/-- Instructions loaded into TAPs, each the one of its place in the chain. -/
def Hub.tapLoads (irs : List TapInstr) (h : Hub) (ps : List (Nat × Nat)) : Hub :=
  ps.foldl (fun h p => h.tapLoad p.1 ((irs[p.2]?).getD .bypass)) h

theorem tapLoads_state (irs : List TapInstr) (s : State) (ps : List (Nat × Nat)) :
    ps.foldl (fun s p => s.modHub (·.tapLoad p.1 ((irs[p.2]?).getD .bypass))) s = { s with hub := s.hub.tapLoads irs ps } := by
  induction ps generalizing s with
  | nil => rfl
  | cons p ps ih => rw [List.foldl_cons, ih]; rfl

/-- The TAPs of slices are loaded, each with the instruction of its place, and nothing else of the hub changes. -/
theorem tapLoads_slices (irs : List TapInstr) {h : Hub} (h8 : h.slices.length = 8) {l : List Nat} (hl : ∀ n ∈ l, n < 8) (hd : l.Nodup)
    (k : Nat) : (∃ ts, h.tapLoads irs (l.zipIdx k) = { h with slices := ts })
      ∧ ∀ m, (h.tapLoads irs (l.zipIdx k)).tgt m =
        if m ∈ l then { h.tgt m with tap := (irs[k + l.idxOf m]?).getD .bypass } else h.tgt m := by
  induction l generalizing h k with
  | nil => exact ⟨⟨h.slices, rfl⟩, fun m => by rw [if_neg List.not_mem_nil]; rfl⟩
  | cons a l ih =>
    obtain ⟨ha, hd⟩ := List.nodup_cons.mp hd
    have ha8 : a < 8 := hl a (List.mem_cons_self ..)
    have hload : h.tapLoad a ((irs[k]?).getD .bypass) = h.modTgt a fun t => { t with tap := (irs[k]?).getD .bypass } := if_pos ha8
    obtain ⟨⟨ts, hts⟩, htgt⟩ := ih (h := h.tapLoad a ((irs[k]?).getD .bypass))
      (by rw [hload]; exact (length_slices_setTgt _ _ _).trans h8) (fun n hn => hl n (List.mem_cons_of_mem a hn)) hd (k + 1)
    have e : h.tapLoads irs ((a :: l).zipIdx k) = (h.tapLoad a ((irs[k]?).getD .bypass)).tapLoads irs (l.zipIdx (k + 1)) := by
      rw [List.zipIdx_cons]; rfl
    have hm := tgt_modTgt_slice h (fun t => { t with tap := (irs[k]?).getD .bypass }) h8 ha8
    rw [e]
    refine ⟨⟨ts, by rw [hts, hload, Hub.modTgt, Hub.setTgt, if_pos ha8]⟩, fun m => ?_⟩
    rw [htgt, hload, hm]
    by_cases hma : m = a
    · subst hma
      rw [if_neg ha, if_pos rfl, if_pos (List.mem_cons_self ..), List.idxOf_cons_self, Nat.add_zero]
    · rw [if_neg hma, List.idxOf_cons_ne l (Ne.symm hma)]
      simp only [List.mem_cons, hma, false_or, Nat.add_assoc, Nat.add_comm 1]

/-- In a rising list an entry stands behind as many as are less. -/
theorem idxOf_of_rising {l : List Nat} (h : l.Pairwise (· < ·)) {m : Nat} (hm : m ∈ l) :
    l.idxOf m = (l.filter fun i => decide (i < m)).length := by
  induction l with
  | nil => exact absurd hm List.not_mem_nil
  | cons a l ih =>
    obtain ⟨ha, hl⟩ := List.pairwise_cons.mp h
    rcases List.mem_cons.mp hm with rfl | hm
    · have hnone : (l.filter fun i => decide (i < m)) = [] :=
        List.filter_eq_nil_iff.2 fun i hi => by have := ha i hi; simp only [decide_eq_true_eq]; omega
      rw [List.idxOf_cons_self, List.filter_cons_of_neg (by simp), hnone, List.length_nil]
    · have hlt := ha m hm
      rw [List.idxOf_cons_ne l (by omega), ih hl hm, List.filter_cons_of_pos (by simpa using hlt), List.length_cons]

/-- The slices' part of the scan chain (R53). -/
def sliceChain (s : State) : List Nat := ((List.finRange 8).filter fun sl => (s.slice sl).on).map (·.val)

theorem mem_sliceChain (s : State) (n : SliceId) : n.val ∈ sliceChain s ↔ (s.slice n).on = true := by
  simp [sliceChain, Fin.val_inj]

theorem rising_sliceChain (s : State) : (sliceChain s).Pairwise (· < ·) := by
  refine List.pairwise_map.2 (List.Pairwise.filter _ ?_)
  exact List.pairwise_lt_finRange 8

/-- A slice's place in the chain: the started slices below it come first. -/
theorem idxOf_sliceChain (s : State) {n : SliceId} (hn : (s.slice n).on = true) :
    (sliceChain s).idxOf n.val = ((List.finRange 8).filter fun m => decide (m < n) && (s.slice m).on).length := by
  rw [idxOf_of_rising (rising_sliceChain s) ((mem_sliceChain s n).2 hn), sliceChain, List.filter_map, List.length_map,
    List.filter_filter]
  rfl

theorem takesCells_iff (i : TapInstr) : takesCells i = true ↔ i = .samplePreload ∨ i = .extest := by
  cases i <;> simp [takesCells]

theorem exec_tapInstruction {s : State} (ht : s.hub.trst = false) (irs : List TapInstr) (cells : List Bool) :
    exec (.tapInstruction irs cells) s = onHub (fun h => if takesCells h.tap && decide (cells.length = h.bsr.length) then
      { h with bsr := cells } else h) { s with hub := s.hub.tapLoads irs ((tapChain s).zipIdx) } := by
  show execTapInstruction irs cells s = _
  rw [execTapInstruction, ht, if_neg Bool.false_ne_true, tapLoads_state]

theorem runsHub_tapInstruction {s : State} (ht : s.hub.trst = false) (h8 : s.hub.slices.length = 8) (irs : List TapInstr)
    (cells : List Bool) : RunsHub (.tapInstruction irs cells) s fun h =>
      h.tap = (irs[0]?).getD .bypass
      ∧ (∀ n : SliceId, h.tgt n.val = if (s.slice n).on then { s.hub.tgt n.val with
            tap := (irs[1 + ((List.finRange 8).filter fun m => decide (m < n) && (s.slice m).on).length]?).getD .bypass }
          else s.hub.tgt n.val)
      ∧ h.bsr = (if (h.tap = .samplePreload ∨ h.tap = .extest) ∧ cells.length = s.hub.bsr.length then cells else s.hub.bsr)
      ∧ h = { s.hub with tap := h.tap, slices := h.slices, bsr := h.bsr } := by
  obtain ⟨⟨ts, hts⟩, htgt⟩ := tapLoads_slices irs (h := { s.hub with tap := (irs[0]?).getD .bypass }) h8 (l := sliceChain s)
    (fun n hn => by obtain ⟨m, -, rfl⟩ := List.mem_map.1 hn; exact m.isLt) ((rising_sliceChain s).imp (fun h => Nat.ne_of_lt h)) 1
  have e : s.hub.tapLoads irs ((tapChain s).zipIdx) =
      { s.hub with tap := (irs[0]?).getD .bypass, slices := ts } := hts
  have hn : ∀ n : SliceId, (s.hub.tapLoads irs ((tapChain s).zipIdx)).tgt n.val = if (s.slice n).on then { s.hub.tgt n.val with
      tap := (irs[1 + ((List.finRange 8).filter fun m => decide (m < n) && (s.slice m).on).length]?).getD .bypass }
      else s.hub.tgt n.val := fun n => by
    refine (htgt n.val).trans ?_
    by_cases hon : (s.slice n).on = true
    · rw [if_pos ((mem_sliceChain s n).2 hon), if_pos hon, idxOf_sliceChain s hon]
      rfl
    · rw [if_neg (mt (mem_sliceChain s n).1 hon), if_neg hon]
      rfl
  rw [e] at hn
  refine RunsHub.intro ((exec_tapInstruction ht irs cells).trans (by rw [e]; rfl)) ?_
  dsimp only
  by_cases hc : ((irs[0]?).getD .bypass = TapInstr.samplePreload ∨ (irs[0]?).getD .bypass = .extest) ∧ cells.length = s.hub.bsr.length
  · have hp : (takesCells ((irs[0]?).getD .bypass) && decide (cells.length = s.hub.bsr.length)) = true := by
      rw [(takesCells_iff _).2 hc.1, decide_eq_true hc.2]; rfl
    rw [if_pos hp]
    exact ⟨rfl, hn, (if_pos hc).symm, rfl⟩
  · have hp : ¬(takesCells ((irs[0]?).getD .bypass) && decide (cells.length = s.hub.bsr.length)) = true := fun hp => by
      rw [Bool.and_eq_true, takesCells_iff, decide_eq_true_eq] at hp
      exact hc hp
    rw [if_neg hp]
    exact ⟨rfl, hn, (if_neg hc).symm, rfl⟩

/-- What a slice's TAP acts on (R54). -/
theorem tapActs_slice (s : State) (n : SliceId) : tapActs s n.val = if (s.slice n).on = false then none
    else if (s.hub.tgt n.val).tap = .debug ∧ chDebug s.hub.charter n.val = false then some .bypass
    else some (s.hub.tgt n.val).tap := by
  have hmem : n.val ∈ tapChain s ↔ (s.slice n).on = true := by
    rw [← mem_sliceChain s n]
    exact ⟨fun h => (List.mem_cons.1 h).resolve_left (Nat.ne_of_lt n.isLt), List.mem_cons_of_mem _⟩
  unfold tapActs
  dsimp only
  by_cases hon : (s.slice n).on = true
  · rw [if_neg (not_not.2 (hmem.2 hon)), if_pos n.isLt, decide_eq_true n.isLt, Bool.true_and, hon, if_neg Bool.true_eq_false.mp]
    simp only [Bool.not_eq_true']
    exact apply_ite some _ _ _
  · rw [if_pos (mt hmem.1 hon), if_pos (Bool.not_eq_true _ ▸ hon)]

/-! ### The obligation -/

theorem runs_f10mLoss {s : State} (h : s.hub.f10m = true) {P : State → Prop}
    (hp : P { s.eachSlice (f10mShow false) with hub := { s.hub with f10m := false, f10mLost := true } }) : Runs .f10mLoss s P :=
  Runs.intro (show Host.Outcome.next (if s.hub.f10m then _ else s) = _ by rw [if_pos h]) hp

theorem runs_f10mInRestored {s : State} (h : hubUp s = true) {P : State → Prop}
    (hp : P { s.eachSlice (f10mShow true) with hub := { s.hub with f10m := true } }) : Runs .f10mInRestored s P :=
  Runs.intro (show Host.Outcome.next (if hubUp s then _ else s) = _ by rw [if_pos h]) hp

theorem runs_ppsEdge {s : State} (h : hubUp s = true) {P : State → Prop} (hp : P (s.eachSlice ppsSlice)) : Runs .ppsEdge s P :=
  Runs.intro (show Host.Outcome.next (if hubUp s then _ else s) = _ by rw [if_pos h]) hp

/-- Settles O13, row by row. -/
theorem mediumClocksAndTestPort : Obligations.MediumClocksAndTestPort := by
  intro s p low sel irs cells
  refine ⟨fun ha => ?_, fun ha => ?_, fun hf => ?_, fun hu => ?_, fun hu => ?_, ?_, fun ht => ?_, fun ht h8 => ?_, tapActs_slice s⟩
  · exact runsHub_onHub (f := fun h => if h.answers then { h with module := p }.setMedium else { h with module := p }) rfl
      (if_pos ha)
  · exact runsHub_onHub (f := fun h => if h.answers then { h with module := p }.setMedium else { h with module := p }) rfl
      (if_neg (Bool.eq_false_iff.1 ha))
  · exact runs_f10mLoss hf ⟨rfl, rfl, slice_f10mShow s false⟩
  · exact runs_f10mInRestored hu ⟨rfl, rfl, slice_f10mShow s true⟩
  · refine runs_ppsEdge hu ⟨rfl, rfl, fun n => ?_⟩
    rw [slice_eachSlice]
    exact ⟨fun hon => by rw [ppsSlice, hon, Bool.not_false, if_pos rfl], fun hon hs => ppsSlice_shows hon hs⟩
  · refine runsHub_onHub (f := fun h => { (if low then h.tapClear else h) with trst := low, twoWire := sel }) rfl ?_
    refine ⟨rfl, rfl, fun hl => ?_, fun hl => ?_⟩
    · rw [hl, if_neg Bool.false_ne_true]
    · rw [hl, if_pos rfl]
      exact ⟨rfl, fun n hn => tgt_tapClear s.hub hn⟩
  · show execTapInstruction irs cells s = _
    rw [execTapInstruction, ht, if_pos rfl]
  · exact runsHub_tapInstruction ht h8 irs cells

end Sys2Proof.Machine
end

section
/-! Proofs. States that refute statements about power states, PLL unlocks and slice starts (R45, R48, R62, R68, R280, R382). -/

namespace Sys2Proof.Machine

set_option Elab.async false

/-! ### Tests of what a command answers -/

/-- Whether the next state of an answer passes a test. -/
def passes (r : Res) (q : State → Bool) : Bool :=
  match r with
  | .next t => q t
  | _ => true

/-- A test that follows from what a command is said to do passes on what it answers. -/
theorem passes_of_runs {c : Instr} {s : State} {P : State → Prop} (h : Runs c s P) {q : State → Bool} (hq : ∀ t, P t → q t = true) :
    passes (exec c s) q = true := by
  obtain ⟨t, he, hp⟩ := h
  rw [he]
  exact hq t hp

theorem passes_of_runsPair {c : Instr} {s : State} {sl : SliceId} {P : Slice → List TwinMsg → Prop} (h : RunsPair c s sl P)
    {q : State → Bool} (hq : ∀ y ms, P y ms → q ((s.setSlice sl y).deliver (twin sl) ms) = true) : passes (exec c s) q = true := by
  obtain ⟨y, ms, he, hp⟩ := h
  rw [he]
  exact hq y ms hp

/-! ### A start that reads another slice's charter entry (R68) -/

/-- The state of a slice 0 that calls itself slice 1. -/
def misnumbered : Slice := Slice.blank 1 .off

/-- A charter that gives slice 0 the strict decode and the network boot first, and slice 1 nothing. -/
def strictCharter : Bytes := List.replicate 0x162 0 ++ [0x38]

/-- A running hub that has been asked to start slice 0. -/
def startingHub : Hub :=
  { Hub.reset with felt := true, powered := true, phase := .running, charter := strictCharter,
                   slices := { HubSlice.blank with start := true } :: List.replicate 7 HubSlice.blank }

def misnumberedState : State := { State.reset.setSlice 0 misnumbered with hub := startingHub }

theorem misnumbered_starts_lax :
    passes (exec (.sliceStart 0 []) misnumberedState) (fun t => regBit (t.slice 0) kRIF 0x140 31) = false := by decide +kernel

/-- Refutes O8: nothing in the statement ties a slice's own number to its place. A start takes MAXDEEP and the strict decode of
the charter entry that the slice's number names, so that a slice 0 which calls itself slice 1 starts without the strict decode
that the entry of slice 0 asks for. -/
theorem not_sliceStart : ¬ Obligations.SliceStart := by
  unfold Obligations.SliceStart
  intro h
  obtain ⟨-, hstart⟩ := h misnumberedState 0 [] (by decide +kernel) (by decide) (by decide) (by decide)
  obtain ⟨-, -, htrains⟩ := hstart (by decide) (by decide) (by decide +kernel)
  have hruns := htrains (by decide) _ rfl (by decide +kernel)
  have hbit : passes (exec (.sliceStart 0 []) misnumberedState) (fun t => regBit (t.slice 0) kRIF 0x140 31) = true := by
    refine passes_of_runs hruns fun t ht => ?_
    obtain ⟨-, -, -, -, -, -, -, hstrict, -⟩ := ht
    exact hstrict.trans (by decide +kernel)
  exact absurd hbit (by rw [misnumbered_starts_lax]; exact Bool.false_ne_true)

/-! ### A link that goes down for NAP while a remote fetch is out (R152, R278, R280) -/

def fetchedKey : Bytes := List.replicate 48 0

/-- A packet whose flow is being fetched. -/
def fetchingPacket : Packet :=
  { id := 0, lane := 0, serge := false, pipe := 0, frame := List.replicate 64 0, fcsOk := true, epoch := 0, stamp := ⟨0, 0, 0, 0⟩,
    xbuf := [], xval := [], cls := 0, hdrs := [], dex := false, lcf := false, pass2 := false, pbase := 0, stop := 0, resume := 0,
    prof := 0, prim := none, camHit := none, mmatch := false, act := [], eng := 0, rule := 0, again := none }

/-- A slice that may go to NAP, its link up and its shadow PROMOTED; a fetch of a key from the twin is out, and the shadow holds a
record of that key whose first byte is not 0. -/
def fetchingSlice : Slice :=
  { Slice.blank 0 .running with
      regs := [(regKey kSLC 0x100, 8), (regKey kFLW 0x13C, 1), (regKey kFLW 0x160, 0xC0000000), (regKey kTWN 0x100, 0x30000000)]
      trackers := [⟨0, 0, 1, fetchedKey, .fetch, .remote none, [fetchingPacket], none⟩], nextTrk := 1
      shStash := [⟨0, 1, fetchedKey, 0⟩], dram := [(2 ^ 26, 1)] }

def fetchingState : State := State.reset.setSlice 0 fetchingSlice

theorem nap_clears_shadow_record :
    passes (exec (.reqNap 0) fetchingState) (fun t => decide ((t.slice 0).dram = [(2 ^ 26, 1)])) = false := by decide +kernel

/-- Refutes O10: the link that NAP takes down fails every remote fetch, and its key is then inserted as one the twin does not have;
where the slice migrates its shadow, the insert takes the key's shadow record and clears it in DRAM, which the statement says
stays as it was. -/
theorem not_powerRequests : ¬ Obligations.PowerRequests := by
  unfold Obligations.PowerRequests
  intro h
  obtain ⟨-, -, hup, -, -⟩ := h fetchingState 0 (by decide +kernel)
  have hruns := hup (by decide +kernel) (by decide +kernel) (by decide +kernel) (by decide +kernel) (by decide +kernel)
  have hdram : passes (exec (.reqNap 0) fetchingState) (fun t => decide ((t.slice 0).dram = [(2 ^ 26, 1)])) = true := by
    refine passes_of_runs hruns fun t ht => decide_eq_true ?_
    obtain ⟨-, -, -, -, hdram, -⟩ := ht
    exact hdram.trans (by decide +kernel)
  exact absurd hdram (by rw [nap_clears_shadow_record]; exact Bool.false_ne_true)

/-! ### An entry that delivers nothing to the twin (R45, R100) -/

/-- A fenced slice 1 whose count of the items that TWN discarded is listed although it is 0. -/
def fencedTwin : Slice := { Slice.blank 1 .running with regs := [(regKey kTWN 8, 4)], discards := [(kTWN, 0)] }

def enteringState : State := (State.reset.setSlice 0 { Slice.blank 0 .running with move := .enterNap }).setSlice 1 fencedTwin

theorem twin_keeps_discards :
    passes (exec (.napEntryDone 0) enteringState) (fun t => decide ((t.slice 1).discards = [])) = false := by decide +kernel

/-- Refutes O11: the end of NAP entry leaves the twin alone, and the statement says that it delivers no message to it. That is not
the same in every state: a fenced TWN takes a delivery of no message by writing its count of discards anew, which unlists a count
of 0, and no hypothesis says that the twin's counts list no 0. -/
theorem not_powerEntriesAndWakes : ¬ Obligations.PowerEntriesAndWakes := by
  unfold Obligations.PowerEntriesAndWakes
  intro h
  obtain ⟨-, hdone, -⟩ := h enteringState 0 .feltAlarm (by decide +kernel)
  have hruns := hdone _ (List.mem_cons_self ..) (by decide +kernel) (Or.inr (Or.inr rfl))
  have hempty : passes (exec (.napEntryDone 0) enteringState) (fun t => decide ((t.slice 1).discards = [])) = true := by
    refine passes_of_runsPair hruns fun y ms hp => decide_eq_true ?_
    obtain ⟨-, -, hms, -⟩ := hp
    rw [hms rfl, show (1 : SliceId) = twin 0 by decide, slice_deliver_self, slice_setSlice_ne _ _ _ _ (by decide)]
    decide +kernel
  exact absurd hempty (by rw [twin_keeps_discards]; exact Bool.false_ne_true)

/-! ### A transmit group that unlocks while a control core's frame is queued (R48, R347, R382) -/

/-- A frame of a transmit ring, and its copy in a queue of port 0. -/
def ringFrame : Frame := ⟨0, List.replicate 64 0, 0, [], [], 0, 0, [], none, none, 0, false, true, some (0, 0), false, none⟩
def queuedCopy : Copy := ⟨0, 0, 0, .cls 0 0, 0, false, 64, false, false, false, none, none⟩

/-- A slice with every clock locked and port 0 up, on which that frame waits; its descriptor, at the base of DRAM, has OWN set. -/
def ringSlice : Slice :=
  { Slice.blank 0 .running with
      regs := [(regKey kSLC 0x120, 0xFFF), (regKey kLNE 0x1000, 2), (regKey kLNE 0x1040, 1), (regKey kSWC 0x484, 0x10)]
      frames := [ringFrame], queues := [⟨.cls 0 0, [queuedCopy], []⟩], txBusy := [(0, 0)], dram := [(0, 0x80)] }

def ringState : State := State.reset.setSlice 0 ringSlice

theorem unlock_hands_descriptor_back :
    passes (exec (.pllUnlock 0 6) ringState) (fun t => decide ((t.slice 0).dram = [(0, 0x80)])) = false := by decide +kernel

/-- Refutes O12: the unlock of a transmit group takes its ports down and flushes their queues (R347); a flushed frame of a transmit
ring hands its descriptor back by clearing OWN in DRAM (R382), which the statement says stays as it was. -/
theorem not_thermalReadAndPllUnlock : ¬ Obligations.ThermalReadAndPllUnlock := by
  unfold Obligations.ThermalReadAndPllUnlock
  intro h
  obtain ⟨-, hpll⟩ := h
  obtain ⟨-, -, hgroup, -⟩ := hpll ringState 0 6 (by decide +kernel) (by decide +kernel)
  have hruns := hgroup (by decide) (by decide)
  have hdram : passes (exec (.pllUnlock 0 6) ringState) (fun t => decide ((t.slice 0).dram = [(0, 0x80)])) = true := by
    refine passes_of_runsPair hruns fun y ms hp => decide_eq_true ?_
    obtain ⟨-, -, -, hdram, -⟩ := hp
    rw [slice_deliver_ne _ _ _ _ (by decide), slice_setSlice_self]
    exact hdram.trans (by decide +kernel)
  exact absurd hdram (by rw [unlock_hands_descriptor_back]; exact Bool.false_ne_true)

end Sys2Proof.Machine
end

section
/-! Proofs. An entry into NAP, with all that the loss of the twin link brings, leaves alone whether the slice stays ACTIVE until
the hub runs again (R15). -/

namespace Sys2Proof.Machine

set_option Elab.async false

/-- A slice that stays ACTIVE until the hub runs again exactly when another does. -/
structure StaysAs (x y : Slice) : Prop where
  same : y.stayActive = x.stayActive

theorem StaysAs.refl (x : Slice) : StaysAs x x := ⟨rfl⟩

theorem staysAs_foldl {α : Type} {x y : Slice} {f : Slice → α → Slice} (hf : ∀ y a, StaysAs x y → StaysAs x (f y a)) (l : List α)
    (h : StaysAs x y) : StaysAs x (l.foldl f y) :=
  List.foldlRecOn (motive := StaysAs x) l f h fun y hy a _ => hf y a hy

theorem staysAs_ite {x y z : Slice} {p : Prop} [Decidable p] (hy : StaysAs x y) (hz : StaysAs x z) : StaysAs x (if p then y else z) := by
  split
  · exact hy
  · exact hz

/-- An insert by what it has: the record of the other slice, no packet, or a packet. -/
theorem staysAs_ofGot {x y : Slice} {g : Option (Nat × List Dword)} {l : List Packet} {f₁ : Nat → List Dword → Slice}
    {f₃ : Packet → Slice} (h₁ : ∀ i r, StaysAs x (f₁ i r)) (h₂ : StaysAs x y) (h₃ : ∀ p, StaysAs x (f₃ p)) :
    StaysAs x (match g, l with
      | some (i, r), _ => f₁ i r
      | none, [] => y
      | none, p :: _ => f₃ p) := by
  split
  · exact h₁ ..
  · exact h₂
  · exact h₃ _

/-- `shSearched` as an equation between functions: applied to a slice, the kernel would compare the two sides by running the reads. -/
theorem shSearched_eq : shSearched = fun x k =>
    (getBucket (getBucket x true (flowHash x k).1).2 true (flowHash x k).2.1).2 := rfl

/-- The same of a slice that comes with a result. -/
structure StaysAsOf {α : Type} (x : Slice) (r : α × Slice) : Prop where
  snd : StaysAs x r.2

section

variable {x y : Slice} (h : StaysAs x y)

include h

/-! ### Other parts of the state -/

theorem staysAs_shStash (v : List KeyRec) : StaysAs x { y with shStash := v } := ⟨h.same⟩

theorem staysAs_txBusy (v : List (Nat × Nat)) : StaysAs x { y with txBusy := v } := ⟨h.same⟩

theorem staysAs_frames (v : List Frame) : StaysAs x { y with frames := v } := ⟨h.same⟩

theorem staysAs_recirc (v : List Packet) : StaysAs x { y with recirc := v } := ⟨h.same⟩

theorem staysAs_hot (v : List HotWay) : StaysAs x { y with hot := v } := ⟨h.same⟩

theorem staysAs_ready (v : List Ready) : StaysAs x { y with ready := v } := ⟨h.same⟩

theorem staysAs_held (v : List Held) : StaysAs x { y with held := v } := ⟨h.same⟩

/-! ### Registers, counters and causes -/

theorem staysAs_regSet (b o : Nat) (v : Word) : StaysAs x (regSet y b o v) := ⟨(setRegs_stayActive ..).trans h.same⟩

theorem staysAs_regPut (b o hi lo v : Nat) : StaysAs x (regPut y b o hi lo v) := staysAs_regSet h ..

theorem staysAs_setRegBit (b o i : Nat) : StaysAs x (setRegBit y b o i) := staysAs_regPut h ..

theorem staysAs_pairSet (b o v : Nat) : StaysAs x (pairSet y b o v) := staysAs_regSet (staysAs_regSet h ..) ..

theorem staysAs_count (b o n : Nat) : StaysAs x (count y b o n) := staysAs_pairSet h ..

theorem staysAs_raise (b c : Nat) : StaysAs x (raise y b c) :=
  staysAs_ite (staysAs_count h ..) (staysAs_regPut h ..)

theorem staysAs_flagRaise (b o i c : Nat) : StaysAs x (flagRaise y b o i c) :=
  staysAs_ite h (staysAs_raise (staysAs_regPut h ..) ..)

theorem staysAs_fullFlag : StaysAs x (fullFlag y) := staysAs_flagRaise h ..

theorem staysAs_aqBad : StaysAs x (aqBad y) := staysAs_setRegBit (staysAs_count h ..) ..

/-! ### Reads and writes of DRAM -/

theorem staysAs_portMoved (wr : Bool) (p a n : Nat) : StaysAs x (portMoved y wr p a n) := by
  have hw : StaysAs x (wakeRanks y a n) := staysAs_ite h ⟨h.same⟩
  refine staysAs_count ?_ ..
  exact ⟨hw.same⟩

theorem staysAs_healMirror (o n : Nat) : StaysAs x (healMirror y o n) := staysAs_ite ⟨h.same⟩ h

theorem staysAs_ueLatch (a p : Nat) : StaysAs x (ueLatch y a p) :=
  staysAs_raise (staysAs_ite (staysAs_count h ..) (staysAs_regSet (staysAs_pairSet (staysAs_count h ..) ..) ..)) ..

theorem staysAs_dramRead (a n p : Nat) : StaysAs x (dramRead y a n p).2 := by
  have hm := staysAs_portMoved h false p a n
  unfold dramRead
  split
  · exact h
  · extract_lets o z u
    split
    · have hu : StaysAs x u := staysAs_ueLatch hm ..
      split
      · exact staysAs_healMirror hu ..
      · exact hu
    · exact hm

theorem staysAs_dramLand {a : Nat} {bs : Bytes} {z : Slice} (hz : dramLand y a bs = some z) : StaysAs x z := by
  unfold dramLand at hz
  split at hz
  · cases hz
  · dsimp only at hz
    split at hz
    · cases hz
    · split at hz <;> cases hz <;> exact ⟨h.same⟩

theorem staysAs_dramStore (p a : Nat) (bs : Bytes) : StaysAs x (dramStore y p a bs) := by
  rw [dramStore, dramWrite]
  cases hl : dramLand y a bs with
  | none => exact h
  | some z => exact staysAs_portMoved (staysAs_dramLand h hl) ..

theorem staysAs_getBucket (sh : Bool) (b : Nat) : StaysAs x (getBucket y sh b).2 := by
  rw [getBucket]
  split
  · exact h
  · exact staysAs_dramRead h ..

theorem staysAs_putBucket (sh : Bool) (b : Nat) (bs : Bytes) : StaysAs x (putBucket y sh b bs) :=
  staysAs_ite (staysAs_dramStore h ..) ⟨h.same⟩

theorem staysAs_placeKey (sh : Bool) (b s : Nat) (k : FKey) (i alt : Nat) : StaysAs x (placeKey y sh b s k i alt) := by
  rw [placeKey]
  split
  · exact staysAs_putBucket h ..
  · exact h

theorem staysAs_shSearched (k : FKey) : StaysAs x (shSearched y k) := by
  rw [shSearched_eq]
  exact staysAs_getBucket (staysAs_getBucket h ..) ..

theorem staysAs_shRemove (k : FKey) (i : Nat) : StaysAs x (shRemove y k i) := by
  have hz := staysAs_shStash (staysAs_shSearched h k)
  rw [shRemove]
  refine staysAs_dramStore ?_ ..
  split
  · exact staysAs_putBucket (hz _) ..
  · exact hz _

theorem staysAs_storeRecord (i : Nat) (r : List Dword) : StaysAs x (storeRecord y i r) := by
  refine staysAs_dramStore ?_ ..
  exact ⟨h.same⟩

/-! ### Copies, queues and frames -/

theorem staysAs_freeCells (ks : List Nat) : StaysAs x (freeCells y ks) :=
  staysAs_foldl (fun z k hz => by
    rw [freeCell]
    split
    · refine staysAs_regPut ?_ ..
      exact ⟨hz.same⟩
    · exact hz) ks h

theorem staysAs_freePages (ks : List Nat) : StaysAs x (freePages y ks) :=
  staysAs_foldl (fun z k hz => by
    rw [freePage]
    split
    · refine staysAs_regPut ?_ ..
      exact ⟨hz.same⟩
    · exact hz) ks h

theorem staysAs_txRelease (t i : Nat) : StaysAs x (txRelease y t i) := by
  exact staysAs_txBusy (staysAs_dramStore h ..) _

theorem staysAs_releaseFrame (i : Nat) : StaysAs x (releaseFrame y i) := by
  unfold releaseFrame
  split
  · exact h
  · next f _ =>
    have hf : StaysAs x (freePages (freeCells y f.cells) f.pages) := staysAs_freePages (staysAs_freeCells h _) _
    refine staysAs_ite h ?_
    split
    · exact staysAs_txRelease (staysAs_frames hf _) ..
    · exact staysAs_frames hf _

theorem staysAs_putQueue (v : Queue) : StaysAs x (putQueue y v) := staysAs_ite ⟨h.same⟩ (staysAs_ite ⟨h.same⟩ ⟨h.same⟩)

theorem staysAs_enqueue (c : Copy) : StaysAs x (enqueue y c) := staysAs_ite (staysAs_putQueue h _) (staysAs_putQueue h _)

theorem staysAs_placeCopy (c : Copy) : StaysAs x (placeCopy y c) := by
  rw [placeCopy]
  split
  · exact ⟨h.same⟩
  · exact staysAs_enqueue h _

theorem staysAs_admitPunt (c : Copy) (r : Fin 8) : StaysAs x (admitPunt y c r).2 := by
  rw [admitPunt]
  split
  · exact staysAs_placeCopy h c
  · exact staysAs_count h ..

theorem staysAs_mkCopy (frm len : Nat) (lane : Lane) (q : QId) : StaysAs x (mkCopy y frm len lane q).2 := ⟨h.same⟩

theorem staysAs_puntCopy (frm len : Nat) (lane : Lane) (r : Fin 8) (v : Byte) : StaysAs x (puntCopy y frm len lane r v) :=
  staysAs_admitPunt (staysAs_mkCopy h ..) ..

theorem staysAs_setFrame (f : Frame) : StaysAs x (setFrame y f) := ⟨h.same⟩

theorem staysAs_storeFrame (f : Frame) : StaysAs x (storeFrame y f).2 := ⟨h.same⟩

theorem staysAs_mirrorCopy (f : Frame) (s : Nat) : StaysAs x (mirrorCopy y f s).2 := by
  unfold mirrorCopy
  extract_lets
  split <;> exact ⟨h.same⟩

theorem staysAs_mirSample (s : Nat) : StaysAs x (mirSample y s).2 := by
  unfold mirSample
  extract_lets n k
  split
  · exact h
  · split <;> exact ⟨h.same⟩

theorem staysAs_admitMirror (c : Copy) (s : Nat) (green : Bool) : StaysAs x (admitMirror y c s green) := by
  unfold admitMirror
  extract_lets r
  have hr : StaysAs x r.2 := by
    unfold r
    split
    · exact staysAs_admitPunt h ..
    · split
      · exact staysAs_placeCopy h c
      · exact staysAs_fullFlag h
      · exact h
  exact staysAs_ite (staysAs_count hr ..) (staysAs_flagRaise (staysAs_count hr ..) ..)

theorem staysAs_mirror (f : Frame) (s : Nat) : StaysAs x (mirror y f s) := by
  have hr := staysAs_mirSample h s
  unfold mirror
  extract_lets w r
  refine staysAs_ite (staysAs_count h ..) (staysAs_ite hr ?_)
  split
  · exact staysAs_admitMirror (staysAs_mirrorCopy hr ..) ..
  · exact staysAs_setFrame (staysAs_mirrorCopy (staysAs_storeFrame hr _) ..) _

theorem staysAs_multiCopies (frm len hd qc : Nat) (aq : Option (BitVec 14)) (ps : List Nat) :
    StaysAs x (multiCopies y frm len hd qc aq ps).2 := by
  induction ps generalizing y with
  | nil => exact h
  | cons p ps ih => exact ih (staysAs_mkCopy h ..)

theorem staysAs_reflexCopies (frm len hd : Nat) (ps : List Nat) : StaysAs x (reflexCopies y frm len hd ps).2 := by
  induction ps generalizing y with
  | nil => exact h
  | cons p ps ih => exact ih (staysAs_mkCopy h ..)

theorem staysAs_admitCopies (f : Frame) : StaysAs x (admitCopies y f) := by
  unfold admitCopies
  extract_lets z r u v
  have hu : StaysAs x u := by
    refine List.foldlRecOn (motive := fun r : Nat × Nat × Slice => StaysAs x r.2.2) f.copies _ (staysAs_setFrame h _) fun r hr c _ => ?_
    extract_lets w
    split
    · exact staysAs_aqBad hr
    · split
      · exact staysAs_placeCopy hr c
      · exact staysAs_count hr ..
      · exact staysAs_fullFlag (staysAs_count hr ..)
  exact staysAs_releaseFrame (staysAs_ite (staysAs_count hu ..) (staysAs_ite (staysAs_flagRaise (staysAs_count hu ..) ..) hu)) _

theorem staysAs_admitUnicast (c : Copy) (green : Bool) : StaysAs x (admitUnicast y c green) := by
  refine staysAs_ite (staysAs_releaseFrame (staysAs_aqBad h) _) ?_
  split
  · exact staysAs_placeCopy h c
  · exact staysAs_releaseFrame (staysAs_count h ..) _
  · exact staysAs_releaseFrame (staysAs_fullFlag (staysAs_count h ..)) _

theorem staysAs_sendHandle (f : Frame) (hd qc : Nat) (aq : Option (BitVec 14)) : StaysAs x (sendHandle y f hd qc aq) := by
  unfold sendHandle
  extract_lets w t
  refine staysAs_ite (staysAs_count h ..) ?_
  split
  · exact staysAs_ite (staysAs_count h ..) (staysAs_admitUnicast (staysAs_mkCopy h ..) ..)
  · split
    · exact staysAs_count h ..
    · have hm := staysAs_multiCopies h f.id f.bytes.length hd qc aq
      exact staysAs_ite (staysAs_admitCopies (hm _) _) (staysAs_setFrame (hm _) _)
  · exact staysAs_puntCopy h ..
  · exact h

theorem staysAs_sendDest (f : Frame) (t : Dest) : StaysAs x (sendDest y f t) := by
  refine staysAs_releaseFrame ?_ _
  cases t with
  | drop => exact h
  | punt k v => exact staysAs_puntCopy h ..
  | handle hd qc aq => exact staysAs_sendHandle h ..

theorem staysAs_disposeFrame (d : Frame) (ms : List Nat) (t : Dest) : StaysAs x (disposeFrame y d ms t) :=
  staysAs_sendDest (staysAs_foldl (fun _ s hz => staysAs_mirror hz _ s) ms (staysAs_storeFrame h _)) ..

theorem staysAs_mirrorOnly (p : Packet) : StaysAs x (mirrorOnly y p) := by
  rw [mirrorOnly]
  split
  · exact h
  · exact staysAs_disposeFrame h ..

theorem staysAs_flowDrop (p : Packet) : StaysAs x (flowDrop y p) := staysAs_mirrorOnly (staysAs_count h ..) p

/-! ### Bundles that commit -/

theorem staysAs_polCharge (n len : Nat) (pre : Colour) : StaysAs x (polCharge y n len pre).2 := by
  unfold polCharge
  split <;> exact ⟨h.same⟩

theorem staysAs_classPolice (p : Packet) (bs : Bytes) : StaysAs x (classPolice y p bs).2 := by
  unfold classPolice
  split
  · exact h
  · have hr := fun n => staysAs_polCharge h n p.frame.length (if tagDei bs = some true then .yellow else .green)
    extract_lets r w0 act
    split
    · exact staysAs_count (hr _) ..
    · exact hr _

theorem staysAs_disposeStored (st : Option Nat) (d : Frame) (ms : List Nat) (t : Dest) : StaysAs x (disposeStored y st d ms t) := by
  rw [disposeStored]
  split
  · exact staysAs_sendDest (staysAs_setFrame h _) ..
  · exact staysAs_disposeFrame h ..

theorem staysAs_programRecirc (p : Packet) (bs : Bytes) (st : Option Nat) (ms : List Nat) (node : Nat) (fb : Bool) (v : Byte)
    (q : Fin 8) : StaysAs x (programRecirc y p bs st ms node fb v q) := by
  refine staysAs_ite (staysAs_disposeStored (staysAs_flagRaise (staysAs_count h ..) ..) ..) (staysAs_recirc ?_ _)
  split
  · exact h
  · exact staysAs_disposeFrame h ..

theorem staysAs_actDisposition (p : Packet) (bs : Bytes) (st : Option Nat) (ms : List Nat) (d : Disp) (qc : Nat) :
    StaysAs x (actDisposition y p bs st ms d qc) := by
  have hr := staysAs_classPolice h p bs
  unfold actDisposition
  split
  · exact staysAs_disposeStored (staysAs_count h ..) ..
  · exact staysAs_disposeStored h ..
  · exact staysAs_programRecirc h ..
  · extract_lets r
    split
    · exact staysAs_disposeStored hr ..
    · exact staysAs_disposeStored hr ..

theorem staysAs_admitReflex (c : Copy) : StaysAs x (admitReflex y c) := by
  rw [admitReflex]
  split
  · exact staysAs_placeCopy h c
  · exact staysAs_releaseFrame (staysAs_count h ..) _
  · exact staysAs_releaseFrame (staysAs_ite (staysAs_flagRaise (staysAs_count h ..) ..) (staysAs_fullFlag (staysAs_count h ..))) _

theorem staysAs_sendEmitted (hd : Nat) (bs : Bytes) : StaysAs x (sendEmitted y hd bs) := by
  unfold sendEmitted
  extract_lets w t
  refine staysAs_ite (staysAs_count h ..) ?_
  split
  · exact staysAs_ite (staysAs_count h ..) (staysAs_releaseFrame (staysAs_admitReflex (staysAs_mkCopy (staysAs_storeFrame h _) ..) _) _)
  · split
    · exact staysAs_count h ..
    · exact staysAs_setFrame (staysAs_reflexCopies (staysAs_storeFrame h _) ..) _
  · exact staysAs_releaseFrame (staysAs_puntCopy (staysAs_storeFrame h _) ..) _
  · exact h

theorem staysAs_applyEmit (e : EmitRec) : StaysAs x (applyEmit y e) := by
  rw [applyEmit]
  split
  · exact staysAs_flagRaise (staysAs_count h ..) ..
  · exact staysAs_sendEmitted (staysAs_count h ..) ..

theorem staysAs_finishCommit (p : Packet) (bs : Bytes) (st : Option Nat) (d : Disp) (qc : Nat) (es : List EmitRec) :
    StaysAs x (finishCommit y p bs st d qc es) := by
  refine staysAs_foldl (fun _ e hz => staysAs_applyEmit hz e) es ?_
  split
  · exact staysAs_releaseFrame (staysAs_actDisposition h ..) _
  · exact staysAs_actDisposition h ..

/-! ### Flow records and trackers -/

-- As for `shSearched`, the next two definitions unfold while they stand alone, before they meet a slice to read.
theorem staysAsOf_epBucket (b fam vrf : Nat) (addr : Bytes) (err : Bool) : StaysAsOf x (epBucket y b fam vrf addr err) := by
  have hr : StaysAsOf x (dramRead y (epAddr y (2 * b)) 128 portFms) := ⟨staysAs_dramRead h ..⟩
  obtain ⟨g, hg⟩ : ∃ g, g = epBucket := ⟨_, rfl⟩
  rw [← hg]
  delta epBucket at hg
  subst hg
  beta_reduce
  generalize dramRead y (epAddr y (2 * b)) 128 portFms = r at hr ⊢
  obtain ⟨bs, z⟩ := r
  have hz : StaysAs x z := hr.snd
  cases bs with
  | none => exact ⟨hz⟩
  | some bs =>
    cases err with
    | true => exact ⟨hz⟩
    | false =>
      dsimp only
      split
      · exact ⟨hz⟩
      · exact ⟨staysAs_ite hz (staysAs_dramStore hz ..)⟩

theorem staysAsOf_epLookup (fam vrf : Nat) (addr : Bytes) (err : Bool) : StaysAsOf x (epLookup y fam vrf addr err) := by
  obtain ⟨g, hg⟩ : ∃ g, g = epLookup := ⟨_, rfl⟩
  rw [← hg]
  delta epLookup at hg
  subst hg
  beta_reduce
  extract_lets c z
  have hr : StaysAsOf x (epBucket z c.1 fam vrf addr err) := staysAsOf_epBucket (staysAs_count h ..) ..
  generalize epBucket z c.1 fam vrf addr err = r at hr ⊢
  obtain ⟨_ | hit, u⟩ := r
  · exact staysAsOf_epBucket hr.snd ..
  · exact ⟨hr.snd⟩

theorem staysAs_l2Set (b k i : Nat) (v : Word) : StaysAs x (l2Set y b k i v) := ⟨h.same⟩

theorem staysAs_l2Hit (b k : Nat) : StaysAs x (l2Hit y b k) := by
  rw [l2Hit]
  exact staysAs_ite h (staysAs_l2Set h ..)

theorem staysAs_resolveHandle (p : Packet) (k : Nat) (err : Bool) : StaysAs x (resolveHandle y p k err).2 := by
  unfold resolveHandle
  extract_lets old ks dw idv f vrf
  split
  · exact ⟨h.same⟩
  · have hr : StaysAs x (l2Lookup y idv (beNat (ksBytes ks dw 6))).2 := by
      rw [l2Lookup]
      split
      · exact staysAs_l2Hit h ..
      · exact h
    split
    · next e =>
      rw [e] at hr
      exact hr
    · next e =>
      rw [e] at hr
      exact hr
  · extract_lets fam addr
    have hr := (staysAsOf_epLookup h fam vrf (List.replicate (16 - addr.length) 0 ++ addr) err).snd
    split
    · exact h
    · split
      · split
        · next e =>
          rw [e] at hr
          exact hr
        · next e =>
          rw [e] at hr
          exact hr
      · exact h

theorem staysAs_resolvePacket (p : Packet) (k : Nat) (err : Bool) : StaysAs x (resolvePacket y p k err).2 := by
  have hr := staysAs_resolveHandle h p k err
  exact staysAs_ite hr (staysAs_count hr ..)

theorem staysAs_readyStateless (p : Packet) (kp : Nat) : StaysAs x (readyStateless y p kp) :=
  staysAs_ready (staysAs_count (staysAs_resolvePacket h ..) ..) _

theorem staysAs_dropTracker (t : Tracker) : StaysAs x (dropTracker y t) := ⟨h.same⟩

theorem staysAs_setTracker' (t : Tracker) : StaysAs x (setTracker' y t) := ⟨h.same⟩

theorem staysAs_overflow (t : Tracker) : StaysAs x (overflow y t) :=
  staysAs_dropTracker (staysAs_flagRaise (staysAs_foldl (fun _ p hz =>
    staysAs_ite (staysAs_readyStateless hz ..) (staysAs_flowDrop hz p)) t.chain h) ..) t

theorem staysAs_completeRecord (t : Tracker) (w : HotWay) : StaysAs x (completeRecord y t w) :=
  staysAs_dropTracker (staysAs_foldl (fun _ _ hz => staysAs_ready hz _) t.chain h) t

theorem staysAs_afterInstall (t : Tracker) : StaysAs x (afterInstall y t) := by
  rw [afterInstall]
  split
  · exact staysAs_ite (staysAs_setTracker' h _) (staysAs_completeRecord h ..)
  · exact staysAs_dropTracker h t

theorem staysAs_hotMakeRoom {set : Nat} {r : Nat × Slice} (hr : hotMakeRoom y set = some r) : StaysAs x r.2 := by
  unfold hotMakeRoom at hr
  extract_lets live at' at hr
  split at hr
  · cases hr; exact h
  · split at hr
    · cases hr
    · split at hr
      · cases hr
      · split at hr
        · cases hr; exact ⟨h.same⟩
        · split at hr
          · cases hr
          · cases hr; exact ⟨h.same⟩

theorem staysAs_plruUse (set way : Nat) : StaysAs x (plruUse y set way) := ⟨h.same⟩

theorem staysAs_install {k : FKey} {i : Nat} {r : List Dword} {dirty : Bool} {z : Slice} (hz : install y k i r dirty = some z) :
    StaysAs x z := by
  obtain ⟨p, hp, rfl⟩ := Option.map_eq_some_iff.1 hz
  exact staysAs_plruUse (staysAs_hot (staysAs_hotMakeRoom h hp) _) ..

theorem staysAs_installFor (t : Tracker) (i : Nat) (r : List Dword) (dirty again : Bool) :
    StaysAs x (installFor y t i r dirty again) := by
  rw [installFor]
  split
  · next z hz => exact staysAs_afterInstall (staysAs_install h hz) t
  · exact staysAs_setTracker' (staysAs_ite h (staysAs_count h ..)) _

theorem staysAs_finishInsert (t : Tracker) (i : Nat) : StaysAs x (finishInsert y t i) := by
  unfold finishInsert
  extract_lets +onlyGivenNames z k
  have hz : StaysAs x z := ⟨h.same⟩
  refine staysAs_ofGot (fun _ _ => staysAs_installFor (staysAs_storeRecord hz ..) ..) (staysAs_dropTracker hz t) fun p => ?_
  extract_lets +onlyGivenNames u
  have hu : StaysAs x u := staysAs_count hz ..
  generalize (if migrates u then shLookup u k else none) = o
  rcases o with _ | ⟨si, r⟩
  · exact staysAs_ite (staysAs_installFor (staysAs_resolvePacket hu ..) ..) (staysAs_installFor hu ..)
  · exact staysAs_installFor (staysAs_count (staysAs_shRemove hu ..) ..) ..

theorem staysAs_placeFor (t : Tracker) (b s alt : Nat) : StaysAs x (placeFor y t b s alt) := by
  refine staysAs_ite (staysAs_setTracker' h _) ?_
  split
  · exact staysAs_overflow h t
  · exact staysAs_finishInsert (staysAs_placeKey h ..) ..

theorem staysAs_stashFor (t : Tracker) : StaysAs x (stashFor y t) := by
  rw [stashFor]
  split
  · exact staysAs_overflow h t
  · split
    · refine staysAs_finishInsert (staysAs_count ?_ ..) ..
      exact ⟨h.same⟩
    · refine staysAs_overflow ?_ t
      exact ⟨h.same⟩

theorem staysAs_insertFor (t : Tracker) : StaysAs x (insertFor y t) := by
  unfold insertFor
  extract_lets hs
  split
  · exact staysAs_overflow h t
  · split
    · exact staysAs_placeFor h ..
    · split
      · exact staysAs_placeFor h ..
      · exact staysAs_placeFor h ..
      · exact staysAs_ite (staysAs_stashFor h t) (staysAs_setTracker' h _)

theorem staysAs_remoteReply (t : Tracker) (r : Option (Nat × List Dword)) : StaysAs x (remoteReply y t r) := by
  unfold remoteReply
  split
  · refine staysAs_insertFor (staysAs_flagRaise (staysAs_count ?_ ..) ..) _
    exact ⟨h.same⟩
  · exact staysAs_installFor (staysAs_storeRecord h ..) ..
  · exact staysAs_insertFor h _
  · exact h

theorem staysAs_failRemotes : StaysAs x (failRemotes y) :=
  staysAs_foldl (fun z t hz => by
    split
    · exact staysAs_remoteReply hz ..
    · exact hz) y.trackers h

theorem staysAs_retryWays : StaysAs x (retryWays y) :=
  staysAs_foldl (fun z t hz => by
    split
    · split
      · exact staysAs_installFor hz ..
      · exact hz
    · exact hz) y.trackers h

theorem staysAs_releaseAllHeld : StaysAs x (releaseAllHeld y) :=
  staysAs_foldl (fun z v hz => by
    exact staysAs_retryWays (staysAs_finishCommit (staysAs_held (staysAs_raise (staysAs_count hz ..) ..) _) ..)) y.held h

/-! ### The loss of the twin link -/

theorem StaysAs.trans_keepsTo {bs : List Nat} {z : Slice} (hk : KeepsTo bs y z) : StaysAs x z := by
  obtain ⟨⟨r, gs, rfl⟩, -⟩ := hk
  exact ⟨h.same⟩

theorem staysAs_stopReplication : StaysAs x (stopReplication y) := by
  refine staysAs_releaseAllHeld (staysAs_failRemotes (StaysAs.trans_keepsTo (StaysAs.trans_keepsTo ?_ (keepsTo_freezeShadow _))
    (keepsTo_twinHoldover _)))
  refine staysAs_regPut (staysAs_regPut ?_ ..) ..
  exact ⟨h.same⟩

theorem staysAs_linkDown (st code : Nat) : StaysAs x (linkDown y st code) := by
  have hp : StaysAs x (regPut (setLink y st) kTWN 0x100 23 16 code) := staysAs_regPut (staysAs_regPut h ..) ..
  unfold linkDown
  extract_lets up z u
  have hu : StaysAs x u := staysAs_ite hp (staysAs_regPut hp ..)
  refine staysAs_ite (staysAs_raise (staysAs_stopReplication hu) ..) ?_
  exact ⟨hu.same⟩

theorem staysAs_sendTwin (m : TwinMsg) : StaysAs x (sendTwin y m) := staysAs_ite ⟨h.same⟩ ⟨h.same⟩

theorem staysAs_linkLost (c : DownCause) : StaysAs x (linkLost y c) := by
  have hd := staysAs_linkDown h
  cases c with
  | localDisable | localSleep => exact staysAs_ite (staysAs_sendTwin (hd ..) _) (hd ..)
  | _ => exact hd ..

theorem staysAs_enterNap : StaysAs x (enterNap y) := by
  have hs : StaysAs x (seqSleep { y with move := .enterNap } true) := ⟨h.same⟩
  exact staysAs_ite (staysAs_linkLost hs _) hs

end

end Sys2Proof.Machine
end

section
/-! Proofs. Supply and resets of the package, and the hub's start and restarts (R16, R36, R38 to R42, R61, R68, R69, R78). -/

namespace Sys2Proof.Machine

set_option Elab.async false

/-! ### Supply and resets (R38 to R42) -/

theorem slice_slicesLost (s : State) (n : SliceId) :
    (s.slicesLost.slice n).phase = .off ∧ (s.slicesLost.slice n).regs = [] ∧ (s.slicesLost.slice n).dram = [] := by
  rw [State.slicesLost, slice_eachSlice]
  exact ⟨rfl, rfl, rfl⟩

/-- A reset of the package marks no cause and begins no start. -/
theorem slices_resetPackage (h : Hub) (v : Word) :
    ∀ t ∈ (h.resetPackage v).slices, t.cause = 0 ∧ t.started = false ∧ t.start = false := by
  intro t ht
  obtain ⟨u, -, rfl⟩ := List.mem_map.1 ht
  exact ⟨rfl, rfl, rfl⟩

/-- An event to the hub owner joins that target's queue, if it has room, and leaves the records of the slices alone. -/
theorem eventOpen_hubTarget (h : Hub) (c sl : Nat) :
    ∃ f ss fs u, h.eventOpen hubTarget c sl = { h with free := f, sessions := ss, tx := fs, hubTgt := u }
      ∧ (h.hubTgt.events.length < 256 → ∃ e, e.code = c ∧ u.events = h.hubTgt.events ++ [e]) := by
  obtain ⟨f, ss, fs, t, he, -, -, hev⟩ := event_frame h.freeD.2 hubTarget c sl h.freeD.1
  refine ⟨f, ss, fs, t, he, fun hl => ?_⟩
  rcases hev with ⟨hfull, -⟩ | ⟨-, -, e, hc, -, -, hevs⟩
  · exact absurd hfull (Nat.not_le.2 hl)
  · exact ⟨e, hc, hevs⟩

theorem runsHub_supplyWarning_silent {s : State} (mv : BitVec 16) (hp : s.hub.powered = true) (ha : s.hub.answers = false)
    (hw : s.hub.warn = false) : RunsHub (.supplyWarning mv) s fun h => h = { s.hub with vin := w32 mv.toNat, warn := true } := by
  have hoff : s.hub.phase = .off := by simpa [Hub.answers] using ha
  refine RunsHub.intro (show execSupplyWarning mv s = _ from ?_) rfl
  simp [execSupplyWarning, onHub, Hub.answers, hp, hw, hoff, mvWord]

/-- The hub under a supply warning that it logs. -/
def Hub.warned (h : Hub) (mv : BitVec 16) : Hub :=
  Hub.note { h with vin := mvWord mv, warn := true } hubTarget (evWord evSupplyWarning) (mvWord mv)

theorem runsHub_supplyWarning {s : State} (mv : BitVec 16) (hp : s.hub.powered = true) (ha : s.hub.answers = true)
    (hw : s.hub.warn = false) : RunsHub (.supplyWarning mv) s fun h =>
      h.warn = true ∧ h.vin = w32 mv.toNat ∧ h.log = s.hub.log ++ [(8, w32 5, w32 mv.toNat)] ∧ h.slices = s.hub.slices
      ∧ (s.hub.hubTgt.events.length < 256 → ∃ e, e.code = 5 ∧ h.hubTgt.events = s.hub.hubTgt.events ++ [e]) := by
  have hon : s.hub.phase ≠ .off := by simpa [Hub.answers] using ha
  have hnext : execSupplyWarning mv s =
      .next { s with hub := (s.hub.warned mv).eventOpen hubTarget evSupplyWarning hubSliceByte } := by
    simp [execSupplyWarning, onHub, Hub.answers, Hub.warned, hp, hw, hon]
  obtain ⟨f, ss, fs, u, he, hev⟩ := eventOpen_hubTarget (s.hub.warned mv) evSupplyWarning hubSliceByte
  refine RunsHub.intro hnext ?_
  rw [he]
  exact ⟨rfl, rfl, rfl, rfl, hev⟩

theorem runs_supplyFailure (s : State) (mv : BitVec 16) : Runs (.supplyFailure mv) s fun t =>
    (∀ n, (t.slice n).phase = .off ∧ (t.slice n).regs = [] ∧ (t.slice n).dram = []) ∧ t.hub.phase = .off
    ∧ t.hub.powered = false ∧ t.hub.felt = s.hub.felt ∧ t.hub.warn = false ∧ t.hub.sessions = [] ∧ t.hub.nvm = s.hub.nvm
    ∧ t.hub.anchors = s.hub.anchors ∧ (∀ h ∈ t.hub.slices, h.cause = 1 ∧ h.started = false ∧ h.start = false)
    ∧ t.pending = s.pending := by
  have hnote : ∀ g, g = (if s.hub.answers then s.hub.note hubTarget 0 (mvWord mv) else s.hub) →
      g.felt = s.hub.felt ∧ g.nvm = s.hub.nvm ∧ g.anchors = s.hub.anchors := by
    rintro g rfl
    split <;> exact ⟨rfl, rfl, rfl⟩
  obtain ⟨hfelt, hnvm, hanch⟩ := hnote _ rfl
  refine Runs.intro (s := s) rfl ⟨slice_slicesLost s, rfl, rfl, hfelt, rfl, rfl, hnvm, hanch, fun t ht => ?_, rfl⟩
  obtain ⟨u, -, rfl⟩ := List.mem_map.1 ht
  exact ⟨rfl, rfl, rfl⟩

/-! ### Charter and image (R69, R78) -/

theorem hubImageOk_congr {g h : Hub} (hc : g.charter = h.charter) (hn : g.nvm = h.nvm) (b : Bool) : g.hubImageOk b = h.hubImageOk b := by
  simp only [Hub.hubImageOk, Hub.nvmGet, hc, hn]

theorem pickImage_some {h : Hub} {b : Bool} (e : h.pickImage = some b) :
    h.hubImageOk b = true ∧ bankMark h.imgFailed b = false
      ∧ (b ≠ chHubBank h.charter → h.hubImageOk (chHubBank h.charter) = true → bankMark h.imgFailed (chHubBank h.charter) = true) := by
  unfold Hub.pickImage at e
  extract_lets ok first at e
  have hok : ∀ c, ok c = true → h.hubImageOk c = true ∧ bankMark h.imgFailed c = false := fun c hc => by
    rw [Bool.and_eq_true, Bool.not_eq_true'] at hc
    exact hc.symm
  split at e
  · next hf =>
    obtain rfl := Option.some.inj e
    exact ⟨(hok _ hf).1, (hok _ hf).2, fun hne => absurd rfl hne⟩
  · next hf =>
    split at e
    · next hs =>
      obtain rfl := Option.some.inj e
      refine ⟨(hok _ hs).1, (hok _ hs).2, fun _ hi => ?_⟩
      exact Bool.of_not_eq_false fun hm => hf (by unfold ok; rw [hm, hi]; rfl)
    · cases e

theorem pickImage_none {h : Hub} (e : h.pickImage = none) (b : Bool) (hb : h.hubImageOk b = true) : bankMark h.imgFailed b = true := by
  unfold Hub.pickImage at e
  extract_lets ok first at e
  have hno : ok first ≠ true ∧ ok (!first) ≠ true := by
    split at e
    · cases e
    · split at e
      · cases e
      · exact ⟨‹_›, ‹_›⟩
  refine Bool.of_not_eq_false fun hm => ?_
  have hok : ok b = true := by
    unfold ok
    rw [hm, hb]
    rfl
  by_cases hbf : b = first
  · exact hno.1 (hbf ▸ hok)
  · exact hno.2 (by rwa [← Bool.eq_not_of_ne hbf])

/-! ### Slices that waited for the hub (R15) -/

theorem staysAs_heldWake {x y : Slice} (h : StaysAs x y) (c : Option WakeCause) : StaysAs x { y with heldWake := c } := ⟨h.same⟩

theorem staysAs_wakeBy {x y : Slice} (h : StaysAs x y) (c : WakeCause) : StaysAs x (wakeBy y c) := by
  unfold wakeBy
  split
  · exact h
  · exact staysAs_ite h ⟨h.same⟩
  · exact staysAs_ite h (staysAs_heldWake (staysAs_setRegBit h ..) _)

theorem staysAs_receives {x y : Slice} (h : StaysAs x y) (ms : List TwinMsg) : StaysAs x (y.receives ms) :=
  staysAs_ite ⟨h.same⟩ ⟨h.same⟩

theorem stayActive_goOff (x : Slice) : (goOff x).stayActive = false := by
  rw [goOff, keepTry]
  split
  · exact (staysAs_setRegBit (StaysAs.refl _) ..).same
  · rfl

theorem stayActive_actOnReq {x : Slice} (h : x.stayActive = false) : (actOnReq x).stayActive = false := by
  unfold actOnReq
  split
  · exact stayActive_goOff x
  · split
    · exact h
    · exact (staysAs_enterNap (StaysAs.refl x)).same.trans h
  · exact h

/-- Of the hub only the wake times that slices post change. -/
structure WakesPosted (h g : Hub) : Prop where
  frame : ∃ ts, g = { h with slices := ts }
  length : g.slices.length = h.slices.length
  targets : h.slices.length = 8 → ∀ m, g.tgt m = { h.tgt m with wakes := (g.tgt m).wakes }

theorem WakesPosted.refl (h : Hub) : WakesPosted h h := ⟨⟨h.slices, rfl⟩, rfl, fun _ _ => rfl⟩

theorem WakesPosted.trans {h g k : Hub} (hg : WakesPosted h g) (hk : WakesPosted g k) : WakesPosted h k := by
  obtain ⟨⟨ts, ets⟩, hl, ht⟩ := hg
  obtain ⟨⟨us, eus⟩, hm, hu⟩ := hk
  refine ⟨⟨us, by rw [eus, ets]⟩, hm.trans hl, fun h8 m => ?_⟩
  rw [hu (hl.trans h8) m, ht h8 m]

theorem wakesPosted_modTgt (h : Hub) (n : SliceId) (f : List (Nat × Nat) → List (Nat × Nat)) :
    WakesPosted h (h.modTgt n.val fun t => { t with wakes := f t.wakes }) where
  frame := ⟨_, by rw [Hub.modTgt, Hub.setTgt, if_pos n.isLt]⟩
  length := length_slices_setTgt ..
  targets h8 m := by
    rw [tgt_modTgt_slice h _ h8 n.isLt]
    split
    · next e => rw [e]
    · rfl

/-- Wake times posted, and a slice woken perhaps; none begins or ceases to stay ACTIVE for the hub. -/
structure PostsOnly (s t : State) : Prop where
  hub : WakesPosted s.hub t.hub
  pending : t.pending = s.pending
  stays : ∀ n, StaysAs (s.slice n) (t.slice n)

theorem PostsOnly.refl (s : State) : PostsOnly s s := ⟨WakesPosted.refl _, rfl, fun _ => StaysAs.refl _⟩

theorem postsOnly_postWakes (s : State) (sl : SliceId) : PostsOnly s (s.postWakes sl) := by
  unfold State.postWakes
  split
  · extract_lets x ts soon t
    have ht : PostsOnly s t := ⟨wakesPosted_modTgt s.hub sl fun _ => ts.filter (!soon ·), rfl, fun _ => StaysAs.refl _⟩
    split
    · refine ⟨ht.hub, rfl, fun n => ?_⟩
      by_cases hn : n = sl
      · rw [hn, slice_setSlice_self]
        exact staysAs_wakeBy (StaysAs.refl x) _
      · rw [slice_setSlice_ne _ _ _ _ hn]
        exact ht.stays n
    · exact ht
  · exact PostsOnly.refl s

theorem postsOnly_posting (s : State) (sl : SliceId) (was : PwrMove) : PostsOnly s (s.posting sl was) := by
  unfold State.posting
  extract_lets m
  split
  · exact postsOnly_postWakes s sl
  · exact PostsOnly.refl s

/-- One slice no longer waits for the hub. -/
def State.sliceBack (s : State) (sl : SliceId) : State :=
  if (s.slice sl).stayActive then
    (s.withEnd sl (actOnReq { s.slice sl with stayActive := false })).posting sl (s.slice sl).move
  else s

theorem feltBack_eq (s : State) : s.feltBack = (List.finRange 8).foldl State.sliceBack s := by
  rfl

theorem sliceBack_of_not {s : State} {sl : SliceId} (h : (s.slice sl).stayActive = false) : s.sliceBack sl = s :=
  if_neg (by rw [h]; exact Bool.false_ne_true)

theorem staysAs_withEnd (s : State) {sl n : SliceId} (hn : n ≠ sl) (y : Slice) :
    StaysAs (s.slice n) ((s.withEnd sl y).slice n) := by
  rw [State.withEnd]
  by_cases ht : n = twin sl
  · rw [ht, slice_deliver_self, slice_setSlice_ne _ _ _ _ (ht ▸ hn)]
    exact staysAs_receives (StaysAs.refl _) _
  · rw [slice_deliver_ne _ _ _ _ ht, slice_setSlice_ne _ _ _ _ hn]
    exact StaysAs.refl _

/-- What a slice that waits no longer leaves of the state. -/
theorem sliceBack_frame (s : State) (sl : SliceId) : WakesPosted s.hub (s.sliceBack sl).hub ∧ (s.sliceBack sl).pending = s.pending
    ∧ ((s.sliceBack sl).slice sl).stayActive = false ∧ ∀ n ≠ sl, StaysAs (s.slice n) ((s.sliceBack sl).slice n) := by
  unfold State.sliceBack
  split
  · generalize hy : actOnReq { s.slice sl with stayActive := false } = y
    have hp := postsOnly_posting (s.withEnd sl y) sl (s.slice sl).move
    refine ⟨hp.hub, hp.pending, ?_, fun n hn => ⟨(hp.stays n).same.trans (staysAs_withEnd s hn y).same⟩⟩
    rw [(hp.stays sl).same, slice_withEnd_self, ← hy]
    exact stayActive_actOnReq rfl
  · next h => exact ⟨WakesPosted.refl _, rfl, Bool.eq_false_iff.2 h, fun _ _ => StaysAs.refl _⟩

theorem feltBack_frame (s : State) : WakesPosted s.hub s.feltBack.hub ∧ s.feltBack.pending = s.pending
    ∧ ∀ n, (s.feltBack.slice n).stayActive = false := by
  rw [feltBack_eq]
  obtain ⟨⟨hw, hp⟩, hs⟩ := foldl_reaches (f := State.sliceBack)
    (I := fun t => WakesPosted s.hub t.hub ∧ t.pending = s.pending) (G := fun n t => (t.slice n).stayActive = false)
    (fun t sl ht => ⟨ht.1.trans (sliceBack_frame t sl).1, (sliceBack_frame t sl).2.1.trans ht.2⟩)
    (fun t sl _ => (sliceBack_frame t sl).2.2.1)
    (fun t n sl _ hn => by
      obtain ⟨-, -, hself, hne⟩ := sliceBack_frame t sl
      by_cases e : n = sl
      · rw [e]
        exact hself
      · exact (hne n e).same.trans hn)
    (List.finRange 8) (x := s) ⟨WakesPosted.refl _, rfl⟩
  exact ⟨hw, hp, fun n => hs n (List.mem_finRange n)⟩

theorem feltBack_of_none {s : State} (h : ∀ n, (s.slice n).stayActive = false) : s.feltBack = s := by
  rw [feltBack_eq]
  exact List.foldlRecOn (motive := (· = s)) (List.finRange 8) _ rfl fun t ht sl _ => by rw [ht, sliceBack_of_not (h sl)]

/-! ### Starts of the power policy (R40, R68) -/

/-- A start that the power policy asks for. -/
def HubSlice.policyAsked (t : HubSlice) : HubSlice := { t.ask rstPolicy with policy := true }

/-- The power policy starts a slice: it is OFF, and neither heat nor a change of owner holds it. -/
def State.policyWants (s : State) (n : SliceId) : Prop :=
  (s.slice n).on = false ∧ chStart s.hub.charter n.val = true ∧ (s.hub.tgt n.val).thermal = false ∧ (s.hub.tgt n.val).zeroing = false

/-- The power policy's part for one slice. -/
def State.policyStart (s : State) (n : SliceId) : State :=
  if (s.slice n).on || !chStart s.hub.charter n.val || (s.hub.tgt n.val).thermal || (s.hub.tgt n.val).zeroing then s
  else s.modHubSlice n.val HubSlice.policyAsked

theorem policyStarts_eq (s : State) : s.policyStarts = (List.finRange 8).foldl State.policyStart s := rfl

theorem policyStart_of_wanted {s : State} {n : SliceId} (h : s.policyWants n) :
    s.policyStart n = s.modHubSlice n.val HubSlice.policyAsked := by
  obtain ⟨hon, hst, hth, hz⟩ := h
  rw [State.policyStart, hon, hst, hth, hz]
  rfl

theorem policyStart_of_not {s : State} {n : SliceId} (h : ¬s.policyWants n) : s.policyStart n = s := by
  refine if_pos (by_contra fun hc => h ?_)
  simpa [State.policyWants, and_assoc] using hc

theorem policyAsked_idem (t : HubSlice) : t.policyAsked.policyAsked = t.policyAsked := by
  cases h : t.started <;> simp [HubSlice.policyAsked, HubSlice.ask, h]

/-- A state in which the power policy has asked for starts, as another state has it. -/
structure PolicyAsked (s t : State) : Prop where
  slices : t.slices = s.slices
  pending : t.pending = s.pending
  hub : ∃ ts, t.hub = { s.hub with slices := ts }
  length : t.hub.slices.length = s.hub.slices.length
  targets : s.hub.slices.length = 8 → ∀ n : SliceId, t.hub.tgt n.val = s.hub.tgt n.val ∨ t.hub.tgt n.val = (s.hub.tgt n.val).policyAsked

theorem PolicyAsked.slice {s t : State} (h : PolicyAsked s t) (n : SliceId) : t.slice n = s.slice n := by
  rw [State.slice, h.slices, State.slice]

theorem PolicyAsked.wants {s t : State} (h : PolicyAsked s t) (h8 : s.hub.slices.length = 8) (n : SliceId) :
    t.policyWants n ↔ s.policyWants n := by
  have hch : t.hub.charter = s.hub.charter := by
    obtain ⟨ts, e⟩ := h.hub
    rw [e]
  rw [State.policyWants, State.policyWants, h.slice, hch]
  rcases h.targets h8 n with e | e
  · rw [e]
  · rw [e]
    rfl

theorem PolicyAsked.step {s t : State} (h : PolicyAsked s t) (n : SliceId) : PolicyAsked s (t.policyStart n) := by
  by_cases hw : t.policyWants n
  · rw [policyStart_of_wanted hw]
    obtain ⟨ts, e⟩ := h.hub
    refine ⟨h.slices, h.pending, ⟨_, by rw [State.modHubSlice, State.modHub, Hub.modTgt, Hub.setTgt, if_pos n.isLt, e]⟩,
      (length_slices_setTgt ..).trans h.length, fun h8 m => ?_⟩
    rw [State.modHubSlice, State.modHub, tgt_modTgt_slice _ _ (h.length.trans h8) n.isLt]
    split
    · next e =>
      rw [← e]
      rcases h.targets h8 m with e | e
      · exact Or.inr (by rw [e])
      · exact Or.inr (by rw [e, policyAsked_idem])
    · exact h.targets h8 m
  · rw [policyStart_of_not hw]
    exact h

/-- The power policy asks for the start of each slice that it wants started. -/
theorem policyStarts_asks (s : State) : PolicyAsked s s.policyStarts ∧
    (s.hub.slices.length = 8 → ∀ n, s.policyWants n → s.policyStarts.hub.tgt n.val = (s.hub.tgt n.val).policyAsked) := by
  rw [policyStarts_eq]
  have hrefl : PolicyAsked s s := ⟨rfl, rfl, ⟨_, rfl⟩, rfl, fun _ _ => Or.inl rfl⟩
  have hstep : ∀ (t : State) (n : SliceId), PolicyAsked s t → s.hub.slices.length = 8 → s.policyWants n →
      (t.policyStart n).hub.tgt n.val = (s.hub.tgt n.val).policyAsked := fun t n ht h8 hn => by
    rw [policyStart_of_wanted ((ht.wants h8 n).2 hn), State.modHubSlice, State.modHub, tgt_modTgt_slice _ _ (ht.length.trans h8) n.isLt,
      if_pos rfl]
    rcases ht.targets h8 n with e | e
    · rw [e]
    · rw [e, policyAsked_idem]
  have hkeep : ∀ (t : State) (n m : SliceId), PolicyAsked s t →
      (s.hub.slices.length = 8 → s.policyWants n → t.hub.tgt n.val = (s.hub.tgt n.val).policyAsked) →
      s.hub.slices.length = 8 → s.policyWants n → (t.policyStart m).hub.tgt n.val = (s.hub.tgt n.val).policyAsked :=
    fun t n m ht hg h8 hn => by
      by_cases e : n = m
      · rw [← e]
        exact hstep t n ht h8 hn
      · by_cases hw : t.policyWants m
        · rw [policyStart_of_wanted hw, State.modHubSlice, State.modHub, tgt_modTgt_slice _ _ (ht.length.trans h8) m.isLt,
            if_neg (fun he => e (Fin.ext he))]
          exact hg h8 hn
        · rw [policyStart_of_not hw]
          exact hg h8 hn
  obtain ⟨hI, hG⟩ := foldl_reaches (f := State.policyStart) (I := PolicyAsked s)
    (G := fun n t => s.hub.slices.length = 8 → s.policyWants n → t.hub.tgt n.val = (s.hub.tgt n.val).policyAsked)
    (fun t n ht => ht.step n) hstep hkeep (List.finRange 8) hrefl
  exact ⟨hI, fun h8 n hn => hG n (List.mem_finRange n) h8 hn⟩

/-! ### The hub's start (R61, R68, R69, R78) -/

/-- The hub with the charter that it takes at its start, and the medium that follows it. -/
def Hub.chartered (h : Hub) : Hub :=
  Hub.setMedium { h with charter := h.pickCharter.getD [], hubChar := h.pickCharter.getD [], wdRestarted := false }

theorem charter_chartered (h : Hub) : h.chartered.charter = h.pickCharter.getD [] := by
  rw [Hub.chartered, Hub.setMedium]

theorem sfp_chartered {h : Hub} {m : Nat} (hm : chMgtMode h.chartered.charter = m) :
    h.chartered.sfp = (match (generalizing := false) m with
      | 1 => true
      | 2 => false
      | _ => h.module) := by
  rw [charter_chartered] at hm
  simp only [Hub.chartered, Hub.setMedium]
  rw [hm] <;> rfl

theorem startUp_unclaimed {h : Hub} (ha : h.anchors = []) :
    h.startUp = { h with phase := .unclaimed, charter := [], hubChar := [], sfp := h.module } := by
  rw [Hub.startUp, if_pos ha]
  rfl

theorem startUp_romOnly {h : Hub} (ha : h.anchors ≠ []) (e : h.chartered.pickImage = none) :
    h.startUp = { h.chartered with phase := .romOnly } := by
  rw [Hub.chartered] at e ⊢
  rw [Hub.startUp, if_neg ha]
  dsimp only
  rw [e]

theorem startUp_running {h : Hub} {b : Bool} (ha : h.anchors ≠ []) (e : h.chartered.pickImage = some b) :
    h.startUp = { h.chartered with phase := .running, bank := b, wdCount := if b = h.bank then h.wdCount else 0 } := by
  rw [Hub.chartered] at e ⊢
  rw [Hub.startUp, if_neg ha]
  dsimp only
  rw [e]
  rfl

/-- The state that a start of the hub leaves to the power policy. -/
def State.hubBack (s : State) : State := { s with hub := s.hub.startUp }.feltBack

theorem hubBack_frame (s : State) : WakesPosted s.hub.startUp s.hubBack.hub ∧ s.hubBack.pending = s.pending
    ∧ ∀ n, (s.hubBack.slice n).stayActive = false :=
  feltBack_frame { s with hub := s.hub.startUp }

theorem exec_hubStart {s : State} (hf : s.hub.felt = true) (hp : s.hub.powered = true) (hoff : s.hub.phase = .off) :
    exec .hubStart s = .next (if s.hubBack.hub.running then s.hubBack.policyStarts else s.hubBack) := by
  have ha : s.hub.answers = false := by rw [Hub.answers, hoff]; rfl
  show execHubStart s = _
  rw [execHubStart, hf, hp, ha]
  rfl

theorem runs_hubStart_halted {s : State} {P : State → Prop} (hf : s.hub.felt = true) (hp : s.hub.powered = true)
    (hoff : s.hub.phase = .off) (hr : s.hub.startUp.running = false) (h : P s.hubBack) : Runs .hubStart s P := by
  have hb : s.hubBack.hub.running = false := by
    obtain ⟨ts, e⟩ := (hubBack_frame s).1.frame
    rw [e]
    exact hr
  exact Runs.intro ((exec_hubStart hf hp hoff).trans (by rw [hb, if_neg Bool.false_ne_true])) h

theorem runs_hubStart_running {s : State} {P : State → Prop} (hf : s.hub.felt = true) (hp : s.hub.powered = true)
    (hoff : s.hub.phase = .off) (hr : s.hub.startUp.running = true) (h : P s.hubBack.policyStarts) : Runs .hubStart s P := by
  have hb : s.hubBack.hub.running = true := by
    obtain ⟨ts, e⟩ := (hubBack_frame s).1.frame
    rw [e]
    exact hr
  exact Runs.intro ((exec_hubStart hf hp hoff).trans (by rw [hb, if_pos rfl])) h

theorem runs_hubStart_unclaimed {s : State} (hf : s.hub.felt = true) (hp : s.hub.powered = true) (hoff : s.hub.phase = .off)
    (ha : s.hub.anchors = []) : Runs .hubStart s fun t =>
      t.hub = { s.hub with phase := .unclaimed, charter := [], hubChar := [], sfp := s.hub.module, slices := t.hub.slices }
      ∧ t.pending = s.pending ∧ (∀ n, (t.slice n).stayActive = false)
      ∧ ((∀ n, (s.slice n).stayActive = false) → t.hub.slices = s.hub.slices ∧ ∀ n, t.slice n = s.slice n) := by
  obtain ⟨hw, hpend, hstay⟩ := hubBack_frame s
  have hs := startUp_unclaimed ha
  refine runs_hubStart_halted hf hp hoff (by rw [hs]; rfl) ⟨?_, hpend, hstay, fun hn => ?_⟩
  · obtain ⟨ts, e⟩ := hw.frame
    rw [e, hs]
  · have hsame : s.hubBack = { s with hub := s.hub.startUp } := feltBack_of_none hn
    rw [hsame]
    exact ⟨by rw [hs], fun _ => rfl⟩

theorem tgt_congr {g h : Hub} (hs : g.slices = h.slices) (ht : g.hubTgt = h.hubTgt) (n : Nat) : g.tgt n = h.tgt n := by
  rw [Hub.tgt, Hub.tgt, hs, ht]

/-- A hub's start with an image: the power policy's slices are asked to start. -/
theorem policyStarts_of_running {s : State} {b : Bool} {k : Nat}
    (hs : s.hub.startUp = { s.hub.chartered with phase := .running, bank := b, wdCount := k })
    (h8 : s.hub.slices.length = 8) {n : SliceId} (hon : (s.hubBack.policyStarts.slice n).on = false)
    (hst : chStart s.hub.chartered.charter n.val = true) (hth : (s.hub.tgt n.val).thermal = false)
    (hz : (s.hub.tgt n.val).zeroing = false) :
    (s.hubBack.policyStarts.hub.tgt n.val).start = true ∧ (s.hubBack.policyStarts.hub.tgt n.val).policy = true
    ∧ (s.hubBack.policyStarts.hub.tgt n.val).cause = if (s.hub.tgt n.val).started then rstPolicy else (s.hub.tgt n.val).cause := by
  obtain ⟨hw, -, -⟩ := hubBack_frame s
  obtain ⟨hI, hG⟩ := policyStarts_asks s.hubBack
  have h8u : s.hub.startUp.slices.length = 8 := by rw [hs]; exact h8
  have htgt : s.hubBack.hub.tgt n.val = { s.hub.tgt n.val with wakes := (s.hubBack.hub.tgt n.val).wakes } := by
    rw [hw.targets h8u n.val, tgt_congr (g := s.hub.startUp) (h := s.hub) (by rw [hs]; rfl) (by rw [hs]; rfl)]
  have hwants : s.hubBack.policyWants n := by
    refine ⟨?_, ?_, by rw [htgt]; exact hth, by rw [htgt]; exact hz⟩
    · exact (congrArg Slice.on (hI.slice n)).symm.trans hon
    · obtain ⟨ts, e⟩ := hw.frame
      have hch : s.hubBack.hub.charter = s.hub.chartered.charter := by rw [e, hs]
      rw [hch]
      exact hst
  rw [hG (hw.length.trans h8u) n hwants, htgt]
  exact ⟨rfl, rfl, rfl⟩

/-- What every start of a hub with anchors leaves. -/
theorem hub_of_chartered {h g : Hub} {p : HubPhase} {b : Bool} {k : Nat} {us : List HubSlice}
    (hg : g = { h.chartered with phase := p, bank := b, wdCount := k, slices := us }) :
    g.charter = h.pickCharter.getD [] ∧ g.hubChar = g.charter ∧ g.nvm = h.nvm
      ∧ g.sfp = (match chMgtMode g.charter with | 1 => true | 2 => false | _ => h.module) := by
  have hch : g.charter = h.chartered.charter := by rw [hg]
  refine ⟨hch.trans (charter_chartered h), by rw [hg]; rfl, by rw [hg]; rfl, ?_⟩
  rw [hch, hg]
  dsimp only
  generalize hm : chMgtMode h.chartered.charter = m
  exact sfp_chartered hm

/-- The image of a start, and its count of watchdog restarts. -/
theorem image_of_running {h g : Hub} {b : Bool} {us : List HubSlice} (e : h.chartered.pickImage = some b)
    (hg : g = { h.chartered with phase := .running, bank := b, wdCount := if b = h.bank then h.wdCount else 0, slices := us }) :
    g.phase = .running ∧ g.hubImageOk g.bank = true ∧ bankMark h.imgFailed g.bank = false
      ∧ (g.bank ≠ chHubBank g.charter → g.hubImageOk (chHubBank g.charter) = true → bankMark h.imgFailed (chHubBank g.charter) = true)
      ∧ g.wdCount = (if g.bank = h.bank then h.wdCount else 0) := by
  obtain ⟨hok, hmark, hfirst⟩ := pickImage_some e
  have hch : g.charter = h.chartered.charter := by rw [hg]
  have himg : ∀ c, g.hubImageOk c = h.chartered.hubImageOk c := hubImageOk_congr hch (by rw [hg])
  have hbank : g.bank = b := by rw [hg]
  rw [himg, himg, hch, hbank]
  exact ⟨by rw [hg], hok, hmark, hfirst, by rw [hg]⟩

theorem runs_hubStart_claimed {s : State} (hf : s.hub.felt = true) (hp : s.hub.powered = true) (hoff : s.hub.phase = .off)
    (ha : s.hub.anchors ≠ []) : Runs .hubStart s fun t =>
      t.hub.charter = s.hub.pickCharter.getD [] ∧ t.hub.hubChar = t.hub.charter ∧ t.hub.nvm = s.hub.nvm ∧ t.pending = s.pending
      ∧ t.hub.sfp = (match chMgtMode t.hub.charter with | 1 => true | 2 => false | _ => s.hub.module)
      ∧ (t.hub.phase = .running ∧ t.hub.hubImageOk t.hub.bank = true ∧ bankMark s.hub.imgFailed t.hub.bank = false
          ∧ (t.hub.bank ≠ chHubBank t.hub.charter → t.hub.hubImageOk (chHubBank t.hub.charter) = true →
              bankMark s.hub.imgFailed (chHubBank t.hub.charter) = true)
          ∧ t.hub.wdCount = (if t.hub.bank = s.hub.bank then s.hub.wdCount else 0)
          ∧ (s.hub.slices.length = 8 → ∀ n : SliceId, (t.slice n).on = false → chStart t.hub.charter n.val = true →
              (s.hub.tgt n.val).thermal = false → (s.hub.tgt n.val).zeroing = false →
              (t.hub.tgt n.val).start = true ∧ (t.hub.tgt n.val).policy = true
              ∧ (t.hub.tgt n.val).cause = if (s.hub.tgt n.val).started then rstPolicy else (s.hub.tgt n.val).cause)
        ∨ t.hub.phase = .romOnly ∧ ∀ b, t.hub.hubImageOk b = true → bankMark s.hub.imgFailed b = true) := by
  obtain ⟨hw, hpend, -⟩ := hubBack_frame s
  obtain ⟨ts, hts⟩ := hw.frame
  cases e : s.hub.chartered.pickImage with
  | none =>
    have hs := startUp_romOnly ha e
    have hhub : s.hubBack.hub = { s.hub.chartered with phase := .romOnly, slices := ts } := by rw [hts, hs]
    obtain ⟨hch, hchar, hnvm, hsfp⟩ := hub_of_chartered hhub
    refine runs_hubStart_halted hf hp hoff (by rw [hs]; rfl) ⟨hch, hchar, hnvm, hpend, hsfp, Or.inr ⟨by rw [hhub], fun b hb => ?_⟩⟩
    exact pickImage_none e b ((hubImageOk_congr (by rw [hhub]) (by rw [hhub]) b).symm.trans hb)
  | some b =>
    have hs := startUp_running ha e
    obtain ⟨us, hus⟩ := (policyStarts_asks s.hubBack).1.hub
    have hhub : s.hubBack.policyStarts.hub = { s.hub.chartered with
        phase := .running, bank := b, wdCount := if b = s.hub.bank then s.hub.wdCount else 0, slices := us } := by
      rw [hus, hts, hs]
    obtain ⟨hch, hchar, hnvm, hsfp⟩ := hub_of_chartered hhub
    obtain ⟨hphase, hok, hmark, hfirst, hwd⟩ := image_of_running e hhub
    have hstarts := fun h8 n hon hst => policyStarts_of_running hs h8 (n := n) hon ((hch.trans (charter_chartered _).symm) ▸ hst)
    exact runs_hubStart_running hf hp hoff (by rw [hs]; rfl) ⟨hch, hchar, hnvm, (policyStarts_asks s.hubBack).1.pending.trans hpend, hsfp,
      Or.inl ⟨hphase, hok, hmark, hfirst, hwd, hstarts⟩⟩

/-! ### Restarts of the hub (R16, R51, R69) -/

theorem slice_hubDown (s : State) (f : Hub → Hub) (n : SliceId) : (s.hubDown f).slice n = f10mShow false (s.slice n) :=
  slice_eachSlice s _ n

theorem exec_hubWatchdogExpiry {s : State} (hr : s.hub.running = true) : exec .hubWatchdogExpiry s = .next (s.hubDown fun h =>
    if h.wdCount + 1 < 2 then { h.resetHub with wdCount := h.wdCount + 1, wdRestarted := true }
    else { h.resetHub with wdCount := 0, wdRestarted := true, imgFailed := setMark h.imgFailed h.bank true }) := by
  show execHubWatchdogExpiry s = _
  rw [execHubWatchdogExpiry, hr]
  rfl

theorem runs_hubWatchdogExpiry {s : State} (hr : s.hub.running = true) : Runs .hubWatchdogExpiry s fun t =>
    t.hub.phase = .off ∧ t.hub.sessions = [] ∧ t.hub.tx = [] ∧ t.hub.nvm = s.hub.nvm ∧ t.hub.charter = s.hub.charter
    ∧ t.hub.wdRestarted = true ∧ t.pending = s.pending ∧ (∀ n, (t.slice n).phase = (s.slice n).phase)
    ∧ (s.hub.wdCount = 0 → t.hub.wdCount = 1 ∧ t.hub.imgFailed = s.hub.imgFailed)
    ∧ (1 ≤ s.hub.wdCount → t.hub.wdCount = 0 ∧ t.hub.imgFailed = setMark s.hub.imgFailed s.hub.bank true) := by
  have hphase : ∀ f n, ((s.hubDown f).slice n).phase = (s.slice n).phase := fun f n => by
    obtain ⟨r, e⟩ := f10mShow_regsOnly false (s.slice n)
    rw [slice_hubDown, e]
    rfl
  refine Runs.intro (exec_hubWatchdogExpiry hr) ?_
  by_cases hc : s.hub.wdCount + 1 < 2
  · have h0 : s.hub.wdCount = 0 := by omega
    have hhub : (s.hubDown fun h => if h.wdCount + 1 < 2 then { h.resetHub with wdCount := h.wdCount + 1, wdRestarted := true }
        else { h.resetHub with wdCount := 0, wdRestarted := true, imgFailed := setMark h.imgFailed h.bank true }).hub
        = { s.hub.resetHub with wdCount := s.hub.wdCount + 1, wdRestarted := true } := if_pos hc
    rw [hhub]
    exact ⟨rfl, rfl, rfl, rfl, rfl, rfl, rfl, hphase _, fun _ => ⟨congrArg (· + 1) h0, rfl⟩, fun h => by omega⟩
  · have hhub : (s.hubDown fun h => if h.wdCount + 1 < 2 then { h.resetHub with wdCount := h.wdCount + 1, wdRestarted := true }
        else { h.resetHub with wdCount := 0, wdRestarted := true, imgFailed := setMark h.imgFailed h.bank true }).hub
        = { s.hub.resetHub with wdCount := 0, wdRestarted := true, imgFailed := setMark s.hub.imgFailed s.hub.bank true } := if_neg hc
    rw [hhub]
    exact ⟨rfl, rfl, rfl, rfl, rfl, rfl, rfl, hphase _, fun h => by omega, fun _ => ⟨rfl, rfl⟩⟩

theorem runs_hubRestart {s : State} {ses : Nat} (ha : s.hub.answers = true) (hses : s.hub.hubSession ses = true) :
    Runs (.hubRestart ses) s fun t =>
      t.hub.phase = .off ∧ t.hub.sessions = [] ∧ t.hub.tx = [] ∧ t.hub.nvm = s.hub.nvm ∧ t.hub.charter = s.hub.charter
      ∧ t.hub.imgFailed = s.hub.imgFailed ∧ t.hub.wdCount = 0 ∧ t.pending = s.pending
      ∧ ∀ n, t.slice n = { s.slice n with regs := (t.slice n).regs } ∧ ((s.slice n).on = true → ∀ i < 8,
          srcOf (s.slice n) (i / 2) (i % 2) = 1 → regBit (t.slice n) kTIM (trkOff (i / 2) (i % 2) + 4) 28 = false) := by
  have hnext : exec (.hubRestart ses) s = .next (s.hubDown Hub.restartHub) := by
    show Host.Outcome.next (if s.hub.answers && s.hub.hubSession ses then _ else s) = _
    rw [ha, hses]
    rfl
  refine Runs.intro hnext ⟨rfl, rfl, rfl, rfl, rfl, rfl, rfl, rfl, fun n => ?_⟩
  rw [slice_hubDown]
  refine ⟨?_, fun hon => (f10mShow_shows hon false).2⟩
  obtain ⟨r, e⟩ := f10mShow_regsOnly false (s.slice n)
  rw [e]
  rfl

/-! ### The obligation -/

/-- Settles O6, row by row. -/
theorem supplyAndHubStart : Obligations.SupplyAndHubStart := by
  refine ⟨fun s mv => ⟨fun hov => ?_, runsHub_supplyWarning_silent mv, runsHub_supplyWarning mv, ?_, runs_supplyFailure s mv,
      fun c hc => ?_, fun hov => ?_⟩,
    fun s ses => ⟨fun hf hp hoff => ⟨runs_hubStart_unclaimed hf hp hoff, runs_hubStart_claimed hf hp hoff⟩, runs_hubWatchdogExpiry,
      fun hr => ?_, runs_hubRestart⟩⟩
  · exact runsHub_onHub (f := fun h =>
      if h.ov then { h with vin := mvWord mv } else { h with vin := mvWord mv, felt := true, powered := true }) rfl
      (if_neg (Bool.eq_false_iff.1 hov))
  · exact RunsHub.intro (s := s) rfl ⟨rfl, rfl, rfl, rfl⟩
  · rcases List.mem_cons.1 hc with rfl | hc
    · exact Runs.intro (s := s) rfl ⟨slice_slicesLost s, rfl, rfl, rfl, rfl, rfl, rfl, slices_resetPackage s.hub (mvWord mv),
        (decide_eq_false Instr.noConfusion).symm, rfl⟩
    · obtain rfl := List.mem_singleton.1 hc
      exact Runs.intro (s := s) rfl ⟨slice_slicesLost s, rfl, rfl, rfl, rfl, rfl, rfl, slices_resetPackage s.hub (mvWord mv),
        (decide_eq_true rfl).symm, rfl⟩
  · exact Runs.intro (s := s) (t := { s.slicesLost with hub := { s.hub.resetPackage (mvWord mv) with felt := true, powered := true } })
      (if_pos hov) ⟨fun n => (slice_slicesLost s n).1, rfl, rfl, rfl, rfl, rfl, rfl, rfl⟩
  · show execHubWatchdogExpiry s = _
    rw [execHubWatchdogExpiry, hr]
    rfl

end Sys2Proof.Machine
end

section
/-! Proofs. The management port: whose a received frame is, what becomes of it, and what a slice sends (R80 to R82). -/

namespace Sys2Proof.Machine

set_option Elab.async false

/-! ### The hub after a change of a target -/

section
variable (h : Hub) (n : Nat) (f : HubSlice → HubSlice)

@[simp] theorem modTgt_charter : (h.modTgt n f).charter = h.charter := by unfold Hub.modTgt Hub.setTgt; split <;> rfl
@[simp] theorem modTgt_hubChar : (h.modTgt n f).hubChar = h.hubChar := by unfold Hub.modTgt Hub.setTgt; split <;> rfl
@[simp] theorem modTgt_anchors : (h.modTgt n f).anchors = h.anchors := by unfold Hub.modTgt Hub.setTgt; split <;> rfl
@[simp] theorem modTgt_nvm : (h.modTgt n f).nvm = h.nvm := by unfold Hub.modTgt Hub.setTgt; split <;> rfl
@[simp] theorem modTgt_nvmSets : (h.modTgt n f).nvmSets = h.nvmSets := by unfold Hub.modTgt Hub.setTgt; split <;> rfl
@[simp] theorem modTgt_sessions : (h.modTgt n f).sessions = h.sessions := by unfold Hub.modTgt Hub.setTgt; split <;> rfl
@[simp] theorem modTgt_tx : (h.modTgt n f).tx = h.tx := by unfold Hub.modTgt Hub.setTgt; split <;> rfl
@[simp] theorem modTgt_mgtDrops : (h.modTgt n f).mgtDrops = h.mgtDrops := by unfold Hub.modTgt Hub.setTgt; split <;> rfl
@[simp] theorem length_slices_modTgt : (h.modTgt n f).slices.length = h.slices.length := length_slices_setTgt h n _

theorem tgt_modTgt_self (h8 : h.slices.length = 8) : (h.modTgt n f).tgt n = f (h.tgt n) := tgt_setTgt_self h n _ h8

theorem tgt_modTgt_ne {m : Nat} (hm : m ≤ 8) (hn : n ≤ 8) (hne : m ≠ n) : (h.modTgt n f).tgt m = h.tgt m :=
  tgt_setTgt_ne h n m _ hm hn hne

end

/-! ### Delivery (R80) -/

/-- The rows that name a type of frame from a host, with that type (R87). -/
def hostRows (f : Bytes) : List (Instr × Nat) :=
  [(.hraOpen f, htOpen), (.request f, htRequest), (.eventAck f, htEventAck), (.hraClose f, htClose), (.claim f, htClaim)]

theorem exec_hostRow {f : Bytes} {i : Instr × Nat} (hi : i ∈ hostRows f) (s : State) : exec i.1 s = hraRow i.2 f s := by
  simp only [hostRows, List.mem_cons, List.not_mem_nil, or_false] at hi
  rcases hi with rfl | rfl | rfl | rfl | rfl <;> rfl

theorem exec_mgtFrameReceive {s : State} (ha : s.hub.answers = true) (f : Bytes) :
    exec (.mgtFrameReceive f) s = .next (s.mgtArrive f) := by
  show execMgtFrameReceive f s = _
  rw [execMgtFrameReceive, if_pos ha]

/-- A row that names a type delivers a frame of its type as the port does, and no other. -/
theorem exec_hostRow_eq {f : Bytes} {i : Instr × Nat} (hi : i ∈ hostRows f) (s : State) :
    exec i.1 s = if isHra f = true ∧ hraKind (hraPart f) = i.2 then exec (.mgtFrameReceive f) s else .next s := by
  rw [exec_hostRow hi, hraRow]
  by_cases h : isHra f = true ∧ hraKind (hraPart f) = i.2
  · rw [if_pos h, if_pos (by simp [h])]
    rfl
  · rw [if_neg h, if_neg (by simpa using h)]

section
variable {s : State} {f : Bytes} {n : Nat}

theorem mgtArrive_none (h : s.hub.mgtTarget f = none) :
    s.mgtArrive f = s.modHub fun h => { h with mgtDrops := h.mgtDrops + 1 } := by
  rw [State.mgtArrive, h]

theorem mgtArrive_hra (h : s.hub.mgtTarget f = some n) (hf : isHra f = true) : s.mgtArrive f = s.hraArrive n f := by
  rw [State.mgtArrive, h]
  exact if_pos hf

theorem mgtArrive_plain (h : s.hub.mgtTarget f = some n) (hf : isHra f = false) :
    s.mgtArrive f = s.modHub (·.modTgt n (·.receive f)) := by
  rw [State.mgtArrive, h]
  exact if_neg (Bool.eq_false_iff.1 hf)

/-- The engine drops frames of the types that the hub alone sends. -/
theorem hraArrive_other (h : hraKind (hraPart f) ∉ [1, 3, 6, 7, 8]) : s.hraArrive n f = s := by
  simp only [List.mem_cons, List.not_mem_nil, or_false, not_or] at h
  obtain ⟨h1, h3, h6, h7, h8⟩ := h
  rw [State.hraArrive]
  simp only [htOpen, htClaim, htRequest, htEventAck, htClose, h1, h3, h6, h7, h8, if_false, ite_self]

end

/-! ### Buffers and frames of slices (R81, R82) -/

theorem rx_receive (t : HubSlice) (f : Bytes) : (t.receive f).rx =
    t.rx ++ (if (t.rx.map (·.length)).foldl (· + ·) 0 + f.length ≤ 262144 then [f] else []) := by
  rw [HubSlice.receive, rxBuffer]
  split
  · next hfull => rw [if_neg (by omega), List.append_nil]
  · next hroom => rw [if_pos (by omega)]

theorem runsHub_receive {s : State} {f : Bytes} {n : Nat} (ha : s.hub.answers = true) (h8 : s.hub.slices.length = 8)
    (ht : s.hub.mgtTarget f = some n) (hn : n ≤ 8) (hf : isHra f = false) : RunsHub (.mgtFrameReceive f) s fun h =>
      (h.tgt n).rx = (s.hub.tgt n).rx
        ++ (if ((s.hub.tgt n).rx.map (·.length)).foldl (· + ·) 0 + f.length ≤ 262144 then [f] else [])
      ∧ (∀ m, m ≤ 8 → m ≠ n → h.tgt m = s.hub.tgt m) ∧ h.mgtDrops = s.hub.mgtDrops ∧ h.tx = s.hub.tx := by
  refine RunsHub.intro ((exec_mgtFrameReceive ha f).trans (congrArg _ (mgtArrive_plain ht hf))) ⟨?_, fun m hm hne => ?_, ?_⟩
  · exact (congrArg HubSlice.rx (tgt_modTgt_self s.hub n _ h8)).trans (rx_receive _ f)
  · exact tgt_modTgt_ne _ _ _ hm hn hne
  · exact ⟨modTgt_mgtDrops .., modTgt_tx ..⟩

theorem runsHub_mgtFrameTransmit {s : State} {sl : SliceId} (ha : s.hub.answers = true) (hon : (s.slice sl).on = true)
    (hv : chVlan s.hub.charter sl.val ≠ 0) (f : Bytes) : RunsHub (.mgtFrameTransmit sl f) s fun h =>
      h = { s.hub with tx := s.hub.tx ++ [(sl.val, retag f (chVlan s.hub.charter sl.val))] } := by
  refine RunsHub.intro (show execMgtFrameTransmit sl f s = _ from ?_) rfl
  rw [execMgtFrameTransmit, if_pos (by simp [ha, hon, hv])]
  rfl

/-- Settles O15, by whose the frame is and of which type. -/
theorem managementPort : Obligations.ManagementPort := by
  intro s f sl n ha h8
  refine ⟨fun ht => ?_, fun ht hn hf => runsHub_receive ha h8 ht hn hf, fun i hi => exec_hostRow_eq hi s, fun ht hf hk => ?_,
    fun hon hv => runsHub_mgtFrameTransmit ha hon hv f⟩
  · exact RunsHub.intro ((exec_mgtFrameReceive ha f).trans (congrArg _ (mgtArrive_none ht))) rfl
  · rw [exec_mgtFrameReceive ha, mgtArrive_hra ht hf, hraArrive_other hk]

end Sys2Proof.Machine
end

section
/-! Proofs. The hub's sessions after a change, and the frames it sends in them (R87, R90, R94). -/

namespace Sys2Proof.Machine

set_option Elab.async false

/-! ### Sessions after a change -/

theorem id_of_session {h : Hub} {id : Nat} {t : Session} (e : h.session id = some t) : t.id = id := by
  simpa using List.find?_some e

theorem mem_of_session {h : Hub} {id : Nat} {t : Session} (e : h.session id = some t) : t ∈ h.sessions :=
  List.mem_of_find?_eq_some e

theorem session_modSession {h : Hub} {id : Nat} {t : Session} {f : Session → Session} (e : h.session id = some t)
    (hf : ∀ u, (f u).id = u.id := by exact fun _ => rfl) : (h.modSession id f).session id = some (f t) := by
  have hid : (fun u : Session => decide (u.id = id)) ∘ (fun u => if u.id = id then f u else u) = fun u => decide (u.id = id) := by
    funext u
    simp only [Function.comp]
    split
    · rw [hf]
    · rfl
  rw [Hub.session, Hub.modSession, List.find?_map, hid, show h.sessions.find? (fun u => decide (u.id = id)) = some t from e,
    Option.map_some, if_pos (id_of_session e)]

theorem session_closeSession (h : Hub) (id : Nat) : (h.closeSession id).session id = none := by
  simp [Hub.closeSession, Hub.session]

/-! ### Frames of the hub's (R87) -/

theorem replyFrame_eq (status : Byte) (nops : Nat) (body : Bytes) : replyFrame status nops body = ⟨4, 0, 0, nops, status, body⟩ := rfl

/-- A session after a REPLY that it keeps as its last. -/
def Session.answered (t : Session) (r : CachedReply) : Session := { t with out := t.out + 1, lastReply := some r }

/-- The same, the reply among the last 16. -/
def Session.replied (t : Session) (r : CachedReply) : Session :=
  { t.answered r with cache := (t.cache ++ [r]).drop ((t.cache ++ [r]).length - 16) }

/-- The reply stands last among those kept. -/
theorem getLast_replied (t : Session) (r : CachedReply) : (t.replied r).cache.getLast? = some r := by
  have hlen : (t.cache ++ [r]).length - 16 ≤ t.cache.length := by rw [List.length_append, List.length_singleton]; omega
  rw [Session.replied, List.drop_append_of_le_length hlen, List.getLast?_concat]

/-- A hub that has changed in its sessions and sent one frame. -/
structure Sent (h g : Hub) (out : Nat × Bytes) : Prop where
  frame : g = { h with sessions := g.sessions, tx := h.tx ++ [out] }

section
variable {h g : Hub} {out : Nat × Bytes} (a : Sent h g out)

include a

theorem Sent.tx : g.tx = h.tx ++ [out] := by rw [a.frame]
theorem Sent.slices : g.slices = h.slices := by rw [a.frame]
theorem Sent.hubTgt : g.hubTgt = h.hubTgt := by rw [a.frame]
theorem Sent.charter : g.charter = h.charter := by rw [a.frame]
theorem Sent.anchors : g.anchors = h.anchors := by rw [a.frame]

end

section
variable {h : Hub} {id : Nat} {t : Session} (e : h.session id = some t)

include e

/-- A REPLY takes the next SEQ of the session (R90, R94). -/
theorem answer_shows (seq : Nat) (tag : BitVec 128) (status : Byte) (nops : Nat) (body : Bytes) :
    let g := sessionOut h t ⟨4, t.id, t.out + 1, nops, status, body⟩
    Sent h (h.answer id seq tag status nops body) g
    ∧ (h.answer id seq tag status nops body).session id = some (t.answered ⟨seq, tag, status, body, g.2⟩) := by
  intro g
  have hans : h.answer id seq tag status nops body = (h.sendIn t (replyFrame status nops body)).modSession id fun u =>
      { u with lastReply := some ⟨seq, tag, status, body, g.2⟩ } := by
    rw [Hub.answer, e]
    rfl
  have hout : (h.sendIn t (replyFrame status nops body)).session id = some { t with out := t.out + 1 } := by
    have hbump := session_modSession (f := fun u => { u with out := u.out + 1 }) e
    rw [← id_of_session e] at hbump ⊢
    exact hbump
  rw [hans]
  exact ⟨⟨rfl⟩, session_modSession hout⟩

theorem reply_shows (seq : Nat) (tag : BitVec 128) (status : Byte) (nops : Nat) (body : Bytes) :
    let g := sessionOut h t ⟨4, t.id, t.out + 1, nops, status, body⟩
    Sent h (h.reply id seq tag status nops body) g
    ∧ (h.reply id seq tag status nops body).session id = some (t.replied ⟨seq, tag, status, body, g.2⟩) := by
  intro g
  obtain ⟨hsent, hans⟩ := answer_shows e seq tag status nops body
  refine ⟨⟨?_⟩, session_modSession hans fun u => ?_⟩
  · rw [Hub.reply, hsent.frame]
    rfl
  · split <;> rfl

end

end Sys2Proof.Machine
end

section
/-! Proofs. Frames of sessions: the tag, the sequence window, and what an accepted frame does (R84 to R88, R94). -/

namespace Sys2Proof.Machine

set_option Elab.async false

/-! ### The engine of a target (R80, R87) -/

/-- What an accepted frame of a session does, by its type. -/
def sessionAct (type : Nat) (p : Bytes) (t : Session) (s : State) : State :=
  if type = htRequest then s.requested t p else if type = htEventAck then s.eventAcked t p else s.closed t

section
variable {s : State} {eng k : Nat} {f : Bytes}

/-- A row's frame goes to the engine of the target that it arrives at. -/
theorem Arrives.exec_eq {i : Instr} (h : Arrives s eng k f) (hi : (i, k) ∈ hostRows f) : exec i s = .next (s.hraArrive eng f) := by
  obtain ⟨ha, hf, hk, ht⟩ := h
  rw [exec_hostRow_eq hi, if_pos ⟨hf, hk⟩, exec_mgtFrameReceive ha, mgtArrive_hra ht hf]

theorem Arrives.opened (h : Arrives s eng htOpen f) : s.hraArrive eng f = s.modHub (·.opened eng f) := by
  obtain ⟨-, -, hk, -⟩ := h
  rw [State.hraArrive, hk]
  rfl

theorem Arrives.claimed (h : Arrives s 8 htClaim f) : s.hraArrive 8 f = s.modHub (·.claim f) := by
  obtain ⟨-, -, hk, -⟩ := h
  rw [State.hraArrive, hk]
  rfl

theorem Arrives.inSession (h : Arrives s eng k f) (hk : k ∈ [htRequest, htEventAck, htClose]) :
    s.hraArrive eng f = if hraFormed (hraPart f) then s.sessionFrame eng f (sessionAct k (hraPart f)) else s := by
  obtain ⟨-, -, he, -⟩ := h
  have hs : ∀ b : Bool, ∀ x : State, (if (!b) = true then s else x) = if b = true then x else s := by
    intro b x
    cases b <;> rfl
  simp only [List.mem_cons, List.not_mem_nil, or_false] at hk
  rw [State.hraArrive]
  rcases hk with rfl | rfl | rfl <;> rw [he] <;> exact hs _ _

/-! ### The sequence window (R86, R94) -/

/-- What a frame with a valid tag does under each verdict of R94. -/
def State.judged (s : State) (t : Session) (p : Bytes) (act : Session → State → State) : SeqVerdict → State
  | .accept => act t (s.modHub (·.modSession t.id (·.take (hraSeq p) (hraTag p))))
  | .resend r => s.modHub (·.resend t r)
  | .stale => s.modHub (·.answer t.id (hraSeq p) (hraTag p) hsStale 0 [0])
  | .drop => s.modHub fun h => { h with seqDrops := h.seqDrops + 1 }

theorem sessionFrame_none {act : Session → State → State}
    (h : s.hub.session (hraSes (hraPart f)) = none) : s.sessionFrame eng f act = s := by
  rw [State.sessionFrame]
  simp only [h]

section
variable {act : Session → State → State} {t : Session} (h : s.hub.session (hraSes (hraPart f)) = some t)

include h

theorem sessionFrame_foreign (hne : t.target ≠ eng) : s.sessionFrame eng f act = s := by
  rw [State.sessionFrame]
  simp only [h, hne, ne_eq, not_false_eq_true, if_true]

theorem sessionFrame_tagFails (ht : hraTagOk t.hostKey (hraPart f) = false) :
    s.sessionFrame t.target f act = s.modHub (·.tagFail t.id) := by
  rw [State.sessionFrame]
  simp only [h, ht, ne_eq, not_true_eq_false, if_false, Bool.not_false, if_true]

theorem sessionFrame_judged (ht : hraTagOk t.hostKey (hraPart f) = true) : s.sessionFrame t.target f act =
    s.judged t (hraPart f) act (t.judge (hraSeq (hraPart f)) (hraTag (hraPart f))) := by
  rw [State.sessionFrame]
  simp only [h, ht, ne_eq, not_true_eq_false, if_false, Bool.not_true, Bool.false_eq_true]
  rfl

end

end

/-- The rows of frames that a session carries, with their types. -/
def sessionRows (f : Bytes) : List (Instr × Nat) := [(.request f, htRequest), (.eventAck f, htEventAck), (.hraClose f, htClose)]

theorem type_of_sessionRow {f : Bytes} {i : Instr × Nat} (hi : i ∈ sessionRows f) : i.2 ∈ [htRequest, htEventAck, htClose] := by
  simp only [sessionRows, List.mem_cons, List.not_mem_nil, or_false] at hi
  rcases hi with rfl | rfl | rfl <;> simp

theorem hostRow_of_sessionRow {f : Bytes} {i : Instr × Nat} (hi : i ∈ sessionRows f) : i ∈ hostRows f := by
  simp only [sessionRows, List.mem_cons, List.not_mem_nil, or_false] at hi
  rcases hi with rfl | rfl | rfl <;> simp [hostRows]

section
variable {s : State} {f : Bytes} {t : Session} {i : Instr × Nat} (hi : i ∈ sessionRows f)

include hi

theorem Arrives.exec_sessionRow {eng : Nat} (h : Arrives s eng i.2 f) : exec i.1 s = .next
    (if hraFormed (hraPart f) then s.sessionFrame eng f (sessionAct i.2 (hraPart f)) else s) := by
  rw [h.exec_eq (i := i.1) (hostRow_of_sessionRow hi), h.inSession (type_of_sessionRow hi)]

/-- A frame of no session, or of one of another target, changes nothing (R87). -/
theorem Arrives.exec_outside {eng : Nat} (h : Arrives s eng i.2 f)
    (hs : s.hub.session (hraSes (hraPart f)) = none ∨ s.hub.session (hraSes (hraPart f)) = some t ∧ t.target ≠ eng) :
    exec i.1 s = .next s := by
  have hsame : s.sessionFrame eng f (sessionAct i.2 (hraPart f)) = s := by
    rcases hs with hn | ⟨ht, hne⟩
    · exact sessionFrame_none hn
    · exact sessionFrame_foreign ht hne
  rw [h.exec_sessionRow hi, hsame, ite_self]

theorem InSession.exec_eq (h : InSession s i.2 f t) : exec i.1 s = .next (s.judged t (hraPart f) (sessionAct i.2 (hraPart f))
    (t.judge (hraSeq (hraPart f)) (hraTag (hraPart f)))) := by
  obtain ⟨ha, hf, hs, ht⟩ := h
  rw [ha.exec_sessionRow hi, if_pos hf, sessionFrame_judged hs ht]

end

theorem InSession.session {s : State} {k : Nat} {f : Bytes} {t : Session} (h : InSession s k f t) :
    s.hub.session t.id = some t := by
  obtain ⟨-, -, hs, -⟩ := h
  rw [id_of_session hs, hs]

end Sys2Proof.Machine
end

section
/-! Proofs. Sessions: OPEN and its answers, CLOSE and time-outs, and frames that are not executed (R84 to R88, R94). -/

namespace Sys2Proof.Machine

set_option Elab.async false

/-! ### A free session number (R86) -/

/-- With fewer than 64 sessions the number that the hub picks is none of theirs. -/
theorem session_freshSession {h : Hub} (h64 : h.sessions.length < 64) : h.session h.freshSession = none := by
  rw [Hub.freshSession]
  generalize hc : (List.range 65).map (fun k => (h.nextSes - 1 + k) % 65535 + 1) = cs
  cases hf : cs.find? fun i => (h.session i).isNone with
  | some i => exact Option.isNone_iff_eq_none.1 (by simpa using List.find?_some hf)
  | none =>
    have hnodup : cs.Nodup := hc ▸ List.nodup_range.map_on fun a ha b hb e => by
      have := List.mem_range.1 ha
      have := List.mem_range.1 hb
      omega
    have htaken : cs ⊆ h.sessions.map (·.id) := fun i hi => by
      have hsome : ¬(h.session i).isNone = true := List.find?_eq_none.1 hf i hi
      obtain ⟨t, ht⟩ := Option.ne_none_iff_exists'.1 fun e => hsome (Option.isNone_iff_eq_none.2 e)
      exact List.mem_map.2 ⟨t, mem_of_session ht, id_of_session ht⟩
    have hlen : cs.length = 65 := hc ▸ by simp
    have := (hnodup.subperm htaken).length_le
    rw [List.length_map] at this
    omega

/-! ### Events that waited for a session (R96) -/

/-- A hub that has sent events: the sessions keep their numbers and targets, and nothing that waited to go out has gone. -/
structure EventsSent (h g : Hub) : Prop where
  keys : g.sessions.map sesKey = h.sessions.map sesKey
  tx : h.tx <+: g.tx
  rest : g.charter = h.charter ∧ g.anchors = h.anchors ∧ g.nvm = h.nvm

theorem EventsSent.refl (h : Hub) : EventsSent h h := ⟨rfl, List.prefix_refl _, rfl, rfl, rfl⟩

theorem EventsSent.trans {h g k : Hub} (a : EventsSent h g) (b : EventsSent g k) : EventsSent h k := by
  obtain ⟨ac, aa, an⟩ := a.rest
  obtain ⟨bc, ba, bn⟩ := b.rest
  exact ⟨b.keys.trans a.keys, a.tx.trans b.tx, bc.trans ac, ba.trans aa, bn.trans an⟩

theorem eventsSent_sendEvent (h : Hub) (n : Nat) (e : EventRec) : EventsSent h (h.sendEvent n e).2 := by
  refine List.foldlRecOn (motive := fun r : EventRec × Hub => EventsSent h r.2) _ _ (EventsSent.refl h) fun r hr t _ => ?_
  obtain ⟨ss, hb, hk⟩ := bumpOut_frame r.2 t.id
  refine hr.trans ⟨?_, List.prefix_append _ _, ?_⟩
  · exact (congrArg (fun g : Hub => g.sessions.map sesKey) hb).trans hk
  · exact ⟨rfl, rfl, rfl⟩

theorem eventsSent_sendQueued (h : Hub) (n : Nat) : EventsSent h (h.sendQueued n) := by
  refine List.foldlRecOn (motive := EventsSent h) _ _ (EventsSent.refl h) fun g hg p _ => ?_
  dsimp only
  split
  · exact hg
  · refine (hg.trans (eventsSent_sendEvent g n p.1)).trans ⟨?_, ?_, ?_⟩ <;> simp

/-- Where every event has gone out to some session, none waits. -/
theorem sendQueued_of_sent {h : Hub} {n : Nat} (hs : ∀ e ∈ (h.tgt n).events, e.copies ≠ []) : h.sendQueued n = h := by
  refine List.foldlRecOn (motive := (· = h)) _ _ rfl fun g hg p hp => ?_
  have hmem : p.1 ∈ (h.tgt n).events := List.mem_of_getElem? (List.mem_zipIdx_iff_getElem?.mp hp)
  exact (if_pos (hs _ hmem)).trans hg

/-! ### OPEN (R84, R86, R88) -/

/-- The hub as it makes a session, before it sends the events that waited. -/
def Hub.joined (h : Hub) (n : Nat) (f : Bytes) (free : Nat) (d : AcceptDraw) : Hub :=
  let b := hraBody (hraPart f)
  { h with
      free := free, sessions := h.sessions ++ [newSession h.freshSession n (srcMac f) b d], nextSes := h.freshSession % 65535 + 1
      tx := h.tx ++ [plainOut h n f ⟨2, h.freshSession, 0, 0, 0, acceptBody (openTarget b) (openNonce b) d⟩] }

theorem accept_joins (h : Hub) (n : Nat) (f : Bytes) :
    ∃ free d, h.accept n (srcMac f) (hraBody (hraPart f)) = (h.joined n f free d).sendQueued n := by
  obtain ⟨free, hf⟩ := acceptDraw_frame h
  refine ⟨free, h.acceptDraw.1, ?_⟩
  simp only [Hub.accept, hf]
  rfl

section
variable {s : State} {f : Bytes} {eng n k : Nat} (ha : Arrives s eng 1 f)

include ha

theorem exec_hraOpen : exec (.hraOpen f) s = .next { s with hub := s.hub.opened eng f } := by
  rw [ha.exec_eq (i := .hraOpen f) (by simp [hostRows, htOpen]), Arrives.opened ha]
  rfl

theorem exec_hraOpen_malformed (hf : openFormed (hraPart f) = false) :
    exec (.hraOpen f) s = .next (s.modHub (·.sendPlain eng (srcMac f) (rejectFrame (openTarget (hraBody (hraPart f))) 6))) := by
  rw [exec_hraOpen ha, Hub.opened]
  simp only [hf]
  rfl

section
variable (hf : openFormed (hraPart f) = true) (hn : targetOf (openTarget (hraBody (hraPart f))) = some n)

include hf hn

theorem exec_hraOpen_refused (hr : s.hub.openRefusal eng n (hraBody (hraPart f)) = some k) :
    exec (.hraOpen f) s = .next (s.modHub (·.sendPlain eng (srcMac f) (rejectFrame (openTarget (hraBody (hraPart f))) k))) := by
  rw [exec_hraOpen ha, Hub.opened]
  simp only [hf, hn, hr]
  rfl

theorem exec_hraOpen_accepted (hr : s.hub.openRefusal eng n (hraBody (hraPart f)) = none) :
    exec (.hraOpen f) s = .next (s.modHub (·.accept n (srcMac f) (hraBody (hraPart f)))) := by
  rw [exec_hraOpen ha, Hub.opened]
  simp only [hf, hn, hr]
  rfl

theorem runsHub_hraOpen_accepted (hr : s.hub.openRefusal eng n (hraBody (hraPart f)) = none) :
    RunsHub (.hraOpen f) s fun h => ∃ id d,
      let b := hraBody (hraPart f)
      s.hub.session id = none ∧ h.sessions.map sesKey = s.hub.sessions.map sesKey ++ [(id, n)]
      ∧ h.charter = s.hub.charter ∧ h.anchors = s.hub.anchors ∧ h.nvm = s.hub.nvm
      ∧ h.tx[s.hub.tx.length]? = some (plainOut s.hub n f ⟨2, id, 0, 0, 0, acceptBody (openTarget b) (openNonce b) d⟩)
      ∧ ((∀ e ∈ (s.hub.tgt n).events, e.copies ≠ []) → h.sessions = s.hub.sessions ++ [newSession id n (srcMac f) b d]
          ∧ h.tx.length = s.hub.tx.length + 1) := by
  obtain ⟨free, d, hj⟩ := accept_joins s.hub n f
  obtain ⟨h64, -⟩ := room_of_openRefusal_none hr
  refine RunsHub.intro (exec_hraOpen_accepted ha hf hn hr) ⟨s.hub.freshSession, d, session_freshSession h64, ?_⟩
  dsimp only
  rw [hj]
  obtain ⟨hkeys, htx, hrest⟩ := eventsSent_sendQueued (s.hub.joined n f free d) n
  obtain ⟨hch, han, hnvm⟩ := hrest
  refine ⟨?_, hch, han, hnvm, ?_, fun hs => ?_⟩
  · rw [hkeys]
    simp [Hub.joined, sesKey, newSession]
  · obtain ⟨more, hmore⟩ := htx
    rw [← hmore, Hub.joined, List.getElem?_append_left (by simp), List.getElem?_concat_length]
  · rw [sendQueued_of_sent (h := s.hub.joined n f free d) hs]
    exact ⟨rfl, by simp [Hub.joined]⟩

end

end

/-! ### Tag failures and CLOSE (R86, R88) -/

theorem tagFail_of_session {h : Hub} {id : Nat} {t : Session} (e : h.session id = some t) :
    let old := t.tagFails.filter fun c => decide (h.clk < c + 800000000)
    h.tagFail id = if 15 ≤ old.length then h.closeSession id else h.modSession id fun t => { t with tagFails := old ++ [h.clk] } := by
  intro old
  rw [Hub.tagFail, e]
  have hlen : 16 ≤ (old ++ [h.clk]).length ↔ 15 ≤ old.length := by rw [List.length_append, List.length_singleton]; omega
  exact if_congr hlen rfl rfl

theorem runsHub_tagFails {s : State} {f : Bytes} {t : Session} {i : Instr × Nat} (hi : i ∈ sessionRows f)
    (ha : Arrives s t.target i.2 f) (hf : hraFormed (hraPart f) = true) (hs : s.hub.session (hraSes (hraPart f)) = some t)
    (ht : hraTagOk t.hostKey (hraPart f) = false) :
    let old := t.tagFails.filter fun c => decide (s.hub.clk < c + 800000000)
    (old.length < 15 → RunsHub i.1 s fun h => h.session t.id = some { t with tagFails := old ++ [s.hub.clk] } ∧ h.tx = s.hub.tx)
    ∧ (15 ≤ old.length → RunsHub i.1 s fun h => h.session t.id = none ∧ h.tx = s.hub.tx) := by
  intro old
  have hid : s.hub.session t.id = some t := by rw [id_of_session hs, hs]
  have hnext : exec i.1 s = .next { s with hub := s.hub.tagFail t.id } := by
    rw [ha.exec_sessionRow hi, if_pos hf, sessionFrame_tagFails hs ht]
    rfl
  refine ⟨fun hfew => RunsHub.intro hnext ?_, fun hmany => RunsHub.intro hnext ?_⟩
  · rw [tagFail_of_session hid, if_neg (Nat.not_le.2 hfew)]
    exact ⟨session_modSession hid, rfl⟩
  · rw [tagFail_of_session hid, if_pos hmany]
    exact ⟨session_closeSession s.hub t.id, rfl⟩

section
variable {s : State} {f : Bytes} {t : Session} {i : Instr × Nat} (hi : i ∈ sessionRows f) (h : InSession s i.2 f t)

include hi h

theorem runsHub_resend {q : CachedReply} (hv : t.judge (hraSeq (hraPart f)) (hraTag (hraPart f)) = .resend q) : RunsHub i.1 s fun h =>
    h.session t.id = some { t with lastReply := some q } ∧ h.slices = s.hub.slices ∧ h.tx = s.hub.tx ++ [(t.target, q.frame)] := by
  have hnext := h.exec_eq hi
  rw [hv] at hnext
  exact RunsHub.intro hnext ⟨session_modSession (h := s.hub.queueTx t.target q.frame) h.session, rfl, rfl⟩

theorem runsHub_stale (hv : t.judge (hraSeq (hraPart f)) (hraTag (hraPart f)) = .stale) : RunsHub i.1 s fun h =>
    let g := sessionOut s.hub t ⟨4, t.id, t.out + 1, 0, 5, [0]⟩
    h.session t.id = some { t with out := t.out + 1, lastReply := some ⟨hraSeq (hraPart f), hraTag (hraPart f), 5, [0], g.2⟩ }
    ∧ h.slices = s.hub.slices ∧ h.tx = s.hub.tx ++ [g] := by
  have hnext := h.exec_eq hi
  rw [hv] at hnext
  obtain ⟨hsent, hans⟩ := answer_shows h.session (hraSeq (hraPart f)) (hraTag (hraPart f)) hsStale 0 [0]
  exact RunsHub.intro hnext ⟨hans, hsent.slices, hsent.tx⟩

theorem runsHub_seqDrop (hv : t.judge (hraSeq (hraPart f)) (hraTag (hraPart f)) = .drop) : RunsHub i.1 s fun h =>
    h = { s.hub with seqDrops := s.hub.seqDrops + 1 } := by
  have hnext := h.exec_eq hi
  rw [hv] at hnext
  exact RunsHub.intro hnext rfl

end

theorem runsHub_hraClose {s : State} {f : Bytes} {t : Session} (h : InSession s 7 f t)
    (hv : t.judge (hraSeq (hraPart f)) (hraTag (hraPart f)) = .accept) : RunsHub (.hraClose f) s fun h =>
      h.session t.id = none ∧ h.tx = s.hub.tx ++ [sessionOut s.hub t ⟨7, t.id, t.out + 1, 0, 0, []⟩] := by
  have hnext := h.exec_eq (i := (.hraClose f, 7)) (by simp [sessionRows, htClose])
  rw [hv] at hnext
  exact RunsHub.intro hnext ⟨session_closeSession _ _, rfl⟩

/-- Settles O16, row by row and verdict by verdict. -/
theorem hraSessions : Obligations.HraSessions := by
  intro s f eng n k ses t q
  exact ⟨fun ha hf hn => ⟨fun hr => RunsHub.intro (exec_hraOpen_refused ha hf hn hr) rfl,
      fun hr => runsHub_hraOpen_accepted ha hf hn hr⟩, fun ha hf => RunsHub.intro (exec_hraOpen_malformed ha hf) rfl,
    RunsHub.intro (s := s) rfl ⟨rfl, rfl⟩, fun h hv => runsHub_hraClose h hv, fun i hi => ⟨fun h hv => runsHub_resend hi h hv,
      fun h hv => runsHub_stale hi h hv, fun h hv => runsHub_seqDrop hi h hv, fun ha hs => ha.exec_outside hi hs,
      fun ha hf hs ht => runsHub_tagFails hi ha hf hs ht⟩⟩

end Sys2Proof.Machine
end

section
/-! Proofs. REQUESTs as they are accepted, and events as they are acknowledged and sent again (R90, R91, R93, R95, R96). -/

namespace Sys2Proof.Machine

set_option Elab.async false

/-! ### REQUESTs (R90, R91, R93) -/

/-- A REQUEST as it stands when it is accepted. -/
def newRun (p : Bytes) (ops : List HraOp) : HraRun := ⟨hraSeq p, hraTag p, ops, 0, []⟩

theorem slice_hostWake_ne (s : State) {m : Nat} {n : SliceId} (hn : n.val ≠ m) : (s.hostWake m).slice n = s.slice n := by
  rw [State.hostWake]
  split
  · next hm =>
    have hne : n ≠ sliceNo m := fun e => hn (by rw [e]; exact Nat.mod_eq_of_lt hm)
    dsimp only
    split
    · exact slice_setSlice_ne _ _ _ _ hne
    · rfl
  · rfl

/-- A REQUEST with operations, or to a slice that sleeps, becomes the one that runs. -/
theorem startRun_runs {s : State} {n : Nat} {r : HraRun} (h : r.ops ≠ [] ∨ s.targetSleeps n = true) (ses : Nat) :
    s.startRun ses n r = (s.modHub (·.modSession ses fun t => { t with run := some r })).hostWake n := by
  rw [State.startRun, if_neg]
  rintro ⟨hops, hsleeps⟩
  rcases h with h | h
  · exact h hops
  · exact absurd h (Bool.eq_false_iff.1 hsleeps)

theorem startRun_empty {s : State} {n : Nat} {r : HraRun} (ho : r.ops = []) (hs : s.targetSleeps n = false) (ses : Nat) :
    s.startRun ses n r = s.modHub (·.reply ses r.seq r.tag hsOk 0 [indexAll]) := by
  rw [State.startRun, if_pos ⟨ho, hs⟩]

section
variable {s : State} {t : Session} {p : Bytes} {ops : List HraOp}

theorem requested_malformed {k : Nat} (h : requestOps (hraNops p) (hraBody p) = .error k) :
    s.requested t p = s.modHub (·.reply t.id (hraSeq p) (hraTag p) hsMalformed 0 [byteOf k]) := by
  rw [State.requested, h]

theorem requested_first (h : requestOps (hraNops p) (hraBody p) = .ok ops) (hr : t.run = none) :
    s.requested t p = s.startRun t.id t.target (newRun p ops) := by
  rw [State.requested, h]
  exact if_neg (by simp [hr])

theorem requested_behind {r : HraRun} (h : requestOps (hraNops p) (hraBody p) = .ok ops) (hr : t.run = some r) : s.requested t p =
    (s.modHub (·.modSession t.id fun t => { t with waiting := t.waiting ++ [newRun p ops] })).hostWake t.target := by
  rw [State.requested, h]
  exact if_pos (by simp [hr])

end

/-! ### An accepted REQUEST -/

/-- A state in which a session has accepted a frame. -/
def State.taken (s : State) (t : Session) (p : Bytes) : State := s.modHub (·.modSession t.id (·.take (hraSeq p) (hraTag p)))

section
variable {s : State} {f : Bytes} {t : Session} (h : InSession s 3 f t)
  (hv : t.judge (hraSeq (hraPart f)) (hraTag (hraPart f)) = .accept)

include h in
theorem session_taken : (s.taken t (hraPart f)).hub.session t.id = some (t.take (hraSeq (hraPart f)) (hraTag (hraPart f))) :=
  session_modSession h.session

include h hv

theorem exec_request : exec (.request f) s = .next ((s.taken t (hraPart f)).requested t (hraPart f)) := by
  rw [h.exec_eq (i := (.request f, 3)) (by simp [sessionRows, htRequest]), hv]
  rfl

theorem runsHub_request_malformed {k : Nat} (hk : requestOps (hraNops (hraPart f)) (hraBody (hraPart f)) = .error k) :
    RunsHub (.request f) s fun g =>
      let out := sessionOut s.hub t ⟨4, t.id, t.out + 1, 0, 7, [byteOf k]⟩
      (∃ u, g.session t.id = some u ∧ u.lastReply = some ⟨hraSeq (hraPart f), hraTag (hraPart f), 7, [byteOf k], out.2⟩
        ∧ u.cache.getLast? = u.lastReply ∧ u.run = t.run ∧ u.h = max t.h (hraSeq (hraPart f)) ∧ u.out = t.out + 1)
      ∧ g.tx = s.hub.tx ++ [out] ∧ g.slices = s.hub.slices ∧ g.charter = s.hub.charter := by
  have hnext := (exec_request h hv).trans (congrArg _ (requested_malformed hk))
  obtain ⟨hsent, hrep⟩ := reply_shows (session_taken h) (hraSeq (hraPart f)) (hraTag (hraPart f)) hsMalformed 0 [byteOf k]
  exact RunsHub.intro hnext ⟨⟨_, hrep, rfl, getLast_replied _ _, rfl, rfl, rfl⟩, hsent.tx, hsent.slices, hsent.charter⟩

theorem runsHub_request_empty (ho : requestOps (hraNops (hraPart f)) (hraBody (hraPart f)) = .ok []) (hr : t.run = none)
    (hs : s.targetSleeps t.target = false) : RunsHub (.request f) s fun g =>
      let out := sessionOut s.hub t ⟨4, t.id, t.out + 1, 0, 0, [0xFF]⟩
      (∃ u, g.session t.id = some u ∧ u.lastReply = some ⟨hraSeq (hraPart f), hraTag (hraPart f), 0, [0xFF], out.2⟩
        ∧ u.cache.getLast? = u.lastReply ∧ u.run = none ∧ u.out = t.out + 1)
      ∧ g.tx = s.hub.tx ++ [out] ∧ g.slices = s.hub.slices := by
  have hstart := startRun_empty (s := s.taken t (hraPart f)) (r := newRun (hraPart f) []) rfl hs t.id
  have hnext := (exec_request h hv).trans (congrArg _ ((requested_first ho hr).trans hstart))
  obtain ⟨hsent, hrep⟩ := reply_shows (session_taken h) (hraSeq (hraPart f)) (hraTag (hraPart f)) hsOk 0 [indexAll]
  exact RunsHub.intro hnext ⟨⟨_, hrep, rfl, getLast_replied _ _, hr, rfl⟩, hsent.tx, hsent.slices⟩

variable {ops : List HraOp} (ho : requestOps (hraNops (hraPart f)) (hraBody (hraPart f)) = .ok ops)

include ho

theorem runs_request_first (hr : t.run = none) (hw : ops ≠ [] ∨ s.targetSleeps t.target = true) : Runs (.request f) s fun u =>
    u.hub.session t.id = some { t.take (hraSeq (hraPart f)) (hraTag (hraPart f)) with run := some (newRun (hraPart f) ops) }
    ∧ u.hub.tx = s.hub.tx ∧ ∀ n, n.val ≠ t.target → u.slice n = s.slice n := by
  have hnext := (exec_request h hv).trans (congrArg _ ((requested_first ho hr).trans (startRun_runs hw t.id)))
  refine Runs.intro hnext ⟨?_, ?_, fun n hn => slice_hostWake_ne _ hn⟩ <;> rw [hostWake_hub]
  · exact session_modSession (session_taken h)
  · rfl

theorem runs_request_behind {r : HraRun} (hr : t.run = some r) : Runs (.request f) s fun u =>
    u.hub.session t.id = some { t.take (hraSeq (hraPart f)) (hraTag (hraPart f)) with
      waiting := t.waiting ++ [newRun (hraPart f) ops] }
    ∧ u.hub.tx = s.hub.tx ∧ ∀ n, n.val ≠ t.target → u.slice n = s.slice n := by
  have hnext := (exec_request h hv).trans (congrArg _ (requested_behind ho hr))
  refine Runs.intro hnext ⟨?_, ?_, fun n hn => slice_hostWake_ne _ hn⟩ <;> rw [hostWake_hub]
  · exact session_modSession (session_taken h)
  · rfl

end

/-! ### Events (R95, R96) -/

section
variable {t : HubSlice} {id seq : Nat} {e : EventRec}

theorem copies_of_mem_ackEvent (he : e ∈ (t.ackEvent id seq).events) : ∀ c ∈ e.copies, ¬(c.1 = id ∧ c.2.1 = seq) := by
  obtain ⟨a, -, ha⟩ := List.mem_filterMap.1 he
  intro c hc
  dsimp only at ha
  split at ha
  · split at ha
    · exact nomatch ha
    · obtain rfl := Option.some.inj ha
      simpa [or_iff_not_imp_left] using (List.mem_filter.1 hc).2
  · next hany =>
    obtain rfl := Option.some.inj ha
    rintro ⟨rfl, rfl⟩
    exact hany (List.any_eq_true.2 ⟨c, hc, by simp⟩)

/-- An event that the session has not received under that SEQ stays. -/
theorem mem_ackEvent (he : e ∈ t.events) (hc : ∀ c ∈ e.copies, ¬(c.1 = id ∧ c.2.1 = seq)) : e ∈ (t.ackEvent id seq).events := by
  refine List.mem_filterMap.2 ⟨e, he, if_neg fun hany => ?_⟩
  obtain ⟨c, hmem, hit⟩ := List.any_eq_true.1 hany
  exact hc c hmem (by simpa using hit)

end

theorem overflow_of_none {h : Hub} {n : Nat} (hl : (h.tgt n).evLost = 0) : h.overflow n = h := if_pos (Or.inl hl)

theorem runsHub_eventAck {s : State} {f : Bytes} {t : Session} (h8 : s.hub.slices.length = 8) (h : InSession s 6 f t)
    (hv : t.judge (hraSeq (hraPart f)) (hraTag (hraPart f)) = .accept) (ht : t.target ≤ 8)
    (hl : (s.hub.tgt t.target).evLost = 0) : RunsHub (.eventAck f) s fun g =>
      let acked := beAt (hraBody (hraPart f)) 0 4
      (∀ e ∈ (g.tgt t.target).events, ∀ c ∈ e.copies, ¬(c.1 = t.id ∧ c.2.1 = acked))
      ∧ (∀ e ∈ (s.hub.tgt t.target).events, (∀ c ∈ e.copies, ¬(c.1 = t.id ∧ c.2.1 = acked)) → e ∈ (g.tgt t.target).events)
      ∧ g.session t.id = some (t.take (hraSeq (hraPart f)) (hraTag (hraPart f)))
      ∧ ∀ n, n ≤ 8 → n ≠ t.target → g.tgt n = s.hub.tgt n := by
  generalize hg : s.hub.modSession t.id (·.take (hraSeq (hraPart f)) (hraTag (hraPart f))) = g
  have g8 : g.slices.length = 8 := hg ▸ h8
  have gt : ∀ n, g.tgt n = s.hub.tgt n := fun n => hg ▸ rfl
  have gs : g.session t.id = some (t.take (hraSeq (hraPart f)) (hraTag (hraPart f))) := hg ▸ session_modSession h.session
  have hself := tgt_modTgt_self g t.target (·.ackEvent t.id (beAt (hraBody (hraPart f)) 0 4)) g8
  have hnext : exec (.eventAck f) s =
      .next { s with hub := g.modTgt t.target (·.ackEvent t.id (beAt (hraBody (hraPart f)) 0 4)) } := by
    rw [h.exec_eq (i := (.eventAck f, 6)) (by simp [sessionRows, htEventAck]), hv, ← overflow_of_none (n := t.target)
      (h := g.modTgt t.target (·.ackEvent t.id (beAt (hraBody (hraPart f)) 0 4))) ?_, ← hg]
    · rfl
    · rw [hself, gt]
      exact hl
  refine RunsHub.intro hnext ⟨fun e he => ?_, fun e he hc => ?_, ?_, fun n hn hne => ?_⟩
  · rw [hself] at he
    exact copies_of_mem_ackEvent he
  · rw [hself, gt]
    exact mem_ackEvent he hc
  · rw [Hub.session, modTgt_sessions]
    exact gs
  · rw [tgt_modTgt_ne _ _ _ hn ht hne, gt]

/-- An event's copies, those of a session under a SEQ counted as sent once more. -/
def EventRec.again (ses seq : Nat) (e : EventRec) : EventRec :=
  { e with copies := e.copies.map fun c => if copyResends ses seq c then (c.1, c.2.1, c.2.2 + 1) else c }

theorem foldl_queueTx (h : Hub) (t : Session) (g : EventRec → HraFrame) (es : List EventRec) :
    es.foldl (fun h e => h.queueTx t.target (h.sessionBytes t (g e))) h
      = { h with tx := h.tx ++ es.map fun e => sessionOut h t (g e) } := by
  induction es generalizing h with
  | nil => rw [List.foldl_nil, List.map_nil, List.append_nil]
  | cons e es ih =>
    rw [List.foldl_cons, ih, List.map_cons, ← List.singleton_append, ← List.append_assoc]
    rfl

theorem sessionOut_modTgt (h : Hub) (n : Nat) (u : HubSlice → HubSlice) (t : Session) (f : HraFrame) :
    sessionOut (h.modTgt n u) t f = sessionOut h t f := by
  simp only [sessionOut, Hub.targetVlan, modTgt_charter, modTgt_hubChar]

/-- The hub after an event has been sent again in a session under a SEQ. -/
def Hub.sentAgain (h : Hub) (ses seq : Nat) (t : Session) : Hub :=
  ((h.tgt t.target).events.filter fun e => e.copies.any (copyResends ses seq)).foldl
    (fun h e => h.queueTx t.target (h.sessionBytes t (eventFrame ses seq e)))
    (h.modTgt t.target fun u => { u with events := u.events.map (EventRec.again ses seq) })

theorem exec_eventResend {s : State} {ses : Nat} {t : Session} (e : s.hub.session ses = some t) (w : Word) :
    exec (.eventResend ses w) s = .next (s.modHub (·.sentAgain ses w.toNat t)) := by
  show execEventResend ses w s = _
  simp only [execEventResend, onHub, e]
  rfl

theorem runsHub_eventResend {s : State} {ses : Nat} {t : Session} (h8 : s.hub.slices.length = 8) (e : s.hub.session ses = some t)
    (ht : t.target ≤ 8) (w : Word) : RunsHub (.eventResend ses w) s fun h =>
      h.sessions = s.hub.sessions ∧ (∀ n, n ≤ 8 → n ≠ t.target → h.tgt n = s.hub.tgt n)
      ∧ (h.tgt t.target).events = (s.hub.tgt t.target).events.map (EventRec.again ses w.toNat)
      ∧ h.tx = s.hub.tx ++ ((s.hub.tgt t.target).events.filter fun e => e.copies.any (copyResends ses w.toNat)).map fun e =>
          sessionOut s.hub t (eventFrame ses w.toNat e) := by
  refine RunsHub.intro (exec_eventResend e w) ?_
  simp only [Hub.sentAgain, foldl_queueTx]
  refine ⟨modTgt_sessions .., fun n hn hne => tgt_modTgt_ne _ _ _ hn ht hne, congrArg HubSlice.events (tgt_modTgt_self _ _ _ h8), ?_⟩
  simp only [modTgt_tx, sessionOut_modTgt]

theorem exec_eventResend_none {s : State} {ses : Nat} (e : s.hub.session ses = none) (w : Word) :
    exec (.eventResend ses w) s = .next s := by
  show execEventResend ses w s = _
  simp only [execEventResend, onHub, e]

/-- Settles O17, frame by frame. -/
theorem hraRequestsAndEvents : Obligations.HraRequestsAndEvents := by
  intro s ses k f t ops r h8
  exact ⟨fun h hv => ⟨fun hk => runsHub_request_malformed h hv hk, fun ho hr hw => runs_request_first h hv ho hr hw,
      fun ho hr hs => runsHub_request_empty h hv ho hr hs, fun ho hr => runs_request_behind h hv ho hr⟩,
    fun h hv ht hl => runsHub_eventAck h8 h hv ht hl, fun w e ht => runsHub_eventResend h8 e ht w,
    fun w e => exec_eventResend_none e w⟩

end Sys2Proof.Machine
end

section
/-! Proofs. Operations of a REQUEST in their turn (R61, R67, R89 to R93, R111, R114, R430). -/

namespace Sys2Proof.Machine

set_option Elab.async false

/-! ### The operation in turn (R90, R93) -/

/-- A session with no REQUEST behind the one that has ended. -/
theorem nextRun_of_idle {s : State} {ses : Nat} {t : Session} (e : s.hub.session ses = some t) (hw : t.waiting = []) :
    s.nextRun ses = s := by
  rw [State.nextRun, e]
  dsimp only
  rw [hw]
  split
  · next hnil => exact nomatch hnil
  · rfl

theorem endRun_of_idle {s : State} {ses : Nat} {t : Session} (e : s.hub.session ses = some t) (hw : t.waiting = []) (r : HraRun)
    (status index : Byte) : s.endRun ses r status index = opEnded s ses r status index := by
  have hstop := session_modSession (f := fun u => { u with run := none }) e
  obtain ⟨-, hrep⟩ := reply_shows hstop r.seq r.tag status r.done (index :: r.data)
  exact nextRun_of_idle (s := opEnded s ses r status index) hrep hw

theorem afterAccess_ok {p : Access × State} {w : Word} {q : State} (h : p = (.ok w, q)) (k : Word → State → OpEnd × State) :
    afterAccess p k = k w q := by
  rw [h]
  rfl

theorem afterAccess_bad {p : Access × State} {q : State} (h : p = (.bad, q)) (k : Word → State → OpEnd × State) :
    afterAccess p k = (.fail hsBadAddr, q) := by
  rw [h]
  rfl

theorem sliceNo_val (sl : SliceId) : sliceNo sl.val = sl := Fin.ext (Nat.mod_eq_of_lt sl.isLt)

section
variable {s : State} {ses : Nat} {tgt : Option SliceId} {t : Session} {r : HraRun} {op : HraOp} {rest : List HraOp}
  (h : OpTurn s ses tgt t r op rest)

include h

theorem OpTurn.opGate (b : Bool) : s.opGate t.target b = none := by
  obtain ⟨-, -, -, hgate⟩ := h
  cases tgt with
  | none => rw [State.opGate, if_pos (hgate : t.target = 8).ge]
  | some sl =>
    obtain ⟨ht, hon, hmove, hcur⟩ := hgate
    rw [State.opGate, ht, if_neg (Nat.not_le.2 sl.isLt)]
    simp [sliceNo_val, hon, hmove, hcur]

theorem OpTurn.target : (if t.target < 8 then some (sliceNo t.target) else none) = tgt := by
  obtain ⟨-, -, -, hgate⟩ := h
  cases tgt with
  | none => exact if_neg (Nat.not_lt.2 (hgate : t.target = 8).ge)
  | some sl => rw [hgate.1, if_pos sl.isLt, sliceNo_val]

/-- An operation in turn is carried out, and ends as it says. -/
theorem OpTurn.runOp {f : HraOp → Option (Option SliceId → State → OpEnd × State)} {g : Option SliceId → State → OpEnd × State}
    (hf : f op = some g) : Machine.runOp ses f s = .next ((g tgt s).2.opEnd ses r (g tgt s).1) := by
  have hgate := h.opGate op.isRestart
  have htgt := h.target
  obtain ⟨hs, hr, hops, -⟩ := h
  simp only [Machine.runOp, hs, hr, hops, List.head?_cons, hf, hgate, htgt]

variable {i : Instr} {f : HraOp → Option (Option SliceId → State → OpEnd × State)}
  {g : Option SliceId → State → OpEnd × State} {q : State} (hi : exec i s = Machine.runOp ses f s) (hf : f op = some g)

include hi hf

theorem OpTurn.runs_done {d : Bytes} (hrest : rest ≠ []) (hg : g tgt s = (.done d, q)) :
    Runs i s fun u => u = opDone q ses r rest d := by
  have hnext := hi.trans (h.runOp hf)
  obtain ⟨-, -, hops, -⟩ := h
  rw [hg] at hnext
  refine Runs.intro hnext ?_
  rw [State.opEnd, opDone]
  simp only [hops, List.drop_succ_cons, List.drop_zero]
  exact if_neg hrest

theorem OpTurn.runs_hold (hg : g tgt s = (.hold, q)) : Runs i s fun u => u = q := by
  have hnext := hi.trans (h.runOp hf)
  rw [hg] at hnext
  exact Runs.intro hnext rfl

theorem OpTurn.runs_fail {status : Byte} (hw : t.waiting = []) (hg : g tgt s = (.fail status, s)) :
    Runs i s fun u => u = opEnded s ses r status (byteOf r.done) := by
  have hnext := hi.trans (h.runOp hf)
  obtain ⟨hs, -⟩ := h
  rw [hg] at hnext
  exact Runs.intro hnext (endRun_of_idle hs hw r status _)

end

/-! ### Register operations (R89 to R92, R111) -/

/-- Settles O18, operation by operation. -/
theorem hraRegisterOperations : Obligations.HraRegisterOperations := by
  intro s q q2 ses n us tgt t r op rest off v m w w2 dv d h hrest
  refine ⟨?_, ?_, ?_, ?_, ?_, ?_, ?_, ?_⟩
  · rintro rfl hread
    exact h.runs_done (show exec (.hraRead32 ses) s = runOp ses _ s from rfl) rfl hrest hread
  · rintro rfl hwrite
    exact h.runs_done (show exec (.hraWrite32 ses) s = runOp ses _ s from rfl) rfl hrest (afterAccess_ok hwrite _)
  · rintro rfl hlo hhi
    exact h.runs_done (show exec (.hraRead64 ses) s = runOp ses _ s from rfl) rfl hrest
      ((afterAccess_ok hlo _).trans (afterAccess_ok hhi _))
  · rintro rfl hhi hlo
    exact h.runs_done (show exec (.hraWrite64 ses) s = runOp ses _ s from rfl) rfl hrest
      ((afterAccess_ok hhi _).trans (afterAccess_ok hlo _))
  · rintro rfl hread hmatch
    exact h.runs_done (show exec (.hraWait ses) s = runOp ses _ s from rfl) rfl hrest
      ((afterAccess_ok hread _).trans (by rw [if_pos hmatch]))
  · rintro rfl hread hno
    exact h.runs_hold (show exec (.hraWait ses) s = runOp ses _ s from rfl) rfl
      ((afterAccess_ok hread _).trans (by rw [if_neg hno]))
  · rintro rfl hw
    exact h.runs_fail (show exec (.waitTimeout ses) s = runOp ses _ s from rfl) rfl hw rfl
  · rintro rfl hw hread
    exact h.runs_fail (show exec (.hraRead32 ses) s = runOp ses _ s from rfl) rfl hw (afterAccess_bad hread _)

end Sys2Proof.Machine
end

section
/-! Proofs. A slice that goes OFF and is asked to start again, and the operations of a REQUEST on a slice (R61, R62, R67, R89,
R93, R114, R430). -/

namespace Sys2Proof.Machine

set_option Elab.async false

/-! ### OFF, and restarts (R55, R62) -/

/-- A slice that goes OFF keeps its number, what it has told the hub, the model's fields, and SLC_BOOT.TRY. -/
theorem goOff_frame (x : Slice) :
    ∃ r, goOff x = Slice.setRegs { Slice.blank x.id .off with free := x.free, toHub := x.toHub, bus := x.bus } r := by
  rw [goOff, keepTry]
  split
  · exact ⟨_, rfl⟩
  · exact ⟨_, rfl⟩

@[simp] theorem phase_goOff (x : Slice) : (goOff x).phase = .off := by
  obtain ⟨r, e⟩ := goOff_frame x
  rw [e]
  rfl

@[simp] theorem dram_goOff (x : Slice) : (goOff x).dram = [] := by
  obtain ⟨r, e⟩ := goOff_frame x
  rw [e]
  rfl

@[simp] theorem toHub_goOff (x : Slice) : (goOff x).toHub = x.toHub := by
  obtain ⟨r, e⟩ := goOff_frame x
  rw [e]
  rfl

/-- A slice has gone OFF and is asked to start with a cause; the other slices are as they were. -/
structure Restarted (s u : State) (sl : SliceId) (c : BitVec 4) : Prop where
  off : u.slice sl = goOff (s.slice sl)
  asked : u.hub.tgt sl.val = (s.hub.tgt sl.val).ask c
  others : ∀ n, n ≠ sl → u.slice n = s.slice n

theorem restartSlice_restarts {s : State} {sl : SliceId} (h8 : s.hub.slices.length = 8)
    (hcool : ((s.hub.tgt sl.val).thermal && (s.hub.tgt sl.val).hot) = false) (c : BitVec 4) :
    Restarted s (s.restartSlice sl c) sl c where
  off := slice_setSlice_self s sl _
  asked := (tgt_modTgt_self s.hub sl.val _ h8).trans (if_neg (Bool.eq_false_iff.1 hcool))
  others n hn := slice_setSlice_ne s sl n _ hn

section
variable {s u : State} {sl : SliceId} {c : BitVec 4} (h : Restarted s u sl c)

include h

theorem Restarted.phase : (u.slice sl).phase = .off := by rw [h.off, phase_goOff]

theorem Restarted.dram : (u.slice sl).dram = [] := by rw [h.off, dram_goOff]

theorem Restarted.start : (u.hub.tgt sl.val).start = true := by rw [h.asked, HubSlice.ask]

theorem Restarted.cause (hs : (s.hub.tgt sl.val).started = true) : (u.hub.tgt sl.val).cause = c := by
  rw [h.asked, HubSlice.ask]
  exact if_pos hs

end

/-! ### Operations on a slice -/

section
variable {s : State} {ses : Nat} {sl : SliceId} {t : Session} {r : HraRun} {rest : List HraOp}

/-- The HOST bit of a channel, in its configuration register (R430). -/
theorem chReg_config (x : Slice) (ch : Nat) : chReg x ch 8 = regGet x kDMA (0x1008 + 64 * ch) := by
  rw [chReg, chOff, show 0x1000 + 0x40 * ch + 8 = 0x1008 + 64 * ch by omega]

theorem runs_muslinStage {buf : Nat} {it : Item} (h : OpTurn s ses (some sl) t r (.stage buf it) rest) (hrest : rest ≠ []) :
    Runs (.muslinStage ses) s fun u => u = opDone (s.onSliceNow sl (musEnter · buf it)) ses r rest [] :=
  h.runs_done (show exec (.muslinStage ses) s = runOp ses _ s from rfl) rfl hrest rfl

theorem runs_dmaKick {ch : Nat} {tail : Word} (h : OpTurn s ses (some sl) t r (.kick ch tail) rest) (hrest : rest ≠ [])
    (hbit : regBit (s.slice sl) kDMA (0x1008 + 64 * ch) 31 = true) : Runs (.dmaKick ses) s fun u =>
      u = opDone (s.onSliceNow sl (dmaTail · ch tail)) ses r rest [] := by
  refine h.runs_done (show exec (.dmaKick ses) s = runOp ses _ s from rfl) rfl hrest (if_neg ?_)
  rw [chReg_config, show wbit (regGet (s.slice sl) kDMA (0x1008 + 64 * ch)) 31 = true from hbit]
  decide

theorem runs_dmaKick_denied {ch : Nat} {tail : Word} (h : OpTurn s ses (some sl) t r (.kick ch tail) rest)
    (hbit : regBit (s.slice sl) kDMA (0x1008 + 64 * ch) 31 = false) (hw : t.waiting = []) : Runs (.dmaKick ses) s fun u =>
      u = opEnded s ses r 4 (byteOf r.done) := by
  refine h.runs_fail (show exec (.dmaKick ses) s = runOp ses _ s from rfl) rfl hw (if_pos ?_)
  rw [chReg_config, show wbit (regGet (s.slice sl) kDMA (0x1008 + 64 * ch)) 31 = false from hbit]
  decide

theorem runs_hraWake (h : OpTurn s ses (some sl) t r .wake rest) (hrest : rest ≠ []) : Runs (.hraWake ses) s fun u =>
    u = opDone s ses r rest [0] := by
  refine h.runs_done (show exec (.hraWake ses) s = runOp ses _ s from rfl) rfl hrest ?_
  obtain ⟨-, -, -, -, -, -, hcur⟩ := h
  show (OpEnd.done [byteOf (pwCur (s.slice sl))], s) = _
  rw [hcur]
  rfl

variable {key : Byte} (h : OpTurn s ses (some sl) t r (.restart key) rest)

include h

theorem runs_hraRestart_denied (hhot : ((s.hub.tgt sl.val).thermal && (s.hub.tgt sl.val).hot) = true) (hw : t.waiting = []) :
    Runs (.hraRestart ses) s fun u => u = opEnded s ses r 4 (byteOf r.done) :=
  h.runs_fail (show exec (.hraRestart ses) s = runOp ses _ s from rfl) rfl hw (if_pos hhot)

theorem runs_hraRestart (h8 : s.hub.slices.length = 8) (hcool : ((s.hub.tgt sl.val).thermal && (s.hub.tgt sl.val).hot) = false)
    (hrest : rest ≠ []) : Runs (.hraRestart ses) s fun u =>
      (u.slice sl).phase = .off ∧ (u.slice sl).dram = [] ∧ (u.hub.tgt sl.val).start = true
      ∧ ((s.hub.tgt sl.val).started = true → (u.hub.tgt sl.val).cause = 2) ∧ ∀ n, n ≠ sl → u.slice n = s.slice n := by
  obtain ⟨u, hnext, rfl⟩ := h.runs_done (show exec (.hraRestart ses) s = runOp ses _ s from rfl) rfl hrest
    (if_neg (Bool.eq_false_iff.1 hcool))
  have hr := restartSlice_restarts h8 hcool rstHost
  exact Runs.intro hnext ⟨hr.phase, hr.dram, hr.start, hr.cause, hr.others⟩

end

/-- Settles O19, operation by operation. -/
theorem hraSliceOperations : Obligations.HraSliceOperations := by
  intro s ses buf ch sl t r op rest it tail key h8 h hrest
  refine ⟨?_, ?_, ?_, ?_, ?_, ?_⟩
  · rintro rfl
    exact runs_muslinStage h hrest
  · rintro rfl hbit
    exact runs_dmaKick h hrest hbit
  · rintro rfl hbit hw
    exact runs_dmaKick_denied h hbit hw
  · rintro rfl
    exact runs_hraWake h hrest
  · rintro rfl hhot hw
    exact runs_hraRestart_denied h hhot hw
  · rintro rfl hcool
    exact runs_hraRestart h h8 hcool hrest

end Sys2Proof.Machine
end

section
/-! Proofs. Claims, and charters that are applied (R76, R78, R79, R83, R88). -/

namespace Sys2Proof.Machine

set_option Elab.async false

/-! ### CLAIM (R76, R78, R88) -/

/-- A claim's charter fails no rule of number 0. -/
theorem claimFails_ne_zero {c : Bytes} {k : Nat} (h : claimFails c = some k) : k ≠ 0 := by
  rintro rfl
  rw [claimFails] at h
  split at h
  · exact nomatch h
  · exact absurd (List.mem_of_find?_eq_some h) (by decide)

theorem active_banksFrom (h : Hub) (c : Bytes) (h8 : h.slices.length = 8) {n : Nat} (hn : n < 8) :
    ((h.banksFrom c).tgt n).active = chImgbank c n := by
  rw [Hub.tgt, if_pos hn, Hub.banksFrom, List.getElem?_map, List.getElem?_zipIdx,
    List.getElem?_eq_getElem (show n < h.slices.length by omega)]
  simp

section
variable {s : State} {f : Bytes} (ha : Arrives s 8 8 f)

include ha

theorem exec_claim : exec (.claim f) s = .next (s.modHub (·.claim f)) := by
  rw [ha.exec_eq (i := .claim f) (by simp [hostRows, htClaim]), Arrives.claimed ha]

theorem exec_claim_claimed (hp : s.hub.phase ≠ .unclaimed) : exec (.claim f) s = .next s := by
  have hsame : s.hub.claim f = s.hub := if_pos (Or.inl hp)
  rw [exec_claim ha, State.modHub, hsame]

variable (hf : hraFormed (hraPart f) = true) (hp : s.hub.phase = .unclaimed)

include hf hp

theorem runsHub_claim_denied {k : Nat} (hk : claimFails (hraBody (hraPart f)) = some k) : RunsHub (.claim f) s fun h =>
    h = { s.hub with tx := s.hub.tx ++ [plainOut s.hub 8 f ⟨8, 0, 0, 0, 4, [byteOf k, 0, 0, 0]⟩] } := by
  have hclaim : s.hub.claim f = s.hub.sendPlain hubTarget (srcMac f) (claimAnswer k) := by
    simp only [Hub.claim, hp, hf, ne_eq, not_true_eq_false, Bool.not_true, Bool.false_eq_true, or_self, if_false, hk]
  have hans : claimAnswer k = ⟨8, 0, 0, 0, 4, [byteOf k, 0, 0, 0]⟩ := by
    rw [claimAnswer, if_neg (claimFails_ne_zero hk)]
    rfl
  refine RunsHub.intro (exec_claim ha) (hclaim.trans ?_)
  rw [hans]
  rfl

theorem runsHub_claim_taken (h8 : s.hub.slices.length = 8) (hk : claimFails (hraBody (hraPart f)) = none) :
    RunsHub (.claim f) s fun h =>
      let c := hraBody (hraPart f)
      h.charter = c ∧ h.anchors = [chHubFp c] ∧ h.tx = s.hub.tx ++ [plainOut s.hub 8 f ⟨8, 0, 0, 0, 0, [0, 0, 0, 0]⟩]
      ∧ h.phase = .romOnly ∧ (∀ n, n < 8 → (h.tgt n).active = chImgbank c n) ∧ h.sessions = s.hub.sessions
      ∧ h.nvmGet (charterSlot s.hub.lowerCopy) c.length = c
      ∧ ∀ a n, a + n ≤ charterSlot s.hub.lowerCopy ∨ charterSlot s.hub.lowerCopy + c.length ≤ a →
          h.nvmGet a n = s.hub.nvmGet a n := by
  have hclaim : s.hub.claim f = (s.hub.sendPlain hubTarget (srcMac f) (claimAnswer 0)).takeClaim (hraBody (hraPart f)) := by
    simp only [Hub.claim, hp, hf, ne_eq, not_true_eq_false, Bool.not_true, Bool.false_eq_true, or_self, if_false, hk]
  have hnext := exec_claim ha
  rw [State.modHub, hclaim] at hnext
  exact RunsHub.intro hnext ⟨rfl, rfl, rfl, rfl, fun n hn => active_banksFrom _ _ h8 hn, rfl,
    sGetBytes_sPutBytes_whole _ _ _ rfl, fun a n h => sGetBytes_sPutBytes_out _ h⟩

end

/-! ### The end of a REQUEST of a hub session -/

/-- A state in which sessions and what waits to go out may have changed, and nothing else. -/
structure SessionsOnly (s u : State) : Prop where
  eq : ∃ ss fs, u = { s with hub := { s.hub with sessions := ss, tx := fs } }

theorem SessionsOnly.trans {s u v : State} (a : SessionsOnly s u) (b : SessionsOnly u v) : SessionsOnly s v := by
  obtain ⟨ss, fs, rfl⟩ := a.eq
  obtain ⟨ss', fs', rfl⟩ := b.eq
  exact ⟨ss', fs', rfl⟩

theorem sessionsOnly_modSession (s : State) (id : Nat) (f : Session → Session) : SessionsOnly s (s.modHub (·.modSession id f)) :=
  ⟨_, s.hub.tx, rfl⟩

theorem sessionsOnly_reply (s : State) (id seq : Nat) (tag : BitVec 128) (status : Byte) (nops : Nat) (body : Bytes) :
    SessionsOnly s (s.modHub (·.reply id seq tag status nops body)) := by
  cases e : s.hub.session id with
  | none =>
    have hans : s.hub.answer id seq tag status nops body = s.hub := by rw [Hub.answer, e]
    refine ⟨(s.hub.reply id seq tag status nops body).sessions, s.hub.tx, ?_⟩
    simp only [State.modHub, Hub.reply, hans]
    rfl
  | some t => exact ⟨_, _, congrArg (fun g => { s with hub := g }) (reply_shows e seq tag status nops body).1.frame⟩

/-- A session of the hub wakes no slice. -/
theorem sessionsOnly_startRun (s : State) (ses : Nat) (r : HraRun) : SessionsOnly s (s.startRun ses 8 r) := by
  rw [State.startRun]
  split
  · exact sessionsOnly_reply ..
  · exact sessionsOnly_modSession ..

theorem sessionsOnly_nextRun {s : State} {ses : Nat} {t : Session} (e : s.hub.session ses = some t) (ht : t.target = 8) :
    SessionsOnly s (s.nextRun ses) := by
  rw [State.nextRun, e]
  dsimp only
  split
  · rw [ht]
    exact (sessionsOnly_modSession ..).trans (sessionsOnly_startRun ..)
  · exact ⟨s.hub.sessions, s.hub.tx, rfl⟩

theorem sessionsOnly_endRun {s : State} {ses : Nat} {t : Session} (e : s.hub.session ses = some t) (ht : t.target = 8) (r : HraRun)
    (status index : Byte) : SessionsOnly s (s.endRun ses r status index) := by
  have hstop := session_modSession (f := fun u => { u with run := none }) e
  obtain ⟨-, hrep⟩ := reply_shows hstop r.seq r.tag status r.done (index :: r.data)
  exact ((sessionsOnly_modSession ..).trans (sessionsOnly_reply ..)).trans
    (sessionsOnly_nextRun (s := opEnded s ses r status index) hrep ht)

/-- Sessions with the numbers and targets they had are found under the same numbers. -/
theorem target_of_sesKey {h g : Hub} (hk : g.sessions.map sesKey = h.sessions.map sesKey) {id : Nat} {t : Session}
    (e : h.session id = some t) : ∃ u, g.session id = some u ∧ u.target = t.target := by
  have hfind : ∀ l : List Session, (l.find? fun u => u.id = id).map sesKey = (l.map sesKey).find? fun k => k.1 = id := fun l => by
    rw [List.find?_map]
    rfl
  have hsome : (g.session id).map sesKey = some (sesKey t) := by
    rw [Hub.session, hfind, hk, ← hfind]
    exact congrArg (Option.map sesKey) e
  obtain ⟨u, hu, hkey⟩ := Option.map_eq_some_iff.1 hsome
  exact ⟨u, hu, congrArg Prod.snd hkey⟩

/-! ### CHARTER_APPLY of a charter that a rule rejects (R76) -/

theorem exec_charterApply {s : State} {ses slot : Nat} {t : Session} {r : HraRun} {rest : List HraOp}
    (h : OpTurn s ses none t r (.charterApply slot) rest) {k : Nat}
    (hk : chFails s.hub.anchors (chSerial s.hub.charter) (s.hub.charterCopy slot) chAll = some k) : exec (.charterApply ses) s =
      .next ((s.modHub (·.event hubTarget evCharterRejected hubSliceByte (d64 k))).endRun ses r hsDenied (byteOf r.done)) := by
  refine (h.runOp (f := _) (g := _) rfl : execCharterApply ses s = _).trans ?_
  simp only [hk]
  rfl

theorem runs_charterApply_rejected {s : State} {ses slot : Nat} {t : Session} {r : HraRun} {rest : List HraOp}
    (h : OpTurn s ses none t r (.charterApply slot) rest) {k : Nat}
    (hk : chFails s.hub.anchors (chSerial s.hub.charter) (s.hub.charterCopy slot) chAll = some k) :
    Runs (.charterApply ses) s fun u => u.hub.charter = s.hub.charter ∧ u.hub.anchors = s.hub.anchors ∧ u.slices = s.slices
      ∧ (s.hub.hubTgt.events.length < 256 →
        ∃ e, e.code = 4 ∧ e.data = d64 k ∧ u.hub.hubTgt.events = s.hub.hubTgt.events ++ [e]) := by
  have hnext := exec_charterApply h hk
  obtain ⟨hs, -, -, ht⟩ := h
  obtain ⟨f, ss, fs, u, he, hkeys, -, hev⟩ := event_frame s.hub hubTarget evCharterRejected hubSliceByte (d64 k)
  obtain ⟨t', hs', ht'⟩ := target_of_sesKey (g := s.hub.event hubTarget evCharterRejected hubSliceByte (d64 k)) (he ▸ hkeys) hs
  obtain ⟨ss', fs', heq⟩ := (sessionsOnly_endRun (s := s.modHub (·.event hubTarget evCharterRejected hubSliceByte (d64 k)))
    hs' (ht'.trans ht) r hsDenied (byteOf r.done)).eq
  rw [heq] at hnext
  refine Runs.intro hnext ?_
  dsimp only [State.modHub]
  rw [he]
  refine ⟨rfl, rfl, rfl, fun hl => ?_⟩
  rcases hev with ⟨hfull, -⟩ | ⟨-, -, e, hc, -, hd, hevs⟩
  · exact absurd hfull (Nat.not_le.2 hl)
  · exact ⟨e, hc, hd, hevs⟩

end Sys2Proof.Machine
end

section
/-! Proofs. What a charter that is applied does to each slice (R79, R83). -/

namespace Sys2Proof.Machine

set_option Elab.async false

/-! ### The NVM after an erase -/

theorem sFind_filter_key {β : Type} (m : Sparse β) (p : Nat → Bool) (i : Nat) :
    sFind (m.filter fun e => p e.1) i = if p i = true then sFind m i else none := by
  induction m with
  | nil => rw [List.filter_nil, sFind, ite_self]
  | cons e m ih =>
    obtain ⟨k, v⟩ := e
    rw [List.filter_cons]
    by_cases hk : k = i
    · subst hk
      by_cases hp : p k = true
      · simp only [hp, if_true, sFind]
      · rw [if_neg hp, ih, if_neg hp, if_neg hp]
    · split
      · rw [sFind, if_neg hk, ih, sFind, if_neg hk]
      · rw [ih, sFind, if_neg hk]

theorem sGet_nvmErase (h : Hub) (o n i : Nat) :
    sGet 0 (h.nvmErase o n).nvm i = if o ≤ i ∧ i < o + n then 0 else sGet 0 h.nvm i := by
  rw [sGet, Hub.nvmErase, sFind_filter_key h.nvm fun a => !(decide (o ≤ a) && decide (a < o + n))]
  by_cases hi : o ≤ i ∧ i < o + n
  · rw [if_pos hi, if_neg (by simpa using hi)]
    rfl
  · rw [if_neg hi, if_pos (by simpa [imp_iff_not_or] using hi), sGet]

/-! ### What a change of charter leaves of the hub and of other slices -/

/-- What no part of a change of charter touches: the charter and the anchors, the number of entries; a session may close, and a
byte of the NVM may be erased. -/
structure CharterFrame (h g : Hub) : Prop where
  charter : g.charter = h.charter
  anchors : g.anchors = h.anchors
  slices : g.slices.length = h.slices.length
  sets : g.nvmSets.length = h.nvmSets.length
  sessions : g.sessions ⊆ h.sessions
  erased : ∀ i, sGet 0 h.nvm i = 0 → sGet 0 g.nvm i = 0

theorem CharterFrame.refl (h : Hub) : CharterFrame h h := ⟨rfl, rfl, rfl, rfl, List.Subset.refl _, fun _ e => e⟩

theorem CharterFrame.trans {h g k : Hub} (a : CharterFrame h g) (b : CharterFrame g k) : CharterFrame h k :=
  ⟨b.charter.trans a.charter, b.anchors.trans a.anchors, b.slices.trans a.slices, b.sets.trans a.sets,
    List.Subset.trans b.sessions a.sessions, fun i e => b.erased i (a.erased i e)⟩

theorem charterFrame_modTgt (h : Hub) (n : Nat) (f : HubSlice → HubSlice) : CharterFrame h (h.modTgt n f) :=
  ⟨by simp, by simp, by simp, by simp, by simp, by simp⟩

theorem charterFrame_modHubSlice (s : State) (n : Nat) (f : HubSlice → HubSlice) : CharterFrame s.hub (s.modHubSlice n f).hub :=
  charterFrame_modTgt s.hub n f

theorem charterFrame_closeSession (h : Hub) (id : Nat) : CharterFrame h (h.closeSession id) :=
  ⟨rfl, rfl, List.length_map _, rfl, List.filter_subset_self _, fun _ e => e⟩

theorem charterFrame_nvmErase (h : Hub) (o n : Nat) : CharterFrame h (h.nvmErase o n) :=
  ⟨rfl, rfl, rfl, rfl, List.Subset.refl _, fun i e => by rw [sGet_nvmErase, e, ite_self]⟩

theorem charterFrame_modNvm (h : Hub) (n : Nat) (f : NvmSet → NvmSet) : CharterFrame h (h.modNvm n f) :=
  ⟨rfl, rfl, rfl, length_modNth _ _ _, List.Subset.refl _, fun _ e => e⟩

/-- A target's record but for its events. -/
def HubSlice.quiet (t : HubSlice) : HubSlice := { t with events := [] }

/-- What a change of charter at one slice leaves of another. -/
structure SliceKept (s u : State) (n : SliceId) : Prop where
  slice : u.slice n = s.slice n
  tgt : (u.hub.tgt n.val).quiet = (s.hub.tgt n.val).quiet
  set : u.hub.nvmSet n.val = s.hub.nvmSet n.val

theorem SliceKept.refl (s : State) (n : SliceId) : SliceKept s s n := ⟨rfl, rfl, rfl⟩

theorem SliceKept.trans {s u v : State} {n : SliceId} (a : SliceKept s u n) (b : SliceKept u v n) : SliceKept s v n :=
  ⟨b.slice.trans a.slice, b.tgt.trans a.tgt, b.set.trans a.set⟩

theorem sliceKept_modTgt (s : State) {m n : SliceId} (hn : n ≠ m) (f : HubSlice → HubSlice) :
    SliceKept s (s.modHubSlice m.val f) n := by
  refine ⟨rfl, congrArg HubSlice.quiet (tgt_modTgt_ne s.hub m.val f n.isLt.le m.isLt.le fun e => hn (Fin.ext e)), ?_⟩
  simp only [State.modHubSlice, State.modHub, Hub.nvmSet, modTgt_nvmSets]

theorem sliceKept_sliceOff (s : State) {m n : SliceId} (hn : n ≠ m) : SliceKept s (s.sliceOff m) n :=
  ⟨slice_setSlice_ne s m n _ hn, rfl, rfl⟩

/-! ### Sessions of a VLAN that changes -/

theorem quiet_closeSession (h : Hub) (id n : Nat) : ((h.closeSession id).tgt n).quiet = (h.tgt n).quiet := by
  simp only [Hub.tgt, Hub.closeSession, List.getElem?_map]
  split
  · cases h.slices[n]? <;> rfl
  · rfl

theorem foldl_closeSession (ids : List Nat) (h : Hub) : CharterFrame h (ids.foldl Hub.closeSession h)
    ∧ (ids.foldl Hub.closeSession h).nvmSets = h.nvmSets
    ∧ (∀ n, ((ids.foldl Hub.closeSession h).tgt n).quiet = (h.tgt n).quiet)
    ∧ ∀ v ∈ (ids.foldl Hub.closeSession h).sessions, v.id ∉ ids := by
  induction ids generalizing h with
  | nil => exact ⟨CharterFrame.refl h, rfl, fun _ => rfl, fun _ _ => List.not_mem_nil⟩
  | cons a ids ih =>
    obtain ⟨hf, hn, hq, hs⟩ := ih (h.closeSession a)
    rw [List.foldl_cons]
    refine ⟨(charterFrame_closeSession h a).trans hf, hn, fun n => (hq n).trans (quiet_closeSession h a n), fun v hv => ?_⟩
    have hva : v.id ≠ a := by
      have := hf.sessions hv
      simpa [Hub.closeSession] using (List.mem_filter.1 this).2
    exact List.not_mem_cons_of_ne_of_not_mem hva (hs v hv)

/-- Closing the sessions of a target leaves none of it. -/
theorem target_closeTarget (h : Hub) (n : Nat) : ∀ v ∈ (h.closeTarget n).sessions, v.target ≠ n := by
  intro v hv ht
  obtain ⟨hf, -, -, hs⟩ := foldl_closeSession ((h.sessions.filter (·.target = n)).map (·.id)) h
  refine hs v hv (List.mem_map.2 ⟨v, List.mem_filter.2 ⟨hf.sessions hv, ?_⟩, rfl⟩)
  simpa using ht

/-! ### One slice under a new charter -/

section
variable (old new : Bytes) (s : State) (sl : SliceId)

/-- A state after a change of charter has closed a slice's sessions and named its bank. -/
def State.rechartered : State :=
  let s := if chVlan old sl.val ≠ chVlan new sl.val then s.modHub (·.closeTarget sl.val) else s
  if imageChanged old new sl.val then s.modHubSlice sl.val fun t => { t with active := chImgbank new sl.val } else s

theorem charterSlice_eq : State.charterSlice old new s sl =
    let v := s.rechartered old new sl
    if ownerChanged old new sl.val then v.ownerChange sl
    else if (imageChanged old new sl.val || (chPaired old sl.val != chPaired new sl.val)) && (v.slice sl).on then
      v.restartSlice sl rstCharter
    else v := rfl

theorem rechartered_slice (n : SliceId) : (s.rechartered old new sl).slice n = s.slice n := by
  simp only [State.rechartered]
  split_ifs <;> rfl

theorem rechartered_closed (hv : chVlan old sl.val ≠ chVlan new sl.val) :
    ∀ v ∈ (s.rechartered old new sl).hub.sessions, v.target ≠ sl.val := by
  simp only [State.rechartered, if_pos hv]
  split
  · simp only [State.modHubSlice, State.modHub, modTgt_sessions]
    exact target_closeTarget s.hub sl.val
  · exact target_closeTarget s.hub sl.val

/-- The hub after the sessions of a slice whose VLAN changes are closed. -/
theorem closed_spec (n : Nat) : ∃ g, (if chVlan old sl.val ≠ chVlan new sl.val then s.modHub (·.closeTarget sl.val) else s)
    = { s with hub := g } ∧ CharterFrame s.hub g ∧ g.nvmSets = s.hub.nvmSets ∧ (g.tgt n).quiet = (s.hub.tgt n).quiet := by
  split
  · obtain ⟨hf, hn, hq, -⟩ := foldl_closeSession ((s.hub.sessions.filter (·.target = sl.val)).map (·.id)) s.hub
    exact ⟨s.hub.closeTarget sl.val, rfl, hf, hn, hq n⟩
  · exact ⟨s.hub, rfl, CharterFrame.refl _, rfl, rfl⟩

theorem charterFrame_rechartered : CharterFrame s.hub (s.rechartered old new sl).hub := by
  obtain ⟨g, hg, hf, -, -⟩ := closed_spec old new s sl 0
  simp only [State.rechartered, hg]
  split
  · exact hf.trans (charterFrame_modHubSlice { s with hub := g } _ _)
  · exact hf

theorem sliceKept_rechartered {n : SliceId} (hn : n ≠ sl) : SliceKept s (s.rechartered old new sl) n := by
  obtain ⟨g, hg, -, hs, hq⟩ := closed_spec old new s sl n.val
  have hk : SliceKept s { s with hub := g } n := ⟨rfl, hq, by simp only [Hub.nvmSet, hs]⟩
  simp only [State.rechartered, hg]
  split
  · exact hk.trans (sliceKept_modTgt { s with hub := g } hn _)
  · exact hk

theorem tgt_rechartered (h8 : s.hub.slices.length = 8) : ((s.rechartered old new sl).hub.tgt sl.val).quiet =
    if imageChanged old new sl.val then { (s.hub.tgt sl.val).quiet with active := chImgbank new sl.val }
    else (s.hub.tgt sl.val).quiet := by
  obtain ⟨g, hg, hf, -, hq⟩ := closed_spec old new s sl sl.val
  simp only [State.rechartered, hg]
  split
  · have hself := tgt_modTgt_self g sl.val (fun t => { t with active := chImgbank new sl.val }) (hf.slices.trans h8)
    have hput : ∀ t : HubSlice, HubSlice.quiet { t with active := chImgbank new sl.val }
        = { t.quiet with active := chImgbank new sl.val } := fun _ => rfl
    exact (congrArg HubSlice.quiet hself).trans ((hput _).trans (by rw [hq]))
  · exact hq

/-! ### A change of owner (R79) -/

/-- The hub's part of a change of owner but for the marks of the slice: its partitions erased, its staged pages lost. -/
def Hub.disowned (h : Hub) (n : Nat) : Hub :=
  ((h.nvmErase (slicePart false n) slicePartSize).nvmErase (slicePart true n) slicePartSize).modNvm n fun _ => NvmSet.blank

theorem ownerChange_eq : s.ownerChange sl = ((s.sliceOff sl).modHub (·.disowned sl.val)).modHubSlice sl.val
    fun t => { t with zeroing := true, start := false, deferred := false } := rfl

theorem charterFrame_disowned (h : Hub) (n : Nat) : CharterFrame h (h.disowned n) :=
  ((charterFrame_nvmErase _ _ _).trans (charterFrame_nvmErase _ _ _)).trans (charterFrame_modNvm _ _ _)

theorem charterFrame_ownerChange : CharterFrame s.hub (s.ownerChange sl).hub :=
  (charterFrame_disowned s.hub sl.val).trans (charterFrame_modHubSlice ((s.sliceOff sl).modHub (·.disowned sl.val)) _ _)

theorem sliceKept_ownerChange {n : SliceId} (hn : n ≠ sl) : SliceKept s (s.ownerChange sl) n := by
  have hset : SliceKept (s.sliceOff sl) ((s.sliceOff sl).modHub (·.disowned sl.val)) n :=
    ⟨rfl, rfl, nvmSet_modNvm_ne _ _ fun e => hn (Fin.ext e)⟩
  exact ((sliceKept_sliceOff s hn).trans hset).trans (sliceKept_modTgt _ hn _)

/-- What a change of owner shows of its slice. -/
structure Disowned (u : State) (sl : SliceId) : Prop where
  phase : (u.slice sl).phase = .off
  dram : (u.slice sl).dram = []
  zeroing : (u.hub.tgt sl.val).zeroing = true
  set : u.hub.nvmSet sl.val = NvmSet.blank
  erased : ∀ b : Bool, ∀ o < slicePartSize, sGet 0 u.hub.nvm (slicePart b sl.val + o) = 0

theorem disowned_ownerChange (h8 : s.hub.slices.length = 8) (h9 : s.hub.nvmSets.length = 9) : Disowned (s.ownerChange sl) sl := by
  have hoff : (s.ownerChange sl).slice sl = goOff (s.slice sl) := slice_setSlice_self s sl _
  have htgt := tgt_modTgt_self (s.hub.disowned sl.val) sl.val
    (fun t => { t with zeroing := true, start := false, deferred := false }) h8
  have hself := charterFrame_modTgt (s.hub.disowned sl.val) sl.val
    fun t => { t with zeroing := true, start := false, deferred := false }
  refine ⟨by rw [hoff, phase_goOff], by rw [hoff, dram_goOff], congrArg HubSlice.zeroing htgt, ?_, fun b o ho => ?_⟩
  · have hset := nvmSet_modNvm_self (h := (s.hub.nvmErase (slicePart false sl.val) slicePartSize).nvmErase (slicePart true sl.val)
      slicePartSize) h9 (show sl.val < 9 by omega) fun _ => NvmSet.blank
    rw [ownerChange_eq]
    simp only [State.modHubSlice, State.modHub, Hub.nvmSet, modTgt_nvmSets]
    exact hset
  · refine hself.erased _ ?_
    cases b with
    | false => exact (charterFrame_nvmErase _ _ _).erased _ ((sGet_nvmErase _ _ _ _).trans (if_pos ⟨by omega, by omega⟩))
    | true => exact (sGet_nvmErase _ _ _ _).trans (if_pos ⟨by omega, by omega⟩)

theorem Disowned.kept {u w : State} {sl : SliceId} (h : Disowned u sl) (hf : CharterFrame u.hub w.hub) (hk : SliceKept u w sl) :
    Disowned w sl :=
  ⟨by rw [hk.slice, h.phase], by rw [hk.slice, h.dram], (congrArg HubSlice.zeroing hk.tgt).trans h.zeroing, hk.set.trans h.set,
    fun b o ho => hf.erased _ (h.erased b o ho)⟩

/-! ### A change of one slice, and of all -/

theorem charterFrame_restartSlice (c : BitVec 4) : CharterFrame s.hub (s.restartSlice sl c).hub :=
  charterFrame_modHubSlice (s.sliceOff sl) _ _

theorem sliceKept_restartSlice {n : SliceId} (hn : n ≠ sl) (c : BitVec 4) : SliceKept s (s.restartSlice sl c) n :=
  (sliceKept_sliceOff s hn).trans (sliceKept_modTgt _ hn _)

theorem charterFrame_charterSlice : CharterFrame s.hub (State.charterSlice old new s sl).hub := by
  refine (charterFrame_rechartered old new s sl).trans ?_
  rw [charterSlice_eq]
  dsimp only
  split_ifs
  · exact charterFrame_ownerChange _ sl
  · exact charterFrame_restartSlice _ sl _
  · exact CharterFrame.refl _

theorem sliceKept_charterSlice {n : SliceId} (hn : n ≠ sl) : SliceKept s (State.charterSlice old new s sl) n := by
  refine (sliceKept_rechartered old new s sl hn).trans ?_
  rw [charterSlice_eq]
  dsimp only
  split_ifs
  · exact sliceKept_ownerChange _ sl hn
  · exact sliceKept_restartSlice _ sl hn _
  · exact SliceKept.refl _ n

end

theorem foldl_charterSlice (old new : Bytes) (l : List SliceId) (s : State) :
    CharterFrame s.hub (l.foldl (State.charterSlice old new) s).hub
    ∧ ∀ n ∉ l, SliceKept s (l.foldl (State.charterSlice old new) s) n := by
  refine ⟨List.foldlRecOn (motive := fun u : State => CharterFrame s.hub u.hub) _ _ (CharterFrame.refl _) fun u hu m _ =>
      hu.trans (charterFrame_charterSlice old new u m), fun n hn => ?_⟩
  exact List.foldlRecOn (motive := fun u : State => SliceKept s u n) _ _ (SliceKept.refl s n) fun u hu m hm =>
    hu.trans (sliceKept_charterSlice old new u m fun e => hn (e ▸ hm))

/-- The state in which a charter has come into force, before its slices feel it. -/
def State.inForce (s : State) (c : Bytes) : State :=
  s.modHub fun h => { h with charter := c, anchors := if chTransfer c then h.anchors ++ [chHubFp c] else h.anchors }

/-- A slice feels a new charter once: before and after, it is kept. -/
theorem takeCharter_at (s : State) (c : Bytes) (sl : SliceId) : ∃ v,
    CharterFrame (s.inForce c).hub v.hub ∧ SliceKept (s.inForce c) v sl
    ∧ CharterFrame (State.charterSlice s.hub.charter c v sl).hub (s.takeCharter c).hub
    ∧ SliceKept (State.charterSlice s.hub.charter c v sl) (s.takeCharter c) sl := by
  obtain ⟨l₁, l₂, hl⟩ := List.append_of_mem (List.mem_finRange sl)
  have hnd : (l₁ ++ sl :: l₂).Nodup := hl ▸ List.nodup_finRange 8
  obtain ⟨-, hnd₂, hdisj⟩ := List.nodup_append.1 hnd
  have h₁ : sl ∉ l₁ := fun h => hdisj sl h sl (List.mem_cons_self ..) rfl
  have h₂ : sl ∉ l₂ := (List.nodup_cons.1 hnd₂).1
  have htake : s.takeCharter c = l₂.foldl (State.charterSlice s.hub.charter c)
      (State.charterSlice s.hub.charter c (l₁.foldl (State.charterSlice s.hub.charter c) (s.inForce c)) sl) := by
    show (List.finRange 8).foldl (State.charterSlice s.hub.charter c) (s.inForce c) = _
    rw [hl, List.foldl_append, List.foldl_cons]
  obtain ⟨hf₁, hk₁⟩ := foldl_charterSlice s.hub.charter c l₁ (s.inForce c)
  obtain ⟨hf₂, hk₂⟩ := foldl_charterSlice s.hub.charter c l₂
    (State.charterSlice s.hub.charter c (l₁.foldl (State.charterSlice s.hub.charter c) (s.inForce c)) sl)
  exact ⟨_, hf₁, hk₁ sl h₁, htake ▸ hf₂, htake ▸ hk₂ sl h₂⟩

section
variable {s : State} {new : Bytes} {sl : SliceId}

theorem takeCharter_inForce : (s.takeCharter new).hub.charter = new
    ∧ (s.takeCharter new).hub.anchors = (if chTransfer new then s.hub.anchors ++ [chHubFp new] else s.hub.anchors) := by
  obtain ⟨hf, -⟩ := foldl_charterSlice s.hub.charter new (List.finRange 8) (s.inForce new)
  exact ⟨hf.charter, hf.anchors⟩

theorem takeCharter_disowns (h8 : s.hub.slices.length = 8) (h9 : s.hub.nvmSets.length = 9)
    (ho : ownerChanged s.hub.charter new sl.val = true) : Disowned (s.takeCharter new) sl := by
  obtain ⟨v, hf, -, hf', hk'⟩ := takeCharter_at s new sl
  have hr := hf.trans (charterFrame_rechartered s.hub.charter new v sl)
  rw [charterSlice_eq] at hf' hk'
  simp only [ho, if_true] at hf' hk'
  exact (disowned_ownerChange _ sl (hr.slices.trans h8) (hr.sets.trans h9)).kept hf' hk'

theorem takeCharter_restarts (h8 : s.hub.slices.length = 8) (ho : ownerChanged s.hub.charter new sl.val = false)
    (hi : imageChanged s.hub.charter new sl.val = true) (hon : (s.slice sl).on = true) (hc : (s.hub.tgt sl.val).thermal = false) :
    ((s.takeCharter new).slice sl).phase = .off ∧ ((s.takeCharter new).hub.tgt sl.val).start = true
    ∧ ((s.takeCharter new).hub.tgt sl.val).active = chImgbank new sl.val := by
  obtain ⟨v, hf, hk, -, hk'⟩ := takeCharter_at s new sl
  have v8 : v.hub.slices.length = 8 := hf.slices.trans h8
  have htgt := tgt_rechartered s.hub.charter new v sl v8
  rw [if_pos hi, hk.tgt] at htgt
  have hcool : ((v.rechartered s.hub.charter new sl).hub.tgt sl.val).thermal = false := (congrArg HubSlice.thermal htgt).trans hc
  have hactive : ((v.rechartered s.hub.charter new sl).hub.tgt sl.val).active = chImgbank new sl.val := congrArg HubSlice.active htgt
  have hstill : ((v.rechartered s.hub.charter new sl).slice sl).on = true := by
    rw [rechartered_slice, hk.slice]
    exact hon
  rw [charterSlice_eq] at hk'
  simp only [ho, hi, hstill, Bool.false_eq_true, if_false, Bool.true_or, Bool.and_self, if_true] at hk'
  have hr := restartSlice_restarts (c := rstCharter) ((charterFrame_rechartered s.hub.charter new v sl).slices.trans v8)
    (by rw [hcool, Bool.false_and])
  refine ⟨by rw [hk'.slice, hr.phase], (congrArg HubSlice.start hk'.tgt).trans hr.start, (congrArg HubSlice.active hk'.tgt).trans ?_⟩
  exact (congrArg HubSlice.active hr.asked).trans hactive

theorem takeCharter_closes (hv : chVlan s.hub.charter sl.val ≠ chVlan new sl.val) :
    ∀ v ∈ (s.takeCharter new).hub.sessions, v.target ≠ sl.val := by
  obtain ⟨v, -, -, hf', -⟩ := takeCharter_at s new sl
  intro w hw
  refine rechartered_closed s.hub.charter new v sl hv w ?_
  have hw' := hf'.sessions hw
  rw [charterSlice_eq] at hw'
  dsimp only at hw'
  split_ifs at hw'
  · exact (charterFrame_ownerChange _ sl).sessions hw'
  · exact (charterFrame_restartSlice _ sl _).sessions hw'
  · exact hw'

theorem takeCharter_keeps (ho : ownerChanged s.hub.charter new sl.val = false) (hi : imageChanged s.hub.charter new sl.val = false)
    (hp : chPaired s.hub.charter sl.val = chPaired new sl.val) : (s.takeCharter new).slice sl = s.slice sl := by
  obtain ⟨v, -, hk, -, hk'⟩ := takeCharter_at s new sl
  rw [charterSlice_eq] at hk'
  simp only [ho, hi, hp, bne_self_eq_false, Bool.or_self, Bool.false_and, Bool.false_eq_true, if_false] at hk'
  rw [hk'.slice, rechartered_slice, hk.slice]
  rfl

end

/-! ### The rows -/

theorem runs_charterApply_taken {s : State} {ses slot : Nat} {t : Session} {r : HraRun} {rest : List HraOp}
    (h : OpTurn s ses none t r (.charterApply slot) rest) (hrest : rest ≠ [])
    (hk : chFails s.hub.anchors (chSerial s.hub.charter) (s.hub.charterCopy slot) chAll = none) : Runs (.charterApply ses) s fun u =>
      u = opDone (s.takeCharter (s.hub.charterCopy slot)) ses r rest [] := by
  refine h.runs_done (show exec (.charterApply ses) s = runOp ses _ s from rfl) rfl hrest ?_
  simp only [Option.isSome_none, Bool.false_eq_true, if_false, hk]

theorem runsHub_ownerZeroingDone {s : State} {sl : SliceId} (h8 : s.hub.slices.length = 8)
    (hz : (s.hub.tgt sl.val).zeroing = true) : RunsHub (.ownerZeroingDone sl) s fun h =>
      (h.tgt sl.val).zeroing = false
      ∧ (h.tgt sl.val).start = ((s.hub.tgt sl.val).start
          || (chStart s.hub.charter sl.val && !((s.hub.tgt sl.val).thermal && (s.hub.tgt sl.val).hot)))
      ∧ (∀ n, n ≤ 8 → n ≠ sl.val → h.tgt n = s.hub.tgt n) ∧ h.nvm = s.hub.nvm := by
  refine RunsHub.intro (show execOwnerZeroingDone sl s = _ from rfl) ⟨?_, ?_, fun n hn hne => ?_, modTgt_nvm ..⟩
  · rw [tgt_modTgt_self _ _ _ h8]
    simp only [hz, Bool.not_true, Bool.false_eq_true, if_false]
    split <;> rfl
  · rw [tgt_modTgt_self _ _ _ h8]
    simp only [hz, Bool.not_true, Bool.false_eq_true, if_false]
    split
    · next hs => rw [show (chStart s.hub.charter sl.val && !((s.hub.tgt sl.val).thermal && (s.hub.tgt sl.val).hot)) = true from hs,
        Bool.or_true, HubSlice.ask]
    · next hs => rw [show (chStart s.hub.charter sl.val && !((s.hub.tgt sl.val).thermal && (s.hub.tgt sl.val).hot)) = false from
        Bool.eq_false_iff.2 hs, Bool.or_false]
  · exact tgt_modTgt_ne _ _ _ hn sl.isLt.le hne

/-- Settles O14, row by row. -/
theorem claimAndCharter : Obligations.ClaimAndCharter := by
  intro s f k ses slot t r rest sl h8 h9
  refine ⟨fun ha hf hp hk => runsHub_claim_denied ha hf hp hk, fun ha hf hp hk => runsHub_claim_taken ha hf hp h8 hk,
    fun ha hp => exec_claim_claimed ha hp, fun h => ⟨fun hk => runs_charterApply_rejected h hk, fun hk hrest => ?_⟩,
    fun hz => runsHub_ownerZeroingDone h8 hz⟩
  obtain ⟨u, hnext, rfl⟩ := runs_charterApply_taken h hrest hk
  obtain ⟨hcharter, hanchors⟩ := takeCharter_inForce (s := s) (new := s.hub.charterCopy slot)
  refine Runs.intro hnext ⟨hcharter, hanchors, fun ho => ?_, fun ho hi hon hc => takeCharter_restarts h8 ho hi hon hc,
    fun hv v hv' => ?_, fun ho hi hp => takeCharter_keeps ho hi hp⟩
  · have hd := takeCharter_disowns h8 h9 ho
    exact ⟨hd.phase, hd.dram, hd.zeroing, hd.set, hd.erased⟩
  · obtain ⟨w, hw, rfl⟩ := List.mem_map.1 hv'
    have hne := takeCharter_closes hv w hw
    split <;> exact hne

end Sys2Proof.Machine
end

section
/-! Proofs. The boot of a slice: training, image check and network boot (R66, R68, R70, R72, R73, R391). -/

namespace Sys2Proof.Machine

set_option Elab.async false

/-! ### The next step of a start (R70, R72) -/

section
variable (s : State) (sl : SliceId)

theorem nextBoot_bank_slice (b fb : Bool) (rest : List BootStep) :
    (s.nextBoot sl (.bank b fb :: rest)).slice sl = { s.slice sl with phase := .streaming b fb rest } := slice_setSlice_self s sl _

theorem nextBoot_bank_streaming (h8 : s.hub.slices.length = 8) (b fb : Bool) (rest : List BootStep) :
    ((s.nextBoot sl (.bank b fb :: rest)).hub.tgt sl.val).streaming = some b :=
  congrArg HubSlice.streaming (tgt_modTgt_self s.hub sl.val _ h8)

theorem nextBoot_net (rest : List BootStep) : s.nextBoot sl (.net :: rest) =
    s.setSlice sl { s.slice sl with phase := .netboot 0 rest, netReq := some (netRequest s.hub sl.val) } := rfl

theorem nextBoot_nil_slice : (s.nextBoot sl []).slice sl = goOff (s.slice sl) := slice_setSlice_self s sl _

theorem nextBoot_others (plan : List BootStep) {n : SliceId} (hn : n ≠ sl) : (s.nextBoot sl plan).slice n = s.slice n := by
  match plan with
  | [] => exact slice_setSlice_ne s sl n _ hn
  | .bank b fb :: rest => exact slice_setSlice_ne s sl n _ hn
  | .net :: rest => exact slice_setSlice_ne s sl n _ hn

end

/-! ### Events of a slice (R95, R96) -/

/-- An event joins the queue of its target, if that has room, and leaves what streams. -/
theorem eventOpen_shows {h : Hub} (h8 : h.slices.length = 8) (n c k : Nat) : (h.eventOpen n c k).slices.length = 8
    ∧ ((h.eventOpen n c k).tgt n).streaming = (h.tgt n).streaming
    ∧ ((h.tgt n).events.length < 256 → ∃ e, e.code = c ∧ ((h.eventOpen n c k).tgt n).events = (h.tgt n).events ++ [e]) := by
  obtain ⟨f, ss, fs, t, he, -, ht, hev⟩ := event_frame h.freeD.2 n c k h.freeD.1
  rw [Hub.eventOpen, he, tgt_setTgt_self _ n t (by exact h8)]
  refine ⟨(length_slices_setTgt _ _ _).trans h8, by rw [ht]; rfl, fun hl => ?_⟩
  rcases hev with ⟨hfull, -⟩ | ⟨-, -, e, hc, -, -, hevs⟩
  · exact absurd hfull (Nat.not_le.2 hl)
  · exact ⟨e, hc, hevs⟩

/-! ### DRAM training (R391) -/

/-- A DEGRADED entry is a note to the hub of event code 8, SLICE_FAULT (R471). -/
theorem note_faultLog_degraded (x : Slice) (blk unit code detail : Nat) :
    ∃ k, k ∈ (faultLog x fcDegraded blk unit code detail).toHub ∧ k.code = 8 := by
  have hsoft : ¬fcDegraded = fcSoft := by decide
  have hlost : ¬fcDegraded = fcLost := by decide
  simp only [faultLog, hsoft, hlost, if_false]
  exact ⟨_, List.mem_append_right _ (List.mem_singleton_self _), rfl⟩

section
variable {s : State} {sl : SliceId} {pass : Word} {plan : List BootStep} (hp : (s.slice sl).phase = .training plan)

include hp

theorem runs_dramTrainingDone_few (hfew : popCount pass.toNat 32 < 30) : Runs (.dramTrainingDone sl pass) s fun t =>
    (t.slice sl).phase = .off ∧ t.hub = s.hub ∧ t.pending = s.pending ∧ (∃ k, k ∈ (t.slice sl).toHub ∧ k.code = 8) := by
  have hnext : ∃ l, execDramTrainingDone sl pass s =
      .next ((s.setSlice sl (faultLog (s.slice sl) fcDegraded kDRC l 0x08 l)).sliceOff sl) := by
    rw [execDramTrainingDone]
    simp only [hp, if_pos hfew]
    exact ⟨_, rfl⟩
  obtain ⟨l, hnext⟩ := hnext
  have hoff : ((s.setSlice sl (faultLog (s.slice sl) fcDegraded kDRC l 0x08 l)).sliceOff sl).slice sl
      = goOff (faultLog (s.slice sl) fcDegraded kDRC l 0x08 l) := by
    rw [State.sliceOff, slice_setSlice_self, slice_setSlice_self]
  refine Runs.intro hnext ⟨by rw [hoff, phase_goOff], rfl, rfl, ?_⟩
  rw [hoff, toHub_goOff]
  exact note_faultLog_degraded _ _ _ _ _

theorem exec_dramTrainingDone (hmany : 30 ≤ popCount pass.toNat 32) : exec (.dramTrainingDone sl pass) s =
    .next ((s.setSlice sl (mapTrained (s.slice sl) pass)).nextBoot sl plan) := by
  show execDramTrainingDone sl pass s = _
  rw [execDramTrainingDone]
  simp only [hp, if_neg (Nat.not_lt.2 hmany)]

end

theorem runs_dramTrainingDone_bank {s : State} {sl : SliceId} {pass : Word} {b fb : Bool} {rest : List BootStep}
    (h8 : s.hub.slices.length = 8) (hp : (s.slice sl).phase = .training (.bank b fb :: rest))
    (hmany : 30 ≤ popCount pass.toNat 32) : Runs (.dramTrainingDone sl pass) s fun t =>
      (t.slice sl).phase = .streaming b fb rest ∧ (t.hub.tgt sl.val).streaming = some b ∧ ∀ n, n ≠ sl → t.slice n = s.slice n :=
  Runs.intro (exec_dramTrainingDone hp hmany) ⟨congrArg Slice.phase (nextBoot_bank_slice _ sl b fb rest),
    nextBoot_bank_streaming (s.setSlice sl (mapTrained (s.slice sl) pass)) sl h8 b fb rest,
    fun n hn => (nextBoot_others _ sl _ hn).trans (slice_setSlice_ne s sl n _ hn)⟩

theorem runsOn_dramTrainingDone_net {s : State} {sl : SliceId} {pass : Word} {rest : List BootStep}
    (hp : (s.slice sl).phase = .training (.net :: rest)) (hmany : 30 ≤ popCount pass.toNat 32) :
    RunsOn (.dramTrainingDone sl pass) s sl fun y => y.phase = .netboot 0 rest ∧ y.netReq = some (netRequest s.hub sl.val) := by
  have hnext := exec_dramTrainingDone hp hmany
  rw [nextBoot_net, setSlice_setSlice] at hnext
  exact RunsOn.intro hnext ⟨rfl, rfl⟩

/-! ### The image check (R66, R68) -/

theorem clk_dramLand {x y : Slice} {a : Nat} {bs : Bytes} (h : dramLand x a bs = some y) : y.clk = x.clk := by
  rw [dramLand] at h
  dsimp only at h
  split_ifs at h <;> obtain rfl := Option.some.inj h <;> rfl

/-- The slice's clock goes on while a payload is placed. -/
theorem clk_loadPayload (x : Slice) (load : Nat) (payload : Sparse Byte) : (loadPayload x load payload).clk = x.clk := by
  refine List.foldlRecOn (motive := fun y : Slice => y.clk = x.clk) _ _ rfl fun y hy e _ => ?_
  cases h : dramLand y (load + e.1) [e.2] with
  | none => exact hy
  | some z => exact (clk_dramLand h).trans hy

/-- Where cores start, SLC_BOOT is as it was, and SLC_VER shows the image's version. -/
theorem regGet_coreStart_boot (x : Slice) (hd : Bytes) (k : Nat) : regGet (coreStart x hd k) kSLC 0x140 = regGet x kSLC 0x140 :=
  regGet_regSet_ne x _ _ _ _ _ (by decide)

theorem regGet_coreStart_version (x : Slice) (hd : Bytes) (k : Nat) : regGet (coreStart x hd k) kSLC 0x144 = w32 (imgVer hd) :=
  regGet_regSet_self x _ _ _

/-- SLC_BOOT shows the bank that a slice booted from, and whether it fell back (R70). -/
def bankShown (x : Slice) (b fb : Bool) : Slice := regPut (regPut x kSLC 0x140 8 8 b.toNat) kSLC 0x140 9 9 fb.toNat

theorem bankShown_bits (x : Slice) (b fb : Bool) :
    regBit (bankShown x b fb) kSLC 0x140 8 = b ∧ regBit (bankShown x b fb) kSLC 0x140 9 = fb := by
  constructor
  · rw [bankShown, regBit_regPut_other _ _ _ _ _ _ _ (by decide) (by decide) (by decide), regBit_regPut_self _ _ _ _ _ (by decide)]
    cases b <;> rfl
  · rw [bankShown, regBit_regPut_self _ _ _ _ _ (by decide)]
    cases fb <;> rfl

/-- A slice as a valid image of a bank starts it. -/
def imageStarted (h : Hub) (x : Slice) (n : Nat) (b fb : Bool) : Slice :=
  let hd := h.sliceHeader b n
  coreStart (bankShown (loadPayload x (imgLoad hd) (h.payload (slicePart b n + 256) (imgLen hd))) b fb) hd (chConfirmTo h.charter n)

section
variable {s : State} {sl : SliceId} {b fb : Bool} {rest : List BootStep} (hp : (s.slice sl).phase = .streaming b fb rest)
  (ha : s.hub.answers = true)

include hp ha

theorem exec_imageChecked_valid (hok : s.hub.sliceImageOk b sl.val = true) : exec (.imageChecked sl) s =
    .next ((s.setSlice sl (imageStarted s.hub (s.slice sl) sl.val b fb)).modHub fun h =>
      if fb then (h.eventOpen sl.val evBootDone sl.val).eventOpen sl.val evBootFallback sl.val
      else h.eventOpen sl.val evBootDone sl.val) := by
  show execImageChecked sl s = _
  rw [execImageChecked]
  simp only [hp, ha, hok, Bool.not_true, Bool.false_eq_true, if_false, if_true]
  rfl

theorem exec_imageChecked_invalid (hok : s.hub.sliceImageOk b sl.val = false) : exec (.imageChecked sl) s =
    .next ((s.modHubSlice sl.val fun t => { t with streaming := none }).nextBoot sl rest) := by
  show execImageChecked sl s = _
  rw [execImageChecked]
  simp only [hp, ha, hok, Bool.not_true, Bool.false_eq_true, if_false]

theorem runs_imageChecked_valid (h8 : s.hub.slices.length = 8) (hok : s.hub.sliceImageOk b sl.val = true)
    (hl : (s.hub.tgt sl.val).events.length < 255) : Runs (.imageChecked sl) s fun t =>
      (t.slice sl).phase = .running ∧ (t.slice sl).started = [(0, d64 (imgEntry (s.hub.sliceHeader b sl.val)))]
      ∧ regGet (t.slice sl) kSLC 0x144 = w32 (imgVer (s.hub.sliceHeader b sl.val))
      ∧ regBit (t.slice sl) kSLC 0x140 8 = b ∧ regBit (t.slice sl) kSLC 0x140 9 = fb
      ∧ (t.slice sl).confirmAt = some ((s.slice sl).clk + chConfirmTo s.hub.charter sl.val * 800000000)
      ∧ ((t.hub.tgt sl.val).events.drop (s.hub.tgt sl.val).events.length).map (·.code) = (if fb then [1, 3] else [1])
      ∧ ∀ n, n ≠ sl → t.slice n = s.slice n := by
  refine Runs.intro (exec_imageChecked_valid hp ha hok) ?_
  have hself : ∀ f, ((s.setSlice sl (imageStarted s.hub (s.slice sl) sl.val b fb)).modHub f).slice sl
      = imageStarted s.hub (s.slice sl) sl.val b fb := fun f => slice_setSlice_self s sl _
  rw [hself]
  refine ⟨rfl, rfl, regGet_coreStart_version .., ?_, ?_, ?_, ?_, fun n hn => slice_setSlice_ne s sl n _ hn⟩
  · rw [regBit, imageStarted, regGet_coreStart_boot]
    exact (bankShown_bits _ b fb).1
  · rw [regBit, imageStarted, regGet_coreStart_boot]
    exact (bankShown_bits _ b fb).2
  · exact congrArg (fun c => some (c + _)) (clk_loadPayload ..)
  · obtain ⟨g8, -, happ⟩ := eventOpen_shows h8 sl.val evBootDone sl.val
    obtain ⟨e, he, hev⟩ := happ (by omega)
    cases fb with
    | false =>
      show List.map _ (List.drop _ ((s.hub.eventOpen sl.val evBootDone sl.val).tgt sl.val).events) = _
      rw [hev, List.drop_left, List.map_singleton, he]
      rfl
    | true =>
      obtain ⟨-, -, happ'⟩ := eventOpen_shows g8 sl.val evBootFallback sl.val
      obtain ⟨e', he', hev'⟩ := happ' (by rw [hev, List.length_append, List.length_singleton]; omega)
      show List.map _ (List.drop _ (((s.hub.eventOpen sl.val evBootDone sl.val).eventOpen sl.val evBootFallback sl.val).tgt
        sl.val).events) = _
      rw [hev', hev, List.append_assoc, List.drop_left, List.singleton_append, List.map_cons, List.map_singleton, he, he']
      rfl

theorem runs_imageChecked_last (h8 : s.hub.slices.length = 8) (hok : s.hub.sliceImageOk b sl.val = false) (hr : rest = []) :
    Runs (.imageChecked sl) s fun t =>
      (t.slice sl).phase = .off ∧ (t.hub.tgt sl.val).streaming = none ∧ ∀ n, n ≠ sl → t.slice n = s.slice n := by
  subst hr
  refine Runs.intro (exec_imageChecked_invalid hp ha hok) ⟨?_, ?_, fun n hn => nextBoot_others _ sl [] hn⟩
  · rw [nextBoot_nil_slice, phase_goOff]
  · obtain ⟨-, hkeep, -⟩ := eventOpen_shows (h := s.hub.modTgt sl.val fun t => { t with streaming := none })
      ((length_slices_modTgt ..).trans h8) sl.val evBootFailed sl.val
    exact hkeep.trans (congrArg HubSlice.streaming (tgt_modTgt_self s.hub sl.val _ h8))

theorem runs_imageChecked_net (hok : s.hub.sliceImageOk b sl.val = false) (hr : rest = [.net]) : Runs (.imageChecked sl) s fun t =>
    t.slice sl = { s.slice sl with phase := .netboot 0 [], netReq := some (netRequest s.hub sl.val) }
    ∧ ∀ n, n ≠ sl → t.slice n = s.slice n := by
  subst hr
  refine Runs.intro (exec_imageChecked_invalid hp ha hok) ⟨?_, fun n hn => nextBoot_others _ sl [.net] hn⟩
  rw [nextBoot_net, slice_setSlice_self]
  simp only [State.modHubSlice, State.modHub, netRequest, modTgt_charter]
  rfl

end

/-! ### Network boot (R73) -/

theorem tftpFile_cons {n : Nat} {b : Bytes} {l : List Bytes} (hl : l ≠ []) :
    tftpFile n (b :: l) = if b.length = n then (tftpFile n l).map (b ++ ·) else none := by
  cases l with
  | nil => exact absurd rfl hl
  | cons c l => rfl

/-- Whole blocks and a shorter last one are a file; any other transfer is none (RFC 1350). -/
theorem tftpFile_eq (n : Nat) (bs : List Bytes) (last : Bytes) : tftpFile n (bs ++ [last]) =
    if (∀ b ∈ bs, b.length = n) ∧ last.length < n then some (bs.flatten ++ last) else none := by
  induction bs with
  | nil => simp [tftpFile]
  | cons b bs ih =>
    rw [List.cons_append, tftpFile_cons (by simp), ih]
    by_cases hb : b.length = n
    · rw [if_pos hb]
      by_cases hw : (∀ b ∈ bs, b.length = n) ∧ last.length < n
      · rw [if_pos hw, if_pos ⟨by simpa [hb] using hw.1, hw.2⟩]
        simp
      · rw [if_neg hw, if_neg fun h => hw ⟨fun c hc => h.1 c (List.mem_cons_of_mem _ hc), h.2⟩]
        rfl
    · rw [if_neg hb, if_neg fun h => hb (h.1 b (List.mem_cons_self ..))]

/-- Frames of a slice pass the management port: it has a VLAN, and the hub answers. -/
def netReaches (h : Hub) (n : Nat) : Prop := chVlan h.charter n ≠ 0 ∧ h.answers = true

/-- A transfer of whole blocks and a shorter last one. -/
def wholeTransfer (bs : List Bytes) (last : Bytes) : Prop := (∀ b ∈ bs, b.length = 1468) ∧ last.length < 1468

theorem fetched_whole {h : Hub} {n : Nat} {bs : List Bytes} {last : Bytes} (hn : netReaches h n) (hw : wholeTransfer bs last) :
    fetched h n (.file (bs ++ [last])) = some (bs.flatten ++ last) := by
  obtain ⟨hv, ha⟩ := hn
  have hno : ¬((netRequest h n).vlan = 0 ∨ h.answers = false) := by
    rintro (h0 | h0)
    · exact hv h0
    · exact absurd ha (Bool.eq_false_iff.1 h0)
  rw [fetched]
  exact (if_neg hno).trans ((tftpFile_eq 1468 bs last).trans (if_pos hw))

/-- An attempt without an answer, without a way to the network, or without a whole transfer brings no file. -/
theorem fetched_none {h : Hub} {n : Nat} {bs : List Bytes} {last : Bytes} {r : NetBoot} (hr : r = .noAnswer ∨ ¬netReaches h n
    ∨ r = .file [] ∨ (r = .file (bs ++ [last]) ∧ ¬wholeTransfer bs last)) : fetched h n r = none := by
  cases r with
  | noAnswer => rfl
  | file blocks =>
    rw [fetched]
    by_cases hno : (netRequest h n).vlan = 0 ∨ h.answers = false
    · exact if_pos hno
    · refine (if_neg hno).trans ?_
      have hreach : netReaches h n := ⟨fun h0 => hno (Or.inl h0), Bool.not_eq_false _ ▸ fun h0 => hno (Or.inr h0)⟩
      rcases hr with hr | hr | hr | ⟨hr, hw⟩
      · exact nomatch hr
      · exact absurd hreach hr
      · obtain rfl := NetBoot.file.inj hr
        rfl
      · obtain rfl := NetBoot.file.inj hr
        exact (tftpFile_eq 1468 bs last).trans (if_neg hw)

section
variable {s : State} {sl : SliceId} {tries : Nat} {rest : List BootStep} {r : NetBoot}
  (hp : (s.slice sl).phase = .netboot tries rest)

include hp

theorem exec_networkBoot_none (hf : fetched s.hub sl.val r = none) : exec (.networkBoot sl r) s =
    .next (if tries + 1 < 3 then s.setSlice sl { s.slice sl with phase := .netboot (tries + 1) rest } else s.nextBoot sl rest) := by
  show execNetworkBoot sl r s = _
  rw [execNetworkBoot]
  simp only [hp, hf]

theorem runsOn_networkBoot_again (hf : fetched s.hub sl.val r = none) (ht : tries + 1 < 3) : RunsOn (.networkBoot sl r) s sl fun y =>
    y = { s.slice sl with phase := .netboot (tries + 1) rest } :=
  RunsOn.intro ((exec_networkBoot_none hp hf).trans (by rw [if_pos ht])) rfl

theorem exec_networkBoot_spent (hf : fetched s.hub sl.val r = none) (ht : 3 ≤ tries + 1) :
    exec (.networkBoot sl r) s = .next (s.nextBoot sl rest) := by
  rw [exec_networkBoot_none hp hf, if_neg (Nat.not_lt.2 ht)]

theorem exec_networkBoot_invalid {file : Bytes} (hf : fetched s.hub sl.val r = some file) (hok : fileOk s.hub sl.val file = false) :
    exec (.networkBoot sl r) s = .next (s.nextBoot sl rest) := by
  show execNetworkBoot sl r s = _
  rw [execNetworkBoot]
  simp only [hp, hf, hok, Bool.false_eq_true, if_false]

theorem runs_networkBoot_valid {file : Bytes} (hf : fetched s.hub sl.val r = some file) (hok : fileOk s.hub sl.val file = true) :
    Runs (.networkBoot sl r) s fun t =>
      (t.slice sl).phase = .running ∧ (t.slice sl).started = [(0, d64 (imgEntry file))]
      ∧ regGet (t.slice sl) kSLC 0x144 = w32 (imgVer file) ∧ regBit (t.slice sl) kSLC 0x140 10 = true
      ∧ ∀ n, n ≠ sl → t.slice n = s.slice n := by
  have hnext : ∃ x, execNetworkBoot sl r s = .next ((s.setSlice sl (coreStart (setRegBit x kSLC 0x140 10) file
      (chConfirmTo s.hub.charter sl.val))).modHub (·.eventOpen sl.val evBootDone sl.val)) := by
    rw [execNetworkBoot]
    simp only [hp, hf, hok, if_true]
    exact ⟨_, rfl⟩
  obtain ⟨x, hnext⟩ := hnext
  refine Runs.intro hnext ?_
  have hself : ((s.setSlice sl (coreStart (setRegBit x kSLC 0x140 10) file (chConfirmTo s.hub.charter sl.val))).modHub
      (·.eventOpen sl.val evBootDone sl.val)).slice sl = coreStart (setRegBit x kSLC 0x140 10) file
        (chConfirmTo s.hub.charter sl.val) := slice_setSlice_self s sl _
  rw [hself]
  refine ⟨rfl, rfl, regGet_coreStart_version .., ?_, fun n hn => slice_setSlice_ne s sl n _ hn⟩
  rw [regBit, regGet_coreStart_boot]
  exact regBit_setRegBit x _ _ 10 (by decide)

end

/-- After its last step a start leaves the slice OFF. -/
theorem runs_nextBoot_nil {i : Instr} {s : State} {sl : SliceId} {rest : List BootStep} (h : exec i s = .next (s.nextBoot sl rest))
    (hr : rest = []) : Runs i s fun t => (t.slice sl).phase = .off ∧ ∀ n, n ≠ sl → t.slice n = s.slice n := by
  subst hr
  exact Runs.intro h ⟨by rw [nextBoot_nil_slice, phase_goOff], fun n hn => nextBoot_others s sl [] hn⟩

theorem runs_nextBoot_bank {i : Instr} {s : State} {sl : SliceId} {b fb : Bool} {rest plan : List BootStep}
    (h8 : s.hub.slices.length = 8) (h : exec i s = .next (s.nextBoot sl rest)) (hr : rest = .bank b fb :: plan) : Runs i s fun t =>
      t.slice sl = { s.slice sl with phase := .streaming b fb plan } ∧ (t.hub.tgt sl.val).streaming = some b
      ∧ ∀ n, n ≠ sl → t.slice n = s.slice n := by
  subst hr
  exact Runs.intro h ⟨nextBoot_bank_slice s sl b fb plan, nextBoot_bank_streaming s sl h8 b fb plan,
    fun n hn => nextBoot_others s sl _ hn⟩

end Sys2Proof.Machine
end

section
/-! Proofs. Confirmation of a boot, its time-out, and the reset a slice asks for (R61, R71). -/

namespace Sys2Proof.Machine

set_option Elab.async false

/-! ### A write of SLC_BOOT that leaves TRY (R71) -/

/-- The value that confirms a boot: SLC_BOOT with CONFIRM set. -/
def confirmWord (x : Slice) : Word := setBit (regGet x kSLC 0x140) 15 true

/-- TRY stored as it stood. -/
def tryStored (x : Slice) : Slice := regPut x kSLC 0x140 14 14 (fld (confirmWord x) 14 14)

theorem regGet_tryStored (x : Slice) : regGet (tryStored x) kSLC 0x140 = regGet x kSLC 0x140 := by
  rw [tryStored, regGet_regPut_self]
  refine word_ext fun i _ => ?_
  rw [wbit_setFld _ _ _ _ _ (by decide) (by decide)]
  split
  · next hi =>
    obtain rfl : i = 14 := by omega
    have hbit : wbit (confirmWord x) 14 = wbit (regGet x kSLC 0x140) 14 := wbit_setBit_ne _ _ _ _ (by decide) (by decide)
    rw [fld, testBit_bits]
    simpa [wbit] using hbit
  · rfl

theorem regsBut_tryStored (x : Slice) : RegsBut x (tryStored x) [] := by
  intro b o ho _
  by_cases h : b = kSLC ∧ o = 0x140
  · obtain ⟨rfl, rfl⟩ := h
    exact regGet_tryStored x
  · have hne : b ≠ kSLC ∨ o ≠ 0x140 := not_and_or.1 h
    rw [tryStored, regGet_regPut_ne _ _ _ _ _ _ _ _ (regKey_ne (by decide) ho hne)]

theorem regBit_tryStored (x : Slice) (i : Nat) : regBit (tryStored x) kSLC 0x140 i = regBit x kSLC 0x140 i := by
  rw [regBit, regGet_tryStored, regBit]

theorem bootBank_tryStored (x : Slice) : bootBank (tryStored x) = bootBank x := by
  rw [bootBank, regBit_tryStored, regBit_tryStored, bootBank]

/-- A slice that has confirmed its boot. -/
def confirmed (x : Slice) : Slice := { setRegBit (tryStored x) kSLC 0x140 15 with confirmAt := none }

theorem RegsBut.confirmAt_none {x y : Slice} {ks : List (Nat × Nat)} (h : RegsBut x y ks) :
    RegsBut x { y with confirmAt := none } ks := regsBut_of_eq h rfl rfl

theorem RegsBut.busDone {x y : Slice} {ks : List (Nat × Nat)} (h : RegsBut x y ks) : RegsBut x { y with bus := .done } ks :=
  regsBut_of_eq h rfl rfl

theorem regsBut_confirmed (x : Slice) : RegsBut x (confirmed x) [(kSLC, 0x140)] := by
  have hbit : RegsBut x (setRegBit (tryStored x) kSLC 0x140 15) [(kSLC, 0x140)] :=
    regsBut_regPut ((regsBut_tryStored x).mono (List.nil_subset _)) _ _ _ _ _ (by decide) (List.mem_singleton_self _)
  exact hbit.confirmAt_none

theorem regBit_confirmAt_none (x : Slice) (b o i : Nat) : regBit { x with confirmAt := none } b o i = regBit x b o i := rfl

theorem regBit_busDone (x : Slice) (b o i : Nat) : regBit { x with bus := .done } b o i = regBit x b o i := rfl

theorem regBit_confirmed (x : Slice) : regBit (confirmed x) kSLC 0x140 15 = true := by
  rw [confirmed, regBit_confirmAt_none, regBit_setRegBit (tryStored x) kSLC 0x140 15 (by decide)]

theorem dram_confirmed (x : Slice) : (confirmed x).dram = x.dram := by
  obtain ⟨r, hr⟩ : RegsOnly x (setRegBit (tryStored x) kSLC 0x140 15) := (regsOnly_regPut ..).trans (regsOnly_regPut ..)
  rw [confirmed, hr]
  rfl

/-- The hub's record of a slice that has confirmed its boot from a bank, or from the network. -/
def HubSlice.booted (t : HubSlice) : Option Bool → HubSlice
  | some b => { t with active := b, streaming := none }
  | none => t

section
variable {s : State} {sl : SliceId} {due : Nat} (hp : (s.slice sl).phase = .running)
  (hc : regBit (s.slice sl) kSLC 0x140 15 = false) (hd : (s.slice sl).confirmAt = some due)

include hp

theorem on_of_running : (s.slice sl).on = true := by rw [Slice.on, hp]; rfl

include hc hd

/-- Within the time-out the write confirms the boot; after it the write changes nothing. -/
theorem exec_bootConfirm : exec (.bootConfirm sl) s = .next
    ((if (s.slice sl).clk < due then (s.setSlice sl (tryStored (s.slice sl))).confirmBoot sl
      else s.setSlice sl (tryStored (s.slice sl))).busDone sl) := by
  show execBootConfirm sl s = _
  have hword : wbit (confirmWord (s.slice sl)) 15 = true := wbit_setBit_self _ _ _ (by decide)
  have hphase : decide ((tryStored (s.slice sl)).phase = .running) = true := decide_eq_true hp
  have hbit : regBit (tryStored (s.slice sl)) kSLC 0x140 15 = false := (regBit_tryStored _ _).trans hc
  have htime : inConfirmTime (tryStored (s.slice sl)) = decide ((s.slice sl).clk < due) := by
    rw [inConfirmTime, show (tryStored (s.slice sl)).confirmAt = some due from hd]
    rfl
  have hwrite : s.bootWrite sl (confirmWord (s.slice sl)) = if (s.slice sl).clk < due then
      (s.setSlice sl (tryStored (s.slice sl))).confirmBoot sl else s.setSlice sl (tryStored (s.slice sl)) := by
    show (if (wbit (confirmWord (s.slice sl)) 15 && decide ((tryStored (s.slice sl)).phase = .running)
      && !regBit (tryStored (s.slice sl)) kSLC 0x140 15 && inConfirmTime (tryStored (s.slice sl))) = true then _ else _) = _
    rw [hword, hphase, hbit, htime]
    exact if_congr (by simp) rfl rfl
  rw [execBootConfirm, if_pos (on_of_running hp), ← confirmWord, hwrite]

theorem runsOn_bootConfirm_late (ht : due ≤ (s.slice sl).clk) : RunsOn (.bootConfirm sl) s sl fun y =>
    y = { s.slice sl with regs := y.regs, bus := .done } ∧ RegsBut (s.slice sl) y [] := by
  have hnext := exec_bootConfirm hp hc hd
  rw [if_neg (Nat.not_lt.2 ht), State.busDone, slice_setSlice_self, setSlice_setSlice] at hnext
  exact RunsOn.intro hnext ⟨rfl, regsBut_of_eq (regsBut_tryStored _) rfl rfl⟩

theorem exec_bootConfirm_early (ht : (s.slice sl).clk < due) : exec (.bootConfirm sl) s = .next
    ((s.setSlice sl { confirmed (s.slice sl) with bus := .done }).modHubSlice sl.val (·.booted (bootBank (s.slice sl)))) := by
  have hslice : ((s.setSlice sl (tryStored (s.slice sl))).confirmBoot sl) =
      (s.setSlice sl (confirmed (s.slice sl))).modHubSlice sl.val (·.booted (bootBank (s.slice sl))) := by
    rw [State.confirmBoot]
    simp only [slice_setSlice_self, setSlice_setSlice, bootBank_tryStored]
    rfl
  have hself : ∀ f, ((s.setSlice sl (confirmed (s.slice sl))).modHubSlice sl.val f).slice sl = confirmed (s.slice sl) :=
    fun f => slice_setSlice_self s sl _
  rw [exec_bootConfirm hp hc hd, if_pos ht, hslice, State.busDone, hself]
  exact congrArg _ (setSlice_setSlice (s.modHubSlice sl.val (·.booted (bootBank (s.slice sl)))) sl (confirmed (s.slice sl)) _)

theorem runs_bootConfirm (h8 : s.hub.slices.length = 8) (ht : (s.slice sl).clk < due) : Runs (.bootConfirm sl) s fun t =>
    regBit (t.slice sl) kSLC 0x140 15 = true ∧ (t.slice sl).confirmAt = none ∧ (t.slice sl).bus = .done
    ∧ RegsBut (s.slice sl) (t.slice sl) [(kSLC, 0x140)] ∧ (t.slice sl).dram = (s.slice sl).dram
    ∧ (∀ b, bootBank (s.slice sl) = some b → (t.hub.tgt sl.val).active = b ∧ (t.hub.tgt sl.val).streaming = none)
    ∧ (bootBank (s.slice sl) = none → t.hub.tgt sl.val = s.hub.tgt sl.val) ∧ ∀ n, n ≠ sl → t.slice n = s.slice n := by
  refine Runs.intro (exec_bootConfirm_early hp hc hd ht) ?_
  have hself : ∀ f, ((s.setSlice sl { confirmed (s.slice sl) with bus := .done }).modHubSlice sl.val f).slice sl
      = { confirmed (s.slice sl) with bus := .done } := fun f => slice_setSlice_self s sl _
  have htgt : ((s.setSlice sl { confirmed (s.slice sl) with bus := .done }).modHubSlice sl.val
      (·.booted (bootBank (s.slice sl)))).hub.tgt sl.val = (s.hub.tgt sl.val).booted (bootBank (s.slice sl)) :=
    tgt_modTgt_self s.hub sl.val _ h8
  rw [hself, htgt]
  refine ⟨?_, rfl, rfl, (regsBut_confirmed _).busDone, dram_confirmed (s.slice sl), fun b hb => ?_, fun hb => ?_,
    fun n hn => slice_setSlice_ne s sl n _ hn⟩
  · rw [regBit_busDone, regBit_confirmed]
  · rw [hb]
    exact ⟨rfl, rfl⟩
  · rw [hb, HubSlice.booted]

end

/-! ### The confirm time-out and SLC_RST (R61, R71) -/

/-- The hub's record of a slice whose boot was not confirmed: the bank it booted from is marked failed. -/
def HubSlice.unconfirmed (t : HubSlice) : Option Bool → HubSlice
  | some b => { t with failed := setMark t.failed b true, streaming := none }
  | none => t

section
variable {s : State} {sl : SliceId} {due : Nat} (hd : (s.slice sl).confirmAt = some due) (hr : s.hub.running = true)

include hd hr

theorem exec_confirmTimeout : exec (.confirmTimeout sl) s = .next (if (s.slice sl).clk < due then s
    else (s.modHubSlice sl.val (·.unconfirmed (bootBank (s.slice sl)))).restartSlice sl rstUnconfirmed) := by
  show execConfirmTimeout sl s = _
  rw [execConfirmTimeout]
  by_cases ht : (s.slice sl).clk < due
  · simp only [inConfirmTime, hd, hr, ht, decide_true, Option.isNone_some, Bool.true_or, Bool.false_or, if_true]
  · simp only [inConfirmTime, hd, hr, ht, decide_false, Option.isNone_some, Bool.not_true, Bool.or_self, Bool.false_eq_true, if_false]
    rfl

theorem runs_confirmTimeout (h8 : s.hub.slices.length = 8) (ht : due ≤ (s.slice sl).clk) (hc : (s.hub.tgt sl.val).thermal = false) :
    Runs (.confirmTimeout sl) s fun t =>
      (t.slice sl).phase = .off ∧ (t.slice sl).dram = [] ∧ (t.hub.tgt sl.val).start = true
      ∧ (∀ b, bootBank (s.slice sl) = some b → (t.hub.tgt sl.val).failed = setMark (s.hub.tgt sl.val).failed b true)
      ∧ ((s.hub.tgt sl.val).started = true → (t.hub.tgt sl.val).cause = 5) ∧ ∀ n, n ≠ sl → t.slice n = s.slice n := by
  have hnext := exec_confirmTimeout hd hr
  rw [if_neg (Nat.not_lt.2 ht)] at hnext
  have htgt : (s.modHubSlice sl.val (·.unconfirmed (bootBank (s.slice sl)))).hub.tgt sl.val
      = (s.hub.tgt sl.val).unconfirmed (bootBank (s.slice sl)) := tgt_modTgt_self s.hub sl.val _ h8
  have hcool : ((s.hub.tgt sl.val).unconfirmed (bootBank (s.slice sl))).thermal = false := by
    cases bootBank (s.slice sl) <;> exact hc
  have hrs := restartSlice_restarts (s := s.modHubSlice sl.val (·.unconfirmed (bootBank (s.slice sl)))) (c := rstUnconfirmed)
    ((length_slices_modTgt ..).trans h8) (by rw [htgt, hcool, Bool.false_and])
  refine Runs.intro hnext ⟨hrs.phase, hrs.dram, hrs.start, fun b hb => ?_, fun hs => hrs.cause ?_, hrs.others⟩
  · rw [hrs.asked, htgt, hb]
    rfl
  · rw [htgt]
    cases bootBank (s.slice sl) <;> exact hs

end

section
variable {s : State} {sl : SliceId} {key : Word} (hon : (s.slice sl).on = true)

include hon

theorem exec_sliceSelfReset : exec (.sliceSelfReset sl key) s = .next ((s.rstWrite sl key).busDone sl) := by
  show execSliceSelfReset sl key s = _
  rw [execSliceSelfReset, if_pos hon]

theorem runs_sliceSelfReset (h8 : s.hub.slices.length = 8) (hc : (s.hub.tgt sl.val).thermal = false) (hk : fld key 7 0 = 0xA5) :
    Runs (.sliceSelfReset sl key) s fun t =>
      (t.slice sl).phase = .off ∧ (t.slice sl).dram = [] ∧ (t.hub.tgt sl.val).start = true
      ∧ ((s.hub.tgt sl.val).started = true → (t.hub.tgt sl.val).cause = 3) ∧ ∀ n, n ≠ sl → t.slice n = s.slice n := by
  have hnext := exec_sliceSelfReset (key := key) hon
  rw [State.rstWrite, if_pos hk, State.busDone] at hnext
  have hrs := restartSlice_restarts (c := rstSelf) h8 (by rw [hc, Bool.false_and])
  refine Runs.intro hnext ⟨?_, ?_, hrs.start, hrs.cause, fun n hn => (slice_setSlice_ne _ sl n _ hn).trans (hrs.others n hn)⟩
  · rw [slice_setSlice_self]
    exact hrs.phase
  · rw [slice_setSlice_self]
    exact hrs.dram

theorem runsOn_sliceSelfReset_ignored (hk : fld key 7 0 ≠ 0xA5) : RunsOn (.sliceSelfReset sl key) s sl fun y =>
    y = { s.slice sl with bus := .done } := by
  have hnext := exec_sliceSelfReset (key := key) hon
  rw [State.rstWrite, if_neg hk] at hnext
  exact RunsOn.intro hnext rfl

end

/-! ### The obligation -/

/-- Settles O9, step by step of a start, then the writes and the time-out of a slice that runs. -/
theorem sliceBootAndConfirmation : Obligations.SliceBootAndConfirmation := by
  refine ⟨fun s sl pass b fb plan rest tries bs last h8 => ⟨fun hp => ⟨fun hfew => runs_dramTrainingDone_few hp hfew, ?_, ?_⟩,
      fun hp ha => ⟨fun hok hl => runs_imageChecked_valid hp ha h8 hok hl, fun hok hr => runs_imageChecked_last hp ha h8 hok hr,
        fun hok hr => runs_imageChecked_net hp ha hok hr⟩,
      fun hp => ⟨fun hn hw hok => runs_networkBoot_valid hp (fetched_whole hn hw) hok,
        fun hn hw hok hr => runs_nextBoot_nil (exec_networkBoot_invalid hp (fetched_whole hn hw) hok) hr, fun r hr => ?_⟩⟩,
    fun s sl key due h8 => ⟨fun hp hc hd => ⟨fun ht => runs_bootConfirm hp hc hd h8 ht, fun ht => runsOn_bootConfirm_late hp hc hd ht⟩,
      fun hd hr => ⟨fun ht => ?_, fun ht hc => runs_confirmTimeout hd hr h8 ht hc⟩,
      fun hon hc => ⟨fun hk => runs_sliceSelfReset hon h8 hc hk, fun hk => runsOn_sliceSelfReset_ignored hon hk⟩⟩⟩
  · rintro hmany rfl
    exact runs_dramTrainingDone_bank h8 hp hmany
  · rintro hmany rfl
    exact runsOn_dramTrainingDone_net hp hmany
  · have hf : fetched s.hub sl.val r = none := fetched_none hr
    exact ⟨fun ht => runsOn_networkBoot_again hp hf ht, fun ht he => runs_nextBoot_bank h8 (exec_networkBoot_spent hp hf ht) he,
      fun ht he => runs_nextBoot_nil (exec_networkBoot_spent hp hf ht) he⟩
  · rw [exec_confirmTimeout hd hr, if_pos ht]

end Sys2Proof.Machine
end

section
/-! Proofs. A write of _CTL that rewrites what the twin lists of its discards (R11, R99, R100). -/

namespace Sys2Proof.Machine

/-- Slice 0 runs with every block DISABLED; its twin is fenced and lists a count of 0 discarded items. -/
def enablingState : State := (State.reset.setSlice 0 (Slice.blank 0 .running)).setSlice 1 fencedTwin

theorem ctlWrite_unlists_count : passes (exec (.ctlWrite 0 ⟨kPRS, by decide⟩ 3) enablingState)
    (fun t => decide ((t.slice 1).discards = [(kTWN, 0)])) = false := by decide +kernel

/-- Refutes O25: a write of EN of a block other than TWN leaves every other slice alone, the statement says. It delivers no message
to the twin, and that is not the same in every state: a fenced TWN takes a delivery of no message by writing its count of discards
anew, which unlists a count of 0, and no hypothesis says that the twin's counts list no 0. -/
theorem not_blockStates : ¬ Obligations.BlockStates := by
  unfold Obligations.BlockStates
  intro h
  obtain ⟨-, hmoves, -⟩ := h enablingState 0 ⟨kPRS, by decide⟩ 3 (by decide +kernel) ⟨by decide +kernel, by decide +kernel⟩ (by decide)
  have hkept : passes (exec (.ctlWrite 0 ⟨kPRS, by decide⟩ 3) enablingState)
      (fun t => decide ((t.slice 1).discards = [(kTWN, 0)])) = true := by
    refine passes_of_runs (hmoves (by decide +kernel) (by decide) (by decide +kernel)) fun t ht => decide_eq_true ?_
    obtain ⟨-, -, -, -, -, -, -, hothers⟩ := ht
    rw [hothers 1 (by decide)]
    decide +kernel
  exact absurd hkept (by rw [ctlWrite_unlists_count]; exact Bool.false_ne_true)

end Sys2Proof.Machine
end

section
/-! Proofs. Support for faults and posted writes: registers after writes of others, raised causes, and the fault log's entries
(R105, R416, R469 to R471). -/

namespace Sys2Proof.Machine

/-! ### Registers of one block and of others -/

theorem regGet_regSet_off (x : Slice) (b : Nat) {o o' : Nat} (v : Word) (h : o' ≠ o) :
    regGet (regSet x b o v) b o' = regGet x b o' :=
  regGet_regSet_ne _ _ _ _ _ _ (by unfold regKey; omega)

theorem regGet_regPut_off (x : Slice) (b : Nat) {o o' : Nat} (hi lo v : Nat) (h : o' ≠ o) :
    regGet (regPut x b o hi lo v) b o' = regGet x b o' := regGet_regSet_off x b _ h

theorem regGet_count_off (x : Slice) (b : Nat) {o o' : Nat} (n : Nat) (h : o' ≠ o) (h4 : o' ≠ o + 4) :
    regGet (count x b o n) b o' = regGet x b o' := by
  rw [count, pairSet, regGet_regSet_off _ _ _ h4, regGet_regSet_off _ _ _ h]

/-! ### Registers that a change leaves -/

section
variable {x y : Slice} {ks : List (Nat × Nat)} (h : RegsBut x y ks) {b o : Nat} (ho : o < 0x100000) (hn : (b, o) ∉ ks)
include h ho hn

theorem RegsBut.regFld_eq (hi lo : Nat) : regFld y b o hi lo = regFld x b o hi lo := by rw [regFld, h b o ho hn, regFld]

theorem RegsBut.regBit_eq (i : Nat) : regBit y b o i = regBit x b o i := by rw [regBit, h b o ho hn, regBit]

end

theorem RegsBut.pairGet_eq {x y : Slice} {ks : List (Nat × Nat)} (h : RegsBut x y ks) {b o : Nat} (ho : o + 4 < 0x100000)
    (hn : (b, o) ∉ ks) (hn4 : (b, o + 4) ∉ ks) : pairGet y b o = pairGet x b o := by
  rw [pairGet, h b o (by omega) hn, h b (o + 4) ho hn4, pairGet]

theorem RegsBut.baseNow_eq {x y : Slice} {ks : List (Nat × Nat)} (h : RegsBut x y ks) (hb : y.bases = x.bases) {b : Nat}
    (h4 : b < 4) (hn : (kTIM, timOff b) ∉ ks) : baseNow y b = baseNow x b :=
  baseNow_congr hb (h _ _ (by unfold timOff; omega) hn)

/-! ### Raised causes (R416) -/

theorem pending_raise (x : Slice) (b c : Nat) (hc : b * 16 + c < 512) : pending (raise x b c) (b * 16 + c) = true := by
  unfold raise raiseSrc
  split
  · next hp =>
    rw [pending, regBit, regGet_count_off _ _ _ (by omega) (by omega)]
    exact hp
  · rw [pending, setPending, regBit_regPut_self _ _ _ _ _ (Nat.mod_lt _ (by norm_num))]
    rfl

theorem regGet_raise_flt (x : Slice) {b c : Nat} (hc : b * 16 + c < 512) {o : Nat} (ho : o < 0x100000) :
    regGet (raise x b c) kFLT o = regGet x kFLT o := regGet_raise x b c kFLT o (by decide) ho hc

theorem toHub_raise (x : Slice) (b c : Nat) : (raise x b c).toHub = x.toHub := by
  obtain ⟨r, h⟩ := regsOnly_raise x b c
  rw [h, setRegs_toHub]

/-! ### Entries of the fault log (R469 to R471) -/

/-- The entry that a fault of a class makes takes the head slot of a log that has room. -/
theorem fltStore_room {x : Slice} (h : fltCount x < 512) (cls : Nat) (w0 w1 w2 w3 : Word) :
    let y := fltStore x cls w0 w1 w2 w3
    let o := 0x4000 + 16 * fltHead x
    regGet y kFLT o = w0 ∧ regGet y kFLT (o + 4) = w1 ∧ regGet y kFLT (o + 8) = w2 ∧ regGet y kFLT (o + 12) = w3
    ∧ fltCount y = fltCount x + 1 ∧ fltHead y = (fltHead x + 1) % 512 := by
  have hput : ∀ o, 0x4000 ≤ o → regGet (fltStore x cls w0 w1 w2 w3) kFLT o = regGet (fltSlot x (fltHead x) w0 w1 w2 w3) kFLT o := by
    intro o ho
    rw [fltStore, if_pos h, regGet_regPut_off _ _ _ _ _ (by omega), regGet_regPut_off _ _ _ _ _ (by omega)]
  refine ⟨?_, ?_, ?_, ?_, ?_, ?_⟩
  · rw [hput _ (by omega), fltSlot, regGet_regSet_off _ _ _ (by omega), regGet_regSet_off _ _ _ (by omega),
      regGet_regSet_off _ _ _ (by omega), regGet_regSet_self]
  · rw [hput _ (by omega), fltSlot, regGet_regSet_off _ _ _ (by omega), regGet_regSet_off _ _ _ (by omega),
      show 0x4000 + 16 * fltHead x + 4 = 0x4004 + 16 * fltHead x by omega, regGet_regSet_self]
  · rw [hput _ (by omega), fltSlot, regGet_regSet_off _ _ _ (by omega),
      show 0x4000 + 16 * fltHead x + 8 = 0x4008 + 16 * fltHead x by omega, regGet_regSet_self]
  · rw [hput _ (by omega), fltSlot, show 0x4000 + 16 * fltHead x + 12 = 0x400C + 16 * fltHead x by omega, regGet_regSet_self]
  · rw [fltStore, if_pos h, fltCount, regFld_regPut_self _ _ _ _ _ _ (by norm_num) (by norm_num)]
    exact Nat.mod_eq_of_lt (by omega)
  · rw [fltStore, if_pos h, fltHead, regFld_regPut_other _ _ _ _ _ _ _ _ (by norm_num) (by norm_num) (by norm_num),
      regFld_regPut_self _ _ _ _ _ _ (by norm_num) (by norm_num)]
    rfl

/-- The fault log with an entry placed and its class counted. -/
def fltEntered (x : Slice) (cls blk unit code detail : Nat) : Slice :=
  count (fltStore x cls (w32 (2 ^ 31 + cls * 2 ^ 28 + blk * 2 ^ 16 + unit * 2 ^ 8 + code)) (w32 (secOf (baseNow x 0)))
    (w32 (nsOf (baseNow x 0))) (w32 detail)) kFLT (0x1008 + 8 * cls) 1

/-- What the hub is told of a fault log entry. -/
def fltNotes (cls blk unit code detail : Nat) : List HubNote :=
  if cls = 0 then []
  else [⟨8, d64 ((w32 (2 ^ 31 + cls * 2 ^ 28 + blk * 2 ^ 16 + unit * 2 ^ 8 + code)).toNat * 2 ^ 32 + detail % 2 ^ 32),
    some (w32 (2 ^ 31 + cls * 2 ^ 28 + blk * 2 ^ 16 + unit * 2 ^ 8 + code), w32 detail)⟩]

theorem Slice.withToHub_self {y : Slice} {ns : List HubNote} (h : y.toHub = ns) : { y with toHub := ns } = y := by
  subst h
  rfl

theorem toHub_fltEntered (x : Slice) (cls blk unit code detail : Nat) (hc : cls < 3) :
    (fltEntered x cls blk unit code detail).toHub = x.toHub := by
  obtain ⟨⟨r, e⟩, -⟩ := logOnly_count (logOnly_fltStore (LogOnly.refl x) cls
    (w32 (2 ^ 31 + cls * 2 ^ 28 + blk * 2 ^ 16 + unit * 2 ^ 8 + code)) (w32 (secOf (baseNow x 0))) (w32 (nsOf (baseNow x 0)))
    (w32 detail)) (0x1008 + 8 * cls) 1 (by omega)
  rw [fltEntered, e, setRegs_toHub]

theorem faultLog_class_soft (x : Slice) (blk unit code detail : Nat) :
    faultLog x fcSoft blk unit code detail = raise (fltEntered x fcSoft blk unit code detail) kFLT 0 := by
  have hspared : ¬fcSoft = fcSpared := by decide
  have hdegraded : ¬fcSoft = fcDegraded := by decide
  have hlost : ¬fcSoft = fcLost := by decide
  simp only [faultLog, hspared, hdegraded, hlost, if_true, if_false]
  rfl

theorem faultLog_class_spared (x : Slice) (blk unit code detail : Nat) :
    faultLog x fcSpared blk unit code detail = { raise (raise (fltEntered x fcSpared blk unit code detail) kFLT 0) kFLT 1 with
      toHub := (raise (raise (fltEntered x fcSpared blk unit code detail) kFLT 0) kFLT 1).toHub
        ++ fltNotes fcSpared blk unit code detail } := by
  have hsoft : ¬fcSpared = fcSoft := by decide
  have hlost : ¬fcSpared = fcLost := by decide
  simp only [faultLog, hsoft, hlost, if_true, if_false]
  rfl

theorem faultLog_class_degraded (x : Slice) (blk unit code detail : Nat) :
    faultLog x fcDegraded blk unit code detail
      = { raise (raise (fltEntered x fcDegraded blk unit code detail) kFLT 0) kFLT 2 with
        toHub := (raise (raise (fltEntered x fcDegraded blk unit code detail) kFLT 0) kFLT 2).toHub
          ++ fltNotes fcDegraded blk unit code detail } := by
  have hsoft : ¬fcDegraded = fcSoft := by decide
  have hspared : ¬fcDegraded = fcSpared := by decide
  have hlost : ¬fcDegraded = fcLost := by decide
  simp only [faultLog, hsoft, hspared, hlost, if_true, if_false]
  rfl

/-- A fault log entry of a class below LOST: the entry, causes, and the note to the hub. -/
theorem faultLog_eq (x : Slice) {cls : Nat} (hc : cls < 3) (blk unit code detail : Nat) :
    ∃ y, RegsOnly (fltEntered x cls blk unit code detail) y
      ∧ (∀ o < 0x100000, regGet y kFLT o = regGet (fltEntered x cls blk unit code detail) kFLT o)
      ∧ faultLog x cls blk unit code detail = { y with toHub := x.toHub ++ fltNotes cls blk unit code detail } := by
  have hz := toHub_fltEntered x cls blk unit code detail hc
  have h0 : ∀ z : Slice, ∀ o < 0x100000, regGet (raise z kFLT 0) kFLT o = regGet z kFLT o :=
    fun z o ho => regGet_raise_flt z (by decide) ho
  obtain rfl | rfl | rfl : cls = fcSoft ∨ cls = fcSpared ∨ cls = fcDegraded := by
    simp only [fcSoft, fcSpared, fcDegraded]
    omega
  · refine ⟨raise (fltEntered x fcSoft blk unit code detail) kFLT 0, regsOnly_raise _ _ _, h0 _, ?_⟩
    have hn : fltNotes fcSoft blk unit code detail = [] := if_pos rfl
    rw [faultLog_class_soft, hn, List.append_nil]
    exact (Slice.withToHub_self ((toHub_raise _ kFLT 0).trans hz)).symm
  · refine ⟨_, (regsOnly_raise _ _ _).trans (regsOnly_raise _ _ _),
      fun o ho => (regGet_raise_flt _ (b := kFLT) (c := 1) (by decide) ho).trans (h0 _ o ho), ?_⟩
    rw [faultLog_class_spared, toHub_raise, toHub_raise, hz]
  · refine ⟨_, (regsOnly_raise _ _ _).trans (regsOnly_raise _ _ _),
      fun o ho => (regGet_raise_flt _ (b := kFLT) (c := 2) (by decide) ho).trans (h0 _ o ho), ?_⟩
    rw [faultLog_class_degraded, toHub_raise, toHub_raise, hz]

theorem logOf_faultLog (x : Slice) {cls : Nat} (hc : cls < 3) (blk unit code detail : Nat) :
    LogOf x (faultLog x cls blk unit code detail) cls blk unit code detail := by
  obtain ⟨y, -, hk, e⟩ := faultLog_eq x hc blk unit code detail
  rw [e]
  unfold fltEntered at hk
  have hroom := fun h => fltStore_room (x := x) h cls (w32 (2 ^ 31 + cls * 2 ^ 28 + blk * 2 ^ 16 + unit * 2 ^ 8 + code))
    (w32 (secOf (baseNow x 0))) (w32 (nsOf (baseNow x 0))) (w32 detail)
  have hstore : ∀ o, 0x1008 ≤ o → o < 0x4000 → _ := fun o h1 h2 => regGet_fltStore x cls
    (w32 (2 ^ 31 + cls * 2 ^ 28 + blk * 2 ^ 16 + unit * 2 ^ 8 + code)) (w32 (secOf (baseNow x 0))) (w32 (nsOf (baseNow x 0)))
    (w32 detail) (o := o) h1 h2
  generalize fltStore x cls (w32 (2 ^ 31 + cls * 2 ^ 28 + blk * 2 ^ 16 + unit * 2 ^ 8 + code)) (w32 (secOf (baseNow x 0)))
    (w32 (nsOf (baseNow x 0))) (w32 detail) = z at hk hroom hstore
  have hoff : ∀ o, o < 0x100000 → o ≠ 0x1008 + 8 * cls → o ≠ 0x1008 + 8 * cls + 4 → regGet y kFLT o = regGet z kFLT o :=
    fun o ho h1 h2 => (hk o ho).trans (regGet_count_off _ _ _ h1 h2)
  have hhead := fltHead_lt x
  refine ⟨fun hl => ?_, ?_, rfl⟩
  · obtain ⟨h0, h1, h2, h3, hcnt, hhd⟩ := hroom hl
    refine ⟨(hoff _ (by omega) (by omega) (by omega)).trans h0, ?_, ?_, ?_, ?_, ?_⟩
    · exact (hoff _ (by omega) (by omega) (by omega)).trans ((congrArg (regGet z kFLT) (by omega)).trans h1)
    · exact (hoff _ (by omega) (by omega) (by omega)).trans ((congrArg (regGet z kFLT) (by omega)).trans h2)
    · exact (hoff _ (by omega) (by omega) (by omega)).trans ((congrArg (regGet z kFLT) (by omega)).trans h3)
    · exact (congrArg (fld · 9 0) (hoff 0x100 (by omega) (by omega) (by omega))).trans hcnt
    · exact (congrArg (fld · 24 16) (hoff 0x100 (by omega) (by omega) (by omega))).trans hhd
  · have hy : pairGet y kFLT (0x1008 + 8 * cls) = pairGet (count z kFLT (0x1008 + 8 * cls) 1) kFLT (0x1008 + 8 * cls) := by
      simp only [pairGet, hk _ (show 0x1008 + 8 * cls < 0x100000 by omega), hk _ (show 0x1008 + 8 * cls + 4 < 0x100000 by omega)]
    have hx : pairGet z kFLT (0x1008 + 8 * cls) = pairGet x kFLT (0x1008 + 8 * cls) := by
      simp only [pairGet, hstore _ (show 0x1008 ≤ 0x1008 + 8 * cls by omega) (by omega),
        hstore _ (show 0x1008 ≤ 0x1008 + 8 * cls + 4 by omega) (by omega)]
    exact hy.trans (by rw [pairGet_count, hx])

/-- An entry is that of a state whose log, time and notes stand as they did before. -/
theorem LogOf.of_before {x z y : Slice} {cls blk unit code detail : Nat} (h : LogOf z y cls blk unit code detail) (hc : cls < 3)
    (hf : ∀ o < 0x100000, regGet z kFLT o = regGet x kFLT o) (ht : baseNow z 0 = baseNow x 0) (hh : z.toHub = x.toHub) :
    LogOf x y cls blk unit code detail := by
  have hcnt : fltCount z = fltCount x := congrArg (fld · 9 0) (hf 0x100 (by norm_num))
  have hhd : fltHead z = fltHead x := congrArg (fld · 24 16) (hf 0x100 (by norm_num))
  have hp : pairGet z kFLT (0x1008 + 8 * cls) = pairGet x kFLT (0x1008 + 8 * cls) := by
    rw [pairGet, hf _ (by omega), hf _ (by omega), pairGet]
  simpa only [LogOf, Counted, hcnt, hhd, hp, ht, hh] using h

/-- Changes outside FLT leave an entry where it is. -/
theorem LogOf.kept {x y u : Slice} {cls blk unit code detail : Nat} (h : LogOf x y cls blk unit code detail) (hc : cls < 3)
    (hf : ∀ o < 0x100000, regGet u kFLT o = regGet y kFLT o) (hh : u.toHub = y.toHub) : LogOf x u cls blk unit code detail := by
  have hcnt : fltCount u = fltCount y := congrArg (fld · 9 0) (hf 0x100 (by norm_num))
  have hhd : fltHead u = fltHead y := congrArg (fld · 24 16) (hf 0x100 (by norm_num))
  have hp : pairGet u kFLT (0x1008 + 8 * cls) = pairGet y kFLT (0x1008 + 8 * cls) := by
    rw [pairGet, hf _ (by omega), hf _ (by omega), pairGet]
  have hk := fltHead_lt x
  obtain ⟨hl, hcount, hnote⟩ := h
  refine ⟨fun hr => ?_, hp.trans hcount, hh.trans hnote⟩
  obtain ⟨h0, h1, h2, h3, h4, h5⟩ := hl hr
  exact ⟨(hf _ (by omega)).trans h0, (hf _ (by omega)).trans h1, (hf _ (by omega)).trans h2, (hf _ (by omega)).trans h3,
    hcnt.trans h4, hhd.trans h5⟩

theorem LogOf.raise {x y : Slice} {cls blk unit code detail : Nat} (h : LogOf x y cls blk unit code detail) (hc : cls < 3)
    (b c : Nat) (hb : b * 16 + c < 512) : LogOf x (raise y b c) cls blk unit code detail :=
  h.kept hc (fun _ ho => regGet_raise_flt y hb ho) (toHub_raise y b c)

theorem RegsButLog.raise {x y : Slice} {ks : List (Nat × Nat)} (h : RegsButLog x y ks) (b c : Nat) (hb : b * 16 + c < 512) :
    RegsButLog x (raise y b c) ks := fun b' o' ho hf hi hn =>
  (((logOnly_raise (LogOnly.refl y) b c (by omega)).keeps b' o' ho hf hi)).trans (h b' o' ho hf hi hn)

/-- A fault that is logged after changes of a slice outside FLT, of its time and its notes: the entry, and the registers left. -/
theorem faultLog_after {x z : Slice} {ks : List (Nat × Nat)} (hz : RegsBut x z ks) (hks : ∀ o, (kFLT, o) ∉ ks)
    (ht : baseNow z 0 = baseNow x 0) (hh : z.toHub = x.toHub) {cls : Nat} (hc : cls < 3) (blk unit code detail : Nat) :
    LogOf x (faultLog z cls blk unit code detail) cls blk unit code detail
      ∧ RegsButLog x (faultLog z cls blk unit code detail) ks := by
  refine ⟨(logOf_faultLog z hc blk unit code detail).of_before hc (fun o ho => hz kFLT o ho (hks o)) ht hh, ?_⟩
  obtain ⟨r, ns, e, hl⟩ := faultLog_frame z cls blk unit code detail hc
  rw [e]
  exact fun b o ho hf hi hn => (hl.keeps b o ho hf hi).trans (hz b o ho hn)

end Sys2Proof.Machine
end

section
/-! Proofs. Faults of units: Damask engines, CAM banks, hot-set ways, pipelines; and what the SRAM patrol logs (R305, R467 to
R478). -/

namespace Sys2Proof.Machine

/-! ### A block that an operation leaves alone -/

/-- Every register of a block reads as before. -/
structure KeepsBlock (b : Nat) (x y : Slice) : Prop where
  reg : ∀ o < 0x100000, regGet y b o = regGet x b o

theorem KeepsBlock.refl (b : Nat) (x : Slice) : KeepsBlock b x x := ⟨fun _ _ => rfl⟩

theorem KeepsBlock.trans {b : Nat} {x y z : Slice} (h : KeepsBlock b x y) (g : KeepsBlock b y z) : KeepsBlock b x z :=
  ⟨fun o ho => (g.reg o ho).trans (h.reg o ho)⟩

theorem KeepsBlock.regFld {b : Nat} {x y : Slice} (h : KeepsBlock b x y) {o : Nat} (ho : o < 0x100000) (hi lo : Nat) :
    regFld y b o hi lo = regFld x b o hi lo := by rw [Machine.regFld, h.reg o ho, Machine.regFld]

theorem KeepsBlock.regBit {b : Nat} {x y : Slice} (h : KeepsBlock b x y) {o : Nat} (ho : o < 0x100000) (i : Nat) :
    regBit y b o i = regBit x b o i := by rw [Machine.regBit, h.reg o ho, Machine.regBit]

theorem KeepsBlock.pairGet {b : Nat} {x y : Slice} (h : KeepsBlock b x y) {o : Nat} (ho : o + 4 < 0x100000) :
    pairGet y b o = pairGet x b o := by rw [Machine.pairGet, h.reg o (by omega), h.reg (o + 4) ho, Machine.pairGet]

theorem keepsBlock_regSet {b k o : Nat} (x : Slice) (v : Word) (hb : b ≠ k) (ho : o < 0x100000) :
    KeepsBlock b x (regSet x k o v) := ⟨fun _ ho' => regGet_regSet_ne _ _ _ _ _ _ (regKey_ne ho ho' (Or.inl hb))⟩

theorem keepsBlock_regPut {b k o : Nat} (x : Slice) (hi lo v : Nat) (hb : b ≠ k) (ho : o < 0x100000) :
    KeepsBlock b x (regPut x k o hi lo v) := keepsBlock_regSet x _ hb ho

theorem keepsBlock_count {b k o : Nat} (x : Slice) (n : Nat) (hb : b ≠ k) (ho : o + 4 < 0x100000) :
    KeepsBlock b x (count x k o n) := (keepsBlock_regSet x _ hb (by omega)).trans (keepsBlock_regSet _ _ hb ho)

theorem keepsBlock_raise {b k c : Nat} (x : Slice) (hb : b ≠ kICN) (hc : k * 16 + c < 512) : KeepsBlock b x (raise x k c) :=
  ⟨fun _ ho => regGet_raise x k c b _ (by have h17 : b ≠ 17 := hb; omega) ho hc⟩

/-! ### Fields that saturate, and the count of fenced units (R99) -/

theorem regFld_lt (x : Slice) (b o hi lo : Nat) : regFld x b o hi lo < 2 ^ (hi + 1 - lo) := Nat.mod_lt _ (Nat.pow_pos (by norm_num))

theorem regFld_satFld_self (x : Slice) (b o n : Nat) {hi lo : Nat} (h : lo ≤ hi) (h32 : hi < 32) :
    regFld (satFld x b o hi lo n) b o hi lo = min (2 ^ (hi + 1 - lo) - 1) (regFld x b o hi lo + n) := by
  have hp : 0 < 2 ^ (hi + 1 - lo) := Nat.pow_pos (by norm_num)
  rw [satFld, regFld_regPut_self _ _ _ _ _ _ h h32, satAdd]
  exact Nat.mod_eq_of_lt (by omega)

theorem regFld_unitFenced (x : Slice) (b : Nat) :
    regFld (unitFenced x b) b 8 15 8 = min 255 (regFld x b 8 15 8 + 1) := regFld_satFld_self x b 8 1 (by norm_num) (by norm_num)

theorem regsOnly_unitFenced (x : Slice) (b : Nat) : RegsOnly x (unitFenced x b) := regsOnly_regPut ..

theorem regsBut_unitFenced {x y : Slice} {ks : List (Nat × Nat)} (h : RegsBut x y ks) (b : Nat) (hm : (b, 8) ∈ ks) :
    RegsBut x (unitFenced y b) ks := regsBut_regPut h _ _ _ _ _ (by norm_num) hm

theorem blkState_unitFenced (x : Slice) (b : Nat) : blkState (unitFenced x b) b = blkState x b :=
  regFld_regPut_other _ _ _ _ _ _ _ _ (by norm_num) (by norm_num) (by norm_num)

/-! ### A cause raised after a fault is logged -/

section
variable {x z : Slice} {ks : List (Nat × Nat)} {cls : Nat} (hc : cls < 3) (blk unit code detail b c : Nat)
include hc

theorem raiseLog_frame (z : Slice) : ∃ r ns, raise (faultLog z cls blk unit code detail) b c = { z with regs := r, toHub := ns } := by
  obtain ⟨r, ns, e, -⟩ := faultLog_frame z cls blk unit code detail hc
  obtain ⟨r', e'⟩ := regsOnly_raise (faultLog z cls blk unit code detail) b c
  exact ⟨r', z.toHub ++ ns, by rw [e', e]; rfl⟩

theorem keepsBlock_faultLog {k : Nat} (z : Slice) (hf : k ≠ kFLT) (hi : k ≠ kICN) :
    KeepsBlock k z (faultLog z cls blk unit code detail) := by
  obtain ⟨r, ns, e, hl⟩ := faultLog_frame z cls blk unit code detail hc
  exact ⟨fun o ho => by rw [e]; exact hl.keeps k o ho hf hi⟩

theorem keepsBlock_raiseLog {k : Nat} (z : Slice) (hf : k ≠ kFLT) (hi : k ≠ kICN) (hb : b * 16 + c < 512) :
    KeepsBlock k z (raise (faultLog z cls blk unit code detail) b c) :=
  (keepsBlock_faultLog hc blk unit code detail z hf hi).trans (keepsBlock_raise _ hi hb)

end

/-! ### Engines of Damask (R305, R467) -/

section
variable (x : Slice) (e : Fin 68)

/-- Engine `e` is fenced and its threads wait to run again. -/
def engineOut : Slice :=
  setRegBit { x with threads := x.threads.filter fun t => decide (t.th / 4 ≠ e.val),
                     rerunq := x.rerunq ++ x.threads.filter fun t => decide (t.th / 4 = e.val) }
    kDMK (0x110 + 4 * (e.val / 32)) (e.val % 32)

theorem engineOut_frame : ∃ r, engineOut x e = { x with
    threads := x.threads.filter (fun t => decide (t.th / 4 ≠ e.val)),
    rerunq := x.rerunq ++ x.threads.filter (fun t => decide (t.th / 4 = e.val)), regs := r } := by
  obtain ⟨r, h⟩ := regsOnly_regPut { x with
    threads := x.threads.filter fun t => decide (t.th / 4 ≠ e.val),
    rerunq := x.rerunq ++ x.threads.filter fun t => decide (t.th / 4 = e.val) } kDMK (0x110 + 4 * (e.val / 32)) (e.val % 32) (e.val % 32) 1
  exact ⟨r, by rw [engineOut, setRegBit, h]; rfl⟩

theorem regGet_engineOut {k o : Nat} (ho : o < 0x100000) (hn : (k, o) ≠ (kDMK, 0x110 + 4 * (e.val / 32))) :
    regGet (engineOut x e) k o = regGet x k o :=
  regGet_regPut_ne _ _ _ _ _ _ _ _ (regKey_ne (by omega) ho (by rw [ne_eq, Prod.mk.injEq, not_and_or] at hn; exact hn))

theorem regFld_engineOut {k o hi lo : Nat} (ho : o < 0x100000) (hn : (k, o) ≠ (kDMK, 0x110 + 4 * (e.val / 32))) :
    regFld (engineOut x e) k o hi lo = regFld x k o hi lo := by rw [regFld, regGet_engineOut x e ho hn, regFld]

theorem spFree_engineOut : spFree (engineOut x e) = spFree x :=
  regFld_engineOut x e (by norm_num) (by rw [ne_eq, Prod.mk.injEq]; omega)

theorem fenceEngine_idle {e : Fin 68} (h : engineActive x e.val = false) (code : Nat) (d : Option Nat) : fenceEngine x e.val code d = x := by
  rw [fenceEngine, h]; rfl

theorem fenceEngine_spared {e : Fin 68} (h : engineActive x e.val = true) (hs : spFree x ≠ 0) :
    fenceEngine x e.val 0x09 none = raise (faultLog (unitFenced (regPut (engineOut x e) kDMK 0x120 2 0 (spFree x - 1)) kDMK) fcSpared
      kDMK e.val 0x09 (x.threads.filter fun t => decide (t.th / 4 = e.val)).length) kDMK 0 := by
  have hsp := spFree_engineOut x e
  unfold engineOut at hsp
  unfold fenceEngine
  simp only [h, Bool.not_true, Bool.false_eq_true, if_false]
  rw [if_neg (by rw [hsp]; exact hs), hsp]
  rfl

theorem fenceEngine_degraded {e : Fin 68} (h : engineActive x e.val = true) (hs : spFree x = 0) :
    fenceEngine x e.val 0x09 none = raise (faultLog (regPut (engineOut x e) kDMK 0x120 22 16 (regFld x kDMK 0x120 22 16 - 1)) fcDegraded
      kDMK e.val 0x09 (x.threads.filter fun t => decide (t.th / 4 = e.val)).length) kDMK 1 := by
  have hsp := spFree_engineOut x e
  have hact : regFld (engineOut x e) kDMK 0x120 22 16 = regFld x kDMK 0x120 22 16 :=
    regFld_engineOut x e (by norm_num) (by rw [ne_eq, Prod.mk.injEq]; omega)
  unfold engineOut at hsp hact
  unfold fenceEngine
  simp only [h, Bool.not_true, Bool.false_eq_true, if_false]
  rw [if_pos (by rw [hsp]; exact hs), hact]
  rfl

end

/-- What every fault of an engine leaves and changes. -/
def EngineGone (x y : Slice) (e : Fin 68) (spare : Bool) : Prop :=
  y = { x with regs := y.regs, toHub := y.toHub, rerunq := x.rerunq ++ x.threads.filter (fun t => decide (t.th / 4 = e.val)),
               threads := x.threads.filter fun t => decide (t.th / 4 ≠ e.val) }
  ∧ regBit y kDMK (0x110 + 4 * (e.val / 32)) (e.val % 32) = true
  ∧ (regFld y kDMK 8 15 8 = (if spare then min 255 (regFld x kDMK 8 15 8 + 1) else regFld x kDMK 8 15 8)
    ∧ blkState y kDMK = blkState x kDMK)
  ∧ RegsButLog x y [(kDMK, 0x110 + 4 * (e.val / 32)), (kDMK, 0x120), (kDMK, 8)]

/-- An engine whose count of spares or of engines alone changes besides, and whose fault is logged. -/
theorem engineGone_raiseLog {x z : Slice} {e : Fin 68} {spare : Bool} {cls : Nat} (hc : cls < 3) (d c : Nat) (hcc : c < 16)
    (hz : RegsOnly (engineOut x e) z)
    (hr : RegsBut x z [(kDMK, 0x110 + 4 * (e.val / 32)), (kDMK, 0x120), (kDMK, 8)])
    (hbit : regGet z kDMK (0x110 + 4 * (e.val / 32)) = regGet (engineOut x e) kDMK (0x110 + 4 * (e.val / 32)))
    (hcnt : regFld z kDMK 8 15 8 = if spare then min 255 (regFld x kDMK 8 15 8 + 1) else regFld x kDMK 8 15 8)
    (hst : blkState z kDMK = blkState x kDMK) :
    EngineGone x (raise (faultLog z cls kDMK e.val 0x09 d) kDMK c) e spare
      ∧ LogOf x (raise (faultLog z cls kDMK e.val 0x09 d) kDMK c) cls kDMK e.val 0x09 d := by
  have hsrc : 9 * 16 + c < 512 := by omega
  have hk : KeepsBlock kDMK z (raise (faultLog z cls kDMK e.val 0x09 d) kDMK c) :=
    keepsBlock_raiseLog hc _ _ _ _ _ _ z (by decide) (by decide) hsrc
  obtain ⟨r, rfl⟩ := hz
  obtain ⟨hlog, hbut⟩ := faultLog_after (x := x) hr (by simp) (hr.baseNow_eq rfl (by norm_num) (by simp)) rfl hc kDMK e.val 0x09 d
  refine ⟨⟨?_, ?_, ⟨(hk.regFld (by norm_num) _ _).trans hcnt, (hk.regFld (by norm_num) _ _).trans hst⟩, hbut.raise _ _ hsrc⟩,
    hlog.raise hc _ _ hsrc⟩
  · obtain ⟨r', ns, e'⟩ := raiseLog_frame hc kDMK e.val 0x09 d kDMK c ((engineOut x e).setRegs r)
    obtain ⟨r'', e''⟩ := engineOut_frame x e
    rw [e', e'']
    rfl
  · rw [hk.regBit (by omega), regBit, hbit]
    exact regBit_setRegBit _ _ _ _ (Nat.mod_lt _ (by norm_num))

section
variable {x : Slice} {e : Fin 68} (ha : engineActive x e.val = true)
include ha

theorem engineFault_spared (hs : spFree x ≠ 0) :
    let y := fenceEngine x e.val 0x09 none
    EngineGone x y e (decide (spFree x ≠ 0))
      ∧ LogOf x y fcSpared kDMK e.val 0x09 (x.threads.filter fun t => decide (t.th / 4 = e.val)).length
      ∧ spFree y = spFree x - 1 ∧ pending y (kDMK * 16) = true := by
  intro y
  have hy : y = _ := fenceEngine_spared x ha hs
  have hr : RegsBut x (regPut (engineOut x e) kDMK 0x120 2 0 (spFree x - 1))
      [(kDMK, 0x110 + 4 * (e.val / 32)), (kDMK, 0x120), (kDMK, 8)] :=
    regsBut_regPut (regsBut_regPut (RegsBut.refl x _) _ _ _ _ _ (by omega) (by simp)) _ _ _ _ _ (by norm_num) (by simp)
  have hk8 : regGet (regPut (engineOut x e) kDMK 0x120 2 0 (spFree x - 1)) kDMK 8 = regGet x kDMK 8 := by
    rw [regGet_regPut_off _ _ _ _ _ (by norm_num), regGet_engineOut _ _ (by norm_num) (by rw [ne_eq, Prod.mk.injEq]; omega)]
  obtain ⟨hg, hl⟩ := engineGone_raiseLog (x := x) (e := e) (spare := decide (spFree x ≠ 0)) (cls := fcSpared) (by decide)
    (x.threads.filter fun t => decide (t.th / 4 = e.val)).length 0 (by norm_num)
    ((regsOnly_regPut _ _ _ _ _ (spFree x - 1)).trans (regsOnly_unitFenced _ kDMK)) (regsBut_unitFenced hr kDMK (by simp))
    ((regGet_regPut_off _ _ _ _ _ (by omega)).trans (regGet_regPut_off _ _ _ _ _ (by omega)))
    ((regFld_unitFenced _ _).trans (by rw [regFld, hk8, if_pos (decide_eq_true hs), regFld]))
    ((blkState_unitFenced _ _).trans (by rw [blkState, regFld, hk8, blkState, regFld]))
  rw [← hy] at hg hl
  refine ⟨hg, hl, ?_, ?_⟩
  · have hm : spFree x - 1 < 8 := by
      have : spFree x < 8 := regFld_lt ..
      omega
    rw [hy, spFree, (keepsBlock_raiseLog (by decide) _ _ _ _ _ _ _ (by decide) (by decide) (by decide)).regFld (by norm_num),
      unitFenced, satFld, regFld_regPut_ne _ _ _ _ _ _ _ _ _ _ (regKey_ne (by norm_num) (by norm_num) (by norm_num)),
      regFld_regPut_self _ _ _ _ _ _ (by norm_num) (by norm_num)]
    exact Nat.mod_eq_of_lt hm
  · rw [hy]
    exact pending_raise _ kDMK 0 (by decide)

theorem engineFault_degraded (hs : spFree x = 0) (hp : 0 < regFld x kDMK 0x120 22 16) :
    let y := fenceEngine x e.val 0x09 none
    EngineGone x y e (decide (spFree x ≠ 0))
      ∧ LogOf x y fcDegraded kDMK e.val 0x09 (x.threads.filter fun t => decide (t.th / 4 = e.val)).length
      ∧ regFld y kDMK 0x120 22 16 = regFld x kDMK 0x120 22 16 - 1 ∧ pending y (kDMK * 16 + 1) = true := by
  intro y
  have hy : y = _ := fenceEngine_degraded x ha hs
  have hr : RegsBut x (regPut (engineOut x e) kDMK 0x120 22 16 (regFld x kDMK 0x120 22 16 - 1))
      [(kDMK, 0x110 + 4 * (e.val / 32)), (kDMK, 0x120), (kDMK, 8)] :=
    regsBut_regPut (regsBut_regPut (RegsBut.refl x _) _ _ _ _ _ (by omega) (by simp)) _ _ _ _ _ (by norm_num) (by simp)
  have hk8 : regGet (regPut (engineOut x e) kDMK 0x120 22 16 (regFld x kDMK 0x120 22 16 - 1)) kDMK 8 = regGet x kDMK 8 := by
    rw [regGet_regPut_off _ _ _ _ _ (by norm_num), regGet_engineOut _ _ (by norm_num) (by rw [ne_eq, Prod.mk.injEq]; omega)]
  obtain ⟨hg, hl⟩ := engineGone_raiseLog (x := x) (e := e) (spare := decide (spFree x ≠ 0)) (cls := fcDegraded) (by decide)
    (x.threads.filter fun t => decide (t.th / 4 = e.val)).length 1 (by norm_num)
    (regsOnly_regPut _ _ _ _ _ (regFld x kDMK 0x120 22 16 - 1))
    hr (regGet_regPut_off _ _ _ _ _ (by omega))
    (by rw [regFld, hk8, if_neg (by simp [hs]), regFld])
    (by rw [blkState, regFld, hk8, blkState, regFld])
  rw [← hy] at hg hl
  refine ⟨hg, hl, ?_, ?_⟩
  · have hm : regFld x kDMK 0x120 22 16 < 128 := regFld_lt ..
    rw [hy, (keepsBlock_raiseLog (by decide) _ _ _ _ _ _ _ (by decide) (by decide) (by decide)).regFld (by norm_num),
      regFld_regPut_self _ _ _ _ _ _ (by norm_num) (by norm_num)]
    exact Nat.mod_eq_of_lt (by omega)
  · rw [hy]
    exact pending_raise _ kDMK 1 (by decide)

end

end Sys2Proof.Machine
end

section
/-! Proofs. Faults of CAM banks, hot-set ways and pipelines, and what the SRAM patrol logs (R467 to R473). -/

namespace Sys2Proof.Machine

/-! ### A slice that stops (R472) -/

/-- What is inside a slice that stops is stomped away from a register: one of another block than SWC, or below SWC's counters. -/
def AwayFromStomps (b o : Nat) : Prop := o < 0x100000 ∧ b ≠ kICN ∧ (b ≠ kSWC ∨ o < 0x110)

section
variable {b o : Nat} (h : AwayFromStomps b o)
include h

theorem regGet_count_away (x : Slice) {c : Nat} (n : Nat) (h1 : 0x110 ≤ c) (h2 : c + 4 < 0x100000) :
    regGet (count x kSWC c n) b o = regGet x b o := by
  obtain ⟨ho, -, hb⟩ := h
  rw [count, pairSet, regGet_regSet_ne _ _ _ _ _ _ (regKey_ne h2 ho (hb.imp_right fun h => by omega)),
    regGet_regSet_ne _ _ _ _ _ _ (regKey_ne (by omega) ho (hb.imp_right fun h => by omega))]

theorem regGet_stompFlag (x : Slice) : regGet (flagRaise x kSWC 0x110 0 0) b o = regGet x b o := by
  obtain ⟨ho, hi, hb⟩ := h
  have hi' : b ≠ 17 := hi
  unfold flagRaise
  split
  · rfl
  · rw [regGet_raise _ _ _ _ _ (by omega) ho (by decide), regGet_regPut_ne _ _ _ _ _ _ _ _ (regKey_ne (by norm_num) ho
      (hb.imp_right fun h => by omega))]

theorem regGet_stompIn (x : Slice) (id : Nat) : regGet (stompIn x id) b o = regGet x b o := by
  unfold stompIn
  split
  · rfl
  · split
    · rfl
    · split
      · exact regGet_count_away h { x with frames := x.frames.map fun g => if g.id = id then { g with stomped := true } else g } 1
          (by omega) (by omega)
      · rfl

theorem regGet_stompSending (x : Slice) : regGet (stompSending x) b o = regGet x b o := by
  unfold stompSending
  split
  · rfl
  · have hf : regGet (x.sending.foldl (fun x e => stompIn (count x kSWC (0x1100 + 8 * e.lane.val) 1) e.copy.frm)
        { x with sending := [] }) b o = regGet x b o :=
      List.foldlRecOn (motive := fun y => regGet y b o = regGet x b o) _ _ rfl fun y hy e _ =>
        (regGet_stompIn h _ _).trans ((regGet_count_away h y 1 (by omega) (by omega)).trans hy)
    exact (regGet_stompFlag h _).trans hf

theorem regGet_faultLog_lost (x : Slice) (blk unit code detail : Nat) (hf : b ≠ kFLT) :
    regGet (faultLog x fcLost blk unit code detail) b o = regGet x b o := by
  have hsoft : ¬fcLost = fcSoft := by decide
  have hspared : ¬fcLost = fcSpared := by decide
  have hdegraded : ¬fcLost = fcDegraded := by decide
  have e : ∃ z ns, LogOnly x z ∧ faultLog x fcLost blk unit code detail = sliceLost { z with toHub := z.toHub ++ ns } := by
    simp only [faultLog, hsoft, hspared, hdegraded, if_true, if_false]
    exact ⟨_, _, logOnly_raise (logOnly_fltStore (LogOnly.refl x) _ _ _ _ _) _ _ (by norm_num), rfl⟩
  obtain ⟨z, ns, hz, e⟩ := e
  rw [e]
  exact (regGet_stompSending h { z with toHub := z.toHub ++ ns }).trans (hz.keeps b o h.1 hf h.2.1)

end

theorem keepsBlock_faultLog_lost {b : Nat} (x : Slice) (blk unit code detail : Nat) (hf : b ≠ kFLT) (hi : b ≠ kICN) (hs : b ≠ kSWC) :
    KeepsBlock b x (faultLog x fcLost blk unit code detail) :=
  ⟨fun _ ho => regGet_faultLog_lost ⟨ho, hi, Or.inl hs⟩ x blk unit code detail hf⟩

/-- What a slice that stops leaves of itself (R472). -/
def Stopped (x y : Slice) : Prop :=
  y.lost = true ∧ y.report = true ∧ y.sending = [] ∧ y.fifo = [] ∧ y.win = [] ∧ y.recirc = [] ∧ y.flowIn = [] ∧ y.dram = x.dram
    ∧ y.tabs = x.tabs

theorem stopped_faultLog_lost (x : Slice) (blk unit code detail : Nat) : Stopped x (faultLog x fcLost blk unit code detail) := by
  obtain ⟨r, fr, ns, e⟩ := faultLog_lost x blk unit code detail
  rw [e]
  exact ⟨rfl, rfl, rfl, rfl, rfl, rfl, rfl, rfl, rfl⟩

/-! ### Faults that are logged alone -/

/-- A fault of a slice with the registers, the time and the notes of another. -/
theorem faultLog_alike {x z : Slice} (hr : z.regs = x.regs) (hi : z.id = x.id) (hb : z.bases = x.bases) (hh : z.toHub = x.toHub)
    {cls : Nat} (hc : cls < 3) (blk unit code detail : Nat) :
    (∃ r ns, faultLog z cls blk unit code detail = { z with regs := r, toHub := ns })
      ∧ LogOf x (faultLog z cls blk unit code detail) cls blk unit code detail
      ∧ RegsButLog x (faultLog z cls blk unit code detail) [] := by
  have hbut : RegsBut x z [] := regsBut_of_eq (RegsBut.refl x []) hr hi
  refine ⟨?_, faultLog_after hbut (by simp) (hbut.baseNow_eq hb (by norm_num) (by simp)) hh hc blk unit code detail⟩
  obtain ⟨r, ns, e, -⟩ := faultLog_frame z cls blk unit code detail hc
  exact ⟨r, _, e⟩

theorem faultLog_soft_with (x : Slice) (blk unit code detail : Nat) :
    faultLog x fcSoft blk unit code detail = { x with regs := (faultLog x fcSoft blk unit code detail).regs } :=
  (faultLog_soft x blk unit code detail).1.regs.eq_with

/-! ### CAM banks (R305, R467) -/

section
variable (x : Slice) (b : Nat)

/-- Bank `b` is the one that is fenced, and its block counts it where a spare takes its place. -/
def bankOut : Slice :=
  if b < 32 then unitFenced (regPut (setRegBit { x with banksFenced := [b], camBusy := decide (b < 32) } kCAM 0x100 31) kCAM 0x100 4 0 b)
    kCAM
  else { x with banksFenced := [b], camBusy := decide (b < 32) }

theorem regsOnly_bankOut : RegsOnly { x with banksFenced := [b], camBusy := decide (b < 32) } (bankOut x b) := by
  unfold bankOut
  split
  · exact (regsOnly_regPut _ kCAM 0x100 31 31 1).trans ((regsOnly_regPut _ _ _ _ _ _).trans (regsOnly_unitFenced _ _))
  · exact RegsOnly.refl _

theorem regsBut_bankOut : RegsBut x (bankOut x b) [(kCAM, 0x100), (kCAM, 8)] := by
  have h0 : RegsBut x { x with banksFenced := [b], camBusy := decide (b < 32) } [(kCAM, 0x100), (kCAM, 8)] :=
    regsBut_of_eq (RegsBut.refl x _) rfl rfl
  unfold bankOut
  split
  · exact regsBut_unitFenced (regsBut_regPut (regsBut_regPut h0 _ _ _ _ _ (by norm_num) (by simp)) _ _ _ _ _ (by norm_num) (by simp))
      _ (by simp)
  · exact h0

theorem units_bankOut : regFld (bankOut x b) kCAM 8 15 8
      = (if decide (b < 32) then min 255 (regFld x kCAM 8 15 8 + 1) else regFld x kCAM 8 15 8)
    ∧ blkState (bankOut x b) kCAM = blkState x kCAM := by
  by_cases hb : b < 32
  · have h8 : ∀ (z : Slice) (hi lo v : Nat), regGet (regPut z kCAM 0x100 hi lo v) kCAM 8 = regGet z kCAM 8 :=
      fun z hi lo v => regGet_regPut_off _ _ _ _ _ (by norm_num)
    have hx : regGet (regPut (setRegBit { x with banksFenced := [b], camBusy := decide (b < 32) } kCAM 0x100 31) kCAM 0x100 4 0 b) kCAM 8
        = regGet x kCAM 8 := (h8 _ _ _ _).trans (h8 _ _ _ _)
    have hf : ∀ hi lo, regFld (regPut (setRegBit { x with banksFenced := [b], camBusy := decide (b < 32) } kCAM 0x100 31) kCAM 0x100 4 0 b)
        kCAM 8 hi lo = regFld x kCAM 8 hi lo := fun hi lo => congrArg (fld · hi lo) hx
    rw [bankOut, if_pos hb, if_pos (decide_eq_true hb), regFld_unitFenced, blkState_unitFenced, blkState, hf, hf]
    exact ⟨rfl, rfl⟩
  · rw [bankOut, if_neg hb, if_neg (by simpa using hb)]
    exact ⟨rfl, rfl⟩

theorem spare_bankOut (hb : b < 32) : regBit (bankOut x b) kCAM 0x100 31 = true ∧ regFld (bankOut x b) kCAM 0x100 4 0 = b := by
  have hk : ∀ z : Slice, regGet (unitFenced z kCAM) kCAM 0x100 = regGet z kCAM 0x100 :=
    fun z => regGet_regPut_off _ _ _ _ _ (by norm_num)
  have hb' : b % 2 ^ (4 + 1 - 0) = b := Nat.mod_eq_of_lt (by simpa using hb)
  rw [bankOut, if_pos hb, regBit, regFld, hk]
  constructor
  · rw [regGet_regPut_self, wbit_setFld _ _ _ _ _ (by norm_num) (by norm_num), if_neg (by omega)]
    exact regBit_setRegBit _ _ _ _ (by norm_num)
  · rw [← regFld, regFld_regPut_self _ _ _ _ _ _ (by norm_num) (by norm_num), hb']

end

theorem fenceBank_kept {x : Slice} {b : Nat} (h : b ∈ x.banksFenced ∨ blkState x kCAM = 4) (code d : Nat) : fenceBank x b code d = x := by
  have h' : b ∈ x.banksFenced ∨ fenced x kCAM = true := h.imp_right fun h4 => decide_eq_true h4
  rw [fenceBank, if_pos h']

theorem fenceBank_first {x : Slice} {b : Nat} (h4 : blkState x kCAM ≠ 4) (he : x.banksFenced = []) (code d : Nat) :
    fenceBank x b code d = raise (faultLog (bankOut x b) fcSpared kCAM b code d) kCAM 0 := by
  have hf : fenced x kCAM = false := decide_eq_false h4
  rw [fenceBank, if_neg (by simp [he, hf]), if_pos he]
  rfl

theorem fenceBank_second {x : Slice} {b old : Nat} (h4 : blkState x kCAM ≠ 4) (he : x.banksFenced = [old]) (hne : b ≠ old) (code d : Nat) :
    fenceBank x b code d
      = raise (faultLog (setState { x with banksFenced := [old, b] } kCAM stFenced) fcLost kCAM b code d) kCAM 0 := by
  have hf : fenced x kCAM = false := decide_eq_false h4
  rw [fenceBank, if_neg (by simp [he, hf, hne]), if_neg (by simp [he])]
  simp only [he, List.cons_append, List.nil_append]

theorem camBankFault_first {x : Slice} (b : Fin 33) (h4 : blkState x kCAM ≠ 4) (he : x.banksFenced = []) :
    let y := fenceBank x b.val 0x0A b.val
    y = { x with regs := y.regs, toHub := y.toHub, banksFenced := [b.val], camBusy := decide (b.val < 32) }
      ∧ LogOf x y fcSpared kCAM b.val 0x0A b.val
      ∧ (regFld y kCAM 8 15 8 = (if decide (b.val < 32) then min 255 (regFld x kCAM 8 15 8 + 1) else regFld x kCAM 8 15 8)
        ∧ blkState y kCAM = blkState x kCAM)
      ∧ pending y (kCAM * 16) = true
      ∧ (b.val < 32 → regBit y kCAM 0x100 31 = true ∧ regFld y kCAM 0x100 4 0 = b.val)
      ∧ RegsButLog x y [(kCAM, 0x100), (kCAM, 8)] := by
  intro y
  have hy : y = _ := fenceBank_first h4 he 0x0A b.val
  have hbut := regsBut_bankOut x b.val
  have hk : KeepsBlock kCAM (bankOut x b.val) y := by
    rw [hy]
    exact keepsBlock_raiseLog (by decide) _ _ _ _ _ _ _ (by decide) (by decide) (by decide)
  obtain ⟨hcnt, hst⟩ := units_bankOut x b.val
  obtain ⟨r, hr⟩ := regsOnly_bankOut x b.val
  obtain ⟨hlog, hlogbut⟩ := faultLog_after hbut (by simp)
    (hbut.baseNow_eq (by rw [hr]; rfl) (by norm_num) (by simp)) (by rw [hr]; rfl) (cls := fcSpared) (by decide) kCAM b.val 0x0A b.val
  refine ⟨?_, ?_, ⟨(hk.regFld (by norm_num) _ _).trans hcnt, (hk.regFld (by norm_num) _ _).trans hst⟩, ?_, fun hb => ?_, ?_⟩
  · obtain ⟨r', ns, e⟩ := raiseLog_frame (cls := fcSpared) (by decide) kCAM b.val 0x0A b.val kCAM 0 (bankOut x b.val)
    rw [hy, e, hr]
    rfl
  · rw [hy]
    exact hlog.raise (by decide) _ _ (by decide)
  · rw [hy]
    exact pending_raise _ kCAM 0 (by decide)
  · obtain ⟨hbit, hbank⟩ := spare_bankOut x b.val hb
    exact ⟨(hk.regBit (by norm_num) _).trans hbit, (hk.regFld (by norm_num) _ _).trans hbank⟩
  · rw [hy]
    exact hlogbut.raise _ _ (by decide)

theorem camBankFault_second {x : Slice} (b : Fin 33) {old : Nat} (h4 : blkState x kCAM ≠ 4) (he : x.banksFenced = [old])
    (hne : b.val ≠ old) :
    let y := fenceBank x b.val 0x0A b.val
    Stopped x y ∧ y.banksFenced = [old, b.val] ∧ blkState y kCAM = 4 := by
  intro y
  have hy : y = _ := fenceBank_second h4 he hne 0x0A b.val
  obtain ⟨r, fr, ns, e⟩ := faultLog_lost (setState { x with banksFenced := [old, b.val] } kCAM stFenced) kCAM b.val 0x0A b.val
  obtain ⟨r', e'⟩ := regsOnly_raise (faultLog (setState { x with banksFenced := [old, b.val] } kCAM stFenced) fcLost kCAM b.val 0x0A b.val)
    kCAM 0
  have hk := (keepsBlock_faultLog_lost (b := kCAM) (setState { x with banksFenced := [old, b.val] } kCAM stFenced) kCAM b.val 0x0A b.val
    (by decide) (by decide) (by decide)).trans (keepsBlock_raise (c := 0) (k := kCAM) _ (by decide) (by decide))
  refine ⟨?_, ?_, ?_⟩
  · rw [hy, e', e]
    exact ⟨rfl, rfl, rfl, rfl, rfl, rfl, rfl, rfl, rfl⟩
  · rw [hy, e', e]
    rfl
  · rw [hy, blkState, hk.regFld (by norm_num), setState, regFld_regPut_self _ _ _ _ _ _ (by norm_num) (by norm_num)]
    rfl

/-! ### Pipelines (R468, R472) -/

theorem foldl_stompPort_idle {x : Slice} (h : x.sending = []) (ps : List Nat) : ps.foldl stompPort x = x := by
  have hp : ∀ p, stompPort x p = x := fun p => by rw [stompPort, h]; rfl
  induction ps with
  | nil => rfl
  | cons p ps ih => rw [List.foldl_cons, hp, ih]

section
variable {x : Slice} {egress : Bool} {p : Pipe}

theorem fencePipe_kept (h : (egress, p) ∈ x.pipesFenced) (code : Nat) (d : Option Nat) : fencePipe x egress p code d = x := by
  rw [fencePipe, if_pos h]

variable (h : (egress, p) ∉ x.pipesFenced)
include h

theorem fencePipe_first (hf : (x.pipesFenced.any fun k => k.1 == egress) = false) (hs : egress = true → x.sending = []) (code : Nat) :
    fencePipe x egress p code none =
      faultLog { x with pipesFenced := x.pipesFenced ++ [(egress, p)],
                        win := if egress then x.win else x.win.filter fun k => decide (k.pkt.pipe ≠ p) }
        fcDegraded (if egress then kSWC else kPRS) p.val code
        (if egress then 0 else (x.win.filter fun k => decide (k.pkt.pipe = p)).length) := by
  cases egress with
  | true =>
    rw [fencePipe, if_neg h, hf]
    simp only [if_true, Bool.false_eq_true, if_false]
    rw [foldl_stompPort_idle (x := { x with pipesFenced := x.pipesFenced ++ [(true, p)] }) (hs rfl)]
    rfl
  | false =>
    rw [fencePipe, if_neg h, hf]
    rfl

theorem fencePipe_second (hf : (x.pipesFenced.any fun k => k.1 == egress) = true) (he : egress = false) :
    Stopped x (fencePipe x egress p 0x0C none) := by
  subst he
  rw [fencePipe, if_neg h, hf]
  exact stopped_faultLog_lost { x with pipesFenced := x.pipesFenced ++ [(false, p)],
                                       win := x.win.filter fun k => decide (k.pkt.pipe ≠ p) } _ _ _ _

end

/-! ### The SRAM patrol (R469) -/

theorem exec_sramPatrolPass (sl : SliceId) (found : List SramFinding) (s : State) :
    exec (.sramPatrolPass sl found) s = execSramPatrolPass sl found s := rfl

section
variable {s : State} {sl : SliceId} (hon : (s.slice sl).on = true)
include hon

theorem runsOn_sramPatrolPass_idle (h : seqRuns (s.slice sl) qBST = false) (found : List SramFinding) :
    RunsOn (.sramPatrolPass sl found) s sl fun y => y = s.slice sl :=
  runsOn_onStarted (exec_sramPatrolPass ..) hon (by simp [h])

theorem runsOn_sramPatrolPass (h : seqRuns (s.slice sl) qBST = true) (f : SramFinding) {blk : Block} {code : Nat} {a : BitVec 32}
    (hf : f = .corrected blk a ∧ code = 0x03 ∨ f = .uncorrectable blk a ∧ code = 0x04) :
    RunsOn (.sramPatrolPass sl [f]) s sl fun y => y = { s.slice sl with regs := y.regs }
      ∧ LogOf (s.slice sl) y fcSoft blk.val wholeBlock code a.toNat ∧ RegsButLog (s.slice sl) y [] := by
  obtain ⟨-, hlog, hbut⟩ := faultLog_alike (x := s.slice sl) rfl rfl rfl rfl (cls := fcSoft) (by decide) blk.val wholeBlock code a.toNat
  have hw := faultLog_soft_with (s.slice sl) blk.val wholeBlock code a.toNat
  refine runsOn_onStarted (exec_sramPatrolPass ..) hon ?_
  simp only [h, Bool.not_true, Bool.false_eq_true, if_false, List.foldl_cons, List.foldl_nil]
  obtain ⟨rfl, rfl⟩ | ⟨rfl, rfl⟩ := hf
  · exact ⟨hw, hlog, hbut⟩
  · exact ⟨hw, hlog, hbut⟩

end

end Sys2Proof.Machine
end

section
/-! Proofs. Faults of hot-set ways and of cells, and the recovery of a block (R102, R474 to R478). -/

namespace Sys2Proof.Machine

/-! ### Ways of the hot set (R474) -/

theorem exec_hotSetWayFault (sl : SliceId) (n : BitVec 14) (way : Fin 16) (s : State) :
    exec (.hotSetWayFault sl n way) s = execHotSetWayFault sl n way s := rfl

section
variable {s : State} {sl : SliceId} (hon : (s.slice sl).on = true) {n : BitVec 14} {way : Fin 16}
include hon

theorem runsOn_hotSetWayFault_kept (h : (n.toNat, way.val) ∈ (s.slice sl).waysFenced) :
    RunsOn (.hotSetWayFault sl n way) s sl fun y => y = s.slice sl :=
  runsOn_onStarted (exec_hotSetWayFault ..) hon (if_pos h)

variable (h : (n.toNat, way.val) ∉ (s.slice sl).waysFenced)
include h

theorem runsOn_hotSetWayFault_empty
    (hf : ((s.slice sl).hot.find? fun g => decide (g.set = n.toNat) && decide (g.way = way.val)) = none) :
    RunsOn (.hotSetWayFault sl n way) s sl fun y =>
      y = { s.slice sl with regs := y.regs, toHub := y.toHub, waysFenced := (s.slice sl).waysFenced ++ [(n.toNat, way.val)] }
      ∧ LogOf (s.slice sl) y fcSpared kFLW way.val 0x0B (n.toNat * 16 + way.val) ∧ RegsButLog (s.slice sl) y [] := by
  refine runsOn_onStarted (exec_hotSetWayFault ..) hon ?_
  simp only [if_neg h, hf]
  obtain ⟨⟨r, ns, e⟩, hl⟩ := faultLog_alike (x := s.slice sl)
    (z := { s.slice sl with waysFenced := (s.slice sl).waysFenced ++ [(n.toNat, way.val)] }) rfl rfl rfl rfl (cls := fcSpared) (by decide)
    kFLW way.val 0x0B (n.toNat * 16 + way.val)
  exact ⟨by rw [e], hl⟩

theorem runsOn_hotSetWayFault_record {g : HotWay}
    (hf : ((s.slice sl).hot.find? fun g => decide (g.set = n.toNat) && decide (g.way = way.val)) = some g) :
    RunsOn (.hotSetWayFault sl n way) s sl fun y =>
      y = { s.slice sl with regs := y.regs, toHub := y.toHub, waysFenced := (s.slice sl).waysFenced ++ [(n.toNat, way.val)],
                            hot := (s.slice sl).hot.erase g,
                            lostRecs := if g.dirty then insNat (s.slice sl).lostRecs g.idx else (s.slice sl).lostRecs }
      ∧ LogOf (s.slice sl) y fcSpared kFLW way.val 0x0B (n.toNat * 16 + way.val) ∧ RegsButLog (s.slice sl) y [] := by
  refine runsOn_onStarted (exec_hotSetWayFault ..) hon ?_
  simp only [if_neg h, hf]
  obtain ⟨⟨r, ns, e⟩, hl⟩ := faultLog_alike (x := s.slice sl)
    (z := { s.slice sl with waysFenced := (s.slice sl).waysFenced ++ [(n.toNat, way.val)],
                            hot := (s.slice sl).hot.erase g,
                            lostRecs := if g.dirty then insNat (s.slice sl).lostRecs g.idx else (s.slice sl).lostRecs })
    rfl rfl rfl rfl (cls := fcSpared) (by decide) kFLW way.val 0x0B (n.toNat * 16 + way.val)
  exact ⟨by rw [e], hl⟩

end

/-! ### Cells that are freed (R326) -/

/-- Cells are freed: of the slice only registers of BUF, the list of suspect cells and the owners change. -/
structure CellsFreed (x y : Slice) : Prop where
  shape : ∃ r su co, y = { x with regs := r, suspects := su, cellsOut := co }
  keeps : ∀ b, b ≠ kBUF → KeepsBlock b x y
  stays : ∀ j, sFind x.cellsOut j = none → sFind y.cellsOut j = none
  owner : ∀ j o, sFind y.cellsOut j = some o → sFind x.cellsOut j = some o

theorem CellsFreed.refl (x : Slice) : CellsFreed x x :=
  ⟨⟨x.regs, x.suspects, x.cellsOut, rfl⟩, fun b _ => KeepsBlock.refl b x, fun _ h => h, fun _ _ h => h⟩

theorem CellsFreed.trans {x y z : Slice} (h : CellsFreed x y) (g : CellsFreed y z) : CellsFreed x z := by
  refine ⟨?_, fun b hb => (h.keeps b hb).trans (g.keeps b hb), fun j hj => g.stays j (h.stays j hj),
    fun j o hj => h.owner j o (g.owner j o hj)⟩
  obtain ⟨r, su, co, rfl⟩ := h.shape
  obtain ⟨r', su', co', rfl⟩ := g.shape
  exact ⟨r', su', co', rfl⟩

theorem freeCell_some {x : Slice} {k o : Nat} (h : sFind x.cellsOut k = some o) :
    freeCell x k = regPut { cleared x false k with cellsOut := sDel x.cellsOut k } kBUF (0x1400 + 8 * o) 17 0 (usedC x o - 1) := by
  rw [freeCell, h]

theorem freeCell_none {x : Slice} {k : Nat} (h : sFind x.cellsOut k = none) : freeCell x k = x := by rw [freeCell, h]

theorem freeCell_frames (x : Slice) (k : Nat) : (freeCell x k).frames = x.frames := by
  cases ho : sFind x.cellsOut k with
  | none => rw [freeCell_none ho]
  | some o => rw [freeCell_some ho]; rfl

theorem freeCells_frames (x : Slice) (ks : List Nat) : (freeCells x ks).frames = x.frames :=
  List.foldlRecOn (motive := fun y => y.frames = x.frames) ks freeCell rfl fun y hy k _ => (freeCell_frames y k).trans hy

theorem freeCell_freed {x : Slice} {k : Nat} (hk : ∀ o, sFind x.cellsOut k = some o → o < 22) :
    CellsFreed x (freeCell x k) ∧ sFind (freeCell x k).cellsOut k = none := by
  cases ho : sFind x.cellsOut k with
  | none =>
    rw [freeCell_none ho]
    exact ⟨CellsFreed.refl x, ho⟩
  | some o =>
    have h22 := hk o ho
    rw [freeCell_some ho]
    refine ⟨⟨⟨_, _, _, rfl⟩, fun b hb => ?_, fun j hj => ?_, fun j o' hj => ?_⟩, sFind_sDel_self _ _⟩
    · exact ⟨(keepsBlock_regPut { cleared x false k with cellsOut := sDel x.cellsOut k } _ _ _ hb (by omega)).reg⟩
    · exact (sFind_sDel_ne x.cellsOut fun e => nomatch (e ▸ ho).symm.trans hj).trans hj
    · by_cases hjk : j = k
      · subst hjk
        exact nomatch (sFind_sDel_self x.cellsOut j).symm.trans hj
      · exact (sFind_sDel_ne _ hjk).symm.trans hj

theorem freeCells_freed {ks : List Nat} {x : Slice} (h : ∀ k ∈ ks, ∀ o, sFind x.cellsOut k = some o → o < 22) :
    CellsFreed x (freeCells x ks) ∧ ∀ k ∈ ks, sFind (freeCells x ks).cellsOut k = none := by
  unfold freeCells
  induction ks generalizing x with
  | nil => exact ⟨CellsFreed.refl x, fun k hk => nomatch hk⟩
  | cons k ks ih =>
    obtain ⟨h1, hk⟩ := freeCell_freed (h k (List.mem_cons_self ..))
    obtain ⟨h2, hks⟩ := ih fun j hj o ho => h j (List.mem_cons_of_mem k hj) o (h1.owner j o ho)
    refine ⟨h1.trans h2, fun j hj => ?_⟩
    obtain rfl | hj := List.mem_cons.1 hj
    · exact h2.stays j hk
    · exact hks j hj

/-! ### A frame that loses a cell (R476) -/

/-- A frame that nothing needs any longer is freed with its cells. -/
theorem releaseFrame_last {x : Slice} {f : Frame} (hf : x.frames = [f]) (hq : x.queues = []) (hs : x.sending = []) (hp : x.puntFrames = [])
    (hc : f.copies = []) (ht : f.tx = none) (hg : f.pages = []) (hh : ∀ h ∈ x.held, h.frm ≠ some f.id) :
    releaseFrame x f.id = { freeCells x f.cells with frames := (freeCells x f.cells).frames.filter (·.id ≠ f.id) } := by
  have hfr : frameOf x f.id = some f := by simp [frameOf, hf]
  have hkeep : ((allCopies x).any (·.frm = f.id) || decide (f.copies ≠ []) || (x.held.any fun h => h.frm = some f.id)) = false := by
    simpa [allCopies, hq, hs, hp, hc] using hh
  rw [releaseFrame, hfr]
  simp only [hkeep, Bool.false_eq_true, if_false, ht, hg]
  rfl

theorem releaseFrame_none {x : Slice} {id : Nat} (h : x.frames = []) : releaseFrame x id = x := by
  rw [releaseFrame, frameOf, h]
  rfl

theorem dwrrEmpty_frame (x : Slice) (q : QId) : ∃ d, dwrrEmpty x q = { x with dwrr := d } := by
  have hset : ∀ (z : Slice) d, ∃ w, setDwrr z d = { z with dwrr := w } := fun z d => by
    unfold setDwrr
    split
    · exact ⟨_, rfl⟩
    · exact ⟨_, rfl⟩
  unfold dwrrEmpty
  split
  · exact ⟨x.dwrr, rfl⟩
  · obtain ⟨w, e⟩ := hset x { dwrrOf x (laneOf (queuePort x q)) (some (clsOf (queueClass x q))) with
      defs := sDel (dwrrOf x (laneOf (queuePort x q)) (some (clsOf (queueClass x q)))).defs (memberNo q) }
    simp only [e]
    split
    · exact ⟨w, rfl⟩
    · obtain ⟨w', e'⟩ := hset { x with dwrr := w } { dwrrOf { x with dwrr := w } (laneOf (queuePort x q)) none with
        defs := sDel (dwrrOf { x with dwrr := w } (laneOf (queuePort x q)) none).defs (clsOf (queueClass x q)).val }
      exact ⟨w', e'⟩

theorem Slice.withSending_self {x : Slice} {l : List Sending} (h : x.sending = l) : { x with sending := l } = x := by
  subst h
  rfl

theorem stompFrame_idle {x : Slice} (hs : x.sending = []) (id : Nat) : stompFrame x id = dropBad x id := by
  unfold stompFrame
  simp only [hs, List.filter_nil, if_true, List.foldl_nil]
  rw [Slice.withSending_self hs]

theorem removeCopies_one {x : Slice} {c : Copy} {q : QId} (hq : x.queues = [⟨q, [c], []⟩]) {id : Nat} (hc : c.frm = id) :
    removeCopies x (·.frm = id) = releaseFrame (dwrrEmpty { x with queues := [] } c.q) id := by
  simp only [removeCopies, hq, Queue.all, List.flatMap_cons, List.flatMap_nil, List.append_nil, List.filter_cons, hc, decide_true,
    Bool.not_true, Bool.false_eq_true, if_false, if_true, List.filter_nil, List.isEmpty_nil, List.map_cons, List.map_nil, List.foldl_cons,
    List.foldl_nil]

/-- A slice's one frame waits in one queue, with no page, no ring and nothing else that needs it. -/
structure OneQueued (x : Slice) (f : Frame) (c : Copy) (q : QId) : Prop where
  frames : x.frames = [f]
  queues : x.queues = [⟨q, [c], []⟩]
  frm : c.frm = f.id
  copies : f.copies = []
  tx : f.tx = none
  pages : f.pages = []
  punts : x.puntFrames = []
  held : ∀ h ∈ x.held, h.frm ≠ some f.id

section
variable {x : Slice} {f : Frame} {c : Copy} {q : QId} (h : OneQueued x f c q)
include h

theorem OneQueued.dropBad_eq {r : Sparse Word}
    (hr : count { x with puntFrames := [], frames := [f] } kSWC 0x1210 1 = { x with regs := r, puntFrames := [], frames := [f] }) :
    dropBad x f.id
      = releaseFrame (releaseFrame (dwrrEmpty { x with regs := r, puntFrames := [], frames := [f], queues := [] } c.q) f.id) f.id := by
  obtain ⟨hf, hq, hc, hcs, -, -, hp, -⟩ := h
  have hff : { f with copies := [] } = f := by rw [← hcs]
  have hn : ((x.queues.flatMap Queue.all).filter (·.frm = f.id)).length + (x.puntFrames.filter (·.frm = f.id)).length
      + ((frameOf x f.id).map (·.copies.length)).getD 0 = 1 := by
    simp [hq, hp, Queue.all, hc, frameOf, hf, hcs]
  have hfr : (x.frames.map fun g => if g.id = f.id then { g with copies := [] } else g) = [f] := by
    rw [hf, List.map_singleton, if_pos rfl, hff]
  have hpu : (x.puntFrames.filter (·.frm ≠ f.id)) = [] := by rw [hp]; rfl
  simp only [dropBad, hn, hfr, hpu, badDrop, Nat.one_ne_zero, if_false, hr]
  rw [removeCopies_one (x := { x with regs := r, puntFrames := [], frames := [f] }) hq hc]

/-- The frame is dropped as bad: its copy leaves its queue, its cells are free, and it is counted. -/
theorem OneQueued.dropBad (hs : x.sending = []) : ∃ z, dropBad x f.id = { freeCells z f.cells with frames := [] }
    ∧ (∃ r d, z = { x with regs := r, puntFrames := [], frames := [f], queues := [], dwrr := d })
    ∧ ∀ b o, regGet z b o = regGet (count x kSWC 0x1210 1) b o := by
  obtain ⟨r, hr⟩ := regsOnly_count { x with puntFrames := [], frames := [f] } kSWC 0x1210 1
  have hg : ∀ b o, regGet ({ x with puntFrames := [], frames := [f] }.setRegs r) b o = regGet (count x kSWC 0x1210 1) b o := fun b o => by
    rw [← hr]
    rfl
  obtain ⟨d, e⟩ := dwrrEmpty_frame { x with regs := r, puntFrames := [], frames := [f], queues := [] } c.q
  obtain ⟨hf, hq, hc, hcs, ht, hpg, hp, hh⟩ := id h
  refine ⟨{ x with regs := r, puntFrames := [], frames := [f], queues := [], dwrr := d }, ?_, ⟨r, d, rfl⟩, hg⟩
  have hlast := releaseFrame_last (x := { x with regs := r, puntFrames := [], frames := [f], queues := [], dwrr := d }) (f := f) rfl rfl hs
    rfl hcs ht hpg hh
  rw [freeCells_frames, List.filter_singleton, decide_eq_false (not_not_intro rfl)] at hlast
  exact ((h.dropBad_eq hr).trans (congrArg (fun w => releaseFrame (releaseFrame w f.id) f.id) e)).trans
    ((congrArg (releaseFrame · f.id) hlast).trans (releaseFrame_none rfl))

end

end Sys2Proof.Machine
end

section
/-! Proofs. Cells that fail, and the recovery of a fenced block (R102, R475 to R478). -/

namespace Sys2Proof.Machine

/-! ### Cells that fail (R475, R476) -/

theorem exec_cellFault (sl : SliceId) (cell : Nat) (s : State) : exec (.cellFault sl cell) s = execCellFault sl cell s := rfl

/-- The entry that a failed cell leaves in the log of a slice whose frame is gone. -/
theorem cellFault_logged (x u : Slice) (cell : Nat) {ks : List Nat} (hb : u.bases = x.bases) (hf : KeepsBlock kFLT x u)
    (ht : regGet u kTIM (timOff 0) = regGet x kTIM (timOff 0)) (hh : u.toHub = x.toHub)
    (hp : pairGet u kSWC 0x1210 = pairGet (count x kSWC 0x1210 1) kSWC 0x1210)
    (hq : u.queues = []) (hfr : u.frames = []) (hcr : u.cellsRetired = insNat x.cellsRetired cell)
    (hk : ∀ j ∈ ks, sFind u.cellsOut j = none) :
    let y := faultLog u fcSoft kBUF wholeBlock 0x04 cell
    y.queues = [] ∧ y.frames = [] ∧ y.cellsRetired = insNat x.cellsRetired cell ∧ (∀ j ∈ ks, sFind y.cellsOut j = none)
      ∧ Counted x y kSWC 0x1210 1 ∧ LogOf x y fcSoft kBUF wholeBlock 0x04 cell := by
  intro y
  have hkeep : KeepsBlock kSWC u y := keepsBlock_faultLog (by decide) _ _ _ _ u (by decide) (by decide)
  have hlog : LogOf u y fcSoft kBUF wholeBlock 0x04 cell := logOf_faultLog u (by decide) _ _ _ _
  obtain ⟨⟨r, e⟩, -⟩ := (faultLog_soft u kBUF wholeBlock 0x04 cell).1
  have hw : y = u.setRegs r := e
  refine ⟨?_, ?_, ?_, fun j hj => ?_, ?_, hlog.of_before (by decide) hf.reg (baseNow_congr hb ht) hh⟩
  · rw [hw]; exact hq
  · rw [hw]; exact hfr
  · rw [hw]; exact hcr
  · rw [hw]; exact hk j hj
  · rw [Counted, hkeep.pairGet (by norm_num), hp, pairGet_count]

section
variable {s : State} {sl : SliceId} (hon : (s.slice sl).on = true) {cell : Nat}
include hon

theorem runsOn_cellFault_kept (h : 196608 ≤ cell ∨ cell ∈ (s.slice sl).cellsRetired) :
    RunsOn (.cellFault sl cell) s sl fun y => y = s.slice sl :=
  runsOn_onStarted (exec_cellFault ..) hon (if_pos h)

variable (hc : cell < 196608) (hr : cell ∉ (s.slice sl).cellsRetired)
include hc hr

/-- What the fault of a cell leaves, once the frame or the scene that had the cell has given it up. -/
theorem runsOn_cellFault {P : Slice → Prop}
    (hp : P (faultLog (let x := match (s.slice sl).frames.find? fun f => decide (cell ∈ f.cells) with
        | some f => stompFrame (s.slice sl) f.id
        | none =>
          if (s.slice sl).scenes.any fun r => decide (cell ∈ r.cells) then
            freeCell { s.slice sl with scenes := (s.slice sl).scenes.map fun r => loseSceneCell r cell } cell
          else s.slice sl
      { x with cellsRetired := insNat x.cellsRetired cell }) fcSoft kBUF wholeBlock 0x04 cell)) :
    RunsOn (.cellFault sl cell) s sl P := by
  have hne : ¬(cellTotal ≤ cell ∨ cell ∈ (s.slice sl).cellsRetired) := by
    rw [not_or]
    exact ⟨not_le.2 hc, hr⟩
  refine runsOn_onStarted (exec_cellFault ..) hon ?_
  rw [if_neg hne]
  exact hp

theorem runsOn_cellFault_free (hf : ∀ g ∈ (s.slice sl).frames, cell ∉ g.cells) (hs : ∀ r ∈ (s.slice sl).scenes, cell ∉ r.cells) :
    RunsOn (.cellFault sl cell) s sl fun y =>
      y = { s.slice sl with regs := y.regs, cellsRetired := insNat (s.slice sl).cellsRetired cell }
        ∧ LogOf (s.slice sl) y fcSoft kBUF wholeBlock 0x04 cell ∧ RegsButLog (s.slice sl) y [] := by
  refine runsOn_cellFault hon hc hr ?_
  have hnone : ((s.slice sl).frames.find? fun f => decide (cell ∈ f.cells)) = none := by simpa using hf
  have hany : ((s.slice sl).scenes.any fun r => decide (cell ∈ r.cells)) = false := by simpa using hs
  simp only [hnone, hany, Bool.false_eq_true, if_false]
  obtain ⟨-, hl⟩ := faultLog_alike (x := s.slice sl)
    (z := { s.slice sl with cellsRetired := insNat (s.slice sl).cellsRetired cell }) rfl rfl rfl rfl (cls := fcSoft) (by decide)
    kBUF wholeBlock 0x04 cell
  exact ⟨faultLog_soft_with _ _ _ _ _, hl⟩

theorem runsOn_cellFault_frame {f : Frame} {c : Copy} {q : QId} (h : OneQueued (s.slice sl) f c q) (hs : (s.slice sl).sending = [])
    (hm : cell ∈ f.cells) (ho : f.owner < 22) (hout : ∀ j ∈ f.cells, sFind (s.slice sl).cellsOut j = some f.owner) :
    RunsOn (.cellFault sl cell) s sl fun y => y.queues = [] ∧ y.frames = []
      ∧ y.cellsRetired = insNat (s.slice sl).cellsRetired cell ∧ (∀ j ∈ f.cells, sFind y.cellsOut j = none)
      ∧ Counted (s.slice sl) y kSWC 0x1210 1 ∧ LogOf (s.slice sl) y fcSoft kBUF wholeBlock 0x04 cell := by
  refine runsOn_cellFault hon hc hr ?_
  generalize s.slice sl = x at *
  have hfind : (x.frames.find? fun f => decide (cell ∈ f.cells)) = some f := by simp [h.frames, hm]
  simp only [hfind, stompFrame_idle hs]
  obtain ⟨z, e, ⟨r, d, rfl⟩, hg⟩ := h.dropBad hs
  rw [e]
  obtain ⟨hfreed, hnone⟩ := freeCells_freed (ks := f.cells) (x := { x with regs := r, puntFrames := [], frames := [f], queues := [], dwrr := d })
    fun k hk o hko => by
      have : some o = some f.owner := hko.symm.trans (hout k hk)
      rw [Option.some.inj this]
      exact ho
  obtain ⟨r', su, co, e'⟩ := hfreed.shape
  have hkeep : ∀ b, b ≠ kBUF → ∀ o < 0x100000, regGet { x with regs := r' } b o = regGet (count x kSWC 0x1210 1) b o :=
    fun b hb o ho => ((congrArg (fun w => regGet w b o) e').symm.trans ((hfreed.keeps b hb).reg o ho)).trans (hg b o)
  rw [e'] at hnone ⊢
  have hx : ∀ b, b ≠ kBUF → b ≠ kSWC → ∀ o < 0x100000, regGet { x with regs := r' } b o = regGet x b o :=
    fun b hb hs o ho => (hkeep b hb o ho).trans ((keepsBlock_count x 1 hs (by norm_num)).reg o ho)
  refine cellFault_logged x _ cell rfl ⟨hx kFLT (by decide) (by decide)⟩ (hx kTIM (by decide) (by decide) _ (by decide)) rfl ?_ rfl rfl
    rfl hnone
  exact KeepsBlock.pairGet ⟨hkeep kSWC (by decide)⟩ (by norm_num)

end

end Sys2Proof.Machine
end

section
/-! Proofs. The recovery of a fenced block, and the faults of units (R102, R305, R467 to R478). -/

namespace Sys2Proof.Machine

/-! ### Registers that take their reset values (R102) -/

/-- A word whose bits of a mask are those of another. -/
def maskedWith (m : Nat) (v w : Word) : Word := w32 (v.toNat &&& (all32 - m) ||| (w.toNat &&& m))

theorem wbit_maskedWith {m : Nat} (hm : m < 2 ^ 32) (v w : Word) {i : Nat} (hi : i < 32) :
    wbit (maskedWith m v w) i = if m.testBit i then wbit w i else wbit v i := by
  rw [maskedWith, wbit_w32 _ hi, Nat.testBit_or, Nat.testBit_and, Nat.testBit_and, testBit_all32_sub hm hi, wbit, wbit]
  cases m.testBit i <;> simp

theorem maskedWith_self {m : Nat} (hm : m < 2 ^ 32) (w : Word) : maskedWith m w w = w :=
  word_ext fun i hi => by rw [wbit_maskedWith hm _ _ hi, ite_self]

theorem maskedWith_maskedWith {m : Nat} (hm : m < 2 ^ 32) (v w : Word) : maskedWith m (maskedWith m v w) w = maskedWith m v w :=
  word_ext fun i hi => by
    rw [wbit_maskedWith hm _ _ hi, wbit_maskedWith hm _ _ hi]
    split
    · rfl
    · rfl

theorem rw_lt {blk off : Nat} {r : RegRow} (h : rowAt blk off = some r) : r.rw < 2 ^ 32 :=
  lt_of_le_of_lt Nat.left_le_or (rowAt_fits h)

/-- One register takes its reset value in its RW bits. -/
def resetStep (b : Nat) (x : Slice) (e : Nat × Word) : Slice :=
  match rowAt b (e.1 - regKey b 0) with
  | some r => regSet x b (e.1 - regKey b 0) (maskedWith r.rw (regGet x b (e.1 - regKey b 0)) (resetOf x.id.val b (e.1 - regKey b 0)))
  | none => x

/-- The entries of a block's registers. -/
def ownEntry (b : Nat) (e : Nat × Word) : Bool := decide (regKey b 0 ≤ e.1) && decide (e.1 < regKey b 0 + 0x100000)

theorem resetRw_eq (x : Slice) (b : Nat) : resetRw x b
    = { (x.regs.filter (ownEntry b)).foldl (resetStep b) x with
        image := ((x.regs.filter (ownEntry b)).foldl (resetStep b) x).image.filter (!ownEntry b ·) } := rfl

theorem ownEntry_iff (b : Nat) (e : Nat × Word) : ownEntry b e = true ↔ ∃ o < 0x100000, e.1 = regKey b o := by
  rw [ownEntry, Bool.and_eq_true, decide_eq_true_eq, decide_eq_true_eq]
  constructor
  · rintro ⟨h1, h2⟩
    exact ⟨e.1 - regKey b 0, by omega, by unfold regKey at *; omega⟩
  · rintro ⟨o, ho, h⟩
    unfold regKey at *
    omega

theorem regKey_sub (b o : Nat) : regKey b o - regKey b 0 = o := by unfold regKey; omega

theorem regsOnly_resetStep (b : Nat) (x : Slice) (e : Nat × Word) : RegsOnly x (resetStep b x e) := by
  unfold resetStep
  split
  · exact regsOnly_regSet ..
  · exact RegsOnly.refl x

theorem regsOnly_foldl {α : Type} {f : Slice → α → Slice} (h : ∀ x a, RegsOnly x (f x a)) (l : List α) (x : Slice) :
    RegsOnly x (l.foldl f x) :=
  List.foldlRecOn (motive := RegsOnly x) l f (RegsOnly.refl x) fun y hy a _ => hy.trans (h y a)

theorem RegsOnly.id_eq {x y : Slice} (h : RegsOnly x y) : y.id = x.id := by
  obtain ⟨r, rfl⟩ := h
  rfl

theorem keepsBlock_resetStep {k b : Nat} (hk : k ≠ b) (x : Slice) {e : Nat × Word} (he : ownEntry b e = true) :
    KeepsBlock k x (resetStep b x e) := by
  obtain ⟨o, ho, he⟩ := (ownEntry_iff b e).1 he
  unfold resetStep
  rw [he, regKey_sub]
  split
  · exact keepsBlock_regSet x _ hk ho
  · exact KeepsBlock.refl k x

section
variable {b o : Nat} {r : RegRow} (hr : rowAt b o = some r)
include hr

theorem regGet_resetStep_self (x : Slice) {e : Nat × Word} (he : e.1 = regKey b o) :
    regGet (resetStep b x e) b o = maskedWith r.rw (regGet x b o) (resetOf x.id.val b o) := by
  unfold resetStep
  rw [he, regKey_sub, hr]
  exact regGet_regSet_self ..

/-- Every entry leaves a register, or gives it the reset value of its RW bits; an entry of its own does the latter. -/
theorem regGet_foldl_resetStep (l : List (Nat × Word)) (x : Slice) (hl : ∀ e ∈ l, ownEntry b e = true) :
    regGet (l.foldl (resetStep b) x) b o
      = if ∃ e ∈ l, e.1 = regKey b o then maskedWith r.rw (regGet x b o) (resetOf x.id.val b o) else regGet x b o := by
  induction l generalizing x with
  | nil => simp
  | cons e l ih =>
    have hl' := fun e' he' => hl e' (List.mem_cons_of_mem e he')
    rw [List.foldl_cons, ih _ hl', (regsOnly_resetStep b x e).id_eq]
    by_cases he : e.1 = regKey b o
    · rw [regGet_resetStep_self hr x he, maskedWith_maskedWith (rw_lt hr), ite_self, if_pos ⟨e, List.mem_cons_self .., he⟩]
    · have hoff : regGet (resetStep b x e) b o = regGet x b o := by
        obtain ⟨o', -, he'⟩ := (ownEntry_iff b e).1 (hl e (List.mem_cons_self ..))
        unfold resetStep
        rw [he', regKey_sub]
        split
        · exact regGet_regSet_ne _ _ _ _ _ _ fun h => he (he'.trans h.symm)
        · rfl
      simp only [hoff, List.mem_cons, exists_eq_or_imp, he, false_or]

end

theorem sFind_eq_none {β : Type} {m : Sparse β} {k : Nat} (h : ¬∃ e ∈ m, e.1 = k) : sFind m k = none := by
  induction m with
  | nil => rfl
  | cons e m ih =>
    obtain ⟨j, v⟩ := e
    have hj : j ≠ k := fun hj => h ⟨(j, v), List.mem_cons_self .., hj⟩
    rw [sFind, if_neg hj]
    exact ih fun ⟨e, he, hk⟩ => h ⟨e, List.mem_cons_of_mem _ he, hk⟩

theorem regGet_resetRw {b o : Nat} {r : RegRow} (ho : o < 0x100000) (hr : rowAt b o = some r) (x : Slice) :
    regGet (resetRw x b) b o = maskedWith r.rw (regGet x b o) (resetOf x.id.val b o) := by
  rw [resetRw_eq]
  refine (regGet_foldl_resetStep hr _ x fun e he => (List.mem_filter.1 he).2).trans ?_
  by_cases hin : ∃ e ∈ x.regs.filter (ownEntry b), e.1 = regKey b o
  · rw [if_pos hin]
  · have hnone : sFind x.regs (regKey b o) = none := sFind_eq_none fun ⟨e, he, hk⟩ =>
      hin ⟨e, List.mem_filter.2 ⟨he, (ownEntry_iff b e).2 ⟨o, ho, hk⟩⟩, hk⟩
    have hreset : regGet x b o = resetOf x.id.val b o := by rw [regGet, hnone]; rfl
    rw [if_neg hin, hreset, maskedWith_self (rw_lt hr)]

theorem keepsBlock_resetRw {k b : Nat} (hk : k ≠ b) (x : Slice) : KeepsBlock k x (resetRw x b) := by
  have hf : KeepsBlock k x ((x.regs.filter (ownEntry b)).foldl (resetStep b) x) :=
    List.foldlRecOn (motive := KeepsBlock k x) _ _ (KeepsBlock.refl k x)
      fun y hy e he => hy.trans (keepsBlock_resetStep hk y (List.mem_filter.1 he).2)
  exact ⟨hf.reg⟩

theorem resetRw_frame (x : Slice) (b : Nat) : ∃ r im, resetRw x b = { x with regs := r, image := im } := by
  obtain ⟨r, e⟩ := regsOnly_foldl (regsOnly_resetStep b) (x.regs.filter (ownEntry b)) x
  rw [resetRw_eq, e]
  exact ⟨r, _, rfl⟩

end Sys2Proof.Machine
end

section
/-! Proofs. Commands of the recovery block, and the faults of units (R102, R305, R467 to R478). -/

namespace Sys2Proof.Machine

/-! ### A recovery is asked for (R102) -/

theorem exec_blockRecovery (sl : SliceId) (v : Word) (s : State) : exec (.blockRecovery sl v) s = execBlockRecovery sl v s := rfl

/-- The command names a block. -/
def rcmdNamed (x : Slice) (v : Word) : Slice := regPut x kFLT 0x110 4 0 (fld v 4 0)

theorem fenced_rcmdNamed (x : Slice) (v : Word) (b : Nat) : fenced (rcmdNamed x v) b = fenced x b := by
  have hk : regKey b 8 ≠ regKey kFLT 0x110 := by unfold regKey; omega
  rw [fenced, blkState, rcmdNamed, regFld_regPut_ne _ _ _ _ _ _ _ _ _ _ hk, fenced, blkState]

theorem regFld_rcmdNamed (x : Slice) (v : Word) : regFld (rcmdNamed x v) kFLT 0x110 4 0 = fld v 4 0 := by
  rw [rcmdNamed, regFld_regPut_self _ _ _ _ _ _ (by norm_num) (by norm_num)]
  exact Nat.mod_eq_of_lt (Nat.mod_lt _ (by norm_num))

theorem regsBut_rcmdNamed (x : Slice) (v : Word) : RegsBut x (rcmdNamed x v) [(kFLT, 0x110)] :=
  regsBut_regPut (RegsBut.refl x _) _ _ _ _ _ (by norm_num) (by simp)

theorem rcmdWrite_eq {x : Slice} {v : Word} (h : regBit x kFLT 0x110 31 = false) (hv : wbit v 31 = true) : rcmdWrite x v =
    if 22 ≤ fld v 4 0 ∨ fld v 4 0 ∈ lostBlocks ∨ fenced x (fld v 4 0) = false then regPut (rcmdNamed x v) kFLT 0x110 30 28 rcRefused
    else { regPut (setRegBit (rcmdNamed x v) kFLT 0x110 31) kFLT 0x110 30 28 0 with recovering := some (fld v 4 0) } := by
  rw [rcmdWrite, if_neg (by simp [h])]
  simp only [hv, Bool.not_true, Bool.false_eq_true, if_false, Bool.not_eq_true']
  rw [← rcmdNamed, fenced_rcmdNamed]

/-- What a command of the recovery block shows, whose answer the bus then gives. -/
theorem rcmdDone_shows {x z : Slice} {b st : Nat} {busy : Bool} {rec : Option Nat} (hz : RegsOnly x z)
    (hst : regFld z kFLT 0x110 30 28 = st) (hb : regFld z kFLT 0x110 4 0 = b) (hbusy : regBit z kFLT 0x110 31 = busy)
    (hbut : RegsBut x z [(kFLT, 0x110)]) :
    let y : Slice := { z with recovering := rec, bus := .done }
    y = { x with regs := y.regs, recovering := rec, bus := .done }
      ∧ regFld y kFLT 0x110 30 28 = st ∧ regFld y kFLT 0x110 4 0 = b ∧ regBit y kFLT 0x110 31 = busy ∧ RegsBut x y [(kFLT, 0x110)] := by
  obtain ⟨r, rfl⟩ := hz
  exact ⟨rfl, hst, hb, hbusy, hbut⟩

section
variable {s : State} {sl : SliceId} (hon : (s.slice sl).on = true) {v : Word}
include hon

theorem runsOn_blockRecovery_busy (h : regBit (s.slice sl) kFLT 0x110 31 = true) :
    RunsOn (.blockRecovery sl v) s sl fun y => y = { s.slice sl with bus := .done } :=
  runsOn_onStarted (exec_blockRecovery ..) hon (by rw [rcmdWrite, if_pos h])

variable (h : regBit (s.slice sl) kFLT 0x110 31 = false) (hv : wbit v 31 = true)
include h hv

theorem runsOn_blockRecovery_refused
    (hb : 22 ≤ fld v 4 0 ∨ fld v 4 0 ∈ lostBlocks ∨ fenced (s.slice sl) (fld v 4 0) = false) :
    RunsOn (.blockRecovery sl v) s sl fun y => y = { s.slice sl with regs := y.regs, bus := .done } ∧ regFld y kFLT 0x110 30 28 = 3
      ∧ regFld y kFLT 0x110 4 0 = fld v 4 0 ∧ regBit y kFLT 0x110 31 = false ∧ RegsBut (s.slice sl) y [(kFLT, 0x110)] := by
  refine runsOn_onStarted (exec_blockRecovery ..) hon ?_
  rw [rcmdWrite_eq h hv, if_pos hb]
  have hz := (regsOnly_regPut (s.slice sl) kFLT 0x110 4 0 (fld v 4 0)).trans
    (regsOnly_regPut (rcmdNamed (s.slice sl) v) kFLT 0x110 30 28 rcRefused)
  have hshow := rcmdDone_shows (rec := (s.slice sl).recovering) (st := 3) (b := fld v 4 0) (busy := false) hz
    (by
      rw [regFld_regPut_self _ _ _ _ _ _ (by norm_num) (by norm_num)]
      norm_num [rcRefused])
    (by rw [regFld_regPut_other _ _ _ _ _ _ _ _ (by norm_num) (by norm_num) (by norm_num), regFld_rcmdNamed])
    (by rw [regBit_regPut_other _ _ _ _ _ _ _ (by norm_num) (by norm_num) (by norm_num), rcmdNamed,
      regBit_regPut_other _ _ _ _ _ _ _ (by norm_num) (by norm_num) (by norm_num), h])
    (regsBut_regPut (regsBut_rcmdNamed (s.slice sl) v) kFLT 0x110 30 28 rcRefused (by norm_num) (by simp))
  obtain ⟨r, e⟩ := hz
  rw [e] at hshow ⊢
  exact hshow

theorem runsOn_blockRecovery_taken (h22 : fld v 4 0 < 22) (hl : fld v 4 0 ∉ lostBlocks) (hf : fenced (s.slice sl) (fld v 4 0) = true) :
    RunsOn (.blockRecovery sl v) s sl fun y => y = { s.slice sl with regs := y.regs, recovering := some (fld v 4 0), bus := .done }
      ∧ regFld y kFLT 0x110 30 28 = 0 ∧ regFld y kFLT 0x110 4 0 = fld v 4 0 ∧ regBit y kFLT 0x110 31 = true
      ∧ RegsBut (s.slice sl) y [(kFLT, 0x110)] := by
  have hb : ¬(22 ≤ fld v 4 0 ∨ fld v 4 0 ∈ lostBlocks ∨ fenced (s.slice sl) (fld v 4 0) = false) := by
    simp only [not_or, not_le, hf]
    exact ⟨h22, hl, Bool.noConfusion⟩
  refine runsOn_onStarted (exec_blockRecovery ..) hon ?_
  rw [rcmdWrite_eq h hv, if_neg hb]
  have hz := ((regsOnly_regPut (s.slice sl) kFLT 0x110 4 0 (fld v 4 0)).trans
    (regsOnly_regPut (rcmdNamed (s.slice sl) v) kFLT 0x110 31 31 1)).trans
    (regsOnly_regPut (setRegBit (rcmdNamed (s.slice sl) v) kFLT 0x110 31) kFLT 0x110 30 28 0)
  have hshow := rcmdDone_shows (rec := some (fld v 4 0)) (st := 0) (b := fld v 4 0) (busy := true) hz
    (by
      rw [regFld_regPut_self _ _ _ _ _ _ (by norm_num) (by norm_num)]
      norm_num)
    (by rw [regFld_regPut_other _ _ _ _ _ _ _ _ (by norm_num) (by norm_num) (by norm_num), setRegBit,
      regFld_regPut_other _ _ _ _ _ _ _ _ (by norm_num) (by norm_num) (by norm_num), regFld_rcmdNamed])
    (by rw [regBit_regPut_other _ _ _ _ _ _ _ (by norm_num) (by norm_num) (by norm_num), regBit_setRegBit _ _ _ _ (by norm_num)])
    (regsBut_regPut (regsBut_regPut (regsBut_rcmdNamed (s.slice sl) v) kFLT 0x110 31 31 1 (by norm_num) (by simp))
      kFLT 0x110 30 28 0 (by norm_num) (by simp))
  obtain ⟨r, e⟩ := hz
  rw [e] at hshow ⊢
  exact hshow

end

/-! ### The end of a recovery (R102) -/

theorem exec_recoveryDone (sl : SliceId) (ok : Bool) (s : State) : exec (.recoveryDone sl ok) s = execRecoveryDone sl ok s := rfl

/-- The block recovers no longer. -/
def recoveryFreed (x : Slice) : Slice := { clrRegBit x kFLT 0x110 31 with recovering := none }

theorem regsOnly_clrRegBit (x : Slice) (b o i : Nat) : RegsOnly x (clrRegBit x b o i) := regsOnly_regPut ..

theorem regGet_recoveryFreed (x : Slice) (b o : Nat) : regGet (recoveryFreed x) b o = regGet (clrRegBit x kFLT 0x110 31) b o := by
  obtain ⟨r, e⟩ := regsOnly_clrRegBit x kFLT 0x110 31
  rw [recoveryFreed, e]
  rfl

theorem recoveryFreed_frame (x : Slice) : ∃ r, recoveryFreed x = { x with regs := r, recovering := none } := by
  obtain ⟨r, e⟩ := regsOnly_clrRegBit x kFLT 0x110 31
  exact ⟨r, by rw [recoveryFreed, e]; rfl⟩

theorem recoveryFreed_free (x : Slice) : regBit (recoveryFreed x) kFLT 0x110 31 = false := by
  rw [regBit, regGet_recoveryFreed]
  exact regBit_clrRegBit x kFLT 0x110 31 (by norm_num)

theorem regGet_recoveryFreed_ne (x : Slice) {k o : Nat} (ho : o < 0x100000) (hn : (k, o) ≠ (kFLT, 0x110)) :
    regGet (recoveryFreed x) k o = regGet x k o := by
  rw [ne_eq, Prod.mk.injEq, not_and_or] at hn
  rw [regGet_recoveryFreed, clrRegBit, regGet_regPut_ne _ _ _ _ _ _ _ _ (regKey_ne (by norm_num) ho hn)]

/-- The recovery is over, with its result. -/
def recoveryEnded (x : Slice) (result : Nat) : Slice := raise (regPut x kFLT 0x110 30 28 result) kFLT 4

theorem regsOnly_recoveryEnded (x : Slice) (n : Nat) : RegsOnly x (recoveryEnded x n) :=
  (regsOnly_regPut _ _ _ _ _ _).trans (regsOnly_raise _ _ _)

theorem regGet_recoveryEnded (x : Slice) (n : Nat) {o : Nat} (ho : o < 0x100000) :
    regGet (recoveryEnded x n) kFLT o = regGet (regPut x kFLT 0x110 30 28 n) kFLT o :=
  regGet_raise_flt _ (b := kFLT) (c := 4) (by decide) ho

/-- A block's recovery is over: the command is free again, shows its result, and raises its cause. -/
theorem recoveryEnded_shows {x : Slice} {n : Nat} (hn : n < 8) (hb : regBit x kFLT 0x110 31 = false) :
    regFld (recoveryEnded x n) kFLT 0x110 30 28 = n ∧ regBit (recoveryEnded x n) kFLT 0x110 31 = false
      ∧ pending (recoveryEnded x n) (kFLT * 16 + 4) = true := by
  refine ⟨?_, ?_, pending_raise _ kFLT 4 (by decide)⟩
  · rw [regFld, regGet_recoveryEnded _ _ (by norm_num), ← regFld, regFld_regPut_self _ _ _ _ _ _ (by norm_num) (by norm_num)]
    exact Nat.mod_eq_of_lt hn
  · rw [regBit, regGet_recoveryEnded _ _ (by norm_num), ← regBit, regBit_regPut_other _ _ _ _ _ _ _ (by norm_num) (by norm_num) (by norm_num),
      hb]

theorem keepsBlock_recoveryEnded {k : Nat} (x : Slice) (n : Nat) (hf : k ≠ kFLT) (hi : k ≠ kICN) : KeepsBlock k x (recoveryEnded x n) :=
  (keepsBlock_regPut x _ _ _ hf (by norm_num)).trans (keepsBlock_raise _ hi (by decide))

section
variable {s : State} {sl : SliceId} (hon : (s.slice sl).on = true)
include hon

theorem runsPair_recoveryDone_none (h : (s.slice sl).recovering = none) (ok : Bool) :
    RunsPair (.recoveryDone sl ok) s sl fun y _ => y = s.slice sl :=
  runsPair_onLink (exec_recoveryDone ..) hon (by rw [h])

variable {b : Nat} (h : (s.slice sl).recovering = some b)
include h

theorem runsPair_recoveryDone_false {P : Slice → Prop}
    (hp : P (recoveryEnded (recoveryFreed (s.slice sl)) rcFailed)) :
    RunsPair (.recoveryDone sl false) s sl fun y _ => P y :=
  runsPair_onLink (exec_recoveryDone ..) hon (by rw [h]; exact hp)

theorem runsPair_recoveryDone_true {P : Slice → Prop} (hs : b ≠ kSRG)
    (hp : P (recoveryEnded (setState (resetRw (recoveryFreed (s.slice sl)) b) b stDisabled)
      rcRecovered)) :
    RunsPair (.recoveryDone sl true) s sl fun y _ => P y :=
  runsPair_onLink (exec_recoveryDone ..) hon (by rw [h]; simp only [if_true, hs, if_false]; exact hp)

theorem runsPair_recoveryDone_failed :
    RunsPair (.recoveryDone sl false) s sl fun y _ => y = { s.slice sl with regs := y.regs, recovering := none }
      ∧ regFld y kFLT 0x110 30 28 = 2 ∧ regBit y kFLT 0x110 31 = false ∧ pending y (kFLT * 16 + 4) = true
      ∧ RegsBut (s.slice sl) y ((kFLT, 0x110) :: raiseKeys kFLT 4) := by
  refine runsPair_recoveryDone_false hon h ?_
  obtain ⟨hres, hbusy, hpend⟩ := recoveryEnded_shows (n := rcFailed) (by decide) (recoveryFreed_free (s.slice sl))
  have hbut : RegsBut (s.slice sl) (recoveryFreed (s.slice sl)) ((kFLT, 0x110) :: raiseKeys kFLT 4) := fun b o ho hn =>
    regGet_recoveryFreed_ne _ ho fun e => hn (List.mem_cons.2 (Or.inl e))
  refine ⟨?_, hres, hbusy, hpend,
    regsBut_raise (regsBut_regPut hbut _ _ _ _ _ (by norm_num) (by simp)) kFLT 4 (by norm_num) (List.subset_cons_self ..)⟩
  obtain ⟨r, e⟩ := recoveryFreed_frame (s.slice sl)
  obtain ⟨r', e'⟩ := regsOnly_recoveryEnded (recoveryFreed (s.slice sl)) rcFailed
  rw [e', e]
  rfl

theorem runsPair_recoveryDone_ok (hs : b ≠ kSRG) (hi : b ≠ kICN) (hf : b ≠ kFLT) :
    RunsPair (.recoveryDone sl true) s sl fun y _ => y = { s.slice sl with regs := y.regs, image := y.image, recovering := none }
      ∧ blkState y b = 0
      ∧ (∀ o r, o < 0x100000 → o ≠ 8 → rowAt b o = some r →
          regGet y b o = w32 ((regGet (s.slice sl) b o).toNat &&& (all32 - r.rw) ||| ((resetOf (s.slice sl).id.val b o).toNat &&& r.rw)))
      ∧ regFld y kFLT 0x110 30 28 = 1 ∧ regBit y kFLT 0x110 31 = false ∧ pending y (kFLT * 16 + 4) = true
      ∧ (∀ k o, o < 0x100000 → k ≠ b → k ≠ kICN → (k, o) ≠ (kFLT, 0x110) → regGet y k o = regGet (s.slice sl) k o) := by
  refine runsPair_recoveryDone_true hon h hs ?_
  have hkeep : ∀ k o, o < 0x100000 → (k, o) ≠ (kFLT, 0x110) → regGet (recoveryFreed (s.slice sl)) k o = regGet (s.slice sl) k o :=
    fun k o ho hn => regGet_recoveryFreed_ne _ ho hn
  have hfree := recoveryFreed_free (s.slice sl)
  obtain ⟨r, e⟩ := recoveryFreed_frame (s.slice sl)
  have hid : (recoveryFreed (s.slice sl)).id = (s.slice sl).id := by rw [e]
  have hshape : ∃ r im, recoveryEnded (setState (resetRw (recoveryFreed (s.slice sl)) b) b stDisabled) rcRecovered
      = { s.slice sl with regs := r, image := im, recovering := none } := by
    obtain ⟨r', im, e'⟩ := resetRw_frame (recoveryFreed (s.slice sl)) b
    obtain ⟨r'', e''⟩ := (regsOnly_regPut _ _ _ _ _ _).trans
      (regsOnly_recoveryEnded (setState (resetRw (recoveryFreed (s.slice sl)) b) b stDisabled) rcRecovered)
    exact ⟨r'', im, by rw [e'', e', e]; rfl⟩
  generalize recoveryFreed (s.slice sl) = x at *
  have hset : ∀ k, k ≠ b → KeepsBlock k x (setState (resetRw x b) b stDisabled) := fun k hk =>
    (keepsBlock_resetRw hk x).trans (keepsBlock_regPut _ _ _ _ hk (by norm_num))
  have hfree' : regBit (setState (resetRw x b) b stDisabled) kFLT 0x110 31 = false := by
    rw [(hset kFLT hf.symm).regBit (by norm_num), hfree]
  obtain ⟨hres, hbusy, hpend⟩ := recoveryEnded_shows (n := rcRecovered) (by decide) hfree'
  have hend : KeepsBlock b (setState (resetRw x b) b stDisabled) (recoveryEnded (setState (resetRw x b) b stDisabled) rcRecovered) :=
    keepsBlock_recoveryEnded _ _ hf hi
  refine ⟨?_, ?_, fun o r ho h8 hr => ?_, hres, hbusy, hpend, fun k o ho hk hki hne => ?_⟩
  · obtain ⟨r, im, e⟩ := hshape
    rw [e]
  · exact (hend.regFld (by norm_num) _ _).trans
      (regFld_regPut_self (resetRw x b) b 8 2 0 stDisabled (by norm_num) (by norm_num))
  · have hset8 : regGet (setState (resetRw x b) b stDisabled) b o = regGet (resetRw x b) b o := regGet_regPut_off _ _ _ _ _ h8
    refine (hend.reg o ho).trans (hset8.trans ((regGet_resetRw ho hr x).trans ?_))
    rw [hid, hkeep b o ho fun e => hf (congrArg Prod.fst e), maskedWith]
  · by_cases hkf : k = kFLT
    · subst hkf
      have h110 : o ≠ 0x110 := fun e => hne (by rw [e])
      exact (regGet_recoveryEnded _ _ ho).trans ((regGet_regPut_off _ _ _ _ _ h110).trans (((hset _ hk).reg o ho).trans
        (hkeep _ o ho hne)))
    · exact ((keepsBlock_recoveryEnded _ _ hkf hki).reg o ho).trans (((hset _ hk).reg o ho).trans (hkeep k o ho hne))

end

/-! ### The obligation -/

theorem exec_engineFault (sl : SliceId) (e : Fin 68) (s : State) : exec (.engineFault sl e) s = execEngineFault sl e s := rfl

theorem exec_camBankFault (sl : SliceId) (b : Fin 33) (s : State) : exec (.camBankFault sl b) s = execCamBankFault sl b s := rfl

theorem exec_camSpareLoaded (sl : SliceId) (s : State) : exec (.camSpareLoaded sl) s = execCamSpareLoaded sl s := rfl

theorem exec_pipelineFault (sl : SliceId) (egress : Bool) (pipe : Pipe) (s : State) :
    exec (.pipelineFault sl egress pipe) s = execPipelineFault sl egress pipe s := rfl

theorem runsOn_pipelineFault_first {s : State} {sl : SliceId} (hon : (s.slice sl).on = true) {egress : Bool} {pipe : Pipe}
    (h : (egress, pipe) ∉ (s.slice sl).pipesFenced) (hf : ((s.slice sl).pipesFenced.any fun k => k.1 == egress) = false)
    (hs : egress = true → (s.slice sl).sending = []) :
    RunsOn (.pipelineFault sl egress pipe) s sl fun y =>
      y = { s.slice sl with regs := y.regs, toHub := y.toHub, win := y.win,
                            pipesFenced := (s.slice sl).pipesFenced ++ [(egress, pipe)] }
      ∧ y.win = (if egress then (s.slice sl).win else (s.slice sl).win.filter fun k => decide (k.pkt.pipe ≠ pipe))
      ∧ LogOf (s.slice sl) y fcDegraded (if egress then kSWC else kPRS) pipe.val 0x0C
          (if egress then 0 else ((s.slice sl).win.filter fun k => decide (k.pkt.pipe = pipe)).length)
      ∧ RegsButLog (s.slice sl) y [] := by
  refine runsOn_onStarted (exec_pipelineFault ..) hon ?_
  rw [fencePipe_first h hf hs]
  generalize (if egress then (s.slice sl).win else (s.slice sl).win.filter fun k => decide (k.pkt.pipe ≠ pipe)) = w
  generalize (if egress then kSWC else kPRS) = blk
  generalize (if egress then 0 else ((s.slice sl).win.filter fun k => decide (k.pkt.pipe = pipe)).length) = d
  obtain ⟨⟨r, ns, e⟩, hl⟩ := faultLog_alike (x := s.slice sl)
    (z := { s.slice sl with pipesFenced := (s.slice sl).pipesFenced ++ [(egress, pipe)], win := w }) rfl rfl rfl rfl (cls := fcDegraded)
    (by decide) blk pipe.val 0x0C d
  exact ⟨by rw [e], by rw [e], hl⟩

/-- Settles O60, one command at a time: what each leaves of the slice, and the entry that it makes in the fault log. -/
theorem unitFaults : Obligations.UnitFaults := by
  unfold Obligations.UnitFaults
  intro s sl e bank set' way h cell f c q egress pipe v b blk a old hon x hit units stopped n eng pk rb
  refine ⟨fun ha => ?_, fun ha hs => ?_, fun ha hs hp => ?_, fun hk => ?_, fun h4 he => ?_, fun h4 he hne => ?_, ?_,
    runsOn_hotSetWayFault_kept hon, fun hw => ⟨runsOn_hotSetWayFault_record hon hw, runsOn_hotSetWayFault_empty hon hw⟩,
    runsOn_cellFault_kept hon, fun hc hr => ⟨runsOn_cellFault_free hon hc hr, ?_⟩, fun hk => ?_, runsOn_pipelineFault_first hon,
    fun hk hf he => ?_, runsOn_blockRecovery_busy hon,
    fun hb hv => ⟨runsOn_blockRecovery_refused hon hb hv, runsOn_blockRecovery_taken hon hb hv⟩,
    fun hr => runsPair_recoveryDone_none hon hr true,
    fun hr => ⟨runsPair_recoveryDone_failed hon hr, fun _ hs hi hf => runsPair_recoveryDone_ok hon hr hs hi hf⟩,
    fun hi => runsOn_sramPatrolPass_idle hon hi _, fun hr => ⟨runsOn_sramPatrolPass hon hr _ (Or.inl ⟨rfl, rfl⟩),
      runsOn_sramPatrolPass hon hr _ (Or.inr ⟨rfl, rfl⟩)⟩⟩
  · exact runsOn_onStarted (exec_engineFault ..) hon (fenceEngine_idle x ha _ _)
  · exact runsOn_onStarted (exec_engineFault ..) hon (engineFault_spared ha hs)
  · exact runsOn_onStarted (exec_engineFault ..) hon (engineFault_degraded ha hs hp)
  · exact runsOn_onStarted (exec_camBankFault ..) hon (fenceBank_kept hk _ _)
  · exact runsOn_onStarted (exec_camBankFault ..) hon (camBankFault_first bank h4 he)
  · exact runsOn_onStarted (exec_camBankFault ..) hon (camBankFault_second bank h4 he hne)
  · exact runsOn_onStarted (exec_camSpareLoaded ..) hon rfl
  · intro hf hm hcs ht hg ho hout hs hp hq hfrm hh
    exact runsOn_cellFault_frame hon hc hr ⟨hf, hq, hfrm, hcs, ht, hg, hp, hh⟩ hs hm ho hout
  · exact runsOn_onStarted (exec_pipelineFault ..) hon (fencePipe_kept hk _ _)
  · exact runsOn_onStarted (exec_pipelineFault ..) hon (fencePipe_second hk hf he)

end Sys2Proof.Machine
end

section
/-! Proofs. Parity of configuration: mismatches, permanent faults, and reloads (R103, R104). -/

namespace Sys2Proof.Machine

/-! ### Rows of blocks without configuration -/

theorem rowAt_mem {b o : Nat} {r : RegRow} (h : rowAt b o = some r) : r ∈ rowsCommon ∨ r ∈ rowsOf b := by
  rw [rowAt, if_pos (rowAt_blk_lt h)] at h
  have hm := List.mem_of_find?_eq_some h
  split at hm
  · exact Or.inl hm
  · exact Or.inr hm

theorem rw_rowsCommon : ∀ r ∈ rowsCommon, r.rw = 0 := by decide

theorem rw_rowsIcn : ∀ r ∈ rowsOf kICN, r.rw = 0 := by decide +kernel

theorem rw_rowsFlt : ∀ r ∈ rowsOf kFLT, r.rw = 0 := by decide +kernel

/-- A block with an RW register is neither the interrupt controller nor the fault log. -/
theorem block_of_rw {b o : Nat} {r : RegRow} (h : rowAt b o = some r) (hw : r.rw ≠ 0) : b ≠ kICN ∧ b ≠ kFLT ∧ b < 22 := by
  obtain hm | hm := rowAt_mem h
  · exact absurd (rw_rowsCommon r hm) hw
  · exact ⟨fun e => hw (rw_rowsIcn r (e ▸ hm)), fun e => hw (rw_rowsFlt r (e ▸ hm)), rowAt_blk_lt h⟩

theorem span_rowsCommon : ∀ r ∈ rowsCommon, 0 < r.str ∧ r.off + r.cnt * r.str < 0x100000 := by decide

theorem span_rowsOf : ∀ b < 22, ∀ r ∈ rowsOf b, 0 < r.str ∧ r.off + r.cnt * r.str < 0x100000 := by decide +kernel

/-- Every register lies in its block's space. -/
theorem rowAt_off_lt {b o : Nat} {r : RegRow} (h : rowAt b o = some r) : o < 0x100000 := by
  have hspan : 0 < r.str ∧ r.off + r.cnt * r.str < 0x100000 :=
    (rowAt_mem h).elim (span_rowsCommon r) (span_rowsOf b (rowAt_blk_lt h) r)
  rw [rowAt, if_pos (rowAt_blk_lt h)] at h
  have hhas := List.find?_some h
  simp only [RegRow.has, Bool.and_eq_true, decide_eq_true_eq] at hhas
  have hlt := (Nat.div_lt_iff_lt_mul hspan.1).1 hhas.2
  omega

/-! ### Parity (R103, R104) -/

theorem exec_parityScan (sl : SliceId) (hit : Option ParityHit) (s : State) : exec (.parityScan sl hit) s = execParityScan sl hit s := rfl

section
variable {x : Slice} {b o : Nat}

theorem regsOnly_perrNote (x : Slice) (b o : Nat) : RegsOnly x (perrNote x b o) := by
  unfold perrNote
  split
  · exact (regsOnly_regPut ..).trans (regsOnly_raise ..)
  · exact (regsOnly_regSet ..).trans (regsOnly_raise ..)

theorem regsBut_perrNote (x : Slice) (hb : b < 22) (o : Nat) : RegsBut x (perrNote x b o) ((b, 0x14) :: raiseKeys b 14) := by
  unfold perrNote
  split
  · exact regsBut_raise (regsBut_regPut (RegsBut.refl _ _) _ _ _ _ _ (by norm_num) (by simp)) _ _ (by omega) (List.subset_cons_self ..)
  · exact regsBut_raise (regsBut_regSet (RegsBut.refl _ _) _ _ _ (by norm_num) (by simp)) _ _ (by omega) (List.subset_cons_self ..)

/-- _PERR says that a register mismatched, and which was the first. -/
theorem perrNote_perr (x : Slice) (hb : b < 22) (ho : o < 0x100000) :
    regBit (perrNote x b o) b 0x14 31 = true ∧ (regBit x b 0x14 31 = false → regFld (perrNote x b o) b 0x14 19 0 = o) := by
  have hraise : ∀ z, regGet (raise z b 14) b 0x14 = regGet z b 0x14 := fun z => regGet_raise_common z b 14 b (by omega) (by norm_num)
  cases hp : regBit x b 0x14 31 with
  | true =>
    refine ⟨?_, nofun⟩
    rw [perrNote, if_pos hp, regBit, hraise, ← regBit, satFld,
      regBit_regPut_other _ _ _ _ _ _ _ (by norm_num) (by norm_num) (by norm_num), hp]
  | false =>
    have hn : (2 ^ 31 + 2 ^ 20 + o) % 2 ^ 32 = 2 ^ 31 + 2 ^ 20 + o := Nat.mod_eq_of_lt (by omega)
    rw [perrNote, if_neg (by rw [hp]; exact Bool.false_ne_true), regBit, regFld, hraise, regGet_regSet_self]
    refine ⟨?_, fun _ => ?_⟩
    · rw [wbit, w32, BitVec.toNat_ofNat, hn, Nat.testBit_eq_decide_div_mod_eq]
      exact decide_eq_true (by omega)
    · rw [fld, w32, BitVec.toNat_ofNat, hn, bits]
      omega

end

/-- A mismatch is noted with its time. -/
def mismNoted (x : Slice) (h : ParityHit) : Slice :=
  { x with mism := x.mism.filter (fun m => !(decide (m.1 = regKey (h.addr.toNat / 0x100000) (h.addr.toNat % 0x100000))
      && decide (m.2.1 = h.unit))) ++ [(regKey (h.addr.toNat / 0x100000) (h.addr.toNat % 0x100000), h.unit, x.clk)] }

/-- A mismatch of the same register in the same copy recurs now. -/
theorem recurs_mismNoted {x y : Slice} {h : ParityHit} (hm : y.mism = (mismNoted x h).mism) (hc : y.clk = x.clk) :
    recurs y (regKey (h.addr.toNat / 0x100000) (h.addr.toNat % 0x100000)) h.unit = true := by
  rw [recurs, hm, hc, mismNoted, List.any_append]
  simp

section
variable {x : Slice} {h : ParityHit} {r : RegRow} (hrow : rowAt (h.addr.toNat / 0x100000) (h.addr.toNat % 0x100000) = some r)
  (hw : r.rw ≠ 0) (hf : fenced x (h.addr.toNat / 0x100000) = false)
include hrow hw hf

theorem parityMismatch_eq : parityMismatch x h =
    if recurs x (regKey (h.addr.toNat / 0x100000) (h.addr.toNat % 0x100000)) h.unit || h.imageBad then
      permanentFault (perrNote (mismNoted x h) (h.addr.toNat / 0x100000) (h.addr.toNat % 0x100000)) (h.addr.toNat / 0x100000)
        (h.addr.toNat % 0x100000) h
    else faultLog (setRegBit (perrNote (mismNoted x h) (h.addr.toNat / 0x100000) (h.addr.toNat % 0x100000)) (h.addr.toNat / 0x100000) 8 4)
      fcSoft (h.addr.toNat / 0x100000) wholeBlock 0x01 (h.addr.toNat % 0x100000) := by
  have hne : ¬(r.rw = 0 ∨ fenced x (h.addr.toNat / 0x100000) = true) := by simp [hw, hf]
  rw [parityMismatch, hrow]
  simp only [if_neg hne]
  rfl

theorem parityMismatch_first (hr : recurs x (regKey (h.addr.toNat / 0x100000) (h.addr.toNat % 0x100000)) h.unit = false)
    (hi : h.imageBad = false) :
    let b := h.addr.toNat / 0x100000
    let o := h.addr.toNat % 0x100000
    let y := parityMismatch x h
    regBit y b 8 4 = true ∧ regBit y b 0x14 31 = true ∧ (regBit x b 0x14 31 = false → regFld y b 0x14 19 0 = o)
      ∧ blkState y b = blkState x b ∧ recurs y (regKey b o) h.unit = true ∧ y.lost = x.lost ∧ y.image = x.image ∧ y.dram = x.dram
      ∧ ∀ b' o', o' < 0x100000 → b' ≠ b → b' ≠ kFLT → b' ≠ kICN → regGet y b' o' = regGet x b' o' := by
  obtain ⟨hicn, hflt, h22⟩ := block_of_rw hrow hw
  have ho : h.addr.toNat % 0x100000 < 0x100000 := Nat.mod_lt _ (by norm_num)
  have he := parityMismatch_eq hrow hw hf
  rw [hr, hi, Bool.false_or, if_neg Bool.false_ne_true] at he
  intro b o y
  change y = faultLog (setRegBit (perrNote (mismNoted x h) b o) b 8 4) fcSoft b wholeBlock 0x01 o at he
  obtain ⟨hperr, hfirst⟩ := perrNote_perr (b := b) (o := o) (mismNoted x h) h22 ho
  have hnote := regsBut_perrNote (b := b) (mismNoted x h) h22 o
  have hset : RegsOnly (mismNoted x h) (setRegBit (perrNote (mismNoted x h) b o) b 8 4) := (regsOnly_perrNote _ _ _).trans (regsOnly_regPut ..)
  have hk : KeepsBlock b (setRegBit (perrNote (mismNoted x h) b o) b 8 4) y := by
    rw [he]
    exact keepsBlock_faultLog (by decide) _ _ _ _ _ hflt hicn
  obtain ⟨q, e⟩ := hset.trans (faultLog_soft (setRegBit (perrNote (mismNoted x h) b o) b 8 4) b wholeBlock 0x01 o).1.regs
  have hy : y = (mismNoted x h).setRegs q := he.trans e
  have h14 : regGet (setRegBit (perrNote (mismNoted x h) b o) b 8 4) b 0x14 = regGet (perrNote (mismNoted x h) b o) b 0x14 :=
    regGet_regPut_off _ _ _ _ _ (by norm_num)
  have h8 : regGet (perrNote (mismNoted x h) b o) b 8 = regGet x b 8 := hnote b 8 (by norm_num) (by
    simp only [raiseKeys, List.mem_cons, Prod.mk.injEq, List.not_mem_nil, or_false, not_or, not_and]
    exact ⟨fun _ => by norm_num, fun _ => by omega, fun _ => by norm_num, fun _ => by norm_num⟩)
  refine ⟨?_, ?_, fun hx => ?_, ?_, ?_, ?_, ?_, ?_, fun b' o' ho' hb hfl hic => ?_⟩
  · rw [hk.regBit (by norm_num), regBit_setRegBit _ _ _ _ (by norm_num)]
  · rw [hk.regBit (by norm_num), regBit, h14, ← regBit, hperr]
  · rw [hk.regFld (by norm_num), regFld, h14, ← regFld, hfirst hx]
  · rw [blkState, hk.regFld (by norm_num), setRegBit, regFld_regPut_other _ _ _ _ _ _ _ _ (by norm_num) (by norm_num) (by norm_num),
      regFld, h8, blkState, regFld]
  · exact recurs_mismNoted (by rw [hy]; rfl) (by rw [hy]; rfl)
  · rw [hy]; rfl
  · rw [hy]; rfl
  · rw [hy]; rfl
  · rw [he, (keepsBlock_faultLog (by decide) _ _ _ _ _ hfl hic).reg o' ho', setRegBit,
      (keepsBlock_regPut _ _ _ _ hb (by norm_num)).reg o' ho', hnote b' o' ho' (by simp [raiseKeys, hb, hic])]
    rfl

theorem parityMismatch_permanent
    (hr : recurs x (regKey (h.addr.toNat / 0x100000) (h.addr.toNat % 0x100000)) h.unit = true ∨ h.imageBad = true)
    (hu : h.unit = .block) (hs : h.addr.toNat / 0x100000 ≠ kSRG) :
    let b := h.addr.toNat / 0x100000
    let y := parityMismatch x h
    blkState y b = 4 ∧ (b ∈ lostBlocks → y.lost = true ∧ y.report = true ∧ y.sending = [])
      ∧ (b ∉ lostBlocks → y.lost = x.lost) ∧ y.image = x.image ∧ y.dram = x.dram := by
  obtain ⟨hicn, hflt, h22⟩ := block_of_rw hrow hw
  have he := parityMismatch_eq hrow hw hf
  rw [if_pos (by rw [Bool.or_eq_true]; exact hr)] at he
  intro b y
  have hp : permanentFault (perrNote (mismNoted x h) b (h.addr.toNat % 0x100000)) b (h.addr.toNat % 0x100000) h
      = fenceBlock (perrNote (mismNoted x h) b (h.addr.toNat % 0x100000)) b 0x02 (h.addr.toNat % 0x100000) := by
    rw [permanentFault, hu]
    simp only [ite_self]
    rw [fenceWhole, if_pos hs]
  have hy : y = _ := he.trans hp
  obtain ⟨q, e⟩ : RegsOnly (mismNoted x h) (setState (perrNote (mismNoted x h) b (h.addr.toNat % 0x100000)) b stFenced) :=
    (regsOnly_perrNote _ _ _).trans (regsOnly_regPut ..)
  have hst : blkState (setState (perrNote (mismNoted x h) b (h.addr.toNat % 0x100000)) b stFenced) b = 4 :=
    regFld_regPut_self _ b 8 2 0 4 (by norm_num) (by norm_num)
  rw [fenceBlock, e] at hy
  rw [e] at hst
  by_cases hl : b ∈ lostBlocks
  · rw [if_pos hl] at hy
    obtain ⟨r', fr, ns, e'⟩ := faultLog_lost ((mismNoted x h).setRegs q) b wholeBlock 0x02 (h.addr.toNat % 0x100000)
    have h8 := regGet_faultLog_lost (b := b) (o := 8) ⟨by norm_num, hicn, Or.inr (by norm_num)⟩ ((mismNoted x h).setRegs q) b wholeBlock 0x02
      (h.addr.toNat % 0x100000) hflt
    refine ⟨?_, fun _ => ?_, fun hn => absurd hl hn, ?_, ?_⟩
    · rw [hy, blkState, regFld, h8]
      exact hst
    · rw [hy, e']
      exact ⟨rfl, rfl, rfl⟩
    · rw [hy, e']; rfl
    · rw [hy, e']; rfl
  · rw [if_neg hl] at hy
    have hk := keepsBlock_faultLog (cls := fcDegraded) (by decide) b wholeBlock 0x02 (h.addr.toNat % 0x100000) ((mismNoted x h).setRegs q)
      hflt hicn
    obtain ⟨r', ns, e', -⟩ := faultLog_frame ((mismNoted x h).setRegs q) fcDegraded b wholeBlock 0x02 (h.addr.toNat % 0x100000) (by decide)
    refine ⟨?_, fun hm => absurd hm hl, fun _ => ?_, ?_, ?_⟩
    · rw [hy, blkState, hk.regFld (by norm_num)]
      exact hst
    · rw [hy, e']; rfl
    · rw [hy, e']; rfl
    · rw [hy, e']; rfl

end

/-! ### Pipelines with nothing to do -/

theorem drainWin_empty {x : Slice} (h : x.win = []) (p n : Nat) : drainWin p n x = x := by
  cases n with
  | zero => rfl
  | succ n =>
    have hh : winHead x p = none := by rw [winHead, h]; rfl
    rw [drainWin, hh]

theorem pumpPipe_empty {x : Slice} (h : x.fifo = []) (p n : Nat) : pumpPipe p n x = x := by
  cases n with
  | zero => rfl
  | succ n =>
    have hn : nextFifo x p = none := by rw [nextFifo, h]; rfl
    rw [pumpPipe, hn]
    exact ite_self _

theorem pump_quiet {x : Slice} (h : Quiet x) : pump x = x := by
  obtain ⟨hw, hf⟩ := h
  simp only [pump, drainWin_empty hw, pumpPipe_empty hf]

theorem resume_quiet {x : Slice} (h : Quiet x) : resume x = x := by rw [resume, pump_quiet h, ite_self]

/-! ### Reloads (R103) -/

theorem exec_reloadDone (sl : SliceId) (blk : Block) (s : State) : exec (.reloadDone sl blk) s = execReloadDone sl blk s := rfl

/-- One RW register takes its committed value. -/
def reloadStep (b : Nat) (x : Slice) (e : Nat × Word) : Slice :=
  match rowAt b (e.1 - regKey b 0) with
  | some r => regSet x b (e.1 - regKey b 0) (maskedWith r.rw (regGet x b (e.1 - regKey b 0)) (sGet e.2 x.image e.1))
  | none => x

theorem reloadImage_eq (x : Slice) (b : Nat) : reloadImage x b = (x.image.filter (ownEntry b)).foldl (reloadStep b) x := rfl

theorem regsOnly_reloadStep (b : Nat) (x : Slice) (e : Nat × Word) : RegsOnly x (reloadStep b x e) := by
  unfold reloadStep
  split
  · exact regsOnly_regSet ..
  · exact RegsOnly.refl x

theorem regsOnly_reloadImage (x : Slice) (b : Nat) : RegsOnly x (reloadImage x b) := regsOnly_foldl (regsOnly_reloadStep b) _ x

theorem keepsBlock_reloadImage {k b : Nat} (hk : k ≠ b) (x : Slice) : KeepsBlock k x (reloadImage x b) := by
  rw [reloadImage_eq]
  refine List.foldlRecOn (motive := KeepsBlock k x) _ _ (KeepsBlock.refl k x) fun y hy e he => hy.trans ?_
  obtain ⟨o, ho, he⟩ := (ownEntry_iff b e).1 (List.mem_filter.1 he).2
  unfold reloadStep
  rw [he, regKey_sub]
  split
  · exact keepsBlock_regSet y _ hk ho
  · exact KeepsBlock.refl k y

theorem mem_of_sFind {β : Type} {m : Sparse β} {k : Nat} {v : β} (h : sFind m k = some v) : ∃ e ∈ m, e.1 = k := by
  by_contra hn
  exact nomatch (sFind_eq_none hn).symm.trans h

section
variable {b o : Nat} {r : RegRow} {w : Word} (hr : rowAt b o = some r)
include hr

/-- Every entry leaves a register, or gives it the committed value of its RW bits; an entry of its own does the latter. -/
theorem regGet_foldl_reloadStep (l : List (Nat × Word)) (x : Slice) (hl : ∀ e ∈ l, ownEntry b e = true)
    (hw : sFind x.image (regKey b o) = some w) :
    regGet (l.foldl (reloadStep b) x) b o
      = if ∃ e ∈ l, e.1 = regKey b o then maskedWith r.rw (regGet x b o) w else regGet x b o := by
  induction l generalizing x with
  | nil => simp
  | cons e l ih =>
    have hl' := fun e' he' => hl e' (List.mem_cons_of_mem e he')
    have him : (reloadStep b x e).image = x.image := by
      obtain ⟨q, h⟩ := regsOnly_reloadStep b x e
      rw [h]
      rfl
    rw [List.foldl_cons, ih _ hl' (him ▸ hw)]
    by_cases he : e.1 = regKey b o
    · have hself : regGet (reloadStep b x e) b o = maskedWith r.rw (regGet x b o) w := by
        unfold reloadStep
        rw [he, regKey_sub, hr, sGet, hw]
        exact regGet_regSet_self ..
      rw [hself, maskedWith_maskedWith (rw_lt hr), ite_self, if_pos ⟨e, List.mem_cons_self .., he⟩]
    · have hoff : regGet (reloadStep b x e) b o = regGet x b o := by
        obtain ⟨o', -, he'⟩ := (ownEntry_iff b e).1 (hl e (List.mem_cons_self ..))
        unfold reloadStep
        rw [he', regKey_sub]
        split
        · exact regGet_regSet_ne _ _ _ _ _ _ fun h => he (he'.trans h.symm)
        · rfl
      simp only [hoff, List.mem_cons, exists_eq_or_imp, he, false_or]

theorem regGet_reloadImage (ho : o < 0x100000) {x : Slice} (hw : sFind x.image (regKey b o) = some w) :
    regGet (reloadImage x b) b o = maskedWith r.rw (regGet x b o) w := by
  obtain ⟨e, he, hk⟩ := mem_of_sFind hw
  rw [reloadImage_eq, regGet_foldl_reloadStep hr _ _ (fun e he => (List.mem_filter.1 he).2) hw,
    if_pos ⟨e, List.mem_filter.2 ⟨he, (ownEntry_iff b e).2 ⟨o, ho, hk⟩⟩, hk⟩]

end

theorem runsOn_reloadDone {s : State} {sl : SliceId} (hon : (s.slice sl).on = true) {blk : Block} {off : Nat} {r : RegRow} {w : Word}
    (hq : Quiet (s.slice sl)) (hr : reloading (s.slice sl) blk.val = true) :
    RunsOn (.reloadDone sl blk) s sl fun y =>
      (∃ q, y = (s.slice sl).setRegs q) ∧ reloading y blk.val = false
      ∧ (∀ b' o', o' < 0x100000 → b' ≠ blk.val → regGet y b' o' = regGet (s.slice sl) b' o')
      ∧ (rowAt blk.val off = some r → off ≠ 8 → sFind (s.slice sl).image (regKey blk.val off) = some w →
        regGet y blk.val off = w32 ((regGet (s.slice sl) blk.val off).toNat &&& (all32 - r.rw) ||| (w.toNat &&& r.rw))) := by
  refine runsOn_onStarted (exec_reloadDone ..) hon ?_
  rw [if_pos hr]
  have hro : RegsOnly (s.slice sl) (clrRegBit (reloadImage (s.slice sl) blk.val) blk.val 8 4) :=
    (regsOnly_reloadImage _ _).trans (regsOnly_clrRegBit _ _ _ _)
  have hquiet : Quiet (clrRegBit (reloadImage (s.slice sl) blk.val) blk.val 8 4) := by
    obtain ⟨q, e⟩ := hro
    rw [e]
    exact hq
  rw [resume_quiet hquiet]
  refine ⟨hro, regBit_clrRegBit _ _ _ _ (by norm_num), fun b' o' ho' hb => ?_, fun hrow h8 hw => ?_⟩
  · exact ((keepsBlock_regPut _ _ _ _ hb (by norm_num)).reg o' ho').trans ((keepsBlock_reloadImage hb _).reg o' ho')
  · exact (regGet_regPut_off _ _ _ _ _ h8).trans (regGet_reloadImage hrow (rowAt_off_lt hrow) hw)

end Sys2Proof.Machine
end

section
/-! Proofs. Registers of slow domains: posted writes as they land and as they are dropped (R105 to R107, R148). -/

namespace Sys2Proof.Machine

/-! ### A write that is posted, and one that is dropped (R105, R106) -/

section
variable {x : Slice} {blk off : Nat}

theorem postWrites_idle (h : pendBusy x blk = false) (ws : List (Nat × Word)) :
    postWrites x blk off ws = setRegBit { x with posted := x.posted ++ ws.map fun w => (blk, w.1, w.2) } blk 0x10 31 := by
  rw [postWrites, h]
  rfl

theorem postWrites_busy (h : pendBusy x blk = true) (ws : List (Nat × Word)) : postWrites x blk off ws = postDrop x blk off := by
  rw [postWrites, if_pos h]

/-- The first offset is kept with the first write that is dropped (R105). -/
theorem postDrop_shows (hb : blk < 22) (ho : off < 0x100000) :
    regBit (postDrop x blk off) blk 0x10 30 = true ∧ (regBit x blk 0x10 30 = false → regFld (postDrop x blk off) blk 0x10 19 0 = off)
      ∧ RegsBut x (postDrop x blk off) ((blk, 0x10) :: raiseKeys blk 15) := by
  have hraise : ∀ z, regGet (raise z blk 15) blk 0x10 = regGet z blk 0x10 := fun z => regGet_raise_common z blk 15 blk (by omega) (by norm_num)
  cases hd : regBit x blk 0x10 30 with
  | true =>
    rw [postDrop, if_pos hd]
    refine ⟨?_, nofun, regsBut_raise (RegsBut.refl _ _) _ _ (by omega) (List.subset_cons_self ..)⟩
    rw [regBit, hraise]
    exact hd
  | false =>
    rw [postDrop, if_neg (by rw [hd]; exact Bool.false_ne_true)]
    refine ⟨?_, fun _ => ?_, regsBut_raise (regsBut_regPut (regsBut_regPut (RegsBut.refl _ _) _ _ _ _ _ (by norm_num) (by simp))
      _ _ _ _ _ (by norm_num) (by simp)) _ _ (by omega) (List.subset_cons_self ..)⟩
    · rw [regBit, hraise, ← regBit, regBit_regPut_other _ _ _ _ _ _ _ (by norm_num) (by norm_num) (by norm_num),
        regBit_regPut_self _ _ _ _ _ (by norm_num)]
      rfl
    · rw [regFld, hraise, ← regFld, regFld_regPut_self _ _ _ _ _ _ (by norm_num) (by norm_num)]
      exact Nat.mod_eq_of_lt ho

end

/-- A write of a register of a slow domain is posted. -/
theorem writeOne_slow {x : Slice} {req : Requester} {mode : Priv} {pk : Bool} {blk off : Nat} {r : RegRow} {v : Word}
    (ht : tskForeign req blk off = false) (hw : r.writable = true) (hs : r.slow = true) :
    writeOne x req mode pk blk off r v = postWrites x blk off [(off, v)] := by
  simp [writeOne, ht, hw, hs]

section
variable {s : State} {sl : SliceId} {req : Requester} {mode : Priv} {addr : Word} {blk off : Nat} {r : RegRow}
  (h : Reaches (s.slice sl) req mode addr blk off r) (hslow : r.slow = true) (hsh : r.sh = false) (hw : r.writable = true)
  (hpair : pairLow blk off = none) (v : Word)
include h hslow hsh hw hpair

theorem runs_registerWrite_posted (hb : pendBusy (s.slice sl) blk = false) :
    Runs (.registerWrite sl req mode (.mem addr) v) s fun t =>
      t.slice sl = { s.slice sl with regs := (t.slice sl).regs, posted := (s.slice sl).posted ++ [(blk, off, v)], bus := .done }
      ∧ RegsBut (s.slice sl) (t.slice sl) [(blk, 0x10)] ∧ pendBusy (t.slice sl) blk = true ∧ t.hub = s.hub := by
  have hy := ((writeReg_single hsh hpair).trans (writeOne_slow (req := req) (mode := mode) (pk := paired s sl) (v := v) h.notForeign hw hslow)).trans (postWrites_idle hb _)
  have hbut : RegsBut (s.slice sl) (setRegBit { s.slice sl with posted := (s.slice sl).posted ++ [(off, v)].map fun w => (blk, w.1, w.2) }
      blk 0x10 31) [(blk, 0x10)] := regsBut_regPut (regsBut_of_eq (RegsBut.refl _ _) rfl rfl) _ _ _ _ _ (by norm_num) (by simp)
  have hbusy := regBit_setRegBit { s.slice sl with posted := (s.slice sl).posted ++ [(off, v)].map fun w => (blk, w.1, w.2) } blk 0x10 31
    (by norm_num)
  obtain ⟨q, e⟩ := regsOnly_regPut { s.slice sl with posted := (s.slice sl).posted ++ [(off, v)].map fun w => (blk, w.1, w.2) }
    blk 0x10 31 31 1
  rw [setRegBit, e] at hy hbut hbusy
  refine h.runs_registerWrite v hy rfl fun t ha => ?_
  rw [ha.slice]
  exact ⟨rfl, hbut, hbusy, ha.hub⟩

theorem runs_registerWrite_dropped (hb : pendBusy (s.slice sl) blk = true) :
    Runs (.registerWrite sl req mode (.mem addr) v) s fun t =>
      t.slice sl = { s.slice sl with regs := (t.slice sl).regs, bus := .done }
      ∧ RegsBut (s.slice sl) (t.slice sl) ((blk, 0x10) :: raiseKeys blk 15)
      ∧ regBit (t.slice sl) blk 0x10 30 = true
      ∧ (regBit (s.slice sl) blk 0x10 30 = false → regFld (t.slice sl) blk 0x10 19 0 = off) := by
  have hy := ((writeReg_single hsh hpair).trans (writeOne_slow (req := req) (mode := mode) (pk := paired s sl) (v := v) h.notForeign hw hslow)).trans (postWrites_busy hb _)
  obtain ⟨hdrop, hfirst, hbut⟩ := postDrop_shows (x := s.slice sl) (rowAt_blk_lt h.row) h.off_lt
  obtain ⟨q, e⟩ := regsOnly_postDrop (s.slice sl) blk off
  rw [e] at hy hdrop hfirst hbut
  refine h.runs_registerWrite v hy rfl fun t ha => ?_
  rw [ha.slice]
  exact ⟨rfl, hbut, hdrop, hfirst⟩

end

/-! ### A lane's settings land (R105, R148) -/

theorem exec_slowWriteLand (sl : SliceId) (blk : Block) (s : State) : exec (.slowWriteLand sl blk) s = execSlowWriteLand sl blk s := rfl

theorem rowAt_sds : ∀ l : Lane, (rowAt kLNE (0x2000 + 4 * l.val)).map (fun r => (r.rw, r.lv, r.w1c)) = some (0, 0xE00000FF, 0) := by
  decide +kernel

/-- One posted write is all that a block's slow domain takes. -/
theorem slowLand_one {x : Slice} {blk off : Nat} {v : Word} (h : x.posted.filter (·.1 = blk) = [(blk, off, v)]) :
    slowLand x blk = clrRegBit (postedLand { x with posted := x.posted.filter (·.1 ≠ blk) } blk off v) blk 0x10 31 := by
  rw [slowLand, h]
  rfl

theorem fld_congr {w w' : Word} {hi lo : Nat} (h : ∀ i, lo ≤ i → i ≤ hi → wbit w i = wbit w' i) : fld w hi lo = fld w' hi lo := by
  rw [fld, fld]
  refine Nat.eq_of_testBit_eq fun i => ?_
  rw [testBit_bits, testBit_bits]
  by_cases hi' : lo + i ≤ hi
  · rw [show w.toNat.testBit (lo + i) = w'.toNat.testBit (lo + i) from h _ (by omega) hi']
  · rw [decide_eq_false (by omega), Bool.false_and, Bool.false_and]

/-- Bits that may be written at any time take the word that is written. -/
theorem wbit_maskedNew_lv {r : RegRow} {m : Nat} (hm : (r.rw, r.lv, r.w1c) = (0, m, 0)) (h32 : m < 2 ^ 32) (old v : Word) {i : Nat} (hi : i < 32)
    (ht : m.testBit i = true) : wbit (maskedNew r old v) i = wbit v i := by
  obtain ⟨h1, h2, h3⟩ : r.rw = 0 ∧ r.lv = m ∧ r.w1c = 0 := by simpa using hm
  rw [wbit_maskedNew r old v (by rw [h1, h2, Nat.zero_or]; exact h32) hi, h1, h2, ht, Bool.or_true, if_pos rfl]

/-- Settings that loop no lane back. -/
theorem sdsLand_unlooped {x : Slice} {l : Nat} (h : regFld x kLNE (0x2000 + 4 * l) 31 30 = 0) :
    sdsLand x l = regPut x kLNE (0x2000 + 4 * l) 28 28 0 := by
  have hv : fld (regGet x kLNE (0x2000 + 4 * l)) 31 30 = 0 := h
  have hlk : (wbit (regGet x kLNE (0x2000 + 4 * l)) 29 && decide (fld (regGet x kLNE (0x2000 + 4 * l)) 31 30 = 1
      ∨ fld (regGet x kLNE (0x2000 + 4 * l)) 31 30 = 3)).toNat = 0 := by
    rw [hv]
    simp
  have hl : looped (regPut x kLNE (0x2000 + 4 * l) 28 28 0) l = false := by
    rw [looped, regFld_regPut_other _ _ _ _ _ _ _ _ (by norm_num) (by norm_num) (by norm_num), h]
    rfl
  simp only [sdsLand, hlk, hl, Bool.not_false, if_true]

theorem runsPair_slowWriteLand_lane {s : State} {sl : SliceId} (hon : (s.slice sl).on = true) {l : Lane} {v : Word}
    (hb : pendBusy (s.slice sl) kLNE = true) (hp : (s.slice sl).posted.filter (·.1 = kLNE) = [(kLNE, 0x2000 + 4 * l.val, v)])
    (hv : fld v 31 30 = 0) :
    RunsPair (.slowWriteLand sl ⟨2, by decide⟩) s sl fun y _ =>
      y = { s.slice sl with regs := y.regs, posted := (s.slice sl).posted.filter (·.1 ≠ kLNE) }
      ∧ RegsBut (s.slice sl) y [(kLNE, 0x2000 + 4 * l.val), (kLNE, 0x10)] ∧ pendBusy y kLNE = false
      ∧ regFld y kLNE (0x2000 + 4 * l.val) 7 0 = fld v 7 0 ∧ regBit y kLNE (0x2000 + 4 * l.val) 29 = wbit v 29 := by
  refine runsPair_onLink (exec_slowWriteLand ..) hon ?_
  rw [if_pos hb, slowLand_one hp]
  generalize hx : ({ s.slice sl with posted := (s.slice sl).posted.filter (·.1 ≠ kLNE) } : Slice) = x
  obtain ⟨r, hrow, hm⟩ := Option.map_eq_some_iff.1 (rowAt_sds l)
  have hl : (0x2000 + 4 * l.val - 0x2000) / 4 = l.val := by omega
  have hlv : ∀ i, i < 32 → Nat.testBit 0xE00000FF i = true →
      wbit (regGet (storeMasked x kLNE (0x2000 + 4 * l.val) r v) kLNE (0x2000 + 4 * l.val)) i = wbit v i := fun i hi ht => by
    rw [regGet_storeMasked_self]
    exact wbit_maskedNew_lv hm (by norm_num) _ _ hi ht
  have hloop : regFld (storeMasked x kLNE (0x2000 + 4 * l.val) r v) kLNE (0x2000 + 4 * l.val) 31 30 = 0 := by
    rw [← hv, regFld]
    refine fld_congr fun i h1 h2 => hlv i (by omega) ?_
    interval_cases i
    · decide
    · decide
  have hland : postedLand x kLNE (0x2000 + 4 * l.val) v
      = regPut (storeMasked x kLNE (0x2000 + 4 * l.val) r v) kLNE (0x2000 + 4 * l.val) 28 28 0 := by
    have hne : ¬kLNE = kTIM := by decide
    simp only [postedLand, hrow, if_neg hne, if_true, hl, sdsLand_unlooped hloop]
  rw [hland]
  have hbut : RegsBut (s.slice sl) x [(kLNE, 0x2000 + 4 * l.val), (kLNE, 0x10)] := by
    rw [← hx]
    exact regsBut_of_eq (RegsBut.refl _ _) rfl rfl
  have h10 : ∀ z, regGet (clrRegBit z kLNE 0x10 31) kLNE (0x2000 + 4 * l.val) = regGet z kLNE (0x2000 + 4 * l.val) := fun z =>
    regGet_regPut_off _ _ _ _ _ (by omega)
  refine ⟨?_, regsBut_regPut (regsBut_regPut (regsBut_storeMasked hbut _ _ _ _ (by omega) (by simp)) _ _ _ _ _ (by omega) (by simp))
    _ _ _ _ _ (by norm_num) (by simp), regBit_clrRegBit _ _ _ _ (by norm_num), ?_, ?_⟩
  · obtain ⟨q, e⟩ := ((regsOnly_regSet x kLNE (0x2000 + 4 * l.val) (maskedNew r (regGet x kLNE (0x2000 + 4 * l.val)) v)).trans
      (regsOnly_regPut _ kLNE (0x2000 + 4 * l.val) 28 28 0)).trans (regsOnly_clrRegBit _ kLNE 0x10 31)
    rw [storeMasked, e, ← hx]
    rfl
  · rw [regFld, h10, ← regFld, regFld_regPut_other _ _ _ _ _ _ _ _ (by norm_num) (by norm_num) (by norm_num)]
    refine fld_congr fun i h1 h2 => hlv i (by omega) ?_
    interval_cases i
    all_goals decide
  · rw [regBit, h10, ← regBit, regBit_regPut_other _ _ _ _ _ _ _ (by norm_num) (by norm_num) (by norm_num)]
    exact hlv 29 (by norm_num) (by decide)

/-! ### The obligation -/

/-- Settles O26: a parity check and a reload, then writes of slow registers as they are posted, dropped and taken. -/
theorem parityAndSlowWrites : Obligations.ParityAndSlowWrites := by
  unfold Obligations.ParityAndSlowWrites
  refine ⟨fun s sl h r blk off w hon => ?_, fun s sl l req mode addr v blk off r => ?_⟩
  · intro x b o
    refine ⟨fun hrow hw hf hr hi => ?_, fun hrow hw hf hr hu hs => ?_, ?_, fun hq hr => runsOn_reloadDone hon hq hr⟩
    · exact runsPair_onLink (exec_parityScan ..) hon (parityMismatch_first hrow hw hf hr hi)
    · exact runsPair_onLink (exec_parityScan ..) hon (parityMismatch_permanent hrow hw hf hr hu hs)
    · exact runsPair_onLink (exec_parityScan ..) hon rfl
  · intro x x'
    exact ⟨fun hon hb hp hv => runsPair_slowWriteLand_lane hon hb hp hv,
      fun h hslow hsh hw hpair hb => runs_registerWrite_posted h hslow hsh hw hpair v hb,
      fun h hslow hsh hw hpair hb => runs_registerWrite_dropped h hslow hsh hw hpair v hb⟩

end Sys2Proof.Machine
end

section
/-! Proofs. Muslin buffers: what RIF_MSTAT and the buffers read after each change of them (R114 to R119). -/

namespace Sys2Proof.Machine

/-! ### Parts of a slice that registers are not -/

section
variable {x y : Slice} (h : RegsOnly x y)
include h

theorem RegsOnly.bufs_eq : y.bufs = x.bufs := by obtain ⟨r, rfl⟩ := h; rfl

theorem RegsOnly.musBuf_eq (n : Nat) : musBuf y n = musBuf x n := by rw [musBuf, h.bufs_eq, musBuf]

theorem RegsOnly.asm_eq : y.asm = x.asm := by obtain ⟨r, rfl⟩ := h; rfl

theorem RegsOnly.tabs_eq : y.tabs = x.tabs := by obtain ⟨r, rfl⟩ := h; rfl

theorem RegsOnly.dram_eq : y.dram = x.dram := by obtain ⟨r, rfl⟩ := h; rfl

theorem RegsOnly.bases_eq : y.bases = x.bases := by obtain ⟨r, rfl⟩ := h; rfl

theorem RegsOnly.image_eq : y.image = x.image := by obtain ⟨r, rfl⟩ := h; rfl

end

/-! ### Writes of RIF_MSTAT -/

section
variable (x : Slice) (n v : Nat)

theorem regsOnly_setMState : RegsOnly x (setMState x n v) := regsOnly_regPut ..

theorem regsOnly_setMResult : RegsOnly x (setMResult x n v) := regsOnly_regPut ..

theorem regsOnly_setMEpoch : RegsOnly x (setMEpoch x n v) := regsOnly_regPut ..

theorem musState_setMState (h : v < 16) : musState (setMState x n v) n = v :=
  (regFld_regPut_self x kRIF (0x110 + 4 * n) 31 28 v (by norm_num) (by norm_num)).trans (Nat.mod_eq_of_lt h)

theorem musState_setMResult : musState (setMResult x n v) n = musState x n :=
  regFld_regPut_other x kRIF (0x110 + 4 * n) 27 24 31 28 v (by norm_num) (by norm_num) (by norm_num)

theorem musState_setMEpoch : musState (setMEpoch x n v) n = musState x n :=
  regFld_regPut_other x kRIF (0x110 + 4 * n) 23 20 31 28 v (by norm_num) (by norm_num) (by norm_num)

/-- RESULT of RIF_MSTATn. -/
def musResult (x : Slice) (n : Nat) : Nat := regFld x kRIF (0x110 + 4 * n) 27 24

theorem musResult_setMResult (h : v < 16) : musResult (setMResult x n v) n = v :=
  (regFld_regPut_self x kRIF (0x110 + 4 * n) 27 24 v (by norm_num) (by norm_num)).trans (Nat.mod_eq_of_lt h)

theorem musResult_setMEpoch : musResult (setMEpoch x n v) n = musResult x n :=
  regFld_regPut_other x kRIF (0x110 + 4 * n) 23 20 27 24 v (by norm_num) (by norm_num) (by norm_num)

end

section
variable {x y : Slice} {ks : List (Nat × Nat)} (h : RegsBut x y ks) {n : Nat} (hn : n < 2) (hm : (kRIF, 0x110 + 4 * n) ∈ ks) (v : Nat)
include h hn hm

theorem regsBut_setMState : RegsBut x (setMState y n v) ks := regsBut_regPut h _ _ _ _ _ (by unfold mstatOff; omega) hm

theorem regsBut_setMResult : RegsBut x (setMResult y n v) ks := regsBut_regPut h _ _ _ _ _ (by unfold mstatOff; omega) hm

theorem regsBut_setMEpoch : RegsBut x (setMEpoch y n v) ks := regsBut_regPut h _ _ _ _ _ (by unfold mstatOff; omega) hm

theorem regsBut_setBuf (b : MusBuf) : RegsBut x (setBuf y n b) ks :=
  regsBut_regPut (regsBut_of_eq h rfl rfl) _ _ _ _ _ (by unfold mstatOff; omega) hm

end

/-! ### Writes of a buffer -/

section
variable (x : Slice) (n : Nat) (b : MusBuf)

theorem setBuf_frame : ∃ r, setBuf x n b = { x with bufs := x.bufs.setIfInBounds n b, regs := r } := by
  obtain ⟨r, e⟩ := regsOnly_regPut { x with bufs := x.bufs.setIfInBounds n b } kRIF (mstatOff n) 16 0 b.items.length
  exact ⟨r, by rw [setBuf, e]; rfl⟩

theorem bufs_setBuf : (setBuf x n b).bufs = x.bufs.setIfInBounds n b := by
  obtain ⟨r, e⟩ := setBuf_frame x n b
  rw [e]

variable {n} in
theorem musBuf_setBuf_self (hn : n < 2) : musBuf (setBuf x n b) n = b := by
  rw [musBuf, bufs_setBuf, Vector.getElem?_setIfInBounds, if_pos rfl, if_pos hn, Option.getD_some]

variable {n} in
theorem musBuf_setBuf_ne {k : Nat} (h : k ≠ n) : musBuf (setBuf x n b) k = musBuf x k := by
  rw [musBuf, bufs_setBuf, Vector.getElem?_setIfInBounds, if_neg h.symm, musBuf]

theorem musState_setBuf : musState (setBuf x n b) n = musState x n :=
  regFld_regPut_other { x with bufs := x.bufs.setIfInBounds n b } kRIF (0x110 + 4 * n) 16 0 31 28 b.items.length (by norm_num) (by norm_num)
    (by norm_num)

end

/-- Another register of RIF, or of another block, tells nothing of a buffer's state. -/
theorem RegsBut.musState_eq {x y : Slice} {ks : List (Nat × Nat)} (h : RegsBut x y ks) {n : Nat} (hn : n < 2)
    (hm : (kRIF, 0x110 + 4 * n) ∉ ks) : musState y n = musState x n := h.regFld_eq (by omega) hm _ _

theorem RegsBut.musResult_eq {x y : Slice} {ks : List (Nat × Nat)} (h : RegsBut x y ks) {n : Nat} (hn : n < 2)
    (hm : (kRIF, 0x110 + 4 * n) ∉ ks) : musResult y n = musResult x n := h.regFld_eq (by omega) hm _ _

theorem raiseKeys_rif {b c k o : Nat} (hk : k ≠ kICN) : (k, o) ∉ raiseKeys b c := by simp [raiseKeys, hk]

theorem musState_raise (x : Slice) {n : Nat} (hn : n < 2) (b c : Nat) (hc : b * 16 + c < 0x10000) :
    musState (raise x b c) n = musState x n :=
  (regsBut_raise (RegsBut.refl x (raiseKeys b c)) b c hc (List.Subset.refl _)).musState_eq hn (raiseKeys_rif (by decide))

theorem musResult_raise (x : Slice) {n : Nat} (hn : n < 2) (b c : Nat) (hc : b * 16 + c < 0x10000) :
    musResult (raise x b c) n = musResult x n :=
  (regsBut_raise (RegsBut.refl x (raiseKeys b c)) b c hc (List.Subset.refl _)).musResult_eq hn (raiseKeys_rif (by decide))

end Sys2Proof.Machine
end

section
/-! Proofs. Staging of muslins, CLEAR and CHECK, and the commands of a session (R114 to R119, R497). -/

namespace Sys2Proof.Machine

/-! ### Items that join a buffer (R114, R115) -/

theorem exec_muslinStageWord (sl : SliceId) (req : Requester) (n : Buf) (w : Word) (s : State) :
    exec (.muslinStageWord sl req n w) s = execMuslinStageWord sl req n w s := rfl

section
variable {x : Slice} {n : Nat} (hn : n < 2) (it : Item)
include hn

theorem musEnter_refused (h : musState x n = 4 ∨ musState x n = 5) :
    musState (musEnter x n it) n = musState x n ∧ musResult (musEnter x n it) n = 12 ∧ (musEnter x n it).bufs = x.bufs
      ∧ RegsBut x (musEnter x n it) ((kRIF, 0x110 + 4 * n) :: raiseKeys kRIF 6) := by
  have h' : musState x n = msArmed ∨ musState x n = msPolling := h
  rw [musEnter, if_pos h']
  refine ⟨?_, ?_, ((regsOnly_setMResult ..).trans (regsOnly_raise ..)).bufs_eq,
    regsBut_raise (regsBut_setMResult (RegsBut.refl _ _) hn (by simp) _) _ _ (by norm_num) (List.subset_cons_self ..)⟩
  · rw [musState_raise _ hn _ _ (by norm_num), musState_setMResult]
  · rw [musResult_raise _ hn _ _ (by norm_num), musResult_setMResult _ _ _ (by decide)]
    rfl

omit hn in
theorem regFld_count_setBuf (b : MusBuf) (hb : b.items.length < 2 ^ 17) :
    regFld (setBuf x n b) kRIF (0x110 + 4 * n) 16 0 = b.items.length :=
  (regFld_regPut_self { x with bufs := x.bufs.setIfInBounds n b } kRIF (0x110 + 4 * n) 16 0 b.items.length (by norm_num) (by norm_num)).trans
    (Nat.mod_eq_of_lt hb)

/-- An item joins a buffer, which is BUILDING again. -/
theorem musEnter_joined (h4 : musState x n ≠ 4) (h5 : musState x n ≠ 5) (hl : (musBuf x n).items.length < 65536) :
    let y := musEnter x n it
    y = { x with regs := y.regs, bufs := y.bufs }
      ∧ musBuf y n = { musBuf x n with items := (musBuf x n).items ++ [it], checkOk := false }
      ∧ musBuf y (1 - n) = musBuf x (1 - n) ∧ musState y n = 1
      ∧ regFld y kRIF (0x110 + 4 * n) 16 0 = (musBuf x n).items.length + 1 ∧ RegsBut x y [(kRIF, 0x110 + 4 * n)] := by
  have hne : ¬(musState x n = msArmed ∨ musState x n = msPolling) := by
    rw [not_or]
    exact ⟨h4, h5⟩
  let z := setBuf x n { musBuf x n with items := (musBuf x n).items ++ [it], checkOk := false }
  let u := if musState x n = msChecking then setMResult z n mrNotChecked else z
  have hy : musEnter x n it = setMState u n msBuilding := by
    rw [musEnter]
    simp only [if_neg hne, if_neg (not_le.2 hl)]
    rfl
  have hu : RegsOnly z u ∧ RegsBut x u [(kRIF, 0x110 + 4 * n)]
      ∧ regFld u kRIF (0x110 + 4 * n) 16 0 = regFld z kRIF (0x110 + 4 * n) 16 0 := by
    have hz : RegsBut x z [(kRIF, 0x110 + 4 * n)] := regsBut_setBuf (RegsBut.refl _ _) hn (by simp) _
    by_cases hc : musState x n = msChecking
    · rw [show u = setMResult z n mrNotChecked from if_pos hc]
      exact ⟨regsOnly_setMResult .., regsBut_setMResult hz hn (by simp) _,
        regFld_regPut_other z kRIF (0x110 + 4 * n) 27 24 16 0 mrNotChecked (by norm_num) (by norm_num) (by norm_num)⟩
    · rw [show u = z from if_neg hc]
      exact ⟨RegsOnly.refl _, hz, rfl⟩
  obtain ⟨hro, hbut, hcnt⟩ := hu
  have hyz : RegsOnly z (setMState u n msBuilding) := hro.trans (regsOnly_setMState ..)
  intro y
  change y = _ at hy
  rw [hy]
  refine ⟨?_, ?_, ?_, musState_setMState _ _ _ (by decide), ?_, regsBut_setMState hbut hn (by simp) _⟩
  · obtain ⟨r, e⟩ := setBuf_frame x n { musBuf x n with items := (musBuf x n).items ++ [it], checkOk := false }
    obtain ⟨q, e'⟩ := hyz
    rw [e', show z = _ from e]
    rfl
  · rw [hyz.musBuf_eq, musBuf_setBuf_self _ _ hn]
  · rw [hyz.musBuf_eq, musBuf_setBuf_ne _ _ (by omega)]
  · have hs : regFld (setMState u n msBuilding) kRIF (0x110 + 4 * n) 16 0 = regFld u kRIF (0x110 + 4 * n) 16 0 :=
      regFld_regPut_other u kRIF (0x110 + 4 * n) 31 28 16 0 msBuilding (by norm_num) (by norm_num) (by norm_num)
    rw [hs, hcnt, regFld_count_setBuf _ (by rw [List.length_append]; simp; omega), List.length_append]
    rfl

end

/-- The words of an item that a requester stages are its own. -/
def ownAsm (req : Requester) (n : Buf) (a : Assembly) : Bool := decide (a.req = req) && decide (a.buf = n)

theorem musWord_eq (x : Slice) (req : Requester) (n : Buf) (w : Word) {ws : List Word}
    (h : ((x.asm.find? (ownAsm req n)).map (·.words)).getD [] = ws) :
    musWord x req n w = if itemWords (((ws ++ [w]).head?).getD 0) ≤ ws.length + 1 then
        musEnter { x with asm := x.asm.filter (!ownAsm req n ·) } n.val (wordsBytes (ws ++ [w]))
      else { x with asm := x.asm.filter (!ownAsm req n ·) ++ [⟨req, n, ws ++ [w]⟩] } := by
  subst h
  rw [← List.length_singleton (a := w), ← List.length_append]
  rfl

section
variable {s : State} {sl : SliceId} (hon : (s.slice sl).on = true) {req : Requester} {n : Buf} {w : Word} {ws : List Word}
  (h : (((s.slice sl).asm.find? (ownAsm req n)).map (·.words)).getD [] = ws)
include hon h

theorem runsOn_muslinStageWord_collects (hw : ws.length + 1 < itemWords (((ws ++ [w]).head?).getD 0)) :
    RunsOn (.muslinStageWord sl req n w) s sl fun y =>
      y = { s.slice sl with asm := ((s.slice sl).asm.filter (!ownAsm req n ·)) ++ [⟨req, n, ws ++ [w]⟩], bus := .done } := by
  refine runsOn_onStarted (exec_muslinStageWord ..) hon ?_
  rw [musWord_eq _ _ _ _ h, if_neg (not_le.2 hw)]

variable (hw : itemWords (((ws ++ [w]).head?).getD 0) ≤ ws.length + 1)
include hw

theorem runsOn_muslinStageWord_joins (h4 : musState (s.slice sl) n.val ≠ 4) (h5 : musState (s.slice sl) n.val ≠ 5)
    (hl : (musBuf (s.slice sl) n.val).items.length < 65536) :
    RunsOn (.muslinStageWord sl req n w) s sl fun y =>
      y = { s.slice sl with regs := y.regs, bufs := y.bufs, bus := .done, asm := (s.slice sl).asm.filter (!ownAsm req n ·) }
      ∧ musBuf y n.val = { musBuf (s.slice sl) n.val with
          items := (musBuf (s.slice sl) n.val).items ++ [wordsBytes (ws ++ [w])], checkOk := false }
      ∧ musBuf y (1 - n.val) = musBuf (s.slice sl) (1 - n.val)
      ∧ musState y n.val = 1 ∧ regFld y kRIF (0x110 + 4 * n.val) 16 0 = (musBuf (s.slice sl) n.val).items.length + 1
      ∧ RegsBut (s.slice sl) y [(kRIF, 0x110 + 4 * n.val)] := by
  refine runsOn_onStarted (exec_muslinStageWord ..) hon ?_
  rw [musWord_eq _ _ _ _ h, if_pos hw]
  obtain ⟨e, hself, hother, hst, hcnt, hbut⟩ := musEnter_joined (x := { s.slice sl with asm := (s.slice sl).asm.filter (!ownAsm req n ·) })
    n.isLt (wordsBytes (ws ++ [w])) h4 h5 hl
  generalize musEnter { s.slice sl with asm := (s.slice sl).asm.filter (!ownAsm req n ·) } n.val (wordsBytes (ws ++ [w])) = y at *
  refine ⟨?_, hself, hother, hst, hcnt, hbut⟩
  rw [e]

theorem runsOn_muslinStageWord_refused (h45 : musState (s.slice sl) n.val = 4 ∨ musState (s.slice sl) n.val = 5) :
    RunsOn (.muslinStageWord sl req n w) s sl fun y =>
      musState y n.val = musState (s.slice sl) n.val ∧ regFld y kRIF (0x110 + 4 * n.val) 27 24 = 12 ∧ y.bufs = (s.slice sl).bufs
      ∧ RegsBut (s.slice sl) y ((kRIF, 0x110 + 4 * n.val) :: raiseKeys kRIF 6) := by
  refine runsOn_onStarted (exec_muslinStageWord ..) hon ?_
  rw [musWord_eq _ _ _ _ h, if_pos hw]
  exact musEnter_refused (x := { s.slice sl with asm := (s.slice sl).asm.filter (!ownAsm req n ·) }) n.isLt _ h45

end

/-! ### CLEAR and CHECK (R118, R119) -/

section
variable {x : Slice} {n : Nat} (hn : n < 2)
include hn

omit hn in
theorem musClear_armed (h : musState x n = 4 ∨ musState x n = 5) : musClear x n = setMResult x n mrBadState := if_pos h

theorem musClear_empties (h4 : musState x n ≠ 4) (h5 : musState x n ≠ 5) :
    let y := musClear x n
    y = { x with regs := y.regs, bufs := y.bufs, asm := x.asm.filter (·.buf.val ≠ n) }
      ∧ musBuf y n = MusBuf.empty ∧ musBuf y (1 - n) = musBuf x (1 - n) ∧ musState y n = 0 ∧ musResult y n = 0
      ∧ RegsBut x y [(kRIF, 0x110 + 4 * n)] := by
  have hne : ¬(musState x n = msArmed ∨ musState x n = msPolling) := by
    rw [not_or]
    exact ⟨h4, h5⟩
  have hy : musClear x n
      = setMResult (setMState (setBuf { x with asm := x.asm.filter (·.buf.val ≠ n) } n MusBuf.empty) n msEmpty) n mrOk := if_neg hne
  obtain ⟨r, e⟩ := setBuf_frame { x with asm := x.asm.filter (·.buf.val ≠ n) } n MusBuf.empty
  have hself := musBuf_setBuf_self { x with asm := x.asm.filter (·.buf.val ≠ n) } MusBuf.empty hn
  have hother := musBuf_setBuf_ne { x with asm := x.asm.filter (·.buf.val ≠ n) } MusBuf.empty (n := n) (k := 1 - n) (by omega)
  have hbut : RegsBut x (setBuf { x with asm := x.asm.filter (·.buf.val ≠ n) } n MusBuf.empty) [(kRIF, 0x110 + 4 * n)] :=
    regsBut_setBuf (regsBut_of_eq (RegsBut.refl _ _) rfl rfl) hn (by simp) _
  generalize setBuf { x with asm := x.asm.filter (·.buf.val ≠ n) } n MusBuf.empty = z at *
  have hro : RegsOnly z (setMResult (setMState z n msEmpty) n mrOk) := (regsOnly_setMState ..).trans (regsOnly_setMResult ..)
  intro y
  change y = _ at hy
  rw [hy]
  refine ⟨?_, ?_, ?_, ?_, musResult_setMResult _ _ _ (by decide), regsBut_setMResult (regsBut_setMState hbut hn (by simp) _) hn (by simp) _⟩
  · obtain ⟨q, e'⟩ := hro
    rw [e', e]
    rfl
  · rw [hro.musBuf_eq, hself]
  · rw [hro.musBuf_eq, hother]
    rfl
  · rw [musState_setMResult, musState_setMState _ _ _ (by decide)]
    rfl

omit hn in
/-- A CHECK draws a free word for its verdict at most. -/
theorem checkVerdict_frame (x : Slice) (ok : Bool) (items : List Item) (inc : Bool) :
    ∃ fr, (checkVerdict x ok items inc).2 = { x with free := fr } := by
  unfold checkVerdict
  split
  · split
    · exact ⟨x.free, rfl⟩
    · exact ⟨x.free + 1, rfl⟩
  · split
    · exact ⟨x.free, rfl⟩
    · simp only
      split
      · exact ⟨x.free, rfl⟩
      · exact ⟨x.free, rfl⟩

omit hn in
theorem musCheck_refused (h1 : musState x n ≠ 1) (h3 : musState x n ≠ 3) (h7 : musState x n ≠ 7) (ok : Bool) :
    musCheck x ok n = setMResult x n mrBadState := if_pos ⟨h1, h3, h7⟩

/-- CHECK puts a buffer into CHECKING, with its verdict. -/
theorem musCheck_checks (h : musState x n = 1 ∨ musState x n = 3 ∨ musState x n = 7) (ok : Bool) :
    let y := musCheck x ok n
    musState y n = 2 ∧ (musBuf y n).items = (musBuf x n).items
      ∧ (musBuf y n).verdict = (checkVerdict x ok (musBuf x n).items (x.asm.any (·.buf.val = n))).1.1
      ∧ y.tabs = x.tabs ∧ y.dram = x.dram ∧ RegsBut x y [(kRIF, 0x110 + 4 * n)] := by
  have hne : ¬(musState x n ≠ msBuilding ∧ musState x n ≠ msChecked ∧ musState x n ≠ msAborted) := fun ⟨h1, h3, h7⟩ =>
    h.elim h1 fun h => h.elim h3 h7
  obtain ⟨fr, e⟩ := checkVerdict_frame x ok (musBuf x n).items (x.asm.any (·.buf.val = n))
  have hy : musCheck x ok n = setMState (setBuf { x with free := fr } n { musBuf x n with
      verdict := (checkVerdict x ok (musBuf x n).items (x.asm.any (·.buf.val = n))).1.1,
      chkf := (checkVerdict x ok (musBuf x n).items (x.asm.any (·.buf.val = n))).1.2 }) n msChecking := by
    rw [musCheck]
    simp only [if_neg hne]
    rw [e]
    rfl
  intro y
  change y = _ at hy
  rw [hy]
  generalize hb : ({ musBuf x n with
    verdict := (checkVerdict x ok (musBuf x n).items (x.asm.any (·.buf.val = n))).1.1,
    chkf := (checkVerdict x ok (musBuf x n).items (x.asm.any (·.buf.val = n))).1.2 } : MusBuf) = b
  obtain ⟨r, e'⟩ := setBuf_frame { x with free := fr } n b
  have hself := musBuf_setBuf_self { x with free := fr } b hn
  have hbut : RegsBut x (setBuf { x with free := fr } n b) [(kRIF, 0x110 + 4 * n)] :=
    regsBut_setBuf (regsBut_of_eq (RegsBut.refl _ _) rfl rfl) hn (by simp) _
  have hro := regsOnly_setMState (setBuf { x with free := fr } n b) n msChecking
  refine ⟨musState_setMState _ _ _ (by decide), ?_, ?_, ?_, ?_, regsBut_setMState hbut hn (by simp) _⟩
  · rw [hro.musBuf_eq, hself, ← hb]
  · rw [hro.musBuf_eq, hself, ← hb]
  · rw [hro.tabs_eq, e']
  · rw [hro.dram_eq, e']

end

/-! ### The end of a CHECK (R119) -/

theorem exec_checkDone (sl : SliceId) (n : Buf) (s : State) : exec (.checkDone sl n) s = execCheckDone sl n s := rfl

/-- What the blocks' checks report at the end of a CHECK. -/
def checkReported (x : Slice) (n : Nat) : Slice :=
  match (musBuf x n).chkf with
  | some v => regSet (regSet x kRIF (0x118 + 4 * n) (musBuf x n).verdict) kDMK 0x130 v
  | none => regSet x kRIF (0x118 + 4 * n) (musBuf x n).verdict

section
variable {x : Slice} {n : Nat} (hn : n < 2)
include hn

theorem checkReported_facts : RegsOnly x (checkReported x n) ∧ RegsBut x (checkReported x n) [(kRIF, 0x118 + 4 * n), (kDMK, 0x130)]
    ∧ regGet (checkReported x n) kRIF (0x118 + 4 * n) = (musBuf x n).verdict := by
  have hb : RegsBut x (regSet x kRIF (0x118 + 4 * n) (musBuf x n).verdict) [(kRIF, 0x118 + 4 * n), (kDMK, 0x130)] :=
    regsBut_regSet (RegsBut.refl _ _) _ _ _ (by omega) (by simp)
  unfold checkReported
  split
  · refine ⟨(regsOnly_regSet ..).trans (regsOnly_regSet ..), regsBut_regSet hb _ _ _ (by norm_num) (by simp), ?_⟩
    rw [regGet_regSet_ne _ _ _ _ _ _ (regKey_ne (by norm_num) (by omega) (Or.inl (by decide))), regGet_regSet_self]
  · exact ⟨regsOnly_regSet .., hb, regGet_regSet_self ..⟩

end

theorem runsOn_checkDone_of {s : State} {sl : SliceId} (hon : (s.slice sl).on = true) {n : Buf} (h : musState (s.slice sl) n.val = 2)
    {P : Slice → Prop}
    (hp : P (raise (setMResult (setMState (setBuf (checkReported (s.slice sl) n.val) n.val
      { musBuf (s.slice sl) n.val with checkOk := decide ((musBuf (s.slice sl) n.val).verdict = 0) }) n.val msChecked) n.val
      (if (musBuf (s.slice sl) n.val).verdict = 0 then mrOk else mrFail)) kRIF 0)) :
    RunsOn (.checkDone sl n) s sl P := by
  have hne : ¬(musState (s.slice sl) n.val ≠ msChecking) := not_not_intro h
  refine runsOn_onStarted (exec_checkDone ..) hon ?_
  rw [if_neg hne]
  exact hp

theorem runsOn_checkDone {s : State} {sl : SliceId} (hon : (s.slice sl).on = true) {n : Buf} (h : musState (s.slice sl) n.val = 2) :
    RunsOn (.checkDone sl n) s sl fun y =>
      musState y n.val = 3 ∧ regGet y kRIF (0x118 + 4 * n.val) = (musBuf (s.slice sl) n.val).verdict
      ∧ (musBuf y n.val).checkOk = decide ((musBuf (s.slice sl) n.val).verdict = 0)
      ∧ (musBuf y n.val).items = (musBuf (s.slice sl) n.val).items
      ∧ regFld y kRIF (0x110 + 4 * n.val) 27 24 = (if (musBuf (s.slice sl) n.val).verdict = 0 then 0 else 1)
      ∧ RegsBut (s.slice sl) y ([(kRIF, 0x110 + 4 * n.val), (kRIF, 0x118 + 4 * n.val), (kDMK, 0x130)] ++ raiseKeys kRIF 0) := by
  have hn := n.isLt
  refine runsOn_checkDone_of hon h ?_
  obtain ⟨hro, hbut, hget⟩ := checkReported_facts (x := s.slice sl) hn
  generalize s.slice sl = x at *
  generalize hb : ({ musBuf x n.val with checkOk := decide ((musBuf x n.val).verdict = 0) } : MusBuf) = b
  generalize checkReported x n.val = z at *
  let ks := [(kRIF, 0x110 + 4 * n.val), (kRIF, 0x118 + 4 * n.val), (kDMK, 0x130)] ++ raiseKeys kRIF 0
  have hm : (kRIF, 0x110 + 4 * n.val) ∈ ks := by simp [ks]
  have hres : (if (musBuf x n.val).verdict = 0 then mrOk else mrFail) = if (musBuf x n.val).verdict = 0 then 0 else 1 := rfl
  rw [hres]
  generalize hc : (if (musBuf x n.val).verdict = 0 then 0 else 1) = code
  have hlt : code < 16 := by
    rw [← hc]
    split
    · norm_num
    · norm_num
  have hfin : RegsOnly (setBuf z n.val b) (raise (setMResult (setMState (setBuf z n.val b) n.val msChecked) n.val code) kRIF 0) :=
    ((regsOnly_setMState ..).trans (regsOnly_setMResult ..)).trans (regsOnly_raise ..)
  have hkeep : RegsBut z (raise (setMResult (setMState (setBuf z n.val b) n.val msChecked) n.val code) kRIF 0)
      ((kRIF, 0x110 + 4 * n.val) :: raiseKeys kRIF 0) :=
    regsBut_raise (regsBut_setMResult (regsBut_setMState (regsBut_setBuf (RegsBut.refl z _) hn (by simp) b) hn (by simp) _) hn (by simp) _)
      kRIF 0 (by norm_num) (List.subset_cons_self ..)
  have hsub : [(kRIF, 0x118 + 4 * n.val), (kDMK, 0x130)] ⊆ ks := List.subset_append_of_subset_left _ (List.subset_cons_self ..)
  have hsub' : (kRIF, 0x110 + 4 * n.val) :: raiseKeys kRIF 0 ⊆ ks :=
    List.cons_subset.2 ⟨hm, List.subset_append_right ..⟩
  have hall := (hbut.mono hsub).trans (hkeep.mono hsub')
  refine ⟨?_, ?_, ?_, ?_, ?_, hall⟩
  · rw [musState_raise _ hn _ _ (by norm_num), musState_setMResult, musState_setMState _ _ _ (by decide)]
    rfl
  · rw [hkeep kRIF (0x118 + 4 * n.val) (by omega) (by simp [raiseKeys]), hget]
  · rw [hfin.musBuf_eq, musBuf_setBuf_self _ _ hn, ← hb]
  · rw [hfin.musBuf_eq, musBuf_setBuf_self _ _ hn, ← hb]
  · exact (musResult_raise _ hn _ _ (by norm_num)).trans (musResult_setMResult _ _ _ hlt)

end Sys2Proof.Machine
end

section
/-! Proofs. Muslin commands by register and by session, and staging and checks (R114 to R119, R497). -/

namespace Sys2Proof.Machine

/-! ### Commands by register -/

/-- A command as RIF_MCMD keeps it. -/
def mcmdNoted (x : Slice) (n code : Nat) : Slice := regSet x kRIF 0x100 (w32 (n * 256 + code))

theorem regsOnly_mcmdNoted (x : Slice) (n code : Nat) : RegsOnly x (mcmdNoted x n code) := regsOnly_regSet ..

theorem regsBut_mcmdNoted (x : Slice) (n code : Nat) : RegsBut x (mcmdNoted x n code) [(kRIF, 0x100)] :=
  regsBut_regSet (RegsBut.refl _ _) _ _ _ (by norm_num) (by simp)

theorem musState_mcmdNoted (x : Slice) {n : Nat} (hn : n < 2) (m code : Nat) : musState (mcmdNoted x m code) n = musState x n :=
  (regsBut_mcmdNoted x m code).musState_eq hn (by simp; omega)

theorem musBuf_mcmdNoted (x : Slice) (m code n : Nat) : musBuf (mcmdNoted x m code) n = musBuf x n := (regsOnly_mcmdNoted x m code).musBuf_eq n

/-- What a command changes besides RIF_MCMD. -/
theorem RegsBut.of_mcmdNoted {x y : Slice} {n code : Nat} {ks : List (Nat × Nat)} (h : RegsBut (mcmdNoted x n code) y ks)
    (hm : (kRIF, 0x100) ∈ ks) : RegsBut x y ks :=
  ((regsBut_mcmdNoted x n code).mono (List.cons_subset.2 ⟨hm, List.nil_subset _⟩)).trans h

/-- The instruction of each command by register. -/
def musInstr (sl : SliceId) (n : Buf) : Nat → Instr
  | 1 => .muslinClear sl n .reg
  | 2 => .muslinCheck sl n .reg
  | 3 => .muslinArm sl n .reg
  | _ => .muslinCancel sl n .reg

theorem exec_musInstr (sl : SliceId) (n : Buf) (s : State) {code : Nat} (h1 : 0 < code) (h4 : code < 5) :
    exec (musInstr sl n code) s = regMus sl n code s := by
  interval_cases code
  · rfl
  · rfl
  · rfl
  · rfl

theorem runsPair_musInstr {s : State} {sl : SliceId} (hon : (s.slice sl).on = true) {n : Buf} {code : Nat} (h1 : 0 < code) (h4 : code < 5)
    {P : Slice → Prop}
    (hp : P { musCommand (mcmdNoted (s.slice sl) n.val code) (paired s sl) n.val code (mopOf (s.slice sl)) with bus := .done }) :
    RunsPair (musInstr sl n code) s sl fun y _ => P y :=
  runsPair_onLink (f := fun x => { musCommand (mcmdNoted x n.val code) (paired s sl) n.val code (mopOf x) with bus := .done })
    (exec_musInstr sl n s h1 h4) hon hp

section
variable {s : State} {sl : SliceId} (hon : (s.slice sl).on = true) {n : Buf}
include hon

theorem runsPair_muslinClear (h4 : musState (s.slice sl) n.val ≠ 4) (h5 : musState (s.slice sl) n.val ≠ 5) :
    RunsPair (.muslinClear sl n .reg) s sl fun y _ =>
      y = { s.slice sl with regs := y.regs, bufs := y.bufs, asm := (s.slice sl).asm.filter (·.buf.val ≠ n.val), bus := .done }
      ∧ musBuf y n.val = MusBuf.empty ∧ musBuf y (1 - n.val) = musBuf (s.slice sl) (1 - n.val) ∧ musState y n.val = 0
      ∧ regFld y kRIF (0x110 + 4 * n.val) 27 24 = 0
      ∧ RegsBut (s.slice sl) y [(kRIF, 0x110 + 4 * n.val), (kRIF, 0x100)] := by
  refine runsPair_musInstr (code := 1) hon (by norm_num) (by norm_num) ?_
  have hc : musCommand (mcmdNoted (s.slice sl) n.val 1) (paired s sl) n.val 1 (mopOf (s.slice sl))
      = musClear (mcmdNoted (s.slice sl) n.val 1) n.val := rfl
  rw [hc]
  have hs := musState_mcmdNoted (s.slice sl) n.isLt n.val 1
  obtain ⟨e, hself, hother, hst, hres, hbut⟩ := musClear_empties (x := mcmdNoted (s.slice sl) n.val 1) n.isLt (by rwa [hs]) (by rwa [hs])
  have hbut' : RegsBut (s.slice sl) (musClear (mcmdNoted (s.slice sl) n.val 1) n.val) [(kRIF, 0x110 + 4 * n.val), (kRIF, 0x100)] :=
    (hbut.mono (by simp)).of_mcmdNoted (by simp)
  rw [musBuf_mcmdNoted] at hother
  generalize musClear (mcmdNoted (s.slice sl) n.val 1) n.val = y at *
  refine ⟨?_, hself, hother, hst, hres, hbut'⟩
  obtain ⟨r, e'⟩ := regsOnly_mcmdNoted (s.slice sl) n.val 1
  rw [e, e']
  rfl

/-- A command that its buffer's state refuses. -/
theorem runsPair_musInstr_refused {code : Nat} (h1 : 0 < code) (h4 : code < 5)
    (hc : musCommand (mcmdNoted (s.slice sl) n.val code) (paired s sl) n.val code (mopOf (s.slice sl))
      = setMResult (mcmdNoted (s.slice sl) n.val code) n.val mrBadState) :
    RunsPair (musInstr sl n code) s sl fun y _ => y = { s.slice sl with regs := y.regs, bus := .done }
      ∧ musState y n.val = musState (s.slice sl) n.val
      ∧ regFld y kRIF (0x110 + 4 * n.val) 27 24 = 12 ∧ RegsBut (s.slice sl) y [(kRIF, 0x110 + 4 * n.val), (kRIF, 0x100)] := by
  refine runsPair_musInstr hon h1 h4 ?_
  rw [hc]
  have hro := (regsOnly_mcmdNoted (s.slice sl) n.val code).trans (regsOnly_setMResult (mcmdNoted (s.slice sl) n.val code) n.val mrBadState)
  have hst := (musState_setMResult (mcmdNoted (s.slice sl) n.val code) n.val mrBadState).trans
    (musState_mcmdNoted (s.slice sl) n.isLt n.val code)
  have hres := musResult_setMResult (mcmdNoted (s.slice sl) n.val code) n.val mrBadState (by decide)
  have hbut : RegsBut (s.slice sl) (setMResult (mcmdNoted (s.slice sl) n.val code) n.val mrBadState)
      [(kRIF, 0x110 + 4 * n.val), (kRIF, 0x100)] :=
    regsBut_setMResult ((regsBut_mcmdNoted (s.slice sl) n.val code).mono (by simp)) n.isLt (by simp) _
  obtain ⟨r, e⟩ := hro
  rw [e] at hst hres hbut ⊢
  exact ⟨rfl, hst, hres, hbut⟩

theorem runsPair_muslinCheck (h : musState (s.slice sl) n.val = 1 ∨ musState (s.slice sl) n.val = 3 ∨ musState (s.slice sl) n.val = 7) :
    RunsPair (.muslinCheck sl n .reg) s sl fun y _ =>
      musState y n.val = 2 ∧ (musBuf y n.val).items = (musBuf (s.slice sl) n.val).items
      ∧ (musBuf y n.val).verdict = (checkVerdict (regSet (s.slice sl) kRIF 0x100 (w32 (n.val * 256 + 2))) (paired s sl)
          (musBuf (s.slice sl) n.val).items ((s.slice sl).asm.any (·.buf.val = n.val))).1.1
      ∧ y.tabs = (s.slice sl).tabs ∧ y.dram = (s.slice sl).dram
      ∧ RegsBut (s.slice sl) y [(kRIF, 0x110 + 4 * n.val), (kRIF, 0x100)] := by
  refine runsPair_musInstr (code := 2) hon (by norm_num) (by norm_num) ?_
  have hc : musCommand (mcmdNoted (s.slice sl) n.val 2) (paired s sl) n.val 2 (mopOf (s.slice sl))
      = musCheck (mcmdNoted (s.slice sl) n.val 2) (paired s sl) n.val := rfl
  rw [hc]
  have hs := musState_mcmdNoted (s.slice sl) n.isLt n.val 2
  have hro := regsOnly_mcmdNoted (s.slice sl) n.val 2
  obtain ⟨hst, hitems, hver, htabs, hdram, hbut⟩ := musCheck_checks (x := mcmdNoted (s.slice sl) n.val 2) n.isLt (by rwa [hs]) (paired s sl)
  have hbut' : RegsBut (s.slice sl) (musCheck (mcmdNoted (s.slice sl) n.val 2) (paired s sl) n.val)
      [(kRIF, 0x110 + 4 * n.val), (kRIF, 0x100)] := (hbut.mono (by simp)).of_mcmdNoted (by simp)
  rw [hro.musBuf_eq] at hitems hver
  rw [hro.asm_eq] at hver
  generalize musCheck (mcmdNoted (s.slice sl) n.val 2) (paired s sl) n.val = y at *
  exact ⟨hst, hitems, hver, htabs.trans hro.tabs_eq, hdram.trans hro.dram_eq, hbut'⟩

end

/-! ### Commands of a session (R118) -/

/-- The instruction of each command of a session. -/
def musSessionInstr (sl : SliceId) (n : Buf) (ses : Nat) : Nat → Instr
  | 1 => .muslinClear sl n (.session ses)
  | 2 => .muslinCheck sl n (.session ses)
  | 3 => .muslinArm sl n (.session ses)
  | _ => .muslinCancel sl n (.session ses)

theorem exec_musSessionInstr (sl : SliceId) (n : Buf) (ses : Nat) (s : State) {code : Nat} (h1 : 0 < code) (h4 : code < 5) :
    exec (musSessionInstr sl n ses code) s = musBy sl n (.session ses) code s := by
  interval_cases code
  · rfl
  · rfl
  · rfl
  · rfl

/-- A session's command is answered with RIF_MSTATn. -/
theorem runs_musSessionInstr {s : State} {sl : SliceId} {n : Buf} {ses k code : Nat} {t : Session} {r : HraRun} {rest : List HraOp} {v : Dword}
    (h1 : 0 < code) (h4 : code < 5) (h : OpTurn s ses (some sl) t r (.cmd k code v) rest) (hrest : rest ≠ []) :
    Runs (musSessionInstr sl n ses code) s fun u =>
      u = opDone (s.onSliceNow sl (musCommand · (paired s sl) k code v)) ses r rest
        (wordBytes (regGet ((s.onSliceNow sl (musCommand · (paired s sl) k code v)).slice sl) kRIF (0x110 + 4 * k))) := by
  have hby : musBy sl n (.session ses) code s = sessionMus ses code s := by
    obtain ⟨hs, -, -, ht, -⟩ := h
    simp only [musBy, hs, ht, if_true]
  refine h.runs_done ((exec_musSessionInstr sl n ses s h1 h4).trans hby) (if_pos (Or.inl rfl)) hrest rfl

/-! ### The obligation -/

/-- Settles O27, word by word and command by command. -/
theorem muslinStagingAndCheck : Obligations.MuslinStagingAndCheck := by
  unfold Obligations.MuslinStagingAndCheck
  refine ⟨fun s sl req n w ws hon => ?_, fun s sl n ses k t r rest v hon => ?_⟩
  · intro x hws
    exact ⟨runsOn_muslinStageWord_collects hon hws, runsOn_muslinStageWord_joins hon hws, runsOn_muslinStageWord_refused hon hws⟩
  · intro x
    refine ⟨runsPair_muslinClear hon, fun h45 i hi => ?_, runsPair_muslinCheck hon, runsOn_checkDone hon, fun i c hic h hrest => ?_⟩
    · have hs : ∀ code, musState (mcmdNoted x n.val code) n.val = musState x n.val := musState_mcmdNoted x n.isLt n.val
      simp only [List.mem_cons, List.not_mem_nil, or_false] at hi
      obtain rfl | rfl := hi
      · exact runsPair_musInstr_refused (code := 1) hon (by norm_num) (by norm_num) (musClear_armed (by rwa [hs]))
      · refine runsPair_musInstr_refused (code := 2) hon (by norm_num) (by norm_num) (musCheck_refused ?_ ?_ ?_ _)
        all_goals
          rw [hs]
          omega
    · simp only [List.mem_cons, Prod.mk.injEq, List.not_mem_nil, or_false] at hic
      obtain ⟨rfl, rfl⟩ | ⟨rfl, rfl⟩ | ⟨rfl, rfl⟩ | ⟨rfl, rfl⟩ := hic
      · exact runs_musSessionInstr (n := n) (code := 1) (by norm_num) (by norm_num) h hrest
      · exact runs_musSessionInstr (n := n) (code := 2) (by norm_num) (by norm_num) h hrest
      · exact runs_musSessionInstr (n := n) (code := 3) (by norm_num) (by norm_num) h hrest
      · exact runs_musSessionInstr (n := n) (code := 4) (by norm_num) (by norm_num) h hrest

end Sys2Proof.Machine
end

section
/-! Proofs. ARM, CANCEL, pre-load and the poll of a muslin (R118, R123 to R126). -/

namespace Sys2Proof.Machine

/-! ### ARM and CANCEL (R118, R123, R124) -/

section
variable {x : Slice} {n : Nat} (hn : n < 2) {ok : Bool} {op : Dword}
include hn

/-- ARM of a buffer that R123 refuses shows why. -/
theorem musArm_refused {k : Nat} (h : armRefusal x ok n { musBuf x n with op := op, tag := regGet x kRIF 0x104 } = some k) (hk : k < 16) :
    RegsOnly x (musArm x ok n op) ∧ musState (musArm x ok n op) n = musState x n ∧ musResult (musArm x ok n op) n = k
      ∧ RegsBut x (musArm x ok n op) ((kRIF, 0x110 + 4 * n) :: raiseKeys kRIF 4) := by
  have hy : musArm x ok n op = raise (setMResult x n k) kRIF 4 := by
    rw [musArm]
    simp only [h]
  rw [hy]
  refine ⟨(regsOnly_setMResult ..).trans (regsOnly_raise ..), ?_, ?_,
    regsBut_raise (regsBut_setMResult (RegsBut.refl _ _) hn (by simp) _) _ _ (by norm_num) (List.subset_cons_self ..)⟩
  · rw [musState_raise _ hn _ _ (by norm_num), musState_setMResult]
  · rw [musResult_raise _ hn _ _ (by norm_num), musResult_setMResult _ _ _ hk]

/-- ARM of a buffer that nothing refuses. -/
theorem musArm_arms (h : armRefusal x ok n { musBuf x n with op := op, tag := regGet x kRIF 0x104 } = none) :
    let y := musArm x ok n op
    musState y n = 4 ∧ musResult y n = 0 ∧ regFld y kRIF (0x110 + 4 * n) 23 20 = (regFld x kRIF 0x130 31 28 + 1) % 16
      ∧ (musBuf y n).items = (musBuf x n).items ∧ (musBuf y n).op = op ∧ (musBuf y n).answers = [] ∧ (musBuf y n).preloaded = []
      ∧ RegsBut x y [(kRIF, 0x110 + 4 * n)] ∧ y.tabs = x.tabs := by
  obtain ⟨b, hb, hitems, hop, hans, hpre⟩ : ∃ b : MusBuf, musArm x ok n op
      = setMEpoch (setMResult (setMState (setBuf x n b) n msArmed) n mrOk) n (regFld (setBuf x n b) kRIF 0x130 31 28 + 1)
      ∧ b.items = (musBuf x n).items ∧ b.op = op ∧ b.answers = [] ∧ b.preloaded = [] := by
    rw [musArm]
    simp only [h]
    exact ⟨_, rfl, rfl, rfl, rfl, rfl⟩
  have hro : RegsOnly (setBuf x n b)
      (setMEpoch (setMResult (setMState (setBuf x n b) n msArmed) n mrOk) n (regFld (setBuf x n b) kRIF 0x130 31 28 + 1)) :=
    ((regsOnly_setMState ..).trans (regsOnly_setMResult ..)).trans (regsOnly_setMEpoch ..)
  have hbut : RegsBut x (setBuf x n b) [(kRIF, 0x110 + 4 * n)] := regsBut_setBuf (RegsBut.refl _ _) hn (by simp) b
  have hepoch : regFld (setBuf x n b) kRIF 0x130 31 28 = regFld x kRIF 0x130 31 28 := hbut.regFld_eq (by norm_num) (by simp; omega) _ _
  intro y
  change y = _ at hb
  rw [hb]
  refine ⟨?_, ?_, ?_, ?_, ?_, ?_, ?_,
    regsBut_setMEpoch (regsBut_setMResult (regsBut_setMState hbut hn (by simp) _) hn (by simp) _) hn (by simp) _, ?_⟩
  · rw [musState_setMEpoch, musState_setMResult, musState_setMState _ _ _ (by decide)]
    rfl
  · rw [musResult_setMEpoch, musResult_setMResult _ _ _ (by decide)]
    rfl
  · rw [← hepoch]
    exact regFld_regPut_self _ kRIF (0x110 + 4 * n) 23 20 _ (by norm_num) (by norm_num)
  · rw [hro.musBuf_eq, musBuf_setBuf_self _ _ hn, hitems]
  · rw [hro.musBuf_eq, musBuf_setBuf_self _ _ hn, hop]
  · rw [hro.musBuf_eq, musBuf_setBuf_self _ _ hn, hans]
  · rw [hro.musBuf_eq, musBuf_setBuf_self _ _ hn, hpre]
  · obtain ⟨r, e⟩ := setBuf_frame x n b
    rw [hro.tabs_eq, e]

end

theorem musCancel_refused {x : Slice} {n : Nat} (h : musState x n ≠ 4) : musCancel x n = setMResult x n mrBadState := if_pos h

/-- The bits that blocks show of a muslin's change are cleared. -/
theorem foldl_clrChanged (bs : List Nat) (x : Slice) :
    RegsOnly x (bs.foldl (fun x b => clrRegBit x b 8 5) x)
      ∧ (∀ o k, o < 0x100000 → o ≠ 8 → regGet (bs.foldl (fun x b => clrRegBit x b 8 5) x) k o = regGet x k o)
      ∧ (∀ c, c ∈ bs ∨ regBit x c 8 5 = false → regBit (bs.foldl (fun x b => clrRegBit x b 8 5) x) c 8 5 = false) := by
  induction bs generalizing x with
  | nil => exact ⟨RegsOnly.refl x, fun _ _ _ _ => rfl, fun c hc => hc.elim (fun h => nomatch h) id⟩
  | cons b bs ih =>
    obtain ⟨hro, hoff, hclr⟩ := ih (clrRegBit x b 8 5)
    refine ⟨(regsOnly_clrRegBit x b 8 5).trans hro, fun o k ho h8 => (hoff o k ho h8).trans ?_, fun c hc => hclr c ?_⟩
    · exact regGet_regPut_ne _ _ _ _ _ _ _ _ (regKey_ne (by norm_num) ho (Or.inr h8))
    · by_cases hcb : c = b
      · subst hcb
        exact Or.inr (regBit_clrRegBit _ _ _ _ (by norm_num))
      · refine hc.imp (fun h => (List.mem_cons.1 h).resolve_left hcb) fun h => ?_
        rw [clrRegBit, regBit, regGet_regPut_ne _ _ _ _ _ _ _ _ (regKey_ne (by norm_num) (by norm_num) (Or.inl hcb))]
        exact h

theorem musCancel_cancels {x : Slice} {n : Nat} (hn : n < 2) (h : musState x n = 4) :
    let y := musCancel x n
    musState y n = 3 ∧ musResult y n = 10 ∧ y.bufs = x.bufs ∧ ∀ c ∈ touchedBlocks (musBuf x n).items, regBit y c 8 5 = false := by
  have hy : musCancel x n = setMResult (setMState (clearChanged x n) n msChecked) n mrCancelled := if_neg (not_not_intro h)
  obtain ⟨hro, -, hclr⟩ := foldl_clrChanged (touchedBlocks (musBuf x n).items) x
  rw [← clearChanged] at hro
  have hro' := hro.trans ((regsOnly_setMState (clearChanged x n) n msChecked).trans (regsOnly_setMResult _ n mrCancelled))
  intro y
  change y = _ at hy
  rw [hy]
  refine ⟨?_, musResult_setMResult _ _ _ (by decide), hro'.bufs_eq, fun c hc => ?_⟩
  · rw [musState_setMResult, musState_setMState _ _ _ (by decide)]
    rfl
  · have h8 : ∀ (z : Slice) (hi lo v : Nat), regGet (regPut z kRIF (0x110 + 4 * n) hi lo v) c 8 = regGet z c 8 := fun z hi lo v =>
      regGet_regPut_ne _ _ _ _ _ _ _ _ (by
        change c * 0x100000 + 8 ≠ 0 * 0x100000 + (0x110 + 4 * n)
        omega)
    exact ((congrArg (wbit · 5) ((h8 _ _ _ _).trans (h8 _ _ _ _)))).trans (hclr c (Or.inl hc))

section
variable {s : State} {sl : SliceId} (hon : (s.slice sl).on = true) {n : Buf}
include hon

theorem runsPair_muslinArm_refused {k : Nat} (hk : k < 16)
    (h : armRefusal (regSet (s.slice sl) kRIF 0x100 (w32 (n.val * 256 + 3))) (paired s sl) n.val
      { musBuf (s.slice sl) n.val with op := mopOf (s.slice sl), tag := regGet (s.slice sl) kRIF 0x104 } = some k) :
    RunsPair (.muslinArm sl n .reg) s sl fun y _ => y = { s.slice sl with regs := y.regs, bus := .done }
      ∧ musState y n.val = musState (s.slice sl) n.val ∧ regFld y kRIF (0x110 + 4 * n.val) 27 24 = k
      ∧ RegsBut (s.slice sl) y ([(kRIF, 0x110 + 4 * n.val), (kRIF, 0x100)] ++ raiseKeys kRIF 4) := by
  refine runsPair_musInstr (code := 3) hon (by norm_num) (by norm_num) ?_
  have hc : musCommand (mcmdNoted (s.slice sl) n.val 3) (paired s sl) n.val 3 (mopOf (s.slice sl))
      = musArm (mcmdNoted (s.slice sl) n.val 3) (paired s sl) n.val (mopOf (s.slice sl)) := rfl
  rw [hc]
  have htag := regsBut_mcmdNoted (s.slice sl) n.val 3 kRIF 0x104 (by norm_num) (by simp)
  obtain ⟨hro, hst, hres, hbut⟩ := musArm_refused (x := mcmdNoted (s.slice sl) n.val 3) (ok := paired s sl) (op := mopOf (s.slice sl))
    n.isLt (by rw [htag, musBuf_mcmdNoted]; exact h) hk
  have hbut' := (hbut.mono (ls := [(kRIF, 0x110 + 4 * n.val), (kRIF, 0x100)] ++ raiseKeys kRIF 4) (List.cons_subset.2
    ⟨by simp, List.subset_append_right ..⟩)).of_mcmdNoted (by simp)
  rw [musState_mcmdNoted _ n.isLt] at hst
  obtain ⟨r, e⟩ := (regsOnly_mcmdNoted (s.slice sl) n.val 3).trans hro
  rw [e] at hst hres hbut' ⊢
  exact ⟨rfl, hst, hres, hbut'⟩

theorem runsPair_muslinArm
    (h : armRefusal (regSet (s.slice sl) kRIF 0x100 (w32 (n.val * 256 + 3))) (paired s sl) n.val
      { musBuf (s.slice sl) n.val with op := mopOf (s.slice sl), tag := regGet (s.slice sl) kRIF 0x104 } = none) :
    RunsPair (.muslinArm sl n .reg) s sl fun y _ => musState y n.val = 4 ∧ regFld y kRIF (0x110 + 4 * n.val) 27 24 = 0
      ∧ regFld y kRIF (0x110 + 4 * n.val) 23 20 = (regFld (s.slice sl) kRIF 0x130 31 28 + 1) % 16
      ∧ (musBuf y n.val).items = (musBuf (s.slice sl) n.val).items ∧ (musBuf y n.val).op = mopOf (s.slice sl)
      ∧ (musBuf y n.val).answers = [] ∧ (musBuf y n.val).preloaded = []
      ∧ RegsBut (s.slice sl) y [(kRIF, 0x110 + 4 * n.val), (kRIF, 0x100)] ∧ y.tabs = (s.slice sl).tabs := by
  refine runsPair_musInstr (code := 3) hon (by norm_num) (by norm_num) ?_
  have hc : musCommand (mcmdNoted (s.slice sl) n.val 3) (paired s sl) n.val 3 (mopOf (s.slice sl))
      = musArm (mcmdNoted (s.slice sl) n.val 3) (paired s sl) n.val (mopOf (s.slice sl)) := rfl
  rw [hc]
  have hnoted := regsBut_mcmdNoted (s.slice sl) n.val 3
  have htag := hnoted kRIF 0x104 (by norm_num) (by simp)
  have hepoch := hnoted.regFld_eq (b := kRIF) (o := 0x130) (by norm_num) (by simp) 31 28
  obtain ⟨hst, hres, hep, hitems, hop, hans, hpre, hbut, htabs⟩ := musArm_arms (x := mcmdNoted (s.slice sl) n.val 3) (ok := paired s sl)
    (op := mopOf (s.slice sl)) n.isLt (by rw [htag, musBuf_mcmdNoted]; exact h)
  have hbut' : RegsBut (s.slice sl) (musArm (mcmdNoted (s.slice sl) n.val 3) (paired s sl) n.val (mopOf (s.slice sl)))
      [(kRIF, 0x110 + 4 * n.val), (kRIF, 0x100)] := (hbut.mono (by simp)).of_mcmdNoted (by simp)
  rw [hepoch] at hep
  rw [musBuf_mcmdNoted] at hitems
  have htabs' := htabs.trans (regsOnly_mcmdNoted (s.slice sl) n.val 3).tabs_eq
  generalize musArm (mcmdNoted (s.slice sl) n.val 3) (paired s sl) n.val (mopOf (s.slice sl)) = y at *
  exact ⟨hst, hres, hep, hitems, hop, hans, hpre, hbut', htabs'⟩

theorem runsPair_muslinCancel_refused (h : musState (s.slice sl) n.val ≠ 4) :
    RunsPair (.muslinCancel sl n .reg) s sl fun y _ => musState y n.val = musState (s.slice sl) n.val
      ∧ regFld y kRIF (0x110 + 4 * n.val) 27 24 = 12 ∧ y.bufs = (s.slice sl).bufs := by
  obtain ⟨y, ms, e, hy, hst, hres, -⟩ := runsPair_musInstr_refused (n := n) (code := 4) hon (by norm_num) (by norm_num)
    (musCancel_refused (by rwa [musState_mcmdNoted _ n.isLt]))
  exact ⟨y, ms, e, hst, hres, by rw [hy]⟩

theorem runsPair_muslinCancel (h : musState (s.slice sl) n.val = 4) :
    RunsPair (.muslinCancel sl n .reg) s sl fun y _ => musState y n.val = 3 ∧ regFld y kRIF (0x110 + 4 * n.val) 27 24 = 10
      ∧ y.bufs = (s.slice sl).bufs ∧ ∀ c ∈ touchedBlocks (musBuf (s.slice sl) n.val).items, regBit y c 8 5 = false := by
  refine runsPair_musInstr (code := 4) hon (by norm_num) (by norm_num) ?_
  have hc : musCommand (mcmdNoted (s.slice sl) n.val 4) (paired s sl) n.val 4 (mopOf (s.slice sl))
      = musCancel (mcmdNoted (s.slice sl) n.val 4) n.val := rfl
  rw [hc]
  obtain ⟨hst, hres, hbufs, hclr⟩ := musCancel_cancels (x := mcmdNoted (s.slice sl) n.val 4) n.isLt
    (by rwa [musState_mcmdNoted _ n.isLt])
  rw [musBuf_mcmdNoted] at hclr
  have hbufs' := hbufs.trans (regsOnly_mcmdNoted (s.slice sl) n.val 4).bufs_eq
  generalize musCancel (mcmdNoted (s.slice sl) n.val 4) n.val = y at *
  exact ⟨hst, hres, hbufs', hclr⟩

end

/-! ### Pre-load and the poll (R125, R126) -/

theorem exec_preloadDone (sl : SliceId) (blk : Block) (s : State) : exec (.preloadDone sl blk) s = execPreloadDone sl blk s := rfl

theorem exec_readinessPoll (sl : SliceId) (s : State) : exec (.readinessPoll sl) s = execReadinessPoll sl s := rfl

theorem bufIn_some {x : Slice} {st k : Nat} (h : bufIn x st = some k) : k < 2 ∧ musState x k = st :=
  ⟨List.mem_range.1 (List.mem_of_find?_eq_some h), by
    have hs := List.find?_some (p := fun n => decide (musState x n = st)) h
    exact of_decide_eq_true hs⟩

section
variable {x : Slice} {n : Nat} (hn : n < 2) (move : Bool)
include hn

/-- The poll makes a buffer POLLING, with its instant. -/
theorem pollNow_polls :
    let y := pollNow x n move
    let t := if move then (baseNow x (opBase (musBuf x n)) + 10 * usUnits) % timeMod else (musBuf x n).instant
    musState y n = 5 ∧ (musBuf y n).instant = t ∧ RegsBut x y [(kRIF, 0x110 + 4 * n)] ∧ y.tabs = x.tabs := by
  intro y t
  have hy : y = setMState (setBuf x n { musBuf x n with instant := t }) n msPolling := rfl
  have hro := regsOnly_setMState (setBuf x n { musBuf x n with instant := t }) n msPolling
  rw [hy]
  refine ⟨musState_setMState _ _ _ (by decide), ?_, regsBut_setMState (regsBut_setBuf (RegsBut.refl _ _) hn (by simp) _) hn (by simp) _, ?_⟩
  · rw [hro.musBuf_eq, musBuf_setBuf_self _ _ hn]
  · obtain ⟨r, e⟩ := setBuf_frame x n { musBuf x n with instant := t }
    rw [hro.tabs_eq, e]

end

theorem poll_instant (x : Slice) (b : MusBuf) : instantWithin x b 10 = decide (timeDiff b.instant (baseNow x (opBase b)) ≤ 10000 * nsUnits) := by
  have h : ((10 * usUnits : Nat) : Int) = 10000 * (nsUnits : Int) := by
    rw [usUnits]
    push_cast
    ring
  rw [instantWithin, h]

theorem next_instant (t : Nat) : t + 10 * usUnits = t + 10000 * nsUnits := by rw [usUnits, ← Nat.mul_assoc]

section
variable {s : State} {sl : SliceId} (hon : (s.slice sl).on = true) {k : Nat} (h : bufIn (s.slice sl) 4 = some k)
include hon h

theorem runsOn_preloadDone {blk : Block} (hm : blk.val ∈ touchedBlocks (musBuf (s.slice sl) k).items)
    (hp : blk.val ∉ (musBuf (s.slice sl) k).preloaded) :
    RunsOn (.preloadDone sl blk) s sl fun y => (musBuf y k).preloaded = (musBuf (s.slice sl) k).preloaded ++ [blk.val]
      ∧ (musBuf y k).items = (musBuf (s.slice sl) k).items ∧ musState y k = 4 := by
  obtain ⟨hk, hst⟩ := bufIn_some h
  have h' : bufIn (s.slice sl) msArmed = some k := h
  refine runsOn_onStarted (exec_preloadDone ..) hon ?_
  simp only [h', Option.orElse_some, if_pos (And.intro hm hp)]
  rw [musBuf_setBuf_self _ _ hk, musState_setBuf, hst]
  exact ⟨rfl, rfl, rfl⟩

theorem runsOn_readinessPoll {P : Slice → Prop}
    (hp : P (if opNext (musBuf (s.slice sl) k) then
        (if (touchedBlocks (musBuf (s.slice sl) k).items).all (· ∈ (musBuf (s.slice sl) k).preloaded) then pollNow (s.slice sl) k true
          else s.slice sl)
      else if instantWithin (s.slice sl) (musBuf (s.slice sl) k) 10 then pollNow (s.slice sl) k false else s.slice sl)) :
    RunsOn (.readinessPoll sl) s sl P := by
  have h' : bufIn (s.slice sl) msArmed = some k := h
  refine runsOn_onStarted (exec_readinessPoll ..) hon ?_
  rw [h']
  exact hp

end

/-! ### The obligation -/

/-- Settles O28, step by step: ARM and CANCEL, the blocks' pre-load, and the poll. -/
theorem muslinArmAndPoll : Obligations.MuslinArmAndPoll := by
  unfold Obligations.MuslinArmAndPoll
  intro s sl n k blk hon x x1 b
  refine ⟨fun h hk => runsPair_muslinArm_refused hon hk h, runsPair_muslinArm hon, runsPair_muslinCancel_refused hon,
    runsPair_muslinCancel hon, fun h hm hp => runsOn_preloadDone hon h hm hp, fun h ho ht => ?_, fun h ho ht => ?_, fun h ho hall => ?_⟩
  · refine runsOn_readinessPoll hon h ?_
    rw [ho, poll_instant, decide_eq_false (not_le.2 ht)]
    rfl
  · obtain ⟨hk, -⟩ := bufIn_some h
    refine runsOn_readinessPoll hon h ?_
    rw [ho, poll_instant, decide_eq_true ht]
    exact pollNow_polls hk false
  · obtain ⟨hk, -⟩ := bufIn_some h
    refine runsOn_readinessPoll hon h ?_
    rw [ho, if_pos rfl, if_pos hall, ← next_instant]
    obtain ⟨hst, hi, hbut, -⟩ := pollNow_polls (x := x) hk true
    rw [if_pos rfl] at hi
    exact ⟨hst, hi, hbut⟩

end Sys2Proof.Machine
end

section
/-! Proofs. Readiness of a muslin: the blocks' answers, and the twin's (R125, R126, R133, R134). -/

namespace Sys2Proof.Machine

/-! ### A muslin that is aborted (R126, R133) -/

theorem clearChanged_facts (x : Slice) (n : Nat) : RegsOnly x (clearChanged x n)
    ∧ (∀ o k, o < 0x100000 → o ≠ 8 → regGet (clearChanged x n) k o = regGet x k o) := by
  obtain ⟨h, hoff, -⟩ := foldl_clrChanged (touchedBlocks (musBuf x n).items) x
  exact ⟨h, hoff⟩

theorem abortMuslin_aborts (x : Slice) {n r : Nat} (hn : n < 2) (hr : r < 16) :
    RegsOnly x (abortMuslin x n r) ∧ musState (abortMuslin x n r) n = 7 ∧ musResult (abortMuslin x n r) n = r
      ∧ ∀ o, o < 0x100000 → o ≠ 8 → o ≠ 0x110 + 4 * n → regGet (abortMuslin x n r) kRIF o = regGet x kRIF o := by
  obtain ⟨hro, hoff⟩ := clearChanged_facts x n
  refine ⟨(hro.trans ((regsOnly_setMState ..).trans (regsOnly_setMResult ..))).trans (regsOnly_raise ..), ?_, ?_, fun o ho h8 hne => ?_⟩
  · rw [abortMuslin, musState_raise _ hn _ _ (by norm_num), musState_setMResult, musState_setMState _ _ _ (by decide)]
    rfl
  · rw [abortMuslin, musResult_raise _ hn _ _ (by norm_num), musResult_setMResult _ _ _ hr]
  · rw [abortMuslin, (keepsBlock_raise (b := kRIF) _ (by decide) (by decide)).reg o ho, setMResult, mstatOff,
      regGet_regPut_off _ _ _ _ _ hne, setMState, mstatOff, regGet_regPut_off _ _ _ _ _ hne, hoff o kRIF ho h8]

/-! ### The blocks' answers (R125, R126) -/

theorem exec_readinessAnswer (sl : SliceId) (blk : Block) (s : State) : exec (.readinessAnswer sl blk) s = execReadinessAnswer sl blk s := rfl

theorem tellTwin_alone {x : Slice} {b : MusBuf} (h : opTwin b = false) (ok : Bool) : tellTwin x b ok = x := by
  rw [tellTwin, h]
  rfl

/-- A buffer with one more answer. -/
def answered (b : MusBuf) (blk : Nat) (ok : Bool) : MusBuf := { b with answers := b.answers ++ [(blk, ok)] }

/-- A buffer's change outside its registers' state and result. -/
structure BufChanged (x y : Slice) (k : Nat) (b : MusBuf) : Prop where
  shape : ∃ r, y = { x with bufs := x.bufs.setIfInBounds k b, regs := r }
  state : musState y k = musState x k
  but : RegsBut x y [(kRIF, 0x110 + 4 * k)]

theorem bufChanged_setBuf (x : Slice) {k : Nat} (hk : k < 2) (b : MusBuf) : BufChanged x (setBuf x k b) k b :=
  ⟨setBuf_frame x k b, musState_setBuf x k b, regsBut_setBuf (RegsBut.refl _ _) hk (by simp) b⟩

theorem BufChanged.musBuf_self {x y : Slice} {k : Nat} {b : MusBuf} (h : BufChanged x y k b) (hk : k < 2) : musBuf y k = b := by
  obtain ⟨r, e⟩ := h.shape
  rw [e, musBuf, Vector.getElem?_setIfInBounds, if_pos rfl, if_pos hk, Option.getD_some]

theorem BufChanged.trans {x y z : Slice} {k : Nat} {b c : MusBuf} (h : BufChanged x y k b) (g : BufChanged y z k c) :
    BufChanged x z k c := by
  refine ⟨?_, g.state.trans h.state, h.but.trans g.but⟩
  obtain ⟨r, e⟩ := h.shape
  obtain ⟨r', e'⟩ := g.shape
  exact ⟨r', by rw [e', e]; simp⟩

section
variable {x : Slice} {k blk : Nat} (hk : k < 2) (hm : blk ∈ touchedBlocks (musBuf x k).items)
  (ha : (musBuf x k).answers.any (·.1 = blk) = false) (ht : opTwin (musBuf x k) = false)
include hm ha ht

/-- A block that is not ready aborts the muslin. -/
theorem pollAnswer_not_ready (hr : blockReady x (musBuf x k) blk = false) :
    pollAnswer x k blk = abortMuslin (setBuf x k (answered (musBuf x k) blk false)) k mrNotReady := by
  have hne : ¬(blk ∉ touchedBlocks (musBuf x k).items ∨ (musBuf x k).answers.any (·.1 = blk) = true) := by
    rw [not_or, not_not, ha]
    exact ⟨hm, Bool.false_ne_true⟩
  have htell : tellTwin (setBuf x k (answered (musBuf x k) blk false)) (answered (musBuf x k) blk false) false
      = setBuf x k (answered (musBuf x k) blk false) := tellTwin_alone (b := answered (musBuf x k) blk false) ht false
  unfold answered at htell ⊢
  rw [pollAnswer]
  simp only [if_neg hne, hr, Bool.not_false, if_true, htell]

include hk in
/-- The answer of a block that is ready is kept. -/
theorem pollAnswer_ready (hr : blockReady x (musBuf x k) blk = true) (hp : (musBuf x k).passed = false) :
    ∃ b, BufChanged x (pollAnswer x k blk) k b ∧ b.answers = (musBuf x k).answers ++ [(blk, true)] := by
  have hne : ¬(blk ∉ touchedBlocks (musBuf x k).items ∨ (musBuf x k).answers.any (·.1 = blk) = true) := by
    rw [not_or, not_not, ha]
    exact ⟨hm, Bool.false_ne_true⟩
  have htell : tellTwin (setBuf x k (answered (musBuf x k) blk true)) (answered (musBuf x k) blk true) true
      = setBuf x k (answered (musBuf x k) blk true) := tellTwin_alone (b := answered (musBuf x k) blk true) ht true
  have h1 := bufChanged_setBuf x hk (answered (musBuf x k) blk true)
  have h2 := h1.trans (bufChanged_setBuf (setBuf x k (answered (musBuf x k) blk true)) hk
    { answered (musBuf x k) blk true with sentReady := true })
  unfold answered at htell h1 h2
  rw [hp] at htell h1 h2
  rw [pollAnswer]
  simp only [if_neg hne, hr, Bool.not_true, Bool.false_eq_true, if_false, hp, htell]
  split
  · exact ⟨_, h1, rfl⟩
  · exact ⟨_, h2, rfl⟩

end

section
variable {s : State} {sl : SliceId} (hon : (s.slice sl).on = true) {k : Nat} (h : bufIn (s.slice sl) 5 = some k) {blk : Block}
include hon h

theorem runsPair_readinessAnswer {P : Slice → Prop} (hp : P (pollAnswer (s.slice sl) k blk.val)) :
    RunsPair (.readinessAnswer sl blk) s sl fun y _ => P y := by
  have h' : bufIn (s.slice sl) msPolling = some k := h
  refine runsPair_onLink (exec_readinessAnswer ..) hon ?_
  rw [h']
  exact hp

variable (hm : blk.val ∈ touchedBlocks (musBuf (s.slice sl) k).items)
  (ha : (musBuf (s.slice sl) k).answers.any (·.1 = blk.val) = false) (ht : opTwin (musBuf (s.slice sl) k) = false)
include hm ha ht

theorem runsPair_readinessAnswer_not_ready (hr : blockReady (s.slice sl) (musBuf (s.slice sl) k) blk.val = false) :
    RunsPair (.readinessAnswer sl blk) s sl fun y _ => musState y k = 7 ∧ regFld y kRIF (0x110 + 4 * k) 27 24 = 3
      ∧ y.tabs = (s.slice sl).tabs ∧ y.image = (s.slice sl).image ∧ y.unacked = (s.slice sl).unacked := by
  obtain ⟨hk, -⟩ := bufIn_some h
  refine runsPair_readinessAnswer hon h ?_
  rw [pollAnswer_not_ready hm ha ht hr]
  obtain ⟨⟨q, e⟩, hst, hres, -⟩ := abortMuslin_aborts (setBuf (s.slice sl) k (answered (musBuf (s.slice sl) k) blk.val false)) hk
    (r := mrNotReady) (by decide)
  obtain ⟨r, e'⟩ := setBuf_frame (s.slice sl) k (answered (musBuf (s.slice sl) k) blk.val false)
  refine ⟨hst, hres, ?_, ?_, ?_⟩
  all_goals rw [e, e']; rfl

theorem runsPair_readinessAnswer_ready (hr : blockReady (s.slice sl) (musBuf (s.slice sl) k) blk.val = true)
    (hp : (musBuf (s.slice sl) k).passed = false) :
    RunsPair (.readinessAnswer sl blk) s sl fun y _ =>
      (musBuf y k).answers = (musBuf (s.slice sl) k).answers ++ [(blk.val, true)] ∧ musState y k = 5 ∧ y.tabs = (s.slice sl).tabs
      ∧ y.unacked = (s.slice sl).unacked ∧ RegsBut (s.slice sl) y [(kRIF, 0x110 + 4 * k)] := by
  obtain ⟨hk, hst⟩ := bufIn_some h
  refine runsPair_readinessAnswer hon h ?_
  obtain ⟨b, hb, hans⟩ := pollAnswer_ready hk hm ha ht hr hp
  obtain ⟨r, e⟩ := hb.shape
  refine ⟨by rw [hb.musBuf_self hk, hans], hb.state.trans hst, ?_, ?_, hb.but⟩
  all_goals rw [e]

end

/-! ### The twin's answers (R133, R134) -/

theorem exec_twinReady (sl : SliceId) (s : State) : exec (.twinReady sl) s = execTwinReady sl s := rfl

theorem exec_twinReadyAck (sl : SliceId) (s : State) : exec (.twinReadyAck sl) s = execTwinReadyAck sl s := rfl

/-- The twin's READY leaves the inbox, and is acknowledged. -/
def readyAcked (x : Slice) (ms : List TwinMsg) : Slice :=
  { x with inbox := ms, unacked := x.unacked ++ [⟨x.nextXfer, 0, .readyAck⟩], nextXfer := x.nextXfer + 1 }

section
variable {s : State} {sl : SliceId} (hon : (s.slice sl).on = true) {ok : Bool} {tag : Word} {ms : List TwinMsg}
  (hm : takeMsg asReady (s.slice sl).inbox = some ((ok, tag), ms)) (hl : linkIsUp (s.slice sl) = true)
  (hf : fenced (s.slice sl) kTWN = false)
include hon hm hl hf

theorem runsPair_twinReady {P : Slice → List TwinMsg → Prop}
    (hp : P (match (bufIn (s.slice sl) msArmed).orElse fun _ => bufIn (s.slice sl) msPolling with
        | none => readyAcked (s.slice sl) ms
        | some n => if opTwin (musBuf (s.slice sl) n) && readyInTime (s.slice sl) n then
            setBuf (readyAcked (s.slice sl) ms) n { musBuf (s.slice sl) n with twinReady := some (ok, tag) }
          else readyAcked (s.slice sl) ms)
      (sentSince (s.slice sl) (match (bufIn (s.slice sl) msArmed).orElse fun _ => bufIn (s.slice sl) msPolling with
        | none => readyAcked (s.slice sl) ms
        | some n => if opTwin (musBuf (s.slice sl) n) && readyInTime (s.slice sl) n then
            setBuf (readyAcked (s.slice sl) ms) n { musBuf (s.slice sl) n with twinReady := some (ok, tag) }
          else readyAcked (s.slice sl) ms))) :
    RunsPair (.twinReady sl) s sl P := by
  have hs : sendTwin { s.slice sl with inbox := ms } .readyAck = readyAcked (s.slice sl) ms :=
    sendTwin_of_not_fenced (x := { s.slice sl with inbox := ms }) hf _
  refine runsPair_onLink (exec_twinReady ..) hon ?_
  rw [hm]
  simp only [if_pos hl, hs]
  exact hp

theorem runsPair_twinReady_kept {k : Nat} (hb : bufIn (s.slice sl) 4 = some k) (ht : opTwin (musBuf (s.slice sl) k) = true)
    (hr : readyInTime (s.slice sl) k = true) :
    RunsPair (.twinReady sl) s sl fun y out => (musBuf y k).twinReady = some (ok, tag) ∧ y.inbox = ms
      ∧ y.unacked = (s.slice sl).unacked ++ [⟨(s.slice sl).nextXfer, 0, .readyAck⟩] ∧ out = sentSince (s.slice sl) y
      ∧ RegsBut (s.slice sl) y [(kRIF, 0x110 + 4 * k)] := by
  obtain ⟨hk, -⟩ := bufIn_some hb
  have hb' : bufIn (s.slice sl) msArmed = some k := hb
  refine runsPair_twinReady hon hm hl hf ?_
  simp only [hb', Option.orElse_some, ht, hr, Bool.and_self, if_true]
  obtain ⟨r, e⟩ := setBuf_frame (readyAcked (s.slice sl) ms) k { musBuf (s.slice sl) k with twinReady := some (ok, tag) }
  refine ⟨by rw [musBuf_setBuf_self _ _ hk], by rw [e]; rfl, by rw [e]; rfl, trivial, ?_⟩
  exact regsBut_setBuf (regsBut_of_eq (RegsBut.refl _ _) rfl rfl) hk (by simp) _

theorem runsPair_twinReady_acked (h4 : bufIn (s.slice sl) 4 = none) (h5 : bufIn (s.slice sl) 5 = none) :
    RunsPair (.twinReady sl) s sl fun y out =>
      y = { s.slice sl with inbox := ms, unacked := (s.slice sl).unacked ++ [⟨(s.slice sl).nextXfer, 0, .readyAck⟩],
                            nextXfer := (s.slice sl).nextXfer + 1 }
      ∧ TwinMsg.readyAck ∈ out := by
  have h4' : bufIn (s.slice sl) msArmed = none := h4
  have h5' : bufIn (s.slice sl) msPolling = none := h5
  refine runsPair_twinReady hon hm hl hf ?_
  simp only [h4', h5', Option.orElse_none]
  refine ⟨rfl, ?_⟩
  rw [sentSince, readyAcked, List.filter_append, List.map_append]
  simp

end

section
variable {s : State} {sl : SliceId} (hon : (s.slice sl).on = true) {ms : List TwinMsg} {k : Nat}
  (hm : takeMsg asReadyAck (s.slice sl).inbox = some ((), ms)) (hb : bufIn (s.slice sl) 5 = some k)
  (hs : (musBuf (s.slice sl) k).sentReady = true)
include hon hm hb hs

theorem runsOn_twinReadyAck_of {P : Slice → Prop}
    (hp : P (setBuf { s.slice sl with inbox := ms } k { musBuf (s.slice sl) k with twinAck := true })) :
    RunsOn (.twinReadyAck sl) s sl P := by
  have hb' : bufIn { s.slice sl with inbox := ms } msPolling = some k := hb
  have hs' : (musBuf { s.slice sl with inbox := ms } k).sentReady = true := hs
  refine runsOn_onStarted (exec_twinReadyAck ..) hon ?_
  rw [hm]
  simp only [hb']
  rw [if_pos hs']
  exact hp

theorem runsOn_twinReadyAck :
    RunsOn (.twinReadyAck sl) s sl fun y => (musBuf y k).twinAck = true ∧ y.inbox = ms
      ∧ (musBuf y k).items = (musBuf (s.slice sl) k).items ∧ RegsBut (s.slice sl) y [(kRIF, 0x110 + 4 * k)] := by
  obtain ⟨hk, -⟩ := bufIn_some hb
  refine runsOn_twinReadyAck_of hon hm hb hs ?_
  obtain ⟨r, e⟩ := setBuf_frame { s.slice sl with inbox := ms } k { musBuf (s.slice sl) k with twinAck := true }
  refine ⟨by rw [musBuf_setBuf_self _ _ hk], by rw [e], by rw [musBuf_setBuf_self _ _ hk], ?_⟩
  exact regsBut_setBuf (regsBut_of_eq (RegsBut.refl _ _) rfl rfl) hk (by simp) _

end

end Sys2Proof.Machine
end

section
/-! Proofs. The commit of a muslin of one register, and the drain of the old epoch (R127 to R129, R133). -/

namespace Sys2Proof.Machine

/-! ### Registers of RIF that no muslin writes -/

theorem rw_mstat : ∀ k < 2, ((rowAt kRIF (0x110 + 4 * k)).map (·.rw)).getD 0 = 0 := by decide +kernel

theorem rw_repoch : ((rowAt kRIF 0x130).map (·.rw)).getD 0 = 0 := by decide +kernel

section
variable {blk off : Nat} {r : RegRow} (hrow : rowAt blk off = some r) (hw : r.rw ≠ 0)
include hrow hw

theorem ne_of_rw {b o : Nat} (h : ((rowAt b o).map (·.rw)).getD 0 = 0) : (blk, off) ≠ (b, o) := fun e => by
  obtain ⟨rfl, rfl⟩ := Prod.mk.inj e
  rw [hrow] at h
  exact hw h

theorem off_ge_of_rw : 0x18 ≤ off := Nat.le_of_not_lt fun ho => hw (rowAt_common hrow ho).1

end

/-! ### The registers a muslin names (R127) -/

/-- Which registers of SWC have a write of their own. -/
theorem ownWrite_swc_isNone (x : Slice) (off : Nat) (v : Word) : (ownWrite x kSWC off v).isNone
    = if ringReg off = none then (if off = 0x48C then false else if off = 0x49C then false else true) else false := by
  have hl : ¬kSWC = kLNE := by decide
  have hs : ¬kSWC = kSRG := by decide
  have hc : ¬kSWC = kCAM := by decide
  have hf : ¬kSWC = kFWD := by decide
  have hw : ¬kSWC = kFLW := by decide
  simp only [ownWrite, if_neg hl, if_neg hs, if_neg hc, if_neg hf, if_neg hw, if_true]
  split
  · next h => rw [h]; rfl
  · next h => rw [h]; rfl
  · next h =>
    rw [h, if_pos rfl]
    simp only [apply_ite Option.isNone, Option.isNone_some, Option.isNone_none]

/-- Whether a write does something of its own depends on the register alone. -/
theorem ownWrite_isNone (x y : Slice) (blk off : Nat) (v : Word) : (ownWrite x blk off v).isNone = (ownWrite y blk off v).isNone := by
  by_cases hb : blk = kSWC
  · rw [hb, ownWrite_swc_isNone, ownWrite_swc_isNone]
  · simp only [ownWrite, if_neg hb, apply_ite Option.isNone, Option.isNone_some, Option.isNone_none]

section
variable {x : Slice} {it : Item} {blk off : Nat} (ht : itemTouch it = .reg blk off)
include ht

theorem touchedRegs_one : touchedRegs [it] = [(blk, off)] := by
  simp only [touchedRegs, List.foldl_cons, List.foldl_nil, ht, List.not_mem_nil, if_false, List.nil_append]

theorem finalReg_one : finalReg x [it] blk off = itemNew it (itemBits blk off) (regGet x blk off) := by
  simp [finalReg, ht]

theorem finalReg_other {b o : Nat} (h : b ≠ blk) : finalReg x [it] b o = regGet x b o := by
  simp [finalReg, ht, h.symm]

theorem changedPorts_one (h : blk ≠ kLNE) : changedPorts x [it] = [] := by
  unfold changedPorts
  refine List.filter_eq_nil_iff.2 fun p _ => ?_
  simp only [finalReg_other ht h.symm, ne_eq]
  simp [lnePort]

theorem keepOld_one : keepOld x [it] = { x with regsOld := sIns [] (regKey blk off) (regGet x blk off), tabsOld := [] } := by
  simp only [keepOld, List.foldl_cons, List.foldl_nil, ht]

theorem commitRegs_one {r : RegRow} (hrow : rowAt blk off = some r) (hw : r.rw ≠ 0) (ho : ∀ v, ownWrite x blk off v = none) :
    commitRegs x [it] = putRw x blk off (itemNew it (itemBits blk off) (regGet x blk off)) := by
  have hrw : ¬((rowAt blk off).map (·.rw)).getD 0 = 0 := by
    rw [hrow]
    exact hw
  simp only [commitRegs, touchedRegs_one ht, List.map_cons, List.map_nil, finalReg_one ht, List.filter_cons, ho, Option.isNone_none,
    if_true, List.filter_nil, List.foldl_cons, List.foldl_nil, Bool.not_true, Bool.false_eq_true, if_false, if_neg hrw]

theorem commitTabs_one (hk : itemKind it = 1) : commitTabs x [it] = x := by
  simp [commitTabs, ht, hk]

end

theorem touchedBlocks_one {it : Item} : touchedBlocks [it] = [itemBlock it] := rfl

/-- What a commit of one register leaves, before the epoch advances. -/
def oneCommitted (x : Slice) (it : Item) (blk off : Nat) : Slice :=
  putRw { x with regsOld := sIns [] (regKey blk off) (regGet x blk off), tabsOld := [] } blk off
    (itemNew it (itemBits blk off) (regGet x blk off))

theorem oneCommitted_frame (x : Slice) (it : Item) (blk off : Nat) : ∃ q, oneCommitted x it blk off
    = { x with regsOld := sIns [] (regKey blk off) (regGet x blk off), tabsOld := [], regs := q,
               image := sPut (resetOf x.id.val blk off) x.image (regKey blk off) (itemNew it (itemBits blk off) (regGet x blk off)) } := by
  obtain ⟨q, e⟩ := regsOnly_regSet { x with regsOld := sIns [] (regKey blk off) (regGet x blk off), tabsOld := [] } blk off
    (itemNew it (itemBits blk off) (regGet x blk off))
  exact ⟨q, by rw [oneCommitted, putRw, e]; rfl⟩

theorem oneCommitted_regs (x : Slice) (it : Item) {blk off : Nat} (ho : off < 0x100000) :
    RegsBut x (oneCommitted x it blk off) [(blk, off)]
      ∧ regGet (oneCommitted x it blk off) blk off = itemNew it (itemBits blk off) (regGet x blk off) := by
  have hx : RegsBut x { x with regsOld := sIns [] (regKey blk off) (regGet x blk off), tabsOld := [] } [(blk, off)] :=
    regsBut_of_eq (RegsBut.refl x _) rfl rfl
  have hset := regsBut_regSet hx blk off (itemNew it (itemBits blk off) (regGet x blk off)) ho (by simp)
  have hget := regGet_regSet_self { x with regsOld := sIns [] (regKey blk off) (regGet x blk off), tabsOld := [] } blk off
    (itemNew it (itemBits blk off) (regGet x blk off))
  obtain ⟨q, e⟩ := regsOnly_regSet { x with regsOld := sIns [] (regKey blk off) (regGet x blk off), tabsOld := [] } blk off
    (itemNew it (itemBits blk off) (regGet x blk off))
  rw [oneCommitted, putRw]
  rw [e] at hset hget ⊢
  exact ⟨hset, hget⟩

/-! ### The epoch (R127, R128) -/

theorem regsOnly_nextEpoch (x : Slice) : RegsOnly x (nextEpoch x) :=
  ((regsOnly_regPut ..).trans (regsOnly_regPut ..)).trans (regsOnly_regPut ..)

theorem nextEpoch_shows (x : Slice) : regFld (nextEpoch x) kRIF 0x130 31 28 = (regFld x kRIF 0x130 31 28 + 1) % 16
    ∧ regFld (nextEpoch x) kRIF 0x130 27 24 = regFld x kRIF 0x130 31 28 ∧ regBit (nextEpoch x) kRIF 0x130 23 = true
    ∧ RegsBut x (nextEpoch x) [(kRIF, 0x130)] := by
  have hlt : regFld x kRIF 0x130 31 28 < 16 := regFld_lt ..
  refine ⟨?_, ?_, regBit_setRegBit _ _ _ _ (by norm_num), regsBut_regPut (regsBut_regPut (regsBut_regPut (RegsBut.refl _ _) _ _ _ _ _
    (by norm_num) (by simp)) _ _ _ _ _ (by norm_num) (by simp)) _ _ _ _ _ (by norm_num) (by simp)⟩
  · rw [nextEpoch, regFld_regPut_other _ _ _ _ _ _ _ _ (by norm_num) (by norm_num) (by norm_num),
      regFld_regPut_self _ _ _ _ _ _ (by norm_num) (by norm_num)]
    norm_num
  · rw [nextEpoch, regFld_regPut_other _ _ _ _ _ _ _ _ (by norm_num) (by norm_num) (by norm_num),
      regFld_regPut_other _ _ _ _ _ _ _ _ (by norm_num) (by norm_num) (by norm_num),
      regFld_regPut_self _ _ _ _ _ _ (by norm_num) (by norm_num)]
    exact Nat.mod_eq_of_lt hlt

/-- The end of a commit: the blocks' marks, the epoch, the buffer's state and the cause. -/
def commitEnded (x : Slice) (blk k : Nat) : Slice :=
  raise (setMEpoch (setMState (nextEpoch (clrRegBit x blk 8 5)) k msCommitted) k
    (regFld (setMState (nextEpoch (clrRegBit x blk 8 5)) k msCommitted) kRIF 0x130 31 28)) kRIF 1

theorem regsOnly_commitEnded (x : Slice) (blk k : Nat) : RegsOnly x (commitEnded x blk k) :=
  (((regsOnly_clrRegBit ..).trans (regsOnly_nextEpoch _)).trans ((regsOnly_setMState ..).trans (regsOnly_setMEpoch ..))).trans
    (regsOnly_raise ..)

section
variable (x : Slice) (blk : Nat) {k : Nat} (hk : k < 2)
include hk

theorem regsBut_committing : RegsBut x (setMState (nextEpoch (clrRegBit x blk 8 5)) k msCommitted)
    [(blk, 8), (kRIF, 0x110 + 4 * k), (kRIF, 0x130)] :=
  regsBut_setMState ((regsBut_regPut (RegsBut.refl x _) blk 8 5 5 0 (by norm_num) (by simp)).trans
    ((nextEpoch_shows _).2.2.2.mono (by simp))) hk (by simp) _

theorem commitEnded_shows : musState (commitEnded x blk k) k = 6
    ∧ regFld (commitEnded x blk k) kRIF 0x130 31 28 = (regFld x kRIF 0x130 31 28 + 1) % 16
    ∧ regFld (commitEnded x blk k) kRIF 0x130 27 24 = regFld x kRIF 0x130 31 28 ∧ regBit (commitEnded x blk k) kRIF 0x130 23 = true
    ∧ RegsBut x (commitEnded x blk k) ([(blk, 8), (kRIF, 0x110 + 4 * k), (kRIF, 0x130)] ++ raiseKeys kRIF 1) := by
  have hclr : RegsBut x (clrRegBit x blk 8 5) [(blk, 8)] := regsBut_regPut (RegsBut.refl x _) blk 8 5 5 0 (by norm_num) (by simp)
  obtain ⟨hcur, hold, hdrain, -⟩ := nextEpoch_shows (clrRegBit x blk 8 5)
  have h130 : regGet (commitEnded x blk k) kRIF 0x130 = regGet (nextEpoch (clrRegBit x blk 8 5)) kRIF 0x130 := by
    rw [commitEnded, (keepsBlock_raise (b := kRIF) _ (by decide) (by decide)).reg 0x130 (by norm_num), setMEpoch, mstatOff,
      regGet_regPut_off _ _ _ _ _ (by omega), setMState, mstatOff, regGet_regPut_off _ _ _ _ _ (by omega)]
  have hold' : regFld (clrRegBit x blk 8 5) kRIF 0x130 31 28 = regFld x kRIF 0x130 31 28 := hclr.regFld_eq (by norm_num) (by simp) _ _
  refine ⟨?_, ?_, ?_, ?_, ?_⟩
  · rw [commitEnded, musState_raise _ hk _ _ (by norm_num), musState_setMEpoch, musState_setMState _ _ _ (by decide)]
    rfl
  · rw [regFld, h130, ← regFld, hcur, hold']
  · rw [regFld, h130, ← regFld, hold, hold']
  · rw [regBit, h130, ← regBit, hdrain]
  · refine regsBut_raise (regsBut_setMEpoch ((regsBut_committing x blk hk).mono (List.subset_append_left ..)) hk ?_ _) kRIF 1 (by norm_num)
      (List.subset_append_right ..)
    simp

end

theorem uncheckOther_none {x : Slice} {k : Nat} (h2 : musState x (1 - k) ≠ 2) (h3 : musState x (1 - k) ≠ 3) : uncheckOther x k = x :=
  if_neg (not_or.2 ⟨h3, h2⟩)

section
variable {x : Slice} {k blk off : Nat} {it : Item} {r : RegRow} (hk : k < 2) (hi : (musBuf x k).items = [it])
  (htw : opTwin (musBuf x k) = false) (ht : itemTouch it = .reg blk off) (hrow : rowAt blk off = some r) (hw : r.rw ≠ 0)
  (hl : blk ≠ kLNE) (hs : blk ≠ kSRG) (hb : itemBlock it = blk) (hkind : itemKind it = 1) (ho : ∀ v, ownWrite x blk off v = none)
  (h2 : musState x (1 - k) ≠ 2) (h3 : musState x (1 - k) ≠ 3)
include hk hi htw ht hrow hw hl hs hb hkind ho h2 h3

/-- The commit of a muslin of one register. -/
theorem applyMuslin_one : applyMuslin x k = commitEnded (oneCommitted x it blk off) blk k := by
  obtain ⟨q, e⟩ := oneCommitted_frame x it blk off
  have hown : ∀ v, ownWrite { x with regsOld := sIns [] (regKey blk off) (regGet x blk off), tabsOld := [] } blk off v = none := fun v => by
    rw [← Option.isNone_iff_eq_none, ownWrite_isNone _ x, ho v]
    rfl
  have hregs : commitRegs (keepOld x [it]) [it] = oneCommitted x it blk off := by
    rw [keepOld_one ht, commitRegs_one ht hrow hw hown]
    rfl
  have hafter : afterConfig (oneCommitted x it blk off) [blk] = oneCommitted x it blk off := by
    rw [afterConfig, if_neg]
    simp only [List.mem_singleton, not_or]
    exact ⟨hl.symm, hs.symm⟩
  have hclear : clearChanged (oneCommitted x it blk off) k = clrRegBit (oneCommitted x it blk off) blk 8 5 := by
    have hit : (musBuf (oneCommitted x it blk off) k).items = [it] := by
      rw [e]
      exact hi
    rw [clearChanged, hit, touchedBlocks_one, hb]
    rfl
  have hbut := ((oneCommitted_regs x it (blk := blk) (rowAt_off_lt hrow)).1.mono
    (ls := [(blk, off), (blk, 8), (kRIF, 0x110 + 4 * k), (kRIF, 0x130)]) (by simp)).trans
    ((regsBut_committing (oneCommitted x it blk off) blk hk).mono (List.subset_cons_self ..))
  have hother : musState (setMState (nextEpoch (clrRegBit (oneCommitted x it blk off) blk 8 5)) k msCommitted) (1 - k)
      = musState x (1 - k) := by
    refine hbut.musState_eq (by omega) ?_
    have hne := (ne_of_rw hrow hw (rw_mstat (1 - k) (by omega))).symm
    simp only [List.mem_cons, List.not_mem_nil, or_false, not_or]
    refine ⟨hne, ?_, ?_, ?_⟩
    all_goals
      rw [Prod.mk.injEq]
      omega
  have hun : uncheckOther (setMState (nextEpoch (clrRegBit (oneCommitted x it blk off) blk 8 5)) k msCommitted) k
      = setMState (nextEpoch (clrRegBit (oneCommitted x it blk off) blk 8 5)) k msCommitted :=
    uncheckOther_none (by rwa [hother]) (by rwa [hother])
  have htb : touchedBlocks [it] = [blk] := by rw [touchedBlocks_one, hb]
  simp only [applyMuslin, hi, changedPorts_one ht hl, List.foldl_nil, hregs, commitTabs_one ht hkind, htb, hafter, hclear, hun, htw,
    Bool.false_and, Bool.false_eq_true, if_false]
  rfl

end

/-! ### The commit's instant (R127, R133) -/

theorem exec_commitInstant (sl : SliceId) (s : State) : exec (.commitInstant sl) s = execCommitInstant sl s := rfl

theorem exec_oldEpochDrained (sl : SliceId) (s : State) : exec (.oldEpochDrained sl) s = execOldEpochDrained sl s := rfl

theorem instantWithin_now (x : Slice) (b : MusBuf) : instantWithin x b 0 = decide (timeDiff b.instant (baseNow x (opBase b)) ≤ 0) := by
  rw [instantWithin, Nat.zero_mul]
  rfl

section
variable {s : State} {sl : SliceId} (hon : (s.slice sl).on = true) {k : Nat} (h : bufIn (s.slice sl) 5 = some k)
include hon h

theorem runsPair_commitInstant_early
    (hd : ¬timeDiff (musBuf (s.slice sl) k).instant (baseNow (s.slice sl) (opBase (musBuf (s.slice sl) k))) ≤ 0) :
    RunsPair (.commitInstant sl) s sl fun y ms => y = s.slice sl ∧ ms = sentSince (s.slice sl) (s.slice sl) := by
  have h' : bufIn (s.slice sl) msPolling = some k := h
  refine runsPair_onLink (exec_commitInstant ..) hon ?_
  simp only [h', instantWithin_now, decide_eq_false hd, Bool.and_false, Bool.false_eq_true, if_false]
  exact ⟨trivial, trivial⟩

variable (hd : timeDiff (musBuf (s.slice sl) k).instant (baseNow (s.slice sl) (opBase (musBuf (s.slice sl) k))) ≤ 0)
  (ha : allAnswered (musBuf (s.slice sl) k) = true)
include hd ha

theorem runsPair_commitInstant {P : Slice → Prop} (hp : P (commitNow (s.slice sl) k)) :
    RunsPair (.commitInstant sl) s sl fun y _ => P y := by
  have h' : bufIn (s.slice sl) msPolling = some k := h
  refine runsPair_onLink (exec_commitInstant ..) hon ?_
  simp only [h', instantWithin_now, decide_eq_true hd, ha, Bool.and_self, if_true]
  exact hp

theorem runsPair_commitInstant_one {it : Item} {blk off : Nat} {r : RegRow} (hi : (musBuf (s.slice sl) k).items = [it])
    (htw : opTwin (musBuf (s.slice sl) k) = false) (ht : itemTouch it = .reg blk off) (hrow : rowAt blk off = some r) (hw : r.rw ≠ 0)
    (hl : blk ≠ kLNE) (hs : blk ≠ kSRG) (hb : itemBlock it = blk) (hkind : itemKind it = 1)
    (ho : ∀ v, ownWrite (s.slice sl) blk off v = none)
    (h2 : musState (s.slice sl) (1 - k) ≠ 2) (h3 : musState (s.slice sl) (1 - k) ≠ 3) :
    RunsPair (.commitInstant sl) s sl fun y _ =>
      regGet y blk off = itemNew it (itemBits blk off) (regGet (s.slice sl) blk off)
      ∧ sGet (resetOf (s.slice sl).id.val blk off) y.image (regKey blk off) = itemNew it (itemBits blk off) (regGet (s.slice sl) blk off)
      ∧ musState y k = 6 ∧ regFld y kRIF 0x130 31 28 = (regFld (s.slice sl) kRIF 0x130 31 28 + 1) % 16
      ∧ regFld y kRIF 0x130 27 24 = regFld (s.slice sl) kRIF 0x130 31 28 ∧ regBit y kRIF 0x130 23 = true
      ∧ regGetEp y true blk off = regGet (s.slice sl) blk off ∧ y.tabs = (s.slice sl).tabs
      ∧ RegsBut (s.slice sl) y ([(blk, off), (blk, 8), (kRIF, 0x110 + 4 * k), (kRIF, 0x130)] ++ raiseKeys kRIF 1) := by
  obtain ⟨hk, -⟩ := bufIn_some h
  refine runsPair_commitInstant hon h hd ha ?_
  have hnow : commitNow (s.slice sl) k = commitEnded (oneCommitted (s.slice sl) it blk off) blk k := by
    rw [commitNow, if_neg (by rw [htw]; exact fun h => Bool.false_ne_true h.1)]
    exact applyMuslin_one hk hi htw ht hrow hw hl hs hb hkind ho h2 h3
  rw [hnow]
  obtain ⟨hbut, hget⟩ := oneCommitted_regs (s.slice sl) it (blk := blk) (rowAt_off_lt hrow)
  obtain ⟨hst, hcur, hold, hdrain, hend⟩ := commitEnded_shows (oneCommitted (s.slice sl) it blk off) blk hk
  obtain ⟨q, e⟩ := regsOnly_commitEnded (oneCommitted (s.slice sl) it blk off) blk k
  obtain ⟨q', e'⟩ := oneCommitted_frame (s.slice sl) it blk off
  have hepoch : regFld (oneCommitted (s.slice sl) it blk off) kRIF 0x130 31 28 = regFld (s.slice sl) kRIF 0x130 31 28 :=
    hbut.regFld_eq (by norm_num) (List.mem_singleton.not.2 (ne_of_rw hrow hw rw_repoch).symm) _ _
  have hicn : blk ≠ kICN := (block_of_rw hrow hw).1
  have hoff := off_ge_of_rw hrow hw
  have hval : (blk, off) ∉ [(blk, 8), (kRIF, 0x110 + 4 * k), (kRIF, 0x130)] ++ raiseKeys kRIF 1 := by
    simp only [List.mem_append, List.mem_cons, List.not_mem_nil, or_false, not_or]
    refine ⟨⟨?_, ne_of_rw hrow hw (rw_mstat k hk), ne_of_rw hrow hw rw_repoch⟩, raiseKeys_rif hicn⟩
    rw [Prod.mk.injEq]
    omega
  rw [hepoch] at hcur hold
  refine ⟨(hend blk off (rowAt_off_lt hrow) hval).trans hget, ?_, hst, hcur, hold, hdrain, ?_, ?_, ?_⟩
  · rw [e, e']
    exact sGet_sPut_self ..
  · rw [e, e', regGetEp]
    simp
  · rw [e, e']
    rfl
  · exact (hbut.mono (by simp)).trans (hend.mono (List.subset_cons_self ..))

theorem runsPair_commitInstant_unanswered (htw : opTwin (musBuf (s.slice sl) k) = true)
    (hr : (musBuf (s.slice sl) k).twinReady ≠ some (true, (musBuf (s.slice sl) k).tag)) :
    RunsPair (.commitInstant sl) s sl fun y _ => musState y k = 7 ∧ regFld y kRIF (0x110 + 4 * k) 27 24 = 9
      ∧ y.tabs = (s.slice sl).tabs ∧ y.image = (s.slice sl).image ∧ regGet y kRIF 0x130 = regGet (s.slice sl) kRIF 0x130 := by
  obtain ⟨hk, -⟩ := bufIn_some h
  refine runsPair_commitInstant hon h hd ha ?_
  have hnow : commitNow (s.slice sl) k = abortMuslin (s.slice sl) k mrTwinNotReady := if_pos ⟨htw, hr⟩
  rw [hnow]
  obtain ⟨hro, hst, hres, hkeep⟩ := abortMuslin_aborts (s.slice sl) hk (r := mrTwinNotReady) (by decide)
  exact ⟨hst, hres, hro.tabs_eq, hro.image_eq, hkeep 0x130 (by norm_num) (by norm_num) (by omega)⟩

end

/-! ### The drain (R128) -/

theorem runsOn_oldEpochDrained {s : State} {sl : SliceId} (hon : (s.slice sl).on = true) (hd : regBit (s.slice sl) kRIF 0x130 23 = true)
    (hc : oldCount (s.slice sl) = 0) :
    RunsOn (.oldEpochDrained sl) s sl fun y =>
      y = { s.slice sl with regs := y.regs, regsOld := [], tabsOld := [] } ∧ regBit y kRIF 0x130 23 = false
      ∧ regFld y kRIF 0x130 31 28 = regFld (s.slice sl) kRIF 0x130 31 28 ∧ RegsBut (s.slice sl) y ((kRIF, 0x130) :: raiseKeys kRIF 3) := by
  refine runsOn_onStarted (exec_oldEpochDrained ..) hon ?_
  rw [hd, decide_eq_true hc, Bool.and_self, if_pos rfl]
  have hbut : RegsBut (s.slice sl) (regPut (s.slice sl) kRIF 0x130 23 23 0) ((kRIF, 0x130) :: raiseKeys kRIF 3) :=
    regsBut_regPut (RegsBut.refl _ _) _ _ _ _ _ (by norm_num) (by simp)
  have hbit := regBit_clrRegBit (s.slice sl) kRIF 0x130 23 (by norm_num)
  have hcur := regFld_regPut_other (s.slice sl) kRIF 0x130 23 23 31 28 0 (by norm_num) (by norm_num) (by norm_num)
  obtain ⟨q, e⟩ := regsOnly_regPut (s.slice sl) kRIF 0x130 23 23 0
  rw [clrRegBit, e] at hbit
  rw [e] at hbut hcur ⊢
  have hraise := keepsBlock_raise (b := kRIF) (k := kRIF) (c := 3) { (s.slice sl).setRegs q with regsOld := [], tabsOld := [] } (by decide)
    (by decide)
  have hbut' := regsBut_raise (x := s.slice sl) (y := { (s.slice sl).setRegs q with regsOld := [], tabsOld := [] })
    (regsBut_of_eq hbut rfl rfl) kRIF 3 (by norm_num) (List.subset_cons_self ..)
  refine ⟨?_, (hraise.regBit (by norm_num) _).trans hbit, (hraise.regFld (by norm_num) _ _).trans hcur, hbut'⟩
  obtain ⟨q', e'⟩ := regsOnly_raise { (s.slice sl).setRegs q with regsOld := [], tabsOld := [] } kRIF 3
  rw [e']
  rfl

/-! ### The obligation -/

/-- Settles O29: the answers of the blocks and of the twin, then the commit and the drain. -/
theorem muslinReadinessAndCommit : Obligations.MuslinReadinessAndCommit := by
  unfold Obligations.MuslinReadinessAndCommit
  refine ⟨fun s sl k blk ok tag ms hon => ?_, fun s sl k blk off it r hon => ?_⟩
  · intro x
    refine ⟨fun h hm ha ht => ⟨runsPair_readinessAnswer_not_ready hon h hm ha ht, runsPair_readinessAnswer_ready hon h hm ha ht⟩,
      fun hm hl hf => ⟨fun hb ht hr => ?_, runsPair_twinReady_acked hon hm hl hf⟩, runsOn_twinReadyAck hon⟩
    exact runsPair_twinReady_kept hon hm hl hf hb ht hr
  · intro x due
    refine ⟨fun h hd => runsPair_commitInstant_early hon h hd, fun h hd hi ha htw ht hrow hw hl hs hb hkind ho h2 h3 => ?_,
      fun h hd ha htw hr => runsPair_commitInstant_unanswered hon h hd ha htw hr, runsOn_oldEpochDrained hon⟩
    exact runsPair_commitInstant_one hon h hd ha hi htw ht hrow hw hl hs hb hkind ho h2 h3

end Sys2Proof.Machine
end

section
/-! Proofs. Time bases and their trackers: the arithmetic of times, and what the operations of TIM change (R367 to R374). -/

namespace Sys2Proof.Machine

/-! ### Times that wrap -/

theorem timeMod_pos : 0 < timeMod := by unfold timeMod secUnits nsUnits; norm_num

/-- A time and its distance to another give the other. -/
theorem add_timeDiff (a b : Nat) : ((b : Int) + timeDiff a b) % (timeMod : Int) = a % (timeMod : Int) := by
  have hm : (0 : Int) < timeMod := by exact_mod_cast timeMod_pos
  have hle : b % timeMod ≤ a % timeMod + timeMod := (Nat.mod_lt b timeMod_pos).le.trans (Nat.le_add_left ..)
  have hd : (((a % timeMod + timeMod - b % timeMod) % timeMod : Nat) : Int) ≡ a - b [ZMOD timeMod] := by
    rw [Int.natCast_mod, Nat.cast_sub hle, Nat.cast_add, Int.natCast_mod, Int.natCast_mod]
    calc ((a : Int) % timeMod + timeMod - b % timeMod) % timeMod
        ≡ (a : Int) % timeMod + timeMod - b % timeMod [ZMOD timeMod] := Int.mod_modEq ..
      _ ≡ (a : Int) + 0 - b [ZMOD timeMod] :=
          ((Int.mod_modEq ..).add (by simp [Int.ModEq])).sub (Int.mod_modEq ..)
      _ = a - b := by ring
  have ht : timeDiff a b ≡ a - b [ZMOD timeMod] := by
    rw [timeDiff]
    split
    · exact hd
    · exact (hd.sub (show (timeMod : Int) ≡ 0 [ZMOD timeMod] by simp [Int.ModEq])).trans (by rw [sub_zero])
  exact ((ht.add_left _).trans (by rw [add_sub_cancel]))

theorem addTime_mod (a : Nat) (d : Int) : addTime a d % timeMod = addTime a d := by
  have hm : (0 : Int) < timeMod := by exact_mod_cast timeMod_pos
  refine Nat.mod_eq_of_lt ?_
  rw [addTime]
  have := Int.emod_lt_of_pos ((a : Int) + d) hm
  omega

theorem baseNow_eq (x : Slice) (b : Nat) :
    baseNow x b = ((((baseOf x b).trk (aselOf x b)).time + (baseOf x b).res) % (timeMod : Int)).toNat := rfl

theorem baseNow_mod (x : Slice) (b : Nat) : baseNow x b % timeMod = baseNow x b := by
  have hm : (0 : Int) < timeMod := by exact_mod_cast timeMod_pos
  refine Nat.mod_eq_of_lt ?_
  rw [baseNow_eq]
  have := Int.emod_lt_of_pos (((baseOf x b).trk (aselOf x b)).time + (baseOf x b).res) hm
  omega

/-- A base whose residual is its distance from a time tells that time. -/
theorem toNat_add_timeDiff (x : Slice) (b t : Nat) : (((t : Int) + timeDiff (baseNow x b) t) % (timeMod : Int)).toNat = baseNow x b := by
  rw [add_timeDiff, ← Int.natCast_mod, Int.toNat_natCast, baseNow_mod]

/-! ### Parts of a base -/

section
variable (a : Base) {k m : Nat} (t : Trk)

theorem trk_setTrk_self : (a.setTrk k t).trk k = t := by
  unfold Base.setTrk Base.trk
  split <;> rfl

theorem trk_setTrk_ne (hk : k < 2) (hm : m < 2) (h : m ≠ k) : (a.setTrk k t).trk m = a.trk m := by
  obtain ⟨rfl, rfl⟩ | ⟨rfl, rfl⟩ : k = 0 ∧ m = 1 ∨ k = 1 ∧ m = 0 := by omega
  · rfl
  · rfl

theorem res_setTrk : (a.setTrk k t).res = a.res := by
  unfold Base.setTrk
  split <;> rfl

end

theorem trk_with_res (a : Base) (k : Nat) (r : Int) : ({ a with res := r } : Base).trk k = a.trk k := rfl

section
variable (x : Slice) {b : Nat} (v : Base)

theorem baseOf_setBase (hb : b < 4) : baseOf (setBase x b v) b = v := by
  rw [baseOf, setBase, Vector.getElem?_setIfInBounds, if_pos rfl, if_pos hb, Option.getD_some]

theorem setBase_others {j : Nat} (h : j ≠ b) : (setBase x b v).bases[j]? = x.bases[j]? := by
  rw [setBase, Vector.getElem?_setIfInBounds, if_neg h.symm]

theorem aselOf_setBase (c : Nat) : aselOf (setBase x b v) c = aselOf x c := rfl

end

theorem aselOf_lt (x : Slice) (b : Nat) : aselOf x b < 2 := regFld_lt x kTIM (timOff b) 31 31

theorem baseOf_congr {x y : Slice} (h : y.bases = x.bases) (b : Nat) : baseOf y b = baseOf x b := by rw [baseOf, h, baseOf]

/-! ### What operations of TIM change -/

/-- Beyond registers of `ks`, only bases and scenes' runs may differ. -/
structure TimesBut (x y : Slice) (ks : List (Nat × Nat)) : Prop where
  frame : y = { x with regs := y.regs, bases := y.bases, scenes := y.scenes }
  regs : RegsBut x y ks

section
variable {x y z : Slice} {ks : List (Nat × Nat)}

theorem TimesBut.refl (x : Slice) (ks : List (Nat × Nat)) : TimesBut x x ks := ⟨rfl, RegsBut.refl x ks⟩

theorem TimesBut.trans (h : TimesBut x y ks) (g : TimesBut y z ks) : TimesBut x z ks where
  frame := by
    rw [g.frame, h.frame]
  regs := h.regs.trans g.regs

theorem RegsOnly.timesBut (h : RegsOnly x y) (hb : RegsBut x y ks) : TimesBut x y ks where
  frame := by obtain ⟨r, rfl⟩ := h; rfl
  regs := hb

theorem timesBut_setBase (x : Slice) (b : Nat) (v : Base) (ks : List (Nat × Nat)) : TimesBut x (setBase x b v) ks :=
  ⟨rfl, regsBut_of_eq (RegsBut.refl x ks) rfl rfl⟩

/-- The frame of an operation that changes no scene. -/
theorem TimesBut.bases_frame (h : TimesBut x y ks) (hs : y.scenes = x.scenes) : y = { x with regs := y.regs, bases := y.bases } :=
  h.frame.trans (by rw [hs])

end

theorem RegsOnly.scenes_eq {x y : Slice} (h : RegsOnly x y) : y.scenes = x.scenes := by obtain ⟨r, rfl⟩ := h; rfl

/-! ### A tracker's time -/

/-- A base in which tracker `k` has time `u`, and which tells the time it told before. -/
structure Retimed (x y : Slice) (b k u : Nat) : Prop where
  others : ∀ j, j ≠ b → y.bases[j]? = x.bases[j]?
  time : (baseOf y b).trk k = { (baseOf x b).trk k with time := u }
  trks : ∀ m < 2, m ≠ k → (baseOf y b).trk m = (baseOf x b).trk m
  now : baseNow y b = baseNow x b

section
variable (x : Slice) {b k : Nat} (t : Nat)

theorem setTrkTime_eq : ∃ r, setTrkTime x b k t
    = setBase x b { (baseOf x b).setTrk k { (baseOf x b).trk k with time := t % timeMod } with res := r }
    ∧ r = if aselOf x b = k then timeDiff (baseNow x b) (t % timeMod) else (baseOf x b).res := by
  refine ⟨_, ?_, rfl⟩
  rw [setTrkTime]
  split
  · rfl
  · rw [← res_setTrk (baseOf x b) (k := k) { (baseOf x b).trk k with time := t % timeMod }]

theorem timesBut_setTrkTime (ks : List (Nat × Nat)) : TimesBut x (setTrkTime x b k t) ks ∧ (setTrkTime x b k t).scenes = x.scenes
    ∧ (setTrkTime x b k t).regs = x.regs := by
  obtain ⟨r, e, -⟩ := setTrkTime_eq x (b := b) (k := k) t
  rw [e]
  exact ⟨timesBut_setBase x b _ ks, rfl, rfl⟩

theorem retimed_setTrkTime (hb : b < 4) (hk : k < 2) : Retimed x (setTrkTime x b k t) b k (t % timeMod) := by
  obtain ⟨r, e, hr⟩ := setTrkTime_eq x (b := b) (k := k) t
  rw [e]
  refine ⟨fun j hj => setBase_others x _ hj, ?_, fun m hm hmk => ?_, ?_⟩
  · rw [baseOf_setBase x _ hb, trk_with_res, trk_setTrk_self]
  · rw [baseOf_setBase x _ hb, trk_with_res, trk_setTrk_ne _ _ hk hm hmk]
  · rw [baseNow_eq, baseOf_setBase x _ hb, aselOf_setBase, trk_with_res]
    by_cases ha : aselOf x b = k
    · rw [ha, trk_setTrk_self, hr, if_pos ha]
      exact toNat_add_timeDiff x b _
    · rw [trk_setTrk_ne _ _ hk (aselOf_lt x b) ha, hr, if_neg ha, ← baseNow_eq]

end

/-! ### A tracker's state -/

section
variable (x : Slice) {b k st : Nat}

theorem regsOnly_setTrkState : RegsOnly x (setTrkState x b k st) := by
  have hraise : ∀ (y : Slice) (p : Prop) [Decidable p] (c : Nat), RegsOnly x y → RegsOnly x (if p then raise y kTIM c else y) :=
    fun y p _ c h => by
      split
      · exact h.trans (regsOnly_raise ..)
      · exact h
  rw [setTrkState]
  split
  · exact RegsOnly.refl x
  · exact hraise _ _ _ (hraise _ _ _ (hraise _ _ _ (regsOnly_regPut ..)))

theorem trkState_raise_if (y : Slice) (p : Prop) [Decidable p] {c : Nat} (hb : b < 4) (hk : k < 2) (hc : c < 16) :
    trkState (if p then raise y kTIM c else y) b k = trkState y b k := by
  split
  · exact regFld_raise _ _ _ _ _ _ _ (by decide) (by unfold trkOff; omega) (by unfold kTIM; omega)
  · rfl

theorem trkState_setTrkState (hb : b < 4) (hk : k < 2) (hs : st < 8) : trkState (setTrkState x b k st) b k = st := by
  rw [setTrkState]
  split
  · next h => exact h
  · rw [trkState_raise_if _ _ hb hk (by norm_num), trkState_raise_if _ _ hb hk (by norm_num), trkState_raise_if _ _ hb hk (by norm_num)]
    exact (regFld_regPut_self _ _ _ _ _ _ (by norm_num) (by norm_num)).trans (Nat.mod_eq_of_lt hs)

theorem regsBut_setTrkState {ks : List (Nat × Nat)} (hb : b < 4) (hk : k < 2) (hm : (kTIM, trkOff b k + 4) ∈ ks)
    (h0 : raiseKeys kTIM 0 ⊆ ks) (h1 : st = tkHoldover → raiseKeys kTIM 1 ⊆ ks) (h4 : st = tkLoop → raiseKeys kTIM 4 ⊆ ks) :
    RegsBut x (setTrkState x b k st) ks := by
  have hraise : ∀ (y : Slice) (p : Prop) [Decidable p] (c : Nat), c < 16 → RegsBut x y ks → (p → raiseKeys kTIM c ⊆ ks) →
      RegsBut x (if p then raise y kTIM c else y) ks := fun y p _ c hc h hp => by
    split
    · next e => exact regsBut_raise h _ _ (by unfold kTIM; omega) (hp e)
    · exact h
  rw [setTrkState]
  split
  · exact RegsBut.refl x _
  · exact hraise _ _ _ (by norm_num) (hraise _ _ _ (by norm_num) (hraise _ _ _ (by norm_num)
      (regsBut_regPut (RegsBut.refl x _) _ _ _ _ _ (by unfold trkOff; omega) hm) fun _ => h0) h1) h4

end

/-! ### A tracker's rate -/

theorem signed_toSigned {i : Int} (h : -2 ^ 31 ≤ i) (h' : i < 2 ^ 31) : signed 32 (toSigned 32 i) = i := by
  rw [signed, toSigned]
  split <;> omega

theorem clampFadj_bounds (v : Int) : -1099511627 ≤ clampFadj v ∧ clampFadj v ≤ 1099511627 := by
  rw [clampFadj, fadjMax]
  omega

theorem fadjOf_setFadj (x : Slice) (b k : Nat) (v : Int) : fadjOf (setFadj x b k v) b k = clampFadj v := by
  have hc := clampFadj_bounds v
  have hw : (w32 (toSigned 32 (clampFadj v))).toNat = toSigned 32 (clampFadj v) := by
    rw [w32, BitVec.toNat_ofNat]
    refine Nat.mod_eq_of_lt ?_
    rw [toSigned]
    omega
  rw [fadjOf, setFadj, regGet_regSet_self, hw, signed_toSigned (by omega) (by omega)]

theorem natAbs_clampFadj (v : Int) : (clampFadj v).natAbs ≤ fadjMax.natAbs := by
  have hc := clampFadj_bounds v
  rw [show fadjMax.natAbs = 1099511627 from rfl]
  omega

end Sys2Proof.Machine
end

section
/-! Proofs. Commands that the time domain takes (R105, R368 to R373). -/

namespace Sys2Proof.Machine

/-! ### A posted write of TIM lands -/

theorem postedLand_tim (x : Slice) {off : Nat} {r : RegRow} (v : Word) (hrow : rowAt kTIM off = some r) :
    postedLand x kTIM off v = timLand x off r v := by
  simp only [postedLand, hrow, if_true]

section
variable {s : State} {sl : SliceId} {off : Nat} {v : Word} {r : RegRow} {z : Slice} {ks : List (Nat × Nat)} {P : Slice → Prop}
  (hon : (s.slice sl).on = true) (hrow : rowAt kTIM off = some r) (hb : pendBusy (s.slice sl) kTIM = true)
  (hp : (s.slice sl).posted.filter (·.1 = kTIM) = [(kTIM, off, v)])
  (hz : timLand { s.slice sl with posted := (s.slice sl).posted.filter (·.1 ≠ kTIM) } off r v = z)
include hon hrow hb hp hz

theorem runsPair_timLand (h : P (clrRegBit z kTIM 0x10 31)) :
    RunsPair (.slowWriteLand sl ⟨13, by decide⟩) s sl fun y _ => pendBusy y kTIM = false ∧ P y := by
  have hland : slowLand (s.slice sl) kTIM = clrRegBit z kTIM 0x10 31 := by
    rw [slowLand_one hp, postedLand_tim _ _ hrow, hz]
  refine runsPair_onLink (exec_slowWriteLand ..) hon ?_
  rw [if_pos hb]
  show pendBusy (slowLand (s.slice sl) kTIM) kTIM = false ∧ P (slowLand (s.slice sl) kTIM)
  rw [hland]
  exact ⟨regBit_clrRegBit _ _ _ _ (by norm_num), h⟩

/-- What a command leaves of the slice once the block is no longer BUSY. -/
theorem runsPair_timLand_times
    (ht : TimesBut { s.slice sl with posted := (s.slice sl).posted.filter (·.1 ≠ kTIM) } z ks) (hm : (kTIM, 0x10) ∈ ks)
    (h : ∀ y, y = { s.slice sl with regs := y.regs, bases := y.bases, scenes := y.scenes,
                                    posted := (s.slice sl).posted.filter (·.1 ≠ kTIM) } →
      y.bases = z.bases → y.scenes = z.scenes → RegsBut z y [(kTIM, 0x10)] → RegsBut (s.slice sl) y ks → P y) :
    RunsPair (.slowWriteLand sl ⟨13, by decide⟩) s sl fun y _ => pendBusy y kTIM = false ∧ P y := by
  refine runsPair_timLand hon hrow hb hp hz ?_
  have ho := regsOnly_clrRegBit z kTIM 0x10 31
  have hk : ∀ ls, (kTIM, 0x10) ∈ ls → RegsBut z (clrRegBit z kTIM 0x10 31) ls := fun ls hls =>
    regsBut_regPut (RegsBut.refl z ls) _ _ _ _ _ (by norm_num) hls
  have hx : RegsBut (s.slice sl) { s.slice sl with posted := (s.slice sl).posted.filter (·.1 ≠ kTIM) } ks :=
    regsBut_of_eq (RegsBut.refl _ ks) rfl rfl
  refine h _ (ht.trans (ho.timesBut (hk ks hm))).frame ho.bases_eq ho.scenes_eq (hk _ (List.mem_singleton_self _))
    (hx.trans (ht.regs.trans (hk ks hm)))

end

/-! ### The registers of a base -/

theorem rowAt_tim (b : BaseId) : ∃ r, rowAt kTIM (timOff b.val) = some r :=
  Option.isSome_iff_exists.1 ((by decide +kernel : ∀ b : BaseId, (rowAt kTIM (timOff b.val)).isSome = true) b)

theorem rowAt_trk (b : BaseId) (k : TrkId) {i : Nat} (hi : i = 0 ∨ i = 8 ∨ i = 0xC) : ∃ r, rowAt kTIM (trkOff b.val k.val + i) = some r := by
  have h : ∀ (b : BaseId) (k : TrkId), ∀ i ∈ [0, 8, 0xC], (rowAt kTIM (trkOff b.val k.val + i)).isSome = true := by decide +kernel
  exact Option.isSome_iff_exists.1 (h b k i (by simpa using hi))

section
variable (x : Slice) (b : BaseId) (k : TrkId) (r : RegRow) (v : Word)

theorem timLand_bcfg : timLand x (timOff b.val) r v = bcfgWrite x b.val v := by
  have hb : timOff b.val / 0x100 % 16 = b.val := by unfold timOff; omega
  have ho : timOff b.val % 0x100 = 0 := by unfold timOff; omega
  rw [timLand, if_neg (by unfold timOff; omega), if_pos (by unfold timOff; omega), hb, ho]
  rfl

theorem timLand_trk {i : Nat} (hi : i < 0x40) : timLand x (trkOff b.val k.val + i) r v
    = if i = 0 then tctlWrite x b.val k.val v else if i = 8 then setFadj x b.val k.val (signed 32 v.toNat)
      else if i = 0xC then phaseAdd x b.val k.val v else storeMasked x kTIM (trkOff b.val k.val + i) r v := by
  have hb : (trkOff b.val k.val + i) / 0x100 % 16 = b.val := by unfold trkOff; omega
  have ho : (trkOff b.val k.val + i) % 0x100 = 0x40 * (k.val + 1) + i := by unfold trkOff; omega
  have hk : (0x40 * (k.val + 1) + i) / 0x40 - 1 = k.val := by omega
  have hj : (0x40 * (k.val + 1) + i) % 0x40 = i := by omega
  rw [timLand, if_neg (by unfold trkOff; omega), if_pos (by unfold trkOff; omega)]
  show (if _ = 0 then _ else _) = _
  simp only [hb, ho, hk, hj]
  rw [if_neg (by omega), if_neg (by omega)]

end

/-! ### TIM_BCFG (R368, R369, R371) -/

section
variable {x : Slice} {b : Nat} {v : Word} {ks : List (Nat × Nat)}

theorem selectTracker_same {k : Nat} (h : k = aselOf x b) : selectTracker x b k = x := by
  rw [selectTracker, if_pos h.symm]

/-- TIM_BCFG with its fields kept and no tracker selected. -/
def bcfgKept (x : Slice) (b : Nat) (v : Word) : Slice := regPut x kTIM (timOff b) 26 17 (fld v 26 17)

theorem timesBut_bcfgKept (hb : b < 4) (hm : (kTIM, timOff b) ∈ ks) : TimesBut x (bcfgKept x b v) ks :=
  (regsOnly_regPut ..).timesBut (regsBut_regPut (RegsBut.refl x ks) _ _ _ _ _ (by unfold timOff; omega) hm)

theorem bases_bcfgKept : (bcfgKept x b v).bases = x.bases := (regsOnly_regPut ..).bases_eq

theorem scenes_bcfgKept : (bcfgKept x b v).scenes = x.scenes := (regsOnly_regPut ..).scenes_eq

theorem aselOf_bcfgKept : aselOf (bcfgKept x b v) b = aselOf x b :=
  regFld_regPut_other _ _ _ _ _ _ _ _ (by norm_num) (by norm_num) (by norm_num)

theorem baseNow_bcfgKept : baseNow (bcfgKept x b v) b = baseNow x b := by
  rw [baseNow, aselOf_bcfgKept, baseOf_congr bases_bcfgKept, baseNow]

/-- CAPTURE latches the base's time (R369). -/
theorem captureBase_shows (hb : b < 4) (hm : [(kTIM, timOff b + 0x10), (kTIM, timOff b + 0x14), (kTIM, timOff b + 0x18), (kTIM, timOff b + 0xC)] ⊆ ks) :
    TimesBut x (captureBase x b) ks ∧ (captureBase x b).bases = x.bases ∧ (captureBase x b).scenes = x.scenes
    ∧ pairGet (captureBase x b) kTIM (timOff b + 0x10) = secOf (baseNow x b)
    ∧ regGet (captureBase x b) kTIM (timOff b + 0x18) = w32 (nsOf (baseNow x b))
    ∧ regGet (captureBase x b) kTIM (timOff b + 0xC) = w32 (fracOf (baseNow x b)) := by
  have hlt : timOff b + 0x20 < 0x100000 := by unfold timOff; omega
  have hs : secOf (baseNow x b) < 2 ^ 64 := (Nat.mod_lt _ (by norm_num)).trans (by norm_num)
  have ho : RegsOnly x (captureBase x b) := ((regsOnly_pairSet ..).trans (regsOnly_regSet ..)).trans (regsOnly_regSet ..)
  refine ⟨ho.timesBut (regsBut_regSet (regsBut_regSet (regsBut_pairSet (RegsBut.refl x ks) _ _ _ (by omega) (hm (by simp)) (hm (by simp)))
    _ _ _ (by omega) (hm (by simp))) _ _ _ (by omega) (hm (by simp))), ho.bases_eq, ho.scenes_eq, ?_, ?_, ?_⟩
  · rw [captureBase, pairGet, regGet_regSet_off _ _ _ (by omega), regGet_regSet_off _ _ _ (by omega), regGet_regSet_off _ _ _ (by omega),
      regGet_regSet_off _ _ _ (by omega), ← pairGet, pairGet_pairSet _ _ _ _ hs]
  · rw [captureBase, regGet_regSet_off _ _ _ (by omega), regGet_regSet_self]
  · rw [captureBase, regGet_regSet_self]

/-- A base whose time is made that of its active tracker, before what its jump does (R369). -/
def stepped (x : Slice) (b : Nat) : Slice := raise (setBase x b { baseOf x b with res := 0 }) kTIM 3

theorem timesBut_stepped (hm : raiseKeys kTIM 3 ⊆ ks) : TimesBut x (stepped x b) ks :=
  (timesBut_setBase x b _ ks).trans ((regsOnly_raise ..).timesBut (regsBut_raise (RegsBut.refl _ ks) _ _ (by decide) hm))

theorem scenes_stepped : (stepped x b).scenes = x.scenes := (regsOnly_raise (setBase x b _) kTIM 3).scenes_eq

theorem bases_stepped : (stepped x b).bases = (setBase x b { baseOf x b with res := 0 }).bases :=
  (regsOnly_raise (setBase x b _) kTIM 3).bases_eq

theorem baseOf_stepped (hb : b < 4) : baseOf (stepped x b) b = { baseOf x b with res := 0 } :=
  (baseOf_congr bases_stepped b).trans (baseOf_setBase x _ hb)

theorem others_stepped : ∀ j, j ≠ b → (stepped x b).bases[j]? = x.bases[j]? := fun j hj => by
  rw [bases_stepped, setBase_others x _ hj]

theorem aselOf_stepped (hb : b < 4) : aselOf (stepped x b) b = aselOf x b :=
  regFld_raise _ _ _ _ _ _ _ (by decide) (by unfold timOff; omega) (by decide)

theorem baseNow_of_res_zero (h : (baseOf x b).res = 0) : baseNow x b = ((baseOf x b).trk (aselOf x b)).time % timeMod := by
  rw [baseNow_eq, h, add_zero, ← Int.natCast_mod, Int.toNat_natCast]

theorem baseNow_stepped (hb : b < 4) : baseNow (stepped x b) b = ((baseOf x b).trk (aselOf x b)).time % timeMod := by
  rw [baseNow_of_res_zero (by rw [baseOf_stepped hb]), baseOf_stepped hb, aselOf_stepped hb, trk_with_res]

theorem stepBase_back (hb : b < 4) (h : timeDiff (((baseOf x b).trk (aselOf x b)).time % timeMod) (baseNow x b) ≤ 0) :
    stepBase x b = stepped x b := by
  show (if 0 < timeDiff (baseNow (stepped x b) b) (baseNow x b) then _ else stepped x b) = stepped x b
  rw [baseNow_stepped hb, if_neg (not_lt.2 h)]

/-- Gates and muslins that a jump of a base finds idle leave it to the scenes. -/
theorem stepForward_scenes {u0 u1 : Nat} (hb : b ≠ 0) (hg : x.gates = []) (ha : bufIn x msArmed = none) (hp : bufIn x msPolling = none) :
    stepForward x b u0 u1 = sceneStep x b u0 u1 := by
  have hgate : ∀ p, gateStep (sceneStep x b u0 u1) p u1 = sceneStep x b u0 u1 := fun p => by
    have hl : operEff (gateOf (sceneStep x b u0 u1) p) = [] := by
      have h0 : gateOf (sceneStep x b u0 u1) p = ⟨laneOf p, [], [], 0, 0, 0, 0⟩ := by
        rw [gateOf, show (sceneStep x b u0 u1).gates = [] from hg]
        rfl
      rw [h0]
      rfl
    rw [gateStep, hl]
    simp
  have hfold : (List.range 16).foldl (fun x p => if (portBase x p).val = b then gateStep x p u1 else x) (sceneStep x b u0 u1)
      = sceneStep x b u0 u1 := by
    refine List.foldlRecOn (motive := (· = sceneStep x b u0 u1)) (List.range 16) _ rfl fun y hy p _ => ?_
    rw [hy]
    split
    · exact hgate p
    · rfl
  have ha' : bufIn (sceneStep x b u0 u1) msArmed = none := ha
  have hp' : bufIn (sceneStep x b u0 u1) msPolling = none := hp
  simp only [stepForward, hfold, if_neg hb, musStep, ha', hp']

theorem bufIn_of_regsBut {y : Slice} (h : RegsBut x y ks) (hn : ∀ n < 2, (kRIF, 0x110 + 4 * n) ∉ ks) (st : Nat) : bufIn y st = bufIn x st := by
  have h0 := h.musState_eq (by norm_num : 0 < 2) (hn 0 (by norm_num))
  have h1 := h.musState_eq (by norm_num : 1 < 2) (hn 1 (by norm_num))
  simp only [bufIn, show List.range 2 = [0, 1] from rfl, List.find?_cons, h0, h1, List.find?_nil]

theorem stepBase_forward (hb : b < 4) (h0 : b ≠ 0) (h : 0 < timeDiff (((baseOf x b).trk (aselOf x b)).time % timeMod) (baseNow x b))
    (hg : x.gates = []) (ha : bufIn x msArmed = none) (hp : bufIn x msPolling = none) :
    stepBase x b = sceneStep (stepped x b) b (baseNow x b) (((baseOf x b).trk (aselOf x b)).time % timeMod) := by
  have ht : TimesBut x (stepped x b) (raiseKeys kTIM 3) := timesBut_stepped (List.Subset.refl _)
  have hbuf := fun st => bufIn_of_regsBut ht.regs (fun n _ => raiseKeys_rif (by decide)) st
  show (if 0 < timeDiff (baseNow (stepped x b) b) (baseNow x b) then stepForward (stepped x b) b (baseNow x b) (baseNow (stepped x b) b)
    else stepped x b) = _
  rw [baseNow_stepped hb, if_pos h]
  exact stepForward_scenes h0 (by rw [ht.frame]; exact hg) ((hbuf _).trans ha) ((hbuf _).trans hp)

/-- A scene's run that a jump overtakes is overdue (R386). -/
def overtaken (x : Slice) (b u0 u1 : Nat) (r : SceneRun) : SceneRun :=
  { r with overdue := r.overdue || (decide (sceneBase x r.scene = b) && decide (u0 < sceneInstant x r.scene r.next)
      && decide (sceneInstant x r.scene r.next ≤ u1)) }

theorem sceneStep_eq (u0 u1 : Nat) : sceneStep x b u0 u1 = { x with scenes := x.scenes.map (overtaken x b u0 u1) } := by
  have h : ∀ r : SceneRun, (if sceneBase x r.scene = b ∧ u0 < sceneInstant x r.scene r.next ∧ sceneInstant x r.scene r.next ≤ u1
      then { r with overdue := true } else r) = overtaken x b u0 u1 r := fun r => by
    rw [overtaken]
    split
    · next hc =>
      obtain ⟨h1, h2, h3⟩ := hc
      rw [decide_eq_true h1, decide_eq_true h2, decide_eq_true h3, Bool.and_self, Bool.and_self, Bool.or_true]
    · next hc =>
      rw [show (decide (sceneBase x r.scene = b) && decide (u0 < sceneInstant x r.scene r.next)
        && decide (sceneInstant x r.scene r.next ≤ u1)) = false by simpa [and_assoc] using hc, Bool.or_false]
  simp only [sceneStep, h]

/-- The base's time is kept, and told by tracker `k`. -/
structure Retracked (x y : Slice) (b k : Nat) : Prop where
  scenes : y.scenes = x.scenes
  active : aselOf y b = k
  base : ∃ r, baseOf y b = { baseOf x b with res := r }
  others : ∀ j, j ≠ b → y.bases[j]? = x.bases[j]?
  now : baseNow y b = baseNow x b

theorem retracked_setBase {y : Slice} {k : Nat} (hp : RegsOnly x y) (ha : aselOf y b = k) (hb : b < 4) :
    Retracked x (setBase y b { baseOf x b with res := timeDiff (baseNow x b) ((baseOf x b).trk k).time }) b k where
  scenes := hp.scenes_eq
  active := ha
  base := ⟨_, baseOf_setBase y _ hb⟩
  others j hj := by rw [setBase_others y _ hj, hp.bases_eq]
  now := by
    rw [baseNow_eq, aselOf_setBase, ha, baseOf_setBase y _ hb, trk_with_res]
    exact toNat_add_timeDiff x b _

/-- Selecting a tracker moves the base's residual, and not its time (R371). -/
theorem selectTracker_shows {k : Nat} (hb : b < 4) (hk : k < 2) (hm : (kTIM, timOff b) ∈ ks) :
    TimesBut x (selectTracker x b k) ks ∧ Retracked x (selectTracker x b k) b k := by
  by_cases h : aselOf x b = k
  · rw [selectTracker, if_pos h]
    exact ⟨TimesBut.refl x ks, ⟨rfl, h, ⟨_, rfl⟩, fun _ _ => rfl, rfl⟩⟩
  · have hp : RegsOnly x (regPut x kTIM (timOff b) 31 31 k) := regsOnly_regPut ..
    rw [selectTracker, if_neg h]
    exact ⟨(hp.timesBut (regsBut_regPut (RegsBut.refl x ks) _ _ _ _ _ (by unfold timOff; omega) hm)).trans (timesBut_setBase _ b _ ks),
      retracked_setBase hp ((regFld_regPut_self _ _ _ _ _ _ (by norm_num) (by norm_num)).trans (Nat.mod_eq_of_lt hk)) hb⟩

end

end Sys2Proof.Machine
end

section
/-! Proofs. Commands of a tracker, and what the time domain takes (R105, R368 to R373). -/

namespace Sys2Proof.Machine

/-! ### TIM_TCTL, TIM_PHASE and TIM_FADJ (R368, R370, R372) -/

theorem tctl_word (v : Word) : w32 (v.toNat &&& 0xFF000000) = v &&& 0xFF000000 := by
  refine BitVec.eq_of_toNat_eq ?_
  rw [w32, BitVec.toNat_ofNat, BitVec.toNat_and]
  exact Nat.mod_eq_of_lt (lt_of_le_of_lt Nat.and_le_left v.isLt)

theorem tctl_src (v : Word) : fld (v &&& 0xFF000000) 31 30 = fld v 31 30 := by
  refine fld_congr fun i h1 h2 => ?_
  rw [wbit, BitVec.toNat_and, Nat.testBit_and, wbit]
  interval_cases i
  · exact Bool.and_true _
  · exact Bool.and_true _

/-- SRC of a word of TIM_TCTL; the value 3 names no source. -/
def srcField (v : Word) : Nat := if fld v 31 30 = 3 then 0 else fld v 31 30

section
variable (x : Slice) {b k : Nat} (v : Word) {ks : List (Nat × Nat)}

/-- TIM_TCTL with a new source, before a SET. -/
def tctlTaken (x : Slice) (b k : Nat) (v : Word) : Slice :=
  let y := regSet x kTIM (trkOff b k) (v &&& 0xFF000000)
  if srcField v = srcOf x b k then y else setTrkState y b k (if srcField v = 0 then tkFree else tkAcquiring)

theorem srcOf_tctl : srcOf (regSet x kTIM (trkOff b k) (v &&& 0xFF000000)) b k = srcField v := by
  rw [srcOf, tctl, regGet_regSet_self, tctl_src, srcField]

theorem tctlWrite_eq : tctlWrite x b k v
    = if fld v 2 0 = 1 then setTracker (tctlTaken x b k v) b k else tctlTaken x b k v := by
  simp only [tctlWrite, tctl_word, srcOf_tctl, tctlTaken]

theorem regsOnly_tctlTaken : RegsOnly x (tctlTaken x b k v) := by
  rw [tctlTaken]
  split
  · exact regsOnly_regSet ..
  · exact (regsOnly_regSet ..).trans (regsOnly_setTrkState _)

theorem tctlTaken_shows (hb : b < 4) (hk : k < 2) (hm : (kTIM, trkOff b k) ∈ ks) (hm4 : (kTIM, trkOff b k + 4) ∈ ks) (h0 : raiseKeys kTIM 0 ⊆ ks) :
    RegsBut x (tctlTaken x b k v) ks ∧ regGet (tctlTaken x b k v) kTIM (trkOff b k) = v &&& 0xFF000000
    ∧ trkState (tctlTaken x b k v) b k
      = (if srcField v = srcOf x b k then trkState x b k else if srcField v = 0 then tkFree else tkAcquiring) := by
  have ho : trkOff b k < 0x100000 := by unfold trkOff; omega
  have hput : RegsBut x (regSet x kTIM (trkOff b k) (v &&& 0xFF000000)) ks := regsBut_regSet (RegsBut.refl x ks) _ _ _ ho hm
  by_cases hs : srcField v = srcOf x b k
  · rw [tctlTaken, if_pos hs, if_pos hs]
    refine ⟨hput, regGet_regSet_self .., ?_⟩
    rw [trkState, regFld, regGet_regSet_off _ _ _ (by omega), ← regFld, trkState]
  · have hst : ∀ (c : Prop) [Decidable c], (if c then tkFree else tkAcquiring) ≠ tkHoldover ∧ (if c then tkFree else tkAcquiring) ≠ tkLoop
        ∧ (if c then tkFree else tkAcquiring) < 8 := fun c _ => by
      split
      · decide
      · decide
    obtain ⟨hh, hl, h8⟩ := hst (srcField v = 0)
    rw [tctlTaken, if_neg hs, if_neg hs]
    have hset : RegsBut (regSet x kTIM (trkOff b k) (v &&& 0xFF000000)) (setTrkState (regSet x kTIM (trkOff b k) (v &&& 0xFF000000)) b k _)
        ((kTIM, trkOff b k + 4) :: raiseKeys kTIM 0) :=
      regsBut_setTrkState _ hb hk (List.mem_cons_self ..) (List.subset_cons_self ..) (fun e => absurd e hh) fun e => absurd e hl
    refine ⟨hput.trans (hset.mono (List.cons_subset.2 ⟨hm4, h0⟩)), ?_, trkState_setTrkState _ hb hk h8⟩
    rw [hset _ _ ho (by simp [raiseKeys, kTIM, kICN]), regGet_regSet_self]

end

section
variable {x y z : Slice} {b k u : Nat}

/-- What a base told before may be read of any slice with the same bases and the same active tracker. -/
theorem Retimed.of_base (h : Retimed y z b k u) (hb : y.bases = x.bases) (hn : baseNow y b = baseNow x b) : Retimed x z b k u where
  others j hj := by rw [h.others j hj, hb]
  time := by rw [h.time, baseOf_congr hb]
  trks m hm hk := by rw [h.trks m hm hk, baseOf_congr hb]
  now := h.now.trans hn

end

theorem setTracker_shows {x y : Slice} {b k : Nat} (hb : b < 4) (hk : k < 2) {ks : List (Nat × Nat)} (ho : RegsOnly x y) (h : RegsBut x y ks)
    (hn : ∀ i ∈ [0x10, 0x14, 0x18], (kTIM, trkOff b k + i) ∉ ks) (hnow : (kTIM, timOff b) ∉ ks) :
    Retimed x (setTracker y b k) b k (unitsOf (pairGet x kTIM (trkOff b k + 0x10)) (regGet x kTIM (trkOff b k + 0x18)).toNat % timeMod) := by
  have hlt : trkOff b k + 0x20 < 0x100000 := by unfold trkOff; omega
  rw [setTracker, h.pairGet_eq (by omega) (hn _ (by simp)) (hn 0x14 (by simp)), h _ _ (by omega) (hn 0x18 (by simp))]
  exact (retimed_setTrkTime y _ hb hk).of_base ho.bases_eq (h.baseNow_eq ho.bases_eq hb hnow)

theorem Retimed.after {x y z : Slice} {b k u : Nat} (h : Retimed x z b k u) (hb : y.bases = z.bases) (hn : baseNow y b = baseNow z b) :
    Retimed x y b k u where
  others j hj := by rw [hb, h.others j hj]
  time := by rw [baseOf_congr hb, h.time]
  trks m hm hk := by rw [baseOf_congr hb, h.trks m hm hk]
  now := hn.trans h.now

/-- What a write of TIM_TCTL changes. -/
structure TctlTaken (x z : Slice) (b k : Nat) (v : Word) : Prop where
  scenes : z.scenes = x.scenes
  ctl : regGet z kTIM (trkOff b k) = v &&& 0xFF000000
  state : trkState z b k = if srcField v = srcOf x b k then trkState x b k else if srcField v = 0 then tkFree else tkAcquiring
  set : fld v 2 0 = 1 → Retimed x z b k (unitsOf (pairGet x kTIM (trkOff b k + 0x10)) (regGet x kTIM (trkOff b k + 0x18)).toNat % timeMod)
  kept : fld v 2 0 ≠ 1 → z.bases = x.bases

/-- The registers that a write of TIM_TCTL may change. -/
abbrev tctlKeys (b k : Nat) : List (Nat × Nat) := [(kTIM, trkOff b k), (kTIM, trkOff b k + 4), (kTIM, 0x10)] ++ raiseKeys kTIM 0

theorem not_mem_tctlKeys {b k o : Nat} (h : o ≠ trkOff b k) (h4 : o ≠ trkOff b k + 4) (h10 : o ≠ 0x10) : (kTIM, o) ∉ tctlKeys b k := by
  simp [tctlKeys, raiseKeys, kTIM, kICN, h, h4, h10]

theorem tctlWrite_shows (x : Slice) {b k : Nat} (v : Word) (hb : b < 4) (hk : k < 2) :
    TimesBut x (tctlWrite x b k v) (tctlKeys b k) ∧ TctlTaken x (tctlWrite x b k v) b k v := by
  have ho := regsOnly_tctlTaken x (b := b) (k := k) v
  obtain ⟨hbut, hreg, hst⟩ := tctlTaken_shows x v hb hk (ks := tctlKeys b k) (List.mem_cons_self ..)
    (List.mem_cons_of_mem _ (List.mem_cons_self ..)) (List.subset_append_right ..)
  by_cases h1 : fld v 2 0 = 1
  · have hset := setTracker_shows hb hk ho hbut (fun i hi => not_mem_tctlKeys (b := b) (k := k) (by
      simp only [List.mem_cons, List.not_mem_nil, or_false] at hi
      omega) (by
      simp only [List.mem_cons, List.not_mem_nil, or_false] at hi
      omega) (by unfold trkOff; omega)) (not_mem_tctlKeys (by unfold timOff trkOff; omega) (by unfold timOff trkOff; omega) (by unfold timOff; omega))
    obtain ⟨hts, hss, hrs⟩ := timesBut_setTrkTime (tctlTaken x b k v) (b := b) (k := k)
      (unitsOf (pairGet (tctlTaken x b k v) kTIM (trkOff b k + 0x10)) (regGet (tctlTaken x b k v) kTIM (trkOff b k + 0x18)).toNat) []
    have hsame : ∀ o, o < 0x100000 → regGet (setTracker (tctlTaken x b k v) b k) kTIM o = regGet (tctlTaken x b k v) kTIM o := fun o h =>
      hts.regs _ _ h List.not_mem_nil
    rw [tctlWrite_eq, if_pos h1]
    refine ⟨(ho.timesBut hbut).trans ⟨hts.frame, hts.regs.mono (List.nil_subset _)⟩, hss.trans ho.scenes_eq, ?_, ?_, fun _ => hset, fun h => absurd h1 h⟩
    · rw [hsame _ (by unfold trkOff; omega), hreg]
    · rw [trkState, regFld, hsame _ (by unfold trkOff; omega), ← regFld, ← trkState, hst]
  · rw [tctlWrite_eq, if_neg h1]
    exact ⟨ho.timesBut hbut, ho.scenes_eq, hreg, hst, fun h => absurd h h1, fun _ => ho.bases_eq⟩

/-! ### The commands land -/

/-- A write of TIM that waits reaches its register, which leaves the slice as `P` says. -/
abbrev Lands (s : State) (sl : SliceId) (off : Nat) (v : Word) (P : Slice → Prop) : Prop :=
  pendBusy (s.slice sl) kTIM = true → (s.slice sl).posted.filter (·.1 = kTIM) = [(kTIM, off, v)] →
    RunsPair (.slowWriteLand sl ⟨13, by decide⟩) s sl fun y _ => pendBusy y kTIM = false ∧ P y

/-- The slice whose posted writes of TIM are being taken. -/
abbrev taking (x : Slice) : Slice := { x with posted := x.posted.filter (·.1 ≠ kTIM) }

theorem trkOff_ne (b k i : Nat) : (kTIM, trkOff b k + i) ∉ [(kTIM, 0x10)] := by
  simp only [List.mem_singleton, Prod.mk.injEq, true_and, trkOff]
  omega

theorem timOff_ne (b i : Nat) : (kTIM, timOff b + i) ∉ [(kTIM, 0x10)] := by
  simp only [List.mem_singleton, Prod.mk.injEq, true_and, timOff]
  omega

/-- A slice after a command of TIM, once BUSY has fallen: all the command leaves is still there. -/
structure Landed (x z y : Slice) (ks : List (Nat × Nat)) : Prop where
  frame : y = { x with regs := y.regs, bases := y.bases, scenes := y.scenes, posted := x.posted.filter (·.1 ≠ kTIM) }
  bases : y.bases = z.bases
  scenes : y.scenes = z.scenes
  regs : RegsBut z y [(kTIM, 0x10)]
  but : RegsBut x y ks

section
variable {x z y : Slice} {ks : List (Nat × Nat)} (h : Landed x z y ks)
include h

theorem Landed.regGet_trk (b : BaseId) (k : TrkId) {i : Nat} (hi : i < 0x40) :
    regGet y kTIM (trkOff b.val k.val + i) = regGet z kTIM (trkOff b.val k.val + i) :=
  h.regs _ _ (by unfold trkOff; omega) (trkOff_ne _ _ _)

theorem Landed.regGet_tim (b : BaseId) {i : Nat} (hi : i < 0x40) : regGet y kTIM (timOff b.val + i) = regGet z kTIM (timOff b.val + i) :=
  h.regs _ _ (by unfold timOff; omega) (timOff_ne _ _)

theorem Landed.aselOf (b : BaseId) : aselOf y b.val = aselOf z b.val := by
  have hr : regGet y kTIM (timOff b.val) = regGet z kTIM (timOff b.val) := h.regGet_tim b (i := 0) (by norm_num)
  rw [Machine.aselOf, regFld, hr, Machine.aselOf, regFld]

theorem Landed.trkState (b : BaseId) (k : TrkId) : trkState y b.val k.val = trkState z b.val k.val := by
  rw [Machine.trkState, regFld, h.regGet_trk b k (by norm_num), ← regFld, ← Machine.trkState]

theorem Landed.baseNow (b : BaseId) : baseNow y b.val = baseNow z b.val := baseNow_congr h.bases (h.regGet_tim b (i := 0) (by norm_num))

theorem Landed.bases_frame (hs : z.scenes = x.scenes) :
    y = { x with regs := y.regs, bases := y.bases, posted := x.posted.filter (·.1 ≠ kTIM) } :=
  h.frame.trans (by rw [h.scenes, hs])

theorem Landed.regs_frame (hs : z.scenes = x.scenes) (hb : z.bases = x.bases) :
    y = { x with regs := y.regs, posted := x.posted.filter (·.1 ≠ kTIM) } :=
  h.frame.trans (by rw [h.scenes, hs, h.bases, hb])

theorem Landed.retimed {b : BaseId} {k u : Nat} (hr : Retimed (taking x) z b.val k u) : Retimed x y b.val k u :=
  (hr.of_base (x := x) rfl rfl).after h.bases (h.baseNow b)

end

section
variable {s : State} {sl : SliceId} (hon : (s.slice sl).on = true) {off : Nat} {r : RegRow} {v : Word} {z : Slice} {ks : List (Nat × Nat)}
include hon

theorem lands_of {P : Slice → Prop} (hrow : rowAt kTIM off = some r) (hz : timLand (taking (s.slice sl)) off r v = z)
    (ht : TimesBut (taking (s.slice sl)) z ks) (hm : (kTIM, 0x10) ∈ ks) (h : ∀ y, Landed (s.slice sl) z y ks → P y) : Lands s sl off v P :=
  fun hb hp => runsPair_timLand_times hon hrow hb hp hz ht hm fun y hy hbs hsc hk hbx => h y ⟨hy, hbs, hsc, hk, hbx⟩

variable {b : BaseId} {k : TrkId}

theorem lands_tctl : Lands s sl (trkOff b.val k.val) v fun y =>
    y = { s.slice sl with regs := y.regs, bases := y.bases, posted := (s.slice sl).posted.filter (·.1 ≠ kTIM) }
    ∧ regGet y kTIM (trkOff b.val k.val) = v &&& 0xFF000000
    ∧ trkState y b.val k.val = (if srcField v = srcOf (s.slice sl) b.val k.val then trkState (s.slice sl) b.val k.val
        else if srcField v = 0 then tkFree else tkAcquiring)
    ∧ (fld v 2 0 = 1 → Retimed (s.slice sl) y b.val k.val (unitsOf (pairGet (s.slice sl) kTIM (trkOff b.val k.val + 0x10))
        (regGet (s.slice sl) kTIM (trkOff b.val k.val + 0x18)).toNat % timeMod))
    ∧ (fld v 2 0 ≠ 1 → y.bases = (s.slice sl).bases)
    ∧ RegsBut (s.slice sl) y (tctlKeys b.val k.val) := by
  obtain ⟨r, hrow⟩ := rowAt_trk b k (Or.inl rfl)
  obtain ⟨ht, hz⟩ := tctlWrite_shows (taking (s.slice sl)) v b.isLt k.isLt
  refine lands_of hon hrow ((timLand_trk _ b k r v (by norm_num)).trans (if_pos rfl)) ht (by simp [tctlKeys]) fun y hy => ?_
  exact ⟨hy.bases_frame hz.scenes, (hy.regGet_trk b k (i := 0) (by norm_num)).trans hz.ctl, (hy.trkState b k).trans hz.state,
    fun h1 => hy.retimed (hz.set h1), fun h1 => hy.bases.trans (hz.kept h1), hy.but⟩

theorem lands_phase : Lands s sl (trkOff b.val k.val + 0xC) v fun y =>
    y = { s.slice sl with regs := y.regs, bases := y.bases, posted := (s.slice sl).posted.filter (·.1 ≠ kTIM) }
    ∧ Retimed (s.slice sl) y b.val k.val (addTime ((baseOf (s.slice sl) b.val).trk k.val).time (signed 32 v.toNat * nsUnits))
    ∧ RegsBut (s.slice sl) y [(kTIM, 0x10)] := by
  obtain ⟨r, hrow⟩ := rowAt_trk b k (Or.inr (Or.inr rfl))
  obtain ⟨ht, hs, -⟩ := timesBut_setTrkTime (taking (s.slice sl)) (b := b.val) (k := k.val)
    (addTime ((baseOf (s.slice sl) b.val).trk k.val).time (signed 32 v.toNat * nsUnits)) [(kTIM, 0x10)]
  have hr := retimed_setTrkTime (taking (s.slice sl)) (b := b.val) (k := k.val)
    (addTime ((baseOf (s.slice sl) b.val).trk k.val).time (signed 32 v.toNat * nsUnits)) b.isLt k.isLt
  rw [addTime_mod] at hr
  exact lands_of hon hrow (timLand_trk _ b k r v (by norm_num)) ht (by simp) fun y hy => ⟨hy.bases_frame hs, hy.retimed hr, hy.but⟩

theorem lands_fadj : Lands s sl (trkOff b.val k.val + 8) v fun y =>
    y = { s.slice sl with regs := y.regs, posted := (s.slice sl).posted.filter (·.1 ≠ kTIM) }
    ∧ fadjOf y b.val k.val = max (-fadjMax) (min fadjMax (signed 32 v.toNat))
    ∧ RegsBut (s.slice sl) y [(kTIM, trkOff b.val k.val + 8), (kTIM, 0x10)] := by
  obtain ⟨r, hrow⟩ := rowAt_trk b k (Or.inr (Or.inl rfl))
  have ho : RegsOnly (taking (s.slice sl)) (setFadj (taking (s.slice sl)) b.val k.val (signed 32 v.toNat)) := regsOnly_regSet ..
  have hbut : RegsBut (taking (s.slice sl)) (setFadj (taking (s.slice sl)) b.val k.val (signed 32 v.toNat))
      [(kTIM, trkOff b.val k.val + 8), (kTIM, 0x10)] :=
    regsBut_regSet (RegsBut.refl _ _) _ _ _ (by unfold trkOff; omega) (List.mem_cons_self ..)
  refine lands_of hon hrow (timLand_trk _ b k r v (by norm_num)) (ho.timesBut hbut) (by simp) fun y hy => ?_
  refine ⟨hy.regs_frame ho.scenes_eq ho.bases_eq, ?_, hy.but⟩
  rw [fadjOf, hy.regGet_trk b k (by norm_num), ← fadjOf]
  exact fadjOf_setFadj ..

end

end Sys2Proof.Machine
end

section
/-! Proofs. CAPTURE, STEP and the choice of a tracker land (R369, R371). -/

namespace Sys2Proof.Machine

section
variable {x : Slice} {b : Nat} {v : Word}

theorem bcfgWrite_capture (ha : fld v 31 31 = aselOf x b) (hc : fld v 1 0 = 1) : bcfgWrite x b v = captureBase (bcfgKept x b v) b := by
  simp only [bcfgWrite, selectTracker_same ha, hc, bcfgKept]

theorem bcfgWrite_step (ha : fld v 31 31 = aselOf x b) (hc : fld v 1 0 = 2) : bcfgWrite x b v = stepBase (bcfgKept x b v) b := by
  simp only [bcfgWrite, selectTracker_same ha, hc, bcfgKept]

theorem bcfgWrite_select (hc : fld v 1 0 = 0) : bcfgWrite x b v = bcfgKept (selectTracker x b (fld v 31 31)) b v := by
  simp only [bcfgWrite, hc, bcfgKept]

/-- The time that a STEP gives a base: that of its active tracker. -/
abbrev jumpTo (x : Slice) (b : Nat) : Nat := ((baseOf x b).trk (aselOf x b)).time % timeMod

theorem jumpTo_kept : jumpTo (bcfgKept x b v) b = jumpTo x b := by rw [jumpTo, aselOf_bcfgKept, baseOf_congr bases_bcfgKept]

/-- The registers a STEP may change. -/
abbrev stepKeys (b : Nat) : List (Nat × Nat) := (kTIM, timOff b) :: (kTIM, 0x10) :: raiseKeys kTIM 3

/-- A base that tells the time of its active tracker. -/
structure Stepped (x y : Slice) (b : Nat) : Prop where
  base : baseOf y b = { baseOf x b with res := 0 }
  now : baseNow y b = jumpTo x b
  others : ∀ j, j ≠ b → y.bases[j]? = x.bases[j]?

theorem timesBut_stepped_kept (hb : b < 4) : TimesBut x (stepped (bcfgKept x b v) b) (stepKeys b) :=
  (timesBut_bcfgKept hb (List.mem_cons_self ..)).trans (timesBut_stepped fun _ h => List.mem_cons_of_mem _ (List.mem_cons_of_mem _ h))

theorem stepped_kept (hb : b < 4) : Stepped x (stepped (bcfgKept x b v) b) b where
  base := by rw [baseOf_stepped hb, baseOf_congr bases_bcfgKept]
  now := (baseNow_stepped hb).trans jumpTo_kept
  others j hj := by rw [others_stepped j hj, bases_bcfgKept]

theorem Stepped.congr {y z : Slice} (h : Stepped x z b) (hb : y.bases = z.bases) (hn : baseNow y b = baseNow z b) : Stepped x y b where
  base := (baseOf_congr hb b).trans h.base
  now := hn.trans h.now
  others j hj := by rw [hb, h.others j hj]

theorem Stepped.of_taking {y : Slice} (h : Stepped (taking x) y b) : Stepped x y b := ⟨h.base, h.now, h.others⟩

theorem baseNow_taking (x : Slice) (b : Nat) : baseNow (taking x) b = baseNow x b := rfl

theorem jumpTo_taking (x : Slice) (b : Nat) : jumpTo (taking x) b = jumpTo x b := rfl

theorem timesBut_scenes (x : Slice) (l : List SceneRun) (ks : List (Nat × Nat)) : TimesBut x { x with scenes := l } ks :=
  ⟨rfl, regsBut_of_eq (RegsBut.refl x ks) rfl rfl⟩

theorem bases_with_scenes (x : Slice) (l : List SceneRun) : ({ x with scenes := l } : Slice).bases = x.bases := rfl

theorem baseNow_with_scenes (x : Slice) (l : List SceneRun) (b : Nat) : baseNow { x with scenes := l } b = baseNow x b := rfl

theorem overtaken_congr {y : Slice} (h : y.tabs = x.tabs) (u0 u1 : Nat) : overtaken y b u0 u1 = overtaken x b u0 u1 := by
  have hw : ∀ n w, sceneW y n w = sceneW x n w := fun n w => by rw [sceneW, tabGet, h, sceneW, tabGet]
  have hb : ∀ n, sceneBase y n = sceneBase x n := fun n => by rw [sceneBase, hw, sceneBase]
  have hi : ∀ n k, sceneInstant y n k = sceneInstant x n k := fun n k => by simp only [sceneInstant, sceneT, hw]
  funext r
  rw [overtaken, overtaken, hb, hi]

end

section
variable {s : State} {sl : SliceId} (hon : (s.slice sl).on = true) {b : BaseId} {v : Word}
include hon

theorem lands_bcfg {P : Slice → Prop} {z : Slice} {ks : List (Nat × Nat)} (hz : bcfgWrite (taking (s.slice sl)) b.val v = z)
    (ht : TimesBut (taking (s.slice sl)) z ks) (hm : (kTIM, 0x10) ∈ ks) (h : ∀ y, Landed (s.slice sl) z y ks → P y) :
    Lands s sl (timOff b.val) v P := by
  obtain ⟨r, hrow⟩ := rowAt_tim b
  exact lands_of hon hrow ((timLand_bcfg _ b r v).trans hz) ht hm h

/-- The registers a CAPTURE may change. -/
abbrev captureKeys (b : Nat) : List (Nat × Nat) :=
  [(kTIM, timOff b), (kTIM, timOff b + 0x10), (kTIM, timOff b + 0x14), (kTIM, timOff b + 0x18), (kTIM, timOff b + 0xC), (kTIM, 0x10)]

theorem lands_capture (ha : fld v 31 31 = aselOf (s.slice sl) b.val) (hc : fld v 1 0 = 1) : Lands s sl (timOff b.val) v fun y =>
    y = { s.slice sl with regs := y.regs, posted := (s.slice sl).posted.filter (·.1 ≠ kTIM) }
    ∧ pairGet y kTIM (timOff b.val + 0x10) = secOf (baseNow (s.slice sl) b.val)
    ∧ regGet y kTIM (timOff b.val + 0x18) = w32 (nsOf (baseNow (s.slice sl) b.val))
    ∧ regGet y kTIM (timOff b.val + 0xC) = w32 (fracOf (baseNow (s.slice sl) b.val))
    ∧ RegsBut (s.slice sl) y (captureKeys b.val) := by
  have hk := timesBut_bcfgKept (x := taking (s.slice sl)) (v := v) b.isLt (ks := (captureKeys b.val)) (by simp)
  obtain ⟨ht, hbs, hss, hsec, hns, hfr⟩ := captureBase_shows (x := bcfgKept (taking (s.slice sl)) b.val v) b.isLt
    (ks := (captureKeys b.val)) (by simp)
  rw [baseNow_bcfgKept] at hsec hns hfr
  refine lands_bcfg hon (bcfgWrite_capture ha hc) (hk.trans ht) (by simp) fun y hy =>
    ⟨hy.regs_frame (hss.trans scenes_bcfgKept) (hbs.trans bases_bcfgKept), ?_, ?_, ?_, hy.but⟩
  · rw [pairGet, add_assoc, hy.regGet_tim b (by norm_num), hy.regGet_tim b (by norm_num), ← add_assoc, ← pairGet]
    exact hsec
  · rw [hy.regGet_tim b (by norm_num)]
    exact hns
  · rw [hy.regGet_tim b (by norm_num)]
    exact hfr

theorem lands_step_back (ha : fld v 31 31 = aselOf (s.slice sl) b.val) (hc : fld v 1 0 = 2)
    (hd : timeDiff (jumpTo (s.slice sl) b.val) (baseNow (s.slice sl) b.val) ≤ 0) :
    Lands s sl (timOff b.val) v fun y =>
      y = { s.slice sl with regs := y.regs, bases := y.bases, posted := (s.slice sl).posted.filter (·.1 ≠ kTIM) }
      ∧ Stepped (s.slice sl) y b.val ∧ RegsBut (s.slice sl) y (stepKeys b.val) := by
  have hz := (bcfgWrite_step (x := taking (s.slice sl)) ha hc).trans (stepBase_back b.isLt (by
    rw [← jumpTo, jumpTo_kept, baseNow_bcfgKept]
    exact hd))
  refine lands_bcfg hon hz (timesBut_stepped_kept b.isLt) (by simp) fun y hy => ?_
  exact ⟨hy.bases_frame (scenes_stepped.trans scenes_bcfgKept), ((stepped_kept (x := taking (s.slice sl)) b.isLt).congr hy.bases (hy.baseNow b)).of_taking, hy.but⟩

theorem lands_step_forward (ha : fld v 31 31 = aselOf (s.slice sl) b.val) (hc : fld v 1 0 = 2)
    (hd : 0 < timeDiff (jumpTo (s.slice sl) b.val) (baseNow (s.slice sl) b.val))
    (h0 : b.val ≠ 0) (hg : (s.slice sl).gates = []) (har : bufIn (s.slice sl) msArmed = none) (hpo : bufIn (s.slice sl) msPolling = none) :
    Lands s sl (timOff b.val) v fun y =>
      y = { s.slice sl with regs := y.regs, bases := y.bases, scenes := y.scenes, posted := (s.slice sl).posted.filter (·.1 ≠ kTIM) }
      ∧ Stepped (s.slice sl) y b.val ∧ RegsBut (s.slice sl) y (stepKeys b.val)
      ∧ y.scenes = (s.slice sl).scenes.map (overtaken (s.slice sl) b.val (baseNow (s.slice sl) b.val) (jumpTo (s.slice sl) b.val)) := by
  have hkept : TimesBut (taking (s.slice sl)) (bcfgKept (taking (s.slice sl)) b.val v) [(kTIM, timOff b.val)] :=
    timesBut_bcfgKept b.isLt (List.mem_cons_self ..)
  have hbuf := fun st => bufIn_of_regsBut hkept.regs (fun n _ => by simp [kRIF, kTIM]) st
  have hz := (bcfgWrite_step (x := taking (s.slice sl)) ha hc).trans (stepBase_forward b.isLt h0
    (by rw [← jumpTo, jumpTo_kept, baseNow_bcfgKept]; exact hd) (by rw [hkept.frame]; exact hg) ((hbuf _).trans har) ((hbuf _).trans hpo))
  have ht := timesBut_stepped_kept (x := taking (s.slice sl)) (b := b.val) (v := v) b.isLt
  have hst := stepped_kept (x := taking (s.slice sl)) (v := v) b.isLt
  have htabs : (stepped (bcfgKept (taking (s.slice sl)) b.val v) b.val).tabs = (s.slice sl).tabs := by rw [ht.frame]
  rw [baseNow_bcfgKept, sceneStep_eq, overtaken_congr htabs, scenes_stepped, scenes_bcfgKept] at hz
  refine lands_bcfg hon hz (ht.trans (timesBut_scenes ..)) (by simp) fun y hy => ?_
  refine ⟨hy.frame, (hst.congr (hy.bases.trans (bases_with_scenes ..)) ((hy.baseNow b).trans (baseNow_with_scenes ..))).of_taking, hy.but, hy.scenes.trans ?_⟩
  rw [← jumpTo, jumpTo_kept, jumpTo_taking, baseNow_taking]

theorem lands_select (hc : fld v 1 0 = 0) : Lands s sl (timOff b.val) v fun y =>
    y = { s.slice sl with regs := y.regs, bases := y.bases, posted := (s.slice sl).posted.filter (·.1 ≠ kTIM) }
    ∧ aselOf y b.val = fld v 31 31 ∧ regFld y kTIM (timOff b.val) 26 17 = fld v 26 17
    ∧ RegsBut (s.slice sl) y [(kTIM, timOff b.val), (kTIM, 0x10)] ∧ (∃ r, baseOf y b.val = { baseOf (s.slice sl) b.val with res := r })
    ∧ (∀ j, j ≠ b.val → y.bases[j]? = (s.slice sl).bases[j]?) ∧ baseNow y b.val = baseNow (s.slice sl) b.val := by
  have hlt : ∀ hi lo, fld v hi lo < 2 ^ (hi + 1 - lo) := fun hi lo => Nat.mod_lt _ (Nat.pow_pos (by norm_num))
  obtain ⟨ht, hr⟩ := selectTracker_shows (x := taking (s.slice sl)) (ks := [(kTIM, timOff b.val), (kTIM, 0x10)]) b.isLt (hlt 31 31) (by simp)
  refine lands_bcfg hon (bcfgWrite_select hc) (ht.trans (timesBut_bcfgKept b.isLt (by simp))) (by simp) fun y hy => ?_
  have hbs := hy.bases.trans bases_bcfgKept
  have hreg : regGet y kTIM (timOff b.val) = _ := hy.regGet_tim b (i := 0) (by norm_num)
  refine ⟨hy.bases_frame (scenes_bcfgKept.trans hr.scenes), ?_, ?_, hy.but, ?_, fun j hj => ?_, ?_⟩
  · rw [hy.aselOf b, aselOf_bcfgKept, hr.active]
  · rw [regFld, hreg, ← regFld]
    exact (regFld_regPut_self _ _ _ _ _ _ (by norm_num) (by norm_num)).trans (Nat.mod_eq_of_lt (hlt 26 17))
  · obtain ⟨q, hq⟩ := hr.base
    exact ⟨q, (baseOf_congr hbs _).trans hq⟩
  · rw [hbs, hr.others j hj]
  · rw [hy.baseNow b, baseNow_bcfgKept, hr.now]
    rfl

end

end Sys2Proof.Machine
end

section
/-! Proofs. What moves a base or a tracker by itself (R369, R371 to R374, R377). -/

namespace Sys2Proof.Machine

/-! ### Posted commands (R105) -/

section
variable {c : Instr} {s : State} {sl : SliceId} {o : Nat} {v : Slice → Word} (h : exec c s = timCommand sl o v s) (hon : (s.slice sl).on = true)
include h hon

theorem runsOn_timCommand_busy (ho : o < 0x100000) (hb : pendBusy (s.slice sl) kTIM = true) : RunsOn c s sl fun y =>
    y = { s.slice sl with regs := y.regs, bus := .done } ∧ regBit y kTIM 0x10 30 = true
    ∧ (regBit (s.slice sl) kTIM 0x10 30 = false → regFld y kTIM 0x10 19 0 = o)
    ∧ RegsBut (s.slice sl) y ((kTIM, 0x10) :: raiseKeys kTIM 15) := by
  refine runsOn_timCommand h hon (fun hf => absurd (hf.symm.trans hb) (by decide)) fun _ => ?_
  obtain ⟨h30, hoff, hbut⟩ := postDrop_shows (x := s.slice sl) (blk := kTIM) (by decide) ho
  obtain ⟨r, e⟩ := regsOnly_postDrop (s.slice sl) kTIM o
  rw [e] at h30 hoff hbut ⊢
  exact ⟨rfl, h30, hoff, hbut⟩

theorem runsOn_timCommand_idle (hb : pendBusy (s.slice sl) kTIM = false) : RunsOn c s sl fun y =>
    y = { s.slice sl with regs := y.regs, posted := (s.slice sl).posted ++ [(kTIM, o, v (s.slice sl))], bus := .done }
    ∧ pendBusy y kTIM = true ∧ RegsBut (s.slice sl) y [(kTIM, 0x10)] := by
  refine runsOn_timCommand h hon (fun _ => ?_) fun hf => absurd (hb.symm.trans hf) (by decide)
  have hbit := regBit_setRegBit { s.slice sl with posted := (s.slice sl).posted ++ [(kTIM, o, v (s.slice sl))] } kTIM 0x10 (i := 31) (by norm_num)
  have hbut : RegsBut (s.slice sl) (setRegBit { s.slice sl with posted := (s.slice sl).posted ++ [(kTIM, o, v (s.slice sl))] } kTIM 0x10 31)
      [(kTIM, 0x10)] :=
    regsBut_regPut (regsBut_of_eq (RegsBut.refl _ _) rfl rfl) _ _ _ _ _ (by norm_num) (List.mem_singleton_self _)
  obtain ⟨r, e⟩ : RegsOnly _ (setRegBit { s.slice sl with posted := (s.slice sl).posted ++ [(kTIM, o, v (s.slice sl))] } kTIM 0x10 31) :=
    regsOnly_regPut ..
  rw [e] at hbit hbut ⊢
  exact ⟨rfl, hbit, hbut⟩

end

/-! ### What trackers do -/

section
variable (x : Slice) {b k : Nat}

/-- A tracker that has lost its source (R374). -/
def heldOver (x : Slice) (b k : Nat) : Slice :=
  setTrkState (setBase x b ((baseOf x b).setTrk k { (baseOf x b).trk k with edges := 0 })) b k tkHoldover

/-- A base whose tracker `k` keeps its time keeps its own. -/
theorem baseNow_setTrk {t : Trk} (hb : b < 4) (hk : k < 2) (ht : t.time = ((baseOf x b).trk k).time) :
    baseNow (setBase x b ((baseOf x b).setTrk k t)) b = baseNow x b := by
  have htime : (((baseOf x b).setTrk k t).trk (aselOf x b)).time = ((baseOf x b).trk (aselOf x b)).time := by
    by_cases ha : aselOf x b = k
    · rw [ha, trk_setTrk_self, ht]
    · rw [trk_setTrk_ne _ _ hk (aselOf_lt x b) ha]
  rw [baseNow_eq, aselOf_setBase, baseOf_setBase x _ hb, res_setTrk, htime, ← baseNow_eq]

theorem heldOver_shows (hb : b < 4) (hk : k < 2) :
    TimesBut x (heldOver x b k) ((kTIM, trkOff b k + 4) :: (raiseKeys kTIM 0 ++ raiseKeys kTIM 1)) ∧ (heldOver x b k).scenes = x.scenes
    ∧ trkState (heldOver x b k) b k = tkHoldover ∧ (∀ j, j ≠ b → (heldOver x b k).bases[j]? = x.bases[j]?)
    ∧ (baseOf (heldOver x b k) b).trk k = { (baseOf x b).trk k with edges := 0 } ∧ baseNow (heldOver x b k) b = baseNow x b := by
  have hn := baseNow_setTrk x (t := { (baseOf x b).trk k with edges := 0 }) hb hk rfl
  have hbase := baseOf_setBase x ((baseOf x b).setTrk k { (baseOf x b).trk k with edges := 0 }) hb
  have hoth := fun j (hj : j ≠ b) => setBase_others x ((baseOf x b).setTrk k { (baseOf x b).trk k with edges := 0 }) hj
  have ht := timesBut_setBase x b ((baseOf x b).setTrk k { (baseOf x b).trk k with edges := 0 })
    ((kTIM, trkOff b k + 4) :: (raiseKeys kTIM 0 ++ raiseKeys kTIM 1))
  have hs : (setBase x b ((baseOf x b).setTrk k { (baseOf x b).trk k with edges := 0 })).scenes = x.scenes := rfl
  unfold heldOver
  generalize setBase x b ((baseOf x b).setTrk k { (baseOf x b).trk k with edges := 0 }) = y at hn hbase hoth ht hs
  have ho : RegsOnly y (setTrkState y b k tkHoldover) := regsOnly_setTrkState y
  have hbut : RegsBut y (setTrkState y b k tkHoldover) ((kTIM, trkOff b k + 4) :: (raiseKeys kTIM 0 ++ raiseKeys kTIM 1)) :=
    regsBut_setTrkState y hb hk (List.mem_cons_self ..) (fun _ h => List.mem_cons_of_mem _ (List.mem_append_left _ h))
      (fun _ _ h => List.mem_cons_of_mem _ (List.mem_append_right _ h)) (fun h => absurd h (by decide))
  refine ⟨ht.trans (ho.timesBut hbut), ho.scenes_eq.trans hs, trkState_setTrkState y hb hk (by decide), fun j hj => ?_, ?_, ?_⟩
  · rw [ho.bases_eq, hoth j hj]
  · rw [baseOf_congr ho.bases_eq, hbase, trk_setTrk_self]
  · rw [hbut.baseNow_eq ho.bases_eq hb (by simp [raiseKeys, kTIM, kICN, timOff, trkOff]; omega), hn]

/-- A tracker that has taken its reference: its rate, its error, and that it is LOCKED (R370, R373). -/
def followed (x : Slice) (b k : Nat) (f : Int) (e : Word) : Slice :=
  setTrkState (regSet (setFadj x b k f) kTIM (trkOff b k + 0x1C) e) b k tkLocked

/-- The registers that following a reference may change. -/
abbrev followKeys (b k : Nat) : List (Nat × Nat) := [(kTIM, trkOff b k + 4), (kTIM, trkOff b k + 8), (kTIM, trkOff b k + 0x1C)] ++ raiseKeys kTIM 0

theorem followed_shows (f : Int) (e : Word) (hb : b < 4) (hk : k < 2) :
    RegsOnly x (followed x b k f e) ∧ RegsBut x (followed x b k f e) (followKeys b k) ∧ trkState (followed x b k f e) b k = tkLocked
    ∧ (fadjOf (followed x b k f e) b k).natAbs ≤ fadjMax.natAbs := by
  have hset : RegsBut x (regSet (setFadj x b k f) kTIM (trkOff b k + 0x1C) e) (followKeys b k) :=
    regsBut_regSet (regsBut_regSet (RegsBut.refl x _) _ _ _ (by unfold trkOff; omega) (by simp)) _ _ _ (by unfold trkOff; omega) (by simp)
  have hfadj : fadjOf (regSet (setFadj x b k f) kTIM (trkOff b k + 0x1C) e) b k = clampFadj f := by
    rw [fadjOf, regGet_regSet_off _ _ _ (by omega), ← fadjOf, fadjOf_setFadj]
  have hlock : RegsBut _ (followed x b k f e) ((kTIM, trkOff b k + 4) :: raiseKeys kTIM 0) :=
    regsBut_setTrkState _ hb hk (List.mem_cons_self ..) (fun _ h => List.mem_cons_of_mem _ h) (fun h => absurd h (by decide))
      (fun h => absurd h (by decide))
  refine ⟨((regsOnly_regSet ..).trans (regsOnly_regSet ..)).trans (regsOnly_setTrkState _),
    hset.trans (hlock.mono (List.cons_subset.2 ⟨List.mem_cons_self .., List.subset_append_right ..⟩)), trkState_setTrkState _ hb hk (by decide), ?_⟩
  have h8 : regGet (followed x b k f e) kTIM (trkOff b k + 8) = _ :=
    hlock _ _ (by unfold trkOff; omega) (by simp [raiseKeys, kTIM, kICN])
  rw [fadjOf, h8, ← fadjOf, hfadj]
  exact natAbs_clampFadj f

end

theorem servoFadj_followed (x : Slice) (b k : Nat) (e : Word) :
    setTrkState (regSet (servoFadj x b k) kTIM (trkOff b k + 0x1C) e) b k tkLocked
      = followed { x with free := x.free + 1 } b k (signed 32 (Config.freeWord x.id.val x.free).toNat) e := rfl

/-- The frame of an operation on a slice whose bases have changed, and which has drawn a free value. -/
theorem freed_frame {x y w : Slice} {ks : List (Nat × Nat)} (h : TimesBut x w ks) (hs : w.scenes = x.scenes)
    (ho : RegsOnly { w with free := w.free + 1 } y) : y = { x with regs := y.regs, bases := y.bases, free := x.free + 1 } := by
  obtain ⟨rs, bs, rfl⟩ : ∃ rs bs, w = { x with regs := rs, bases := bs } := ⟨_, _, h.bases_frame hs⟩
  obtain ⟨r, rfl⟩ := ho
  rfl

/-! ### The residual of a base, and holdover (R369, R374) -/

theorem exec_residualZero (sl : SliceId) (b : BaseId) (s : State) : exec (.residualZero sl b) s = execResidualZero sl b s := rfl

theorem exec_trackerHoldover (sl : SliceId) (b : BaseId) (k : TrkId) (s : State) :
    exec (.trackerHoldover sl b k) s = execTrackerHoldover sl b k s := rfl

theorem exec_twinTimeMessage (sl : SliceId) (b : BaseId) (k : TrkId) (s : State) :
    exec (.twinTimeMessage sl b k) s = execTwinTimeMessage sl b k s := rfl

section
variable {s : State} {sl : SliceId} (hon : (s.slice sl).on = true) {b : BaseId} {k : TrkId}
include hon

theorem runsOn_residualZero_same (h : (baseOf (s.slice sl) b.val).res = 0) : RunsOn (.residualZero sl b) s sl fun y => y = s.slice sl := by
  refine runsOn_onStarted (exec_residualZero ..) hon ?_
  exact if_pos h

theorem runsOn_residualZero (h : (baseOf (s.slice sl) b.val).res ≠ 0) : RunsOn (.residualZero sl b) s sl fun y =>
    y = { s.slice sl with regs := y.regs, bases := y.bases } ∧ baseOf y b.val = { baseOf (s.slice sl) b.val with res := 0 }
    ∧ (∀ j, j ≠ b.val → y.bases[j]? = (s.slice sl).bases[j]?) ∧ RegsBut (s.slice sl) y (raiseKeys kTIM 2) := by
  refine runsOn_onStarted (exec_residualZero ..) hon ?_
  rw [if_neg h]
  have ho := regsOnly_raise (setBase (s.slice sl) b.val { baseOf (s.slice sl) b.val with res := 0 }) kTIM 2
  have hbut := regsBut_raise (RegsBut.refl (setBase (s.slice sl) b.val { baseOf (s.slice sl) b.val with res := 0 }) (raiseKeys kTIM 2)) kTIM 2
    (by decide) (List.Subset.refl _)
  have ht := (timesBut_setBase (s.slice sl) b.val { baseOf (s.slice sl) b.val with res := 0 } _).trans (ho.timesBut hbut)
  refine ⟨ht.bases_frame ho.scenes_eq, (baseOf_congr ho.bases_eq _).trans (baseOf_setBase _ _ b.isLt), fun j hj => ?_, ht.regs⟩
  rw [ho.bases_eq, setBase_others _ _ hj]

theorem runsOn_trackerHoldover_same (h : srcOf (s.slice sl) b.val k.val = 0 ∨ trkState (s.slice sl) b.val k.val = tkLoop
      ∨ (srcOf (s.slice sl) b.val k.val = 2 ∧ linkIsUp (s.slice sl) = true)) :
    RunsOn (.trackerHoldover sl b k) s sl fun y => y = s.slice sl := by
  refine runsOn_onStarted (exec_trackerHoldover ..) hon ?_
  exact if_pos h

/-- Losing its source changes nothing of a tracker but its state and its count of edges (R374). -/
theorem runsOn_trackerHoldover (h0 : srcOf (s.slice sl) b.val k.val ≠ 0) (hl : trkState (s.slice sl) b.val k.val ≠ tkLoop)
    (h2 : srcOf (s.slice sl) b.val k.val = 1 ∨ linkIsUp (s.slice sl) = false) : RunsOn (.trackerHoldover sl b k) s sl fun y =>
    y = { s.slice sl with regs := y.regs, bases := y.bases } ∧ trkState y b.val k.val = tkHoldover
    ∧ (∀ j, j ≠ b.val → y.bases[j]? = (s.slice sl).bases[j]?)
    ∧ (baseOf y b.val).trk k.val = { (baseOf (s.slice sl) b.val).trk k.val with edges := 0 }
    ∧ baseNow y b.val = baseNow (s.slice sl) b.val
    ∧ RegsBut (s.slice sl) y ((kTIM, trkOff b.val k.val + 4) :: (raiseKeys kTIM 0 ++ raiseKeys kTIM 1)) := by
  refine runsOn_onStarted (exec_trackerHoldover ..) hon ?_
  rw [if_neg (by
    rintro (h | h | ⟨h, hu⟩)
    · exact h0 h
    · exact hl h
    · rcases h2 with h1 | hd
      · exact absurd (h1.symm.trans h) (by decide)
      · exact absurd (hd.symm.trans hu) (by decide))]
  obtain ⟨ht, hs, hst, hoth, htrk, hn⟩ := heldOver_shows (s.slice sl) b.isLt k.isLt
  exact ⟨ht.bases_frame hs, hst, hoth, htrk, hn, ht.regs⟩

theorem runsOn_twinTimeMessage_same (h : srcOf (s.slice sl) b.val k.val ≠ 2 ∨ linkIsUp (s.slice sl) = false) :
    RunsOn (.twinTimeMessage sl b k) s sl fun y => y = s.slice sl := by
  refine runsOn_onStarted (exec_twinTimeMessage ..) hon ?_
  exact if_pos (by simpa using h)

section
variable (h2 : srcOf (s.slice sl) b.val k.val = 2) (hu : linkIsUp (s.slice sl) = true)
include h2 hu

omit hon in
theorem follows_link : ¬(srcOf (s.slice sl) b.val k.val ≠ 2 ∨ (!linkIsUp (s.slice sl)) = true) := by simp [h2, hu]

/-- Two slices that would follow each other take no time (R373). -/
theorem runsOn_twinTimeMessage_loop
    (hl : sl.val % 2 = 0 ∧ (srcOf (s.slice (twin sl)) b.val 0 = 2 ∨ srcOf (s.slice (twin sl)) b.val 1 = 2)) :
    RunsOn (.twinTimeMessage sl b k) s sl fun y => y = { s.slice sl with regs := y.regs } ∧ trkState y b.val k.val = tkLoop
      ∧ RegsBut (s.slice sl) y ((kTIM, trkOff b.val k.val + 4) :: (raiseKeys kTIM 0 ++ raiseKeys kTIM 4)) := by
  refine runsOn_onStarted (exec_twinTimeMessage ..) hon ?_
  simp only [if_neg (follows_link h2 hu), if_pos hl]
  exact ⟨(regsOnly_setTrkState _).eq_with, trkState_setTrkState _ b.isLt k.isLt (by decide),
    regsBut_setTrkState _ b.isLt k.isLt (List.mem_cons_self ..) (fun _ h => List.mem_cons_of_mem _ (List.mem_append_left _ h))
      (fun h => absurd h (by decide)) (fun _ _ h => List.mem_cons_of_mem _ (List.mem_append_right _ h))⟩

theorem runsOn_twinTimeMessage
    (hl : ¬(sl.val % 2 = 0 ∧ (srcOf (s.slice (twin sl)) b.val 0 = 2 ∨ srcOf (s.slice (twin sl)) b.val 1 = 2))) :
    RunsOn (.twinTimeMessage sl b k) s sl fun y =>
      y = { s.slice sl with regs := y.regs, bases := y.bases, free := (s.slice sl).free + 1 } ∧ trkState y b.val k.val = tkLocked
      ∧ Retimed (s.slice sl) y b.val k.val (baseNow (s.slice (twin sl)) b.val)
      ∧ (fadjOf y b.val k.val).natAbs ≤ fadjMax.natAbs ∧ RegsBut (s.slice sl) y (followKeys b.val k.val) := by
  refine runsOn_onStarted (exec_twinTimeMessage ..) hon ?_
  simp only [if_neg (follows_link h2 hu), if_neg hl]
  have hr := retimed_setTrkTime (s.slice sl) (baseNow (s.slice (twin sl)) b.val) b.isLt k.isLt
  rw [baseNow_mod] at hr
  obtain ⟨ht, hs, -⟩ := timesBut_setTrkTime (s.slice sl) (b := b.val) (k := k.val) (baseNow (s.slice (twin sl)) b.val) (followKeys b.val k.val)
  rw [servoFadj_followed]
  generalize setTrkTime (s.slice sl) b.val k.val (baseNow (s.slice (twin sl)) b.val) = w at hr ht hs ⊢
  generalize errNs _ = e
  generalize signed 32 _ = f
  obtain ⟨ho, hbut, hst, hf⟩ := followed_shows { w with free := w.free + 1 } f e b.isLt k.isLt
  generalize followed { w with free := w.free + 1 } b.val k.val f e = y at ho hbut hst hf
  have hw : RegsBut w y (followKeys b.val k.val) := (regsBut_of_eq (RegsBut.refl w _) rfl rfl).trans hbut
  have hb : y.bases = w.bases := ho.bases_eq
  exact ⟨freed_frame ht hs ho, hst, hr.after hb (hw.baseNow_eq hb b.isLt (by simp [raiseKeys, kTIM, kICN, timOff, trkOff]; omega)), hf,
    ht.regs.trans hw⟩

end

end

end Sys2Proof.Machine
end

section
/-! Proofs. Measurements of bases and trackers (R375, R377), and the obligation. -/

namespace Sys2Proof.Machine

/-! ### The ratio of a base to the felt clock (R377) -/

/-- A base's ratio as it is measured. -/
def ratioStep (x : Slice) (b : Nat) : Slice :=
  setBase { x with free := x.free + 1 } b { baseOf x b with ratio := (Config.freeDword x.id.val x.free).toNat }

/-- A slice in which `n` measurements of ratios have been taken. -/
structure Measured (x y : Slice) (n : Nat) : Prop where
  frame : y = { x with bases := y.bases, free := x.free + n }
  base : ∀ m < 4, ∃ r, baseOf y m = { baseOf x m with ratio := r }

theorem Measured.refl (x : Slice) : Measured x x 0 := ⟨rfl, fun _ _ => ⟨_, rfl⟩⟩

theorem Measured.step {x y : Slice} {n b : Nat} (h : Measured x y n) (hb : b < 4) : Measured x (ratioStep y b) (n + 1) where
  frame := by
    obtain ⟨bs, rfl⟩ : ∃ bs, y = { x with bases := bs, free := x.free + n } := ⟨_, h.frame⟩
    rfl
  base m hm := by
    obtain ⟨r, hr⟩ := h.base m hm
    by_cases hmb : m = b
    · refine ⟨(Config.freeDword y.id.val y.free).toNat, ?_⟩
      rw [hmb] at hr ⊢
      rw [ratioStep, baseOf_setBase _ _ hb, hr]
    · refine ⟨r, ?_⟩
      rw [baseOf, ratioStep, setBase_others _ _ hmb]
      exact hr

theorem measured_ratios (x : Slice) : Measured x ((List.range 4).foldl ratioStep x) 4 :=
  ((((Measured.refl x).step (b := 0) (by norm_num)).step (b := 1) (by norm_num)).step (b := 2) (by norm_num)).step (b := 3) (by norm_num)

theorem exec_feltRatioMeasure (sl : SliceId) (s : State) : exec (.feltRatioMeasure sl) s = execFeltRatioMeasure sl s := rfl

section
variable {s : State} {sl : SliceId} (hon : (s.slice sl).on = true)
include hon

theorem runsOn_feltRatio_napping (h : napping (s.slice sl) = true) : RunsOn (.feltRatioMeasure sl) s sl fun y => y = s.slice sl := by
  refine runsOn_onStarted (exec_feltRatioMeasure ..) hon ?_
  exact if_pos h

theorem runsOn_feltRatio (h : napping (s.slice sl) = false) : RunsOn (.feltRatioMeasure sl) s sl fun y =>
    y = { s.slice sl with bases := y.bases, free := (s.slice sl).free + 4 }
    ∧ ∀ m, m < 4 → ∃ r, baseOf y m = { baseOf (s.slice sl) m with ratio := r } := by
  refine runsOn_onStarted (exec_feltRatioMeasure ..) hon ?_
  rw [if_neg (by rw [h]; exact Bool.false_ne_true)]
  have hm := measured_ratios (s.slice sl)
  exact ⟨hm.frame, hm.base⟩

end

/-! ### F10M as it is measured (R375) -/

/-- One tracker, of the eight of a slice, as F10M is measured. -/
def f10mStep (x : Slice) (i : Nat) : Slice :=
  if srcOf x (i / 2) (i % 2) = 1 then regPut (servoFadj x (i / 2) (i % 2)) kTIM (trkOff (i / 2) (i % 2) + 4) 28 28 1 else x

/-- The measurement of F10M at one slice. -/
def f10mSlice (x : Slice) : Slice := if !x.on then x else (List.range 8).foldl f10mStep x

theorem exec_f10mMeasure (s : State) : exec .f10mMeasure s
    = .next (if hubUp s && s.hub.f10m then s.eachSlice f10mSlice else s) := rfl

theorem regGet_servoFadj (x : Slice) (b k : Nat) {o : Nat} (h : o ≠ trkOff b k + 8) : regGet (servoFadj x b k) kTIM o = regGet x kTIM o :=
  regGet_regSet_off { x with free := x.free + 1 } kTIM _ h

theorem fadjOf_servoFadj (x : Slice) (b k : Nat) : (fadjOf (servoFadj x b k) b k).natAbs ≤ fadjMax.natAbs := by
  have h : fadjOf (servoFadj x b k) b k = clampFadj _ := fadjOf_setFadj _ b k _
  rw [h]
  exact natAbs_clampFadj _

theorem bases_servoFadj (x : Slice) (b k : Nat) : (servoFadj x b k).bases = x.bases := rfl

/-- What the measurement leaves: bases, sources, and the rate of trackers that do not follow it. -/
structure F10mKept (x y : Slice) : Prop where
  bases : y.bases = x.bases
  sources : ∀ b k, srcOf y b k = srcOf x b k
  rates : ∀ c < 4, ∀ m < 2, srcOf x c m ≠ 1 → fadjOf y c m = fadjOf x c m

/-- Tracker `i` of the eight has been measured. -/
def F10mTaken (x : Slice) (i : Nat) (y : Slice) : Prop :=
  srcOf x (i / 2) (i % 2) = 1 → regBit y kTIM (trkOff (i / 2) (i % 2) + 4) 28 = true
    ∧ (fadjOf y (i / 2) (i % 2)).natAbs ≤ fadjMax.natAbs

theorem regGet_f10mStep (x : Slice) {i o : Nat} (h8 : o ≠ trkOff (i / 2) (i % 2) + 8) (h4 : o ≠ trkOff (i / 2) (i % 2) + 4) :
    regGet (f10mStep x i) kTIM o = regGet x kTIM o := by
  unfold f10mStep
  split
  · rw [regGet_regPut_off _ _ _ _ _ h4, regGet_servoFadj x _ _ h8]
  · rfl

theorem F10mKept.step {x y : Slice} (h : F10mKept x y) (i : Nat) : F10mKept x (f10mStep y i) where
  bases := by
    unfold f10mStep
    split
    · rw [(regsOnly_regPut (servoFadj y (i / 2) (i % 2)) kTIM (trkOff (i / 2) (i % 2) + 4) 28 28 1).bases_eq, bases_servoFadj, h.bases]
    · exact h.bases
  sources b k := (srcOf_congr (regGet_f10mStep y (by unfold trkOff; omega) (by unfold trkOff; omega))).trans (h.sources b k)
  rates c hc m hm hs := by
    rw [← h.rates c hc m hm hs]
    by_cases hi : srcOf y (i / 2) (i % 2) = 1
    · have hne : ¬(c = i / 2 ∧ m = i % 2) := fun ⟨h1, h2⟩ => hs ((h.sources c m).symm.trans (h1 ▸ h2 ▸ hi))
      rw [fadjOf, regGet_f10mStep y (by unfold trkOff; omega) (by unfold trkOff; omega), fadjOf]
    · rw [f10mStep, if_neg hi]

theorem f10mTaken_self {x y : Slice} {i : Nat} (h : F10mKept x y) : F10mTaken x i (f10mStep y i) := fun hs => by
  rw [f10mStep, if_pos ((h.sources _ _).trans hs)]
  refine ⟨?_, ?_⟩
  · rw [regBit_regPut_self _ _ _ _ _ (by norm_num)]
    rfl
  · rw [fadjOf, regGet_regPut_off _ _ _ _ _ (by omega), ← fadjOf]
    exact fadjOf_servoFadj y _ _

theorem F10mTaken.step {x y : Slice} {i j : Nat} (h : F10mKept x y) (hi : F10mTaken x i y) : F10mTaken x i (f10mStep y j) := fun hs => by
  by_cases hij : i = j
  · exact hij ▸ f10mTaken_self h hs
  · have hb : regGet (f10mStep y j) kTIM (trkOff (i / 2) (i % 2) + 4) = regGet y kTIM (trkOff (i / 2) (i % 2) + 4) :=
      regGet_f10mStep y (by unfold trkOff; omega) (by unfold trkOff; omega)
    have hf : regGet (f10mStep y j) kTIM (trkOff (i / 2) (i % 2) + 8) = regGet y kTIM (trkOff (i / 2) (i % 2) + 8) :=
      regGet_f10mStep y (by unfold trkOff; omega) (by unfold trkOff; omega)
    rw [regBit, hb, ← regBit, fadjOf, hf, ← fadjOf]
    exact hi hs

theorem f10mSlice_off {x : Slice} (h : x.on = false) : f10mSlice x = x := by
  rw [f10mSlice, h]
  rfl

theorem f10mSlice_shows (x : Slice) : F10mKept x (f10mSlice x) ∧ (x.on = true → ∀ i < 8, F10mTaken x i (f10mSlice x)) := by
  have hx : F10mKept x x := ⟨rfl, fun _ _ => rfl, fun _ _ _ _ _ => rfl⟩
  cases hon : x.on with
  | false =>
    rw [f10mSlice_off hon]
    exact ⟨hx, nofun⟩
  | true =>
    obtain ⟨hk, ht⟩ := foldl_reaches (f := f10mStep) (I := F10mKept x) (G := F10mTaken x) (fun _ i h => h.step i)
      (fun _ _ h => f10mTaken_self h) (fun _ _ _ h hi => hi.step h) (List.range 8) hx
    rw [f10mSlice, hon, Bool.not_true, if_neg Bool.false_ne_true]
    exact ⟨hk, fun _ i hi => ht i (List.mem_range.2 hi)⟩

theorem runs_f10mMeasure_same {s : State} (h : hubUp s = false ∨ s.hub.f10m = false) : Runs .f10mMeasure s fun u => u = s := by
  refine Runs.intro (exec_f10mMeasure s) (if_neg ?_)
  rcases h with h | h <;> simp [h]

theorem runs_f10mMeasure {s : State} (h : hubUp s = true) (hf : s.hub.f10m = true) : Runs .f10mMeasure s fun u =>
    u.hub = s.hub ∧ u.pending = s.pending ∧ ∀ n, ((s.slice n).on = false → u.slice n = s.slice n) ∧ (u.slice n).bases = (s.slice n).bases
      ∧ ∀ c < 4, ∀ m < 2, (srcOf (s.slice n) c m ≠ 1 → fadjOf (u.slice n) c m = fadjOf (s.slice n) c m)
        ∧ ((s.slice n).on = true → srcOf (s.slice n) c m = 1 → regBit (u.slice n) kTIM (trkOff c m + 4) 28 = true
          ∧ (fadjOf (u.slice n) c m).natAbs ≤ fadjMax.natAbs) := by
  refine Runs.intro (exec_f10mMeasure s) ?_
  rw [if_pos (by rw [h, hf]; rfl)]
  refine ⟨rfl, rfl, fun n => ?_⟩
  rw [slice_eachSlice]
  obtain ⟨hk, ht⟩ := f10mSlice_shows (s.slice n)
  refine ⟨f10mSlice_off, hk.bases, fun c hc m hm => ⟨hk.rates c hc m hm, fun hon => ?_⟩⟩
  have hi := ht hon (2 * c + m) (by omega)
  rw [F10mTaken, show (2 * c + m) / 2 = c by omega, show (2 * c + m) % 2 = m by omega] at hi
  exact hi

/-! ### The obligation -/

/-- The commands of TIM, each with the register it writes and the word. -/
def timPosts (x : Slice) (sl : SliceId) (b : BaseId) (k : TrkId) (v : Word) : List (Instr × Nat × Word) :=
  let o := timOff b.val
  let t := trkOff b.val k.val
  [(.capture sl b, o, setFld (regGet x kTIM o) 1 0 1), (.step sl b, o, setFld (regGet x kTIM o) 1 0 2),
    (.aselSwitch sl b v, o, setFld (setFld (regGet x kTIM o) 1 0 0) 31 31 (fld v 31 31)),
    (.set sl b k, t, setFld (regGet x kTIM t) 2 0 1), (.phaseWrite sl b k v, t + 0xC, v), (.fadjWrite sl b k v, t + 8, v)]

theorem timPosts_timCommand (s : State) (sl : SliceId) (b : BaseId) (k : TrkId) (v : Word) :
    ∀ c ∈ timPosts (s.slice sl) sl b k v, c.2.1 < 0x100000 ∧ ∃ w : Slice → Word, w (s.slice sl) = c.2.2 ∧ exec c.1 s = timCommand sl c.2.1 w s := by
  have ho : timOff b.val < 0x100000 := by unfold timOff; omega
  have ht : trkOff b.val k.val + 0xC < 0x100000 := by unfold trkOff; omega
  intro c hc
  simp only [timPosts, List.mem_cons, List.not_mem_nil, or_false] at hc
  rcases hc with rfl | rfl | rfl | rfl | rfl | rfl
  · exact ⟨ho, fun x => withCmd x (timOff b.val) 1 1, rfl, rfl⟩
  · exact ⟨ho, fun x => withCmd x (timOff b.val) 1 2, rfl, rfl⟩
  · exact ⟨ho, fun x => setFld (withCmd x (timOff b.val) 1 0) 31 31 (fld v 31 31), rfl, rfl⟩
  · exact ⟨(Nat.le_add_right ..).trans_lt ht, fun x => withCmd x (trkOff b.val k.val) 2 1, rfl, rfl⟩
  · exact ⟨ht, fun _ => v, rfl, rfl⟩
  · exact ⟨(Nat.add_le_add_left (by norm_num) _).trans_lt ht, fun _ => v, rfl, rfl⟩

theorem Lands.imp {s : State} {sl : SliceId} {off : Nat} {v : Word} {P Q : Slice → Prop} (h : Lands s sl off v P) (hi : ∀ y, P y → Q y) :
    Lands s sl off v Q := fun hb hp => by
  obtain ⟨y, ms, he, hbusy, hP⟩ := h hb hp
  exact ⟨y, ms, he, hbusy, hi y hP⟩

theorem Retimed.parts {x y : Slice} {b : Nat} {k : TrkId} {u : Nat} (h : Retimed x y b k.val u) :
    (∀ j, j ≠ b → y.bases[j]? = x.bases[j]?) ∧ (baseOf y b).trk k.val = { (baseOf x b).trk k.val with time := u }
    ∧ (∀ m : TrkId, m ≠ k → (baseOf y b).trk m.val = (baseOf x b).trk m.val) ∧ baseNow y b = baseNow x b :=
  ⟨h.others, h.time, fun m hm => h.trks m.val m.isLt fun e => hm (Fin.ext e), h.now⟩

/-- Settles O50: the commands of TIM as they are posted and as they land, then what moves bases and trackers by itself. -/
theorem timeBases : Obligations.TimeBases := by
  unfold Obligations.TimeBases
  intro s sl b k v hon x z a o t now jump others posts rest lands retimed src
  have hpost := timPosts_timCommand s sl b k v
  refine ⟨fun hb c hc => ?_, fun hb c hc => ?_, fun ha hc => lands_capture hon ha hc, fun ha hc hd => (lands_step_back hon ha hc hd).imp ?_,
    fun ha hc hd h0 hg har hpo => (lands_step_forward hon ha hc hd h0 hg har hpo).imp ?_, fun hc => (lands_select hon hc).imp ?_,
    (lands_tctl hon).imp ?_, (lands_phase hon).imp ?_, lands_fadj hon, runsOn_residualZero_same hon, runsOn_residualZero hon,
    runsOn_trackerHoldover_same hon, runsOn_trackerHoldover hon, runsOn_twinTimeMessage_same hon, fun h2 hu => ⟨runsOn_twinTimeMessage_loop hon h2 hu, fun hl => ?_⟩,
    runsOn_feltRatio_napping hon, runsOn_feltRatio hon, runs_f10mMeasure_same, runs_f10mMeasure⟩
  · obtain ⟨ho, w, -, he⟩ := hpost c hc
    exact runsOn_timCommand_busy he hon ho hb
  · obtain ⟨-, w, hw, he⟩ := hpost c hc
    rw [← hw]
    exact runsOn_timCommand_idle he hon hb
  · rintro y ⟨he, hst, hk⟩
    exact ⟨he, hst.base, hst.now, hst.others, hk⟩
  · rintro y ⟨he, hst, hk, hsc⟩
    exact ⟨he, hst.base, hst.now, hst.others, hk, hsc⟩
  · rintro y ⟨he, ha, hf, hk, ⟨r, hr⟩, ho, hn⟩
    exact ⟨he, ha, hf, hk, by rw [hr], by rw [hr], ho, hn⟩
  · rintro y ⟨he, hv, hs, h1, h2, hk⟩
    exact ⟨he, hv, hs, fun h => (h1 h).parts, h2, hk⟩
  · rintro y ⟨he, hr, hk⟩
    exact ⟨he, hr.parts, hk⟩
  · obtain ⟨y, hx, he, hs, hr, hf, hk⟩ := runsOn_twinTimeMessage hon h2 hu hl
    exact ⟨y, hx, he, hs, hr.others, hr.time, hr.now, hf, hk⟩

end Sys2Proof.Machine
end

section
/-! Proofs. The scene table: rows, their words, and what a write of a row leaves (R383). -/

namespace Sys2Proof.Machine

/-! ### Words under a mask -/

theorem w32_and (w : Word) (m : Nat) : w32 (w.toNat &&& m) = w &&& BitVec.ofNat 32 m := by
  refine word_ext fun i hi => ?_
  rw [wbit_w32 _ hi, Nat.testBit_and, wbit_and]
  exact congrArg (wbit w i && ·) (wbit_w32 m hi).symm

theorem wbit_or (w m : Word) (i : Nat) : wbit (w ||| m) i = (wbit w i || wbit m i) := by
  rw [wbit, BitVec.toNat_or, Nat.testBit_or]
  rfl

/-- A field that a mask does not touch. -/
theorem fld_and_of_set (w m : Word) {hi lo : Nat} (h : ∀ i, lo ≤ i → i ≤ hi → wbit m i = true) : fld (w &&& m) hi lo = fld w hi lo :=
  fld_congr fun i h1 h2 => by rw [wbit_and, h i h1 h2, Bool.and_true]

theorem setBit_false {w : Word} {i : Nat} (hi : i < 32) (h : wbit w i = false) : setBit w i false = w := by
  refine word_ext fun j hj => ?_
  by_cases hij : j = i
  · rw [hij, wbit_setBit_self _ _ _ hi, h]
  · rw [wbit_setBit_ne _ _ _ _ hi hij]

/-! ### Rows of tables -/

section
variable {x y z : Slice} {ks : List (Nat × Nat × Nat)}

theorem TabsBut.refl (x : Slice) (ks : List (Nat × Nat × Nat)) : TabsBut x x ks := fun _ _ _ _ _ _ => rfl

theorem TabsBut.trans (h : TabsBut x y ks) (g : TabsBut y z ks) : TabsBut x z ks := fun t i w hi hw hn =>
  (g t i w hi hw hn).trans (h t i w hi hw hn)

theorem TabsBut.mono {ls : List (Nat × Nat × Nat)} (h : TabsBut x y ks) (hs : ks ⊆ ls) : TabsBut x y ls := fun t i w hi hw hn =>
  h t i w hi hw fun hm => hn (hs hm)

theorem tabsBut_of_eq (h : y.tabs = x.tabs) : TabsBut x y ks := fun t i w _ _ _ => by rw [tabGet, h, tabGet]

theorem TabsBut.congr (h : TabsBut x y ks) (hz : z.tabs = y.tabs) : TabsBut x z ks := h.trans (tabsBut_of_eq hz)

theorem tabsBut_tabSet (h : TabsBut x y ks) {t i w : Nat} (v : Word) (hi : i < 2 ^ 24) (hw : w < 64) (hm : (t, i, w) ∈ ks) :
    TabsBut x (tabSet y t i w v) ks := fun t' i' w' hi' hw' hn => by
  rw [tabGet_tabSet_ne _ _ _ _ _ _ _ _ fun e => ?_, h t' i' w' hi' hw' hn]
  obtain ⟨rfl, rfl, rfl⟩ := tabKey_inj hi' hi hw' hw e
  exact hn hm

end

/-- Words written to a row one after the other. -/
def putWords (x : Slice) (t i k : Nat) (ws : List Word) : Slice := (ws.zipIdx k).foldl (fun x p => tabSet x t i p.2 p.1) x

theorem putWords_frame (x : Slice) (t i k : Nat) (ws : List Word) : ∃ T, putWords x t i k ws = { x with tabs := T } := by
  induction ws generalizing x k with
  | nil => exact ⟨x.tabs, rfl⟩
  | cons a ws ih =>
    obtain ⟨T, e⟩ := ih (tabSet x t i k a) (k + 1)
    exact ⟨T, e⟩

theorem tabGet_putWords_out {t i : Nat} (hi : i < 2 ^ 24) (x : Slice) {k : Nat} (ws : List Word) (hk : k + ws.length ≤ 64) {t' i' w : Nat}
    (hi' : i' < 2 ^ 24) (hw : w < 64) (hn : ¬(t' = t ∧ i' = i ∧ k ≤ w ∧ w < k + ws.length)) :
    tabGet (putWords x t i k ws) t' i' w = tabGet x t' i' w := by
  induction ws generalizing x k with
  | nil => rfl
  | cons a ws ih =>
    rw [List.length_cons] at hk hn
    have h : tabGet (putWords (tabSet x t i k a) t i (k + 1) ws) t' i' w = _ := ih (tabSet x t i k a) (by omega) (by omega)
    refine h.trans (tabGet_tabSet_ne _ _ _ _ _ _ _ _ fun e => hn ?_)
    obtain ⟨rfl, rfl, rfl⟩ := tabKey_inj hi' hi hw (by omega) e
    exact ⟨rfl, rfl, le_refl _, by omega⟩

theorem tabGet_putWords {t i : Nat} (hi : i < 2 ^ 24) (x : Slice) {k : Nat} (ws : List Word) (hk : k + ws.length ≤ 64) {j : Nat} {a : Word}
    (hj : ws[j]? = some a) : tabGet (putWords x t i k ws) t i (k + j) = a := by
  induction ws generalizing x k j with
  | nil => exact absurd hj (by simp)
  | cons b ws ih =>
    rw [List.length_cons] at hk
    cases j with
    | zero =>
      obtain rfl : b = a := by simpa using hj
      have h : tabGet (putWords (tabSet x t i k b) t i (k + 1) ws) t i k = _ :=
        tabGet_putWords_out hi _ ws (by omega) hi (by omega) (by omega)
      exact h.trans (tabGet_tabSet_self ..)
    | succ j =>
      have h := ih (tabSet x t i k b) (k := k + 1) (by omega) (j := j) (by simpa using hj)
      rw [show k + (j + 1) = k + 1 + j by omega]
      exact h

/-! ### The staged row (R383) -/

/-- The keys of a scene's row. -/
abbrev sceneKeys (n : Nat) : List (Nat × Nat × Nat) :=
  [(tScene, n, 0), (tScene, n, 1), (tScene, n, 2), (tScene, n, 3), (tScene, n, 4), (tScene, n, 5)]

/-- A word of the staged entry, TIM_SCST. -/
abbrev stagedWord (x : Slice) (k : Nat) : Word := regGet x kTIM (0x410 + 4 * k)

theorem stagedScene_eq (x : Slice) : stagedScene x = [stagedWord x 0 &&& 0x8CFFFFFF, stagedWord x 1, stagedWord x 2, stagedWord x 3,
    stagedWord x 4, stagedWord x 5 &&& 0x000FFFFF] := by
  have h : ∀ w : Word, w &&& BitVec.ofNat 32 all32 = w := fun w => BitVec.and_allOnes
  simp only [stagedScene, List.zipIdx_cons, List.zipIdx_nil, List.map_cons, List.map_nil, h, w32_and, zero_add]
  rfl

/-- A slice whose scene table has row `n` as staged, with STATE `st`. -/
def sceneStaged (x : Slice) (n st : Nat) : Slice := setScene (tabPutRow x tScene n (stagedScene x)) n st

section
variable (x : Slice) {n st : Nat} (hn : n < 2 ^ 24)

theorem tabPutRow_staged_eq : tabPutRow x tScene n (stagedScene x) = putWords x tScene n 0 (stagedScene x) := rfl

include hn

theorem sceneW_putRow {k : Nat} {a : Word} (h : (stagedScene x)[k]? = some a) : sceneW (tabPutRow x tScene n (stagedScene x)) n k = a := by
  have h6 : (stagedScene x).length = 6 := by rw [stagedScene_eq]; rfl
  rw [tabPutRow_staged_eq, sceneW, ← tabGet_putWords hn x (stagedScene x) (k := 0) (by omega) h, Nat.zero_add]

theorem tabsBut_putRow : TabsBut x (tabPutRow x tScene n (stagedScene x)) (sceneKeys n) := fun t i w hi hw hk => by
  have h6 : (stagedScene x).length = 6 := by rw [stagedScene_eq]; rfl
  rw [tabPutRow_staged_eq]
  refine tabGet_putWords_out hn x (stagedScene x) (by omega) hi hw fun h => hk ?_
  obtain ⟨rfl, rfl, -, hlt⟩ := h
  have : w < 6 := by omega
  interval_cases w <;> simp

theorem sceneW_setScene_ne (y : Slice) {k : Nat} (hk : k < 64) (h0 : k ≠ 0) : sceneW (setScene y n st) n k = sceneW y n k :=
  tabGet_tabSet_ne _ _ _ _ _ _ _ _ fun e => h0 (tabKey_inj hn hn hk (by norm_num) e).2.2

omit hn in
theorem sceneW_setScene_zero (y : Slice) : sceneW (setScene y n st) n 0 = setFld (sceneW y n 0) 30 28 st := tabGet_tabSet_self ..

omit hn in
theorem sceneState_setScene (y : Slice) (hs : st < 8) : sceneState (setScene y n st) n = st := by
  rw [sceneState, sceneW_setScene_zero, fld_setFld_self _ _ _ _ (by norm_num) (by norm_num)]
  exact Nat.mod_eq_of_lt hs

theorem tabsBut_setScene (y : Slice) : TabsBut y (setScene y n st) [(tScene, n, 0)] :=
  tabsBut_tabSet (TabsBut.refl y _) _ hn (by norm_num) (List.mem_singleton_self _)

theorem tabsBut_sceneStaged : TabsBut x (sceneStaged x n st) (sceneKeys n) :=
  (tabsBut_putRow x hn).trans ((tabsBut_setScene hn _).mono (by simp))

theorem sceneW_sceneStaged_zero : sceneW (sceneStaged x n st) n 0 = setFld (stagedWord x 0 &&& 0x8CFFFFFF) 30 28 st := by
  rw [sceneStaged, sceneW_setScene_zero, sceneW_putRow x hn (a := stagedWord x 0 &&& 0x8CFFFFFF) (by rw [stagedScene_eq]; rfl)]

theorem sceneW_sceneStaged : sceneW (sceneStaged x n st) n 1 = stagedWord x 1 ∧ sceneW (sceneStaged x n st) n 2 = stagedWord x 2
    ∧ sceneW (sceneStaged x n st) n 3 = stagedWord x 3 ∧ sceneW (sceneStaged x n st) n 4 = stagedWord x 4
    ∧ sceneW (sceneStaged x n st) n 5 = stagedWord x 5 &&& 0x000FFFFF := by
  have h : ∀ k a, k ≠ 0 → k < 64 → (stagedScene x)[k]? = some a → sceneW (sceneStaged x n st) n k = a := fun k a h0 h64 hk =>
    (sceneW_setScene_ne hn _ h64 h0).trans (sceneW_putRow x hn hk)
  refine ⟨h 1 _ (by norm_num) (by norm_num) ?_, h 2 _ (by norm_num) (by norm_num) ?_, h 3 _ (by norm_num) (by norm_num) ?_,
    h 4 _ (by norm_num) (by norm_num) ?_, h 5 _ (by norm_num) (by norm_num) ?_⟩
  all_goals rw [stagedScene_eq]; rfl

end

/-- STATE written over a word whose STATE the mask has cleared. -/
theorem setFld_state (w : Word) {st : Nat} {c : Word}
    (h : ∀ i < 32, ∀ b : Bool, (if 28 ≤ i ∧ i ≤ 30 then Nat.testBit st (i - 28) else (b && Nat.testBit 0x8CFFFFFF i))
      = (b && Nat.testBit 0x8CFFFFFF i || wbit c i)) : setFld (w &&& 0x8CFFFFFF) 30 28 st = (w &&& 0x8CFFFFFF) ||| c := by
  refine word_ext fun i hi => ?_
  have hm : wbit (0x8CFFFFFF : Word) i = Nat.testBit 0x8CFFFFFF i := rfl
  rw [wbit_setFld _ _ _ _ _ (by norm_num) (by norm_num), wbit_or, wbit_and, hm]
  exact h i hi _

theorem setFld_armed (w : Word) : setFld (w &&& 0x8CFFFFFF) 30 28 scArmed = (w &&& 0x8CFFFFFF) ||| 0x10000000 := setFld_state w (by decide +kernel)

theorem setFld_cancelled (w : Word) : setFld (w &&& 0x8CFFFFFF) 30 28 scCancelled = (w &&& 0x8CFFFFFF) ||| 0x60000000 :=
  setFld_state w (by decide +kernel)

/-! ### The end of a command (R385) -/

theorem sceneDone_word (v : Word) : w32 (v.toNat &&& 0x30000FFF) = v &&& 0x30000FFF := w32_and v _

section
variable (x : Slice) (v : Word) (ref : Bool)

theorem regsOnly_sceneDone : RegsOnly x (sceneDone x v ref) := regsOnly_regSet ..

theorem regsBut_sceneDone {ks : List (Nat × Nat)} (h : (kTIM, 0x430) ∈ ks) : RegsBut x (sceneDone x v ref) ks :=
  regsBut_regSet (RegsBut.refl x ks) _ _ _ (by norm_num) h

theorem regGet_sceneDone : regGet (sceneDone x v ref) kTIM 0x430 = setBit (v &&& 0x30000FFF) 30 ref := by
  rw [sceneDone, regGet_regSet_self, sceneDone_word]

theorem regGet_sceneDone_taken : regGet (sceneDone x v false) kTIM 0x430 = v &&& 0x30000FFF := by
  rw [regGet_sceneDone, setBit_false (by norm_num)]
  rw [wbit_and]
  exact Bool.and_false _

theorem regBit_sceneDone_refused : regBit (sceneDone x v ref) kTIM 0x430 30 = ref := by
  rw [regBit, regGet_sceneDone, wbit_setBit_self _ _ _ (by norm_num)]

theorem regBit_sceneDone_ended : regBit (sceneDone x v ref) kTIM 0x430 31 = false := by
  rw [regBit, regGet_sceneDone, wbit_setBit_ne _ _ _ _ (by norm_num) (by norm_num), wbit_and]
  exact Bool.and_false _

end

end Sys2Proof.Machine
end

section
/-! Proofs. Scene commands: posted, and as the time domain takes them (R106, R383, R385). -/

namespace Sys2Proof.Machine

/-! ### A command is posted (R106) -/

section
variable {c : Instr} {s : State} {sl : SliceId} {v : Word} {op : Nat} {st : Slice → Bool} (h : exec c s = sceneCommand sl v op st s)
  (hon : (s.slice sl).on = true) (hv : wbit v 31 = true) {ok : Bool} (hok : ok = (decide (fld v 29 28 = op) && st (s.slice sl)))
include h hon hv hok

theorem runsOn_sceneCommand :
    (ok = true → pendBusy (s.slice sl) kTIM = false → RunsOn c s sl fun y =>
      y = { s.slice sl with regs := y.regs, posted := (s.slice sl).posted ++ [(kTIM, 0x430, v)], bus := .done }
      ∧ pendBusy y kTIM = true ∧ RegsBut (s.slice sl) y [(kTIM, 0x10)])
    ∧ (ok = true → pendBusy (s.slice sl) kTIM = true → RunsOn c s sl fun y => y = { s.slice sl with regs := y.regs, bus := .done }
      ∧ regBit y kTIM 0x10 30 = true ∧ RegsBut (s.slice sl) y ((kTIM, 0x10) :: raiseKeys kTIM 15))
    ∧ (ok = false → RunsOn c s sl fun y => y = s.slice sl) := by
  have hcmd : exec c s = if ok then timCommand sl 0x430 (fun _ => v) s else .next s := by
    rw [h, sceneCommand, hv, Bool.true_and, hok]
  refine ⟨fun hk hb => ?_, fun hk hb => ?_, fun hk => ?_⟩
  · rw [hk, if_pos rfl] at hcmd
    exact runsOn_timCommand_idle hcmd hon hb
  · rw [hk, if_pos rfl] at hcmd
    obtain ⟨y, he, hy, h30, -, hbut⟩ := runsOn_timCommand_busy hcmd hon (by norm_num) hb
    exact ⟨y, he, hy, h30, hbut⟩
  · rw [hk, if_neg Bool.false_ne_true] at hcmd
    exact RunsOn.intro (hcmd.trans (by rw [setSlice_slice])) rfl

end

/-! ### What a command tests (R383) -/

section
variable (x : Slice) {n : Nat} (hn : n < 2 ^ 24)
include hn

/-- The entry as it is staged, read as the table's. -/
theorem staged_fields : sceneBase (tabPutRow x tScene n (stagedScene x)) n = fld (stagedWord x 0) 27 26
    ∧ fld (sceneW (tabPutRow x tScene n (stagedScene x)) n 0) 23 16 = fld (stagedWord x 0) 23 16
    ∧ sceneT (tabPutRow x tScene n (stagedScene x)) n
      = unitsOf (fld (stagedWord x 0) 15 0 * 2 ^ 32 + (stagedWord x 1).toNat) (stagedWord x 2).toNat
    ∧ fld (sceneW (tabPutRow x tScene n (stagedScene x)) n 5) 19 0 = fld (stagedWord x 5) 19 0 := by
  have hw : ∀ k a, (stagedScene x)[k]? = some a → sceneW (tabPutRow x tScene n (stagedScene x)) n k = a := fun k a => sceneW_putRow x hn
  have h0 := hw 0 (stagedWord x 0 &&& 0x8CFFFFFF) (by rw [stagedScene_eq]; rfl)
  have h1 := hw 1 (stagedWord x 1) (by rw [stagedScene_eq]; rfl)
  have h2 := hw 2 (stagedWord x 2) (by rw [stagedScene_eq]; rfl)
  have h5 := hw 5 (stagedWord x 5 &&& 0x000FFFFF) (by rw [stagedScene_eq]; rfl)
  have hmask : ∀ hi lo, (∀ i, lo ≤ i → i ≤ hi → wbit (0x8CFFFFFF : Word) i = true) →
      fld (stagedWord x 0 &&& 0x8CFFFFFF) hi lo = fld (stagedWord x 0) hi lo := fun hi lo => fld_and_of_set _ _
  refine ⟨?_, ?_, ?_, ?_⟩
  · rw [sceneBase, h0, hmask]
    intro i h1 h2
    interval_cases i <;> decide
  · rw [h0, hmask]
    intro i h1 h2
    interval_cases i <;> decide
  · rw [sceneT, h0, h1, h2, hmask]
    intro i h1 h2
    interval_cases i <;> decide
  · rw [h5]
    refine fld_and_of_set _ _ fun i h1 h2 => ?_
    interval_cases i <;> decide

end

/-- A scene that still has frames to release. -/
abbrev sceneRuns (x : Slice) (n : Nat) : Prop := sceneState x n = scArmed ∨ sceneState x n = scFetching ∨ sceneState x n = scReleasing

/-- The staged entry is at least 200 µs ahead of its base. -/
abbrev stagedEarly (x : Slice) : Prop := baseNow x (fld (stagedWord x 0) 27 26) + 200000 * nsUnits
  ≤ unitsOf (fld (stagedWord x 0) 15 0 * 2 ^ 32 + (stagedWord x 1).toNat) (stagedWord x 2).toNat

/-- The slots of the staged entry lie in the region. -/
abbrev stagedFits (x : Slice) : Prop := fld (stagedWord x 5) 19 0 + fld (stagedWord x 0) 23 16 ≤ 1048575

theorem fld_11_0_lt (v : Word) : fld v 11 0 < 2 ^ 24 := (Nat.mod_lt _ (by norm_num)).trans (by norm_num)

section
variable {x : Slice} {v : Word}

theorem sceneArmOp_eq : sceneArmOp x v = if sceneRuns x (fld v 11 0) ∨ ¬stagedEarly x ∨ ¬stagedFits x then sceneDone x v true
    else sceneDone (sceneStaged x (fld v 11 0) scArmed) v false := by
  obtain ⟨hb, hc, ht, hs⟩ := staged_fields x (fld_11_0_lt v)
  simp only [sceneArmOp, hb, hc, ht, hs, sceneStaged, or_assoc, not_le]

theorem sceneCancelOp_runs (h : sceneRuns x (fld v 11 0)) :
    sceneCancelOp x v = sceneDone (endRun (sceneStaged x (fld v 11 0) scCancelled) (fld v 11 0)) v false := by
  simp only [sceneCancelOp, if_pos h, sceneStaged]

theorem sceneCancelOp_idle (h : ¬sceneRuns x (fld v 11 0)) :
    sceneCancelOp x v = sceneDone (sceneStaged x (fld v 11 0) (sceneState x (fld v 11 0))) v false := by
  simp only [sceneCancelOp, if_neg h, sceneStaged]

theorem sceneCmd_arm (hv : wbit v 31 = true) (h1 : fld v 29 28 = 1) (hs : regBit x kTIM 0x410 31 = true) : sceneCmd x v = sceneArmOp x v := by
  simp [sceneCmd, sceneStagedValid, hv, h1, hs]

theorem sceneCmd_cancel (hv : wbit v 31 = true) (h1 : fld v 29 28 = 1) (hs : regBit x kTIM 0x410 31 = false) : sceneCmd x v = sceneCancelOp x v := by
  simp [sceneCmd, sceneStagedValid, hv, h1, hs]

theorem sceneCmd_read (hv : wbit v 31 = true) (h2 : fld v 29 28 = 2) : sceneCmd x v = sceneReadOp x v := by
  simp [sceneCmd, hv, h2]

end

/-! ### The row as it is written -/

/-- Beyond registers and cells, a slice whose table has row `n` as staged, with STATE `st`. -/
structure StagedRow (x y : Slice) (n : Nat) : Prop where
  words : sceneW y n 1 = stagedWord x 1 ∧ sceneW y n 2 = stagedWord x 2 ∧ sceneW y n 3 = stagedWord x 3 ∧ sceneW y n 4 = stagedWord x 4
    ∧ sceneW y n 5 = stagedWord x 5 &&& 0x000FFFFF
  tabs : TabsBut x y (sceneKeys n)

theorem sceneW_congr {x y : Slice} (h : y.tabs = x.tabs) (n k : Nat) : sceneW y n k = sceneW x n k := by rw [sceneW, tabGet, h, sceneW, tabGet]

theorem stagedRow_of_tabs {x y : Slice} {n st : Nat} (hn : n < 2 ^ 24) (h : y.tabs = (sceneStaged x n st).tabs) : StagedRow x y n where
  words := by
    simp only [sceneW_congr h]
    exact sceneW_sceneStaged x hn
  tabs := (tabsBut_sceneStaged x hn).congr h

theorem sceneStaged_frame (x : Slice) (n st : Nat) : ∃ T, sceneStaged x n st = { x with tabs := T } := by
  obtain ⟨T, e⟩ := putWords_frame x tScene n 0 (stagedScene x)
  rw [sceneStaged, tabPutRow_staged_eq, e]
  exact ⟨_, rfl⟩

/-! ### A run ends, and its cells are free (R385) -/

/-- Cells that have gone back, and nothing else but registers of BUF. -/
structure CellsGone (x y : Slice) (ks : List Nat) : Prop where
  frame : ∃ r su co, y = { x with regs := r, suspects := su, cellsOut := co }
  gone : ∀ c ∈ ks, sFind y.cellsOut c = none
  kept : ∀ c, c ∉ ks → sFind y.cellsOut c = sFind x.cellsOut c

theorem cellsGone_freeCell (x : Slice) (k : Nat) : CellsGone x (freeCell x k) [k] := by
  cases ho : sFind x.cellsOut k with
  | none =>
    rw [freeCell_none ho]
    exact ⟨⟨_, _, _, rfl⟩, fun c hc => List.mem_singleton.1 hc ▸ ho, fun _ _ => rfl⟩
  | some o =>
    rw [freeCell_some ho]
    exact ⟨⟨_, _, _, rfl⟩, fun c hc => List.mem_singleton.1 hc ▸ sFind_sDel_self .., fun c hc => sFind_sDel_ne _ fun e => hc (List.mem_singleton.2 e)⟩

theorem cellsGone_freeCells (x : Slice) (ks : List Nat) : CellsGone x (freeCells x ks) ks := by
  unfold freeCells
  induction ks generalizing x with
  | nil => exact ⟨⟨_, _, _, rfl⟩, fun c hc => absurd hc List.not_mem_nil, fun _ _ => rfl⟩
  | cons k ks ih =>
    obtain ⟨⟨r, su, co, e⟩, hg, hk⟩ := cellsGone_freeCell x k
    obtain ⟨⟨r', su', co', e'⟩, hg', hk'⟩ := ih (freeCell x k)
    rw [List.foldl_cons]
    refine ⟨⟨r', su', co', by rw [e', e]⟩, fun c hc => ?_, fun c hc => ?_⟩
    · by_cases hm : c ∈ ks
      · exact hg' c hm
      · rw [hk' c hm]
        exact hg c (List.mem_singleton.2 ((List.mem_cons.1 hc).resolve_right hm))
    · rw [hk' c fun hm => hc (List.mem_cons_of_mem _ hm), hk c fun hm => hc (List.mem_singleton.1 hm ▸ List.mem_cons_self ..)]

theorem endRun_shows (x : Slice) (n : Nat) : (∃ r su co,
      endRun x n = { x with regs := r, suspects := su, cellsOut := co, scenes := x.scenes.filter (·.scene ≠ n) })
    ∧ (∀ c ∈ (runOf x n).cells, sFind (endRun x n).cellsOut c = none)
    ∧ ∀ c, c ∉ (runOf x n).cells → sFind (endRun x n).cellsOut c = sFind x.cellsOut c := by
  obtain ⟨⟨r, su, co, e⟩, hg, hk⟩ := cellsGone_freeCells x (runOf x n).cells
  exact ⟨⟨r, su, co, by rw [endRun, e]⟩, hg, hk⟩

/-! ### A read stages the entry (R383) -/

/-- The registers of the staged entry. -/
abbrev stagedKeys : List (Nat × Nat) :=
  [(kTIM, 0x410), (kTIM, 0x414), (kTIM, 0x418), (kTIM, 0x41C), (kTIM, 0x420), (kTIM, 0x424), (kTIM, 0x430), (kTIM, 0x10)]

/-- One word of an entry staged. -/
def stageWord (x : Slice) (n : Nat) (y : Slice) (i : Nat) : Slice := regSet y kTIM (0x410 + 4 * i) (sceneW x n i)

/-- The words of an entry staged. -/
def stageRow (x : Slice) (n : Nat) : Slice := (List.range 6).foldl (stageWord x n) x

theorem stageRow_shows (x : Slice) (n : Nat) : RegsOnly x (stageRow x n) ∧ RegsBut x (stageRow x n) stagedKeys
    ∧ ∀ k < 6, stagedWord (stageRow x n) k = sceneW x n k := by
  have hkeep : ∀ (y : Slice) (a b : Nat), stagedWord y a = sceneW x n a → stagedWord (stageWord x n y b) a = sceneW x n a := fun y a b h => by
    by_cases hab : a = b
    · rw [hab]
      exact regGet_regSet_self ..
    · exact (regGet_regSet_off y kTIM _ (by omega)).trans h
  refine ⟨regsOnly_foldl (fun y a => regsOnly_regSet ..) _ x, ?_, fun k hk => ?_⟩
  · refine List.foldlRecOn (motive := fun y => RegsBut x y stagedKeys) (List.range 6) _ (RegsBut.refl x _) fun y hy a ha => ?_
    have h6 : a < 6 := List.mem_range.1 ha
    refine regsBut_regSet hy _ _ _ (by omega) ?_
    interval_cases a <;> simp
  · exact (foldl_reaches (f := stageWord x n) (I := fun _ => True) (G := fun a y => stagedWord y a = sceneW x n a) (fun _ _ _ => trivial)
      (fun y a _ => regGet_regSet_self ..) (fun y a b _ h => hkeep y a b h) (List.range 6) trivial).2 k (List.mem_range.2 hk)

theorem sceneReadOp_eq (x : Slice) (v : Word) : sceneReadOp x v = sceneDone (stageRow x (fld v 11 0)) v (regBit x kTIM 0x430 30) := rfl

/-! ### The commands land (R106) -/

theorem rowAt_scene : ∃ r, rowAt kTIM 0x430 = some r := Option.isSome_iff_exists.1 (by decide +kernel)

theorem timLand_scene (x : Slice) (r : RegRow) (v : Word) : timLand x 0x430 r v = sceneCmd x v := if_pos rfl

/-- A staged row that has been taken, when nothing runs that it ends. -/
theorem staged_taken {x y : Slice} {n st : Nat} {v : Word} (hn : n < 2 ^ 24) (ho : RegsOnly (sceneDone (sceneStaged (taking x) n st) v false) y)
    (hy : RegsBut (sceneDone (sceneStaged (taking x) n st) v false) y [(kTIM, 0x10)]) :
    y = { x with regs := y.regs, tabs := y.tabs, posted := x.posted.filter (·.1 ≠ kTIM) }
    ∧ sceneW y n 0 = setFld (stagedWord x 0 &&& 0x8CFFFFFF) 30 28 st ∧ StagedRow x y n
    ∧ regGet y kTIM 0x430 = v &&& 0x30000FFF ∧ RegsBut x y [(kTIM, 0x430), (kTIM, 0x10)] := by
  have hw0 := sceneW_sceneStaged_zero (taking x) (st := st) hn
  have hdone := regGet_sceneDone_taken (sceneStaged (taking x) n st) v
  have hz := regsBut_sceneDone (sceneStaged (taking x) n st) v false (ks := [(kTIM, 0x430), (kTIM, 0x10)]) (List.mem_cons_self ..)
  have htabs : y.tabs = (sceneStaged (taking x) n st).tabs := ho.tabs_eq.trans (regsOnly_sceneDone ..).tabs_eq
  have hrow := stagedRow_of_tabs (x := taking x) hn htabs
  have hall := (regsOnly_sceneDone (sceneStaged (taking x) n st) v false).trans ho
  obtain ⟨T, hT⟩ := sceneStaged_frame (taking x) n st
  refine ⟨?_, (sceneW_congr htabs n 0).trans hw0, ⟨hrow.words, hrow.tabs⟩, (hy _ _ (by norm_num) (by decide)).trans hdone, ?_⟩
  · rw [hT] at hall
    obtain ⟨r, rfl⟩ := hall
    rfl
  · refine RegsBut.trans (y := sceneStaged (taking x) n st) ?_ (hz.trans (hy.mono (List.subset_cons_self ..)))
    rw [hT]
    exact regsBut_of_eq (RegsBut.refl x _) rfl rfl

section
variable {s : State} {sl : SliceId} (hon : (s.slice sl).on = true) {v : Word}
include hon

theorem lands_scene {z : Slice} {P : Slice → Prop} (hz : sceneCmd (taking (s.slice sl)) v = z)
    (h : ∀ y, RegsOnly z y → RegsBut z y [(kTIM, 0x10)] → P y) : Lands s sl 0x430 v P := by
  obtain ⟨r, hrow⟩ := rowAt_scene
  exact fun hb hp => runsPair_timLand hon hrow hb hp ((timLand_scene _ r v).trans hz)
    (h _ (regsOnly_clrRegBit ..) (regsBut_regPut (RegsBut.refl z _) _ _ _ _ _ (by norm_num) (List.mem_singleton_self _)))

variable (hv : wbit v 31 = true)
include hv

theorem lands_sceneArm (h1 : fld v 29 28 = 1) (hs : regBit (s.slice sl) kTIM 0x410 31 = true) (hr : ¬sceneRuns (s.slice sl) (fld v 11 0))
    (he : stagedEarly (s.slice sl)) (hf : stagedFits (s.slice sl)) : Lands s sl 0x430 v fun y =>
    y = { s.slice sl with regs := y.regs, tabs := y.tabs, posted := (s.slice sl).posted.filter (·.1 ≠ kTIM) }
    ∧ sceneW y (fld v 11 0) 0 = (stagedWord (s.slice sl) 0 &&& 0x8CFFFFFF) ||| 0x10000000 ∧ StagedRow (s.slice sl) y (fld v 11 0)
    ∧ regGet y kTIM 0x430 = v &&& 0x30000FFF ∧ RegsBut (s.slice sl) y [(kTIM, 0x430), (kTIM, 0x10)] := by
  have hz := (sceneCmd_arm (x := taking (s.slice sl)) hv h1 hs).trans (sceneArmOp_eq.trans (if_neg fun h => h.elim hr fun h => h.elim (· he) (· hf)))
  refine lands_scene hon hz fun y ho hy => ?_
  have h := staged_taken (fld_11_0_lt v) ho hy
  rw [setFld_armed] at h
  exact h

theorem lands_sceneArm_refused (h1 : fld v 29 28 = 1) (hs : regBit (s.slice sl) kTIM 0x410 31 = true)
    (hr : sceneRuns (s.slice sl) (fld v 11 0) ∨ ¬stagedEarly (s.slice sl) ∨ ¬stagedFits (s.slice sl)) : Lands s sl 0x430 v fun y =>
    y = { s.slice sl with regs := y.regs, posted := (s.slice sl).posted.filter (·.1 ≠ kTIM) }
    ∧ regBit y kTIM 0x430 30 = true ∧ regBit y kTIM 0x430 31 = false ∧ RegsBut (s.slice sl) y [(kTIM, 0x430), (kTIM, 0x10)] := by
  have hz := (sceneCmd_arm (x := taking (s.slice sl)) hv h1 hs).trans (sceneArmOp_eq.trans (if_pos hr))
  refine lands_scene hon hz fun y ho hy => ?_
  have hz := regsBut_sceneDone (taking (s.slice sl)) v true (ks := [(kTIM, 0x430), (kTIM, 0x10)]) (List.mem_cons_self ..)
  have hx : RegsBut (s.slice sl) (taking (s.slice sl)) [(kTIM, 0x430), (kTIM, 0x10)] := regsBut_of_eq (RegsBut.refl _ _) rfl rfl
  refine ⟨?_, (hy.regBit_eq (by norm_num) (by decide) _).trans (regBit_sceneDone_refused ..),
    (hy.regBit_eq (by norm_num) (by decide) _).trans (regBit_sceneDone_ended ..), hx.trans (hz.trans (hy.mono (List.subset_cons_self ..)))⟩
  obtain ⟨r, e⟩ := (regsOnly_sceneDone (taking (s.slice sl)) v true).trans ho
  rw [e]
  rfl

theorem lands_sceneCancel_idle (h1 : fld v 29 28 = 1) (hs : regBit (s.slice sl) kTIM 0x410 31 = false) (hr : ¬sceneRuns (s.slice sl) (fld v 11 0)) :
    Lands s sl 0x430 v fun y =>
    y = { s.slice sl with regs := y.regs, tabs := y.tabs, posted := (s.slice sl).posted.filter (·.1 ≠ kTIM) }
    ∧ sceneState y (fld v 11 0) = sceneState (s.slice sl) (fld v 11 0) ∧ wbit (sceneW y (fld v 11 0) 0) 31 = false
    ∧ StagedRow (s.slice sl) y (fld v 11 0) ∧ regGet y kTIM 0x430 = v &&& 0x30000FFF
    ∧ RegsBut (s.slice sl) y [(kTIM, 0x430), (kTIM, 0x10)] := by
  have hz := (sceneCmd_cancel (x := taking (s.slice sl)) hv h1 hs).trans (sceneCancelOp_idle hr)
  refine lands_scene hon hz fun y ho hy => ?_
  obtain ⟨hy, hw, hrow, hreg, hbut⟩ := staged_taken (fld_11_0_lt v) ho hy
  refine ⟨hy, ?_, ?_, hrow, hreg, hbut⟩
  · rw [sceneState, hw, fld_setFld_self _ _ _ _ (by norm_num) (by norm_num)]
    exact Nat.mod_eq_of_lt (Nat.mod_lt _ (by norm_num))
  · rw [hw, wbit_setFld _ _ _ _ _ (by norm_num) (by norm_num), if_neg (by norm_num), wbit_and]
    exact (congrArg (· && _) hs).trans (Bool.false_and _)

theorem lands_sceneCancel (h1 : fld v 29 28 = 1) (hs : regBit (s.slice sl) kTIM 0x410 31 = false) (hr : sceneRuns (s.slice sl) (fld v 11 0)) :
    Lands s sl 0x430 v fun y =>
    (∃ r su co T, y = { s.slice sl with regs := r, tabs := T, scenes := (s.slice sl).scenes.filter (·.scene ≠ fld v 11 0),
                                        cellsOut := co, suspects := su, posted := (s.slice sl).posted.filter (·.1 ≠ kTIM) })
    ∧ sceneW y (fld v 11 0) 0 = (stagedWord (s.slice sl) 0 &&& 0x8CFFFFFF) ||| 0x60000000 ∧ StagedRow (s.slice sl) y (fld v 11 0)
    ∧ (∀ c ∈ (runOf (s.slice sl) (fld v 11 0)).cells, sFind y.cellsOut c = none)
    ∧ ∀ c, c ∉ (runOf (s.slice sl) (fld v 11 0)).cells → sFind y.cellsOut c = sFind (s.slice sl).cellsOut c := by
  have hz := (sceneCmd_cancel (x := taking (s.slice sl)) hv h1 hs).trans (sceneCancelOp_runs hr)
  refine lands_scene hon hz fun y ho hy => ?_
  have hw0 := sceneW_sceneStaged_zero (taking (s.slice sl)) (st := scCancelled) (fld_11_0_lt v)
  have hrow : ∀ w : Slice, w.tabs = (sceneStaged (taking (s.slice sl)) (fld v 11 0) scCancelled).tabs → StagedRow (taking (s.slice sl)) w (fld v 11 0) :=
    fun w => stagedRow_of_tabs (fld_11_0_lt v)
  obtain ⟨T, hT⟩ := sceneStaged_frame (taking (s.slice sl)) (fld v 11 0) scCancelled
  rw [setFld_cancelled] at hw0
  rw [hT] at ho hw0 hrow
  obtain ⟨⟨r, su, co, e⟩, hgone, hkept⟩ := endRun_shows { taking (s.slice sl) with tabs := T } (fld v 11 0)
  have hall := (regsOnly_sceneDone (endRun { taking (s.slice sl) with tabs := T } (fld v 11 0)) v false).trans ho
  rw [e] at hall hgone hkept
  obtain ⟨r', rfl⟩ := hall
  obtain ⟨hwords, hbut⟩ := hrow _ rfl
  exact ⟨⟨r', su, co, T, rfl⟩, (sceneW_congr rfl _ _).trans hw0, ⟨hwords, hbut⟩, hgone, hkept⟩

theorem lands_sceneRead (h2 : fld v 29 28 = 2) : Lands s sl 0x430 v fun y =>
    y = { s.slice sl with regs := y.regs, posted := (s.slice sl).posted.filter (·.1 ≠ kTIM) }
    ∧ (∀ k < 6, stagedWord y k = sceneW (s.slice sl) (fld v 11 0) k) ∧ regBit y kTIM 0x430 31 = false
    ∧ RegsBut (s.slice sl) y stagedKeys := by
  have hz := (sceneCmd_read (x := taking (s.slice sl)) hv h2).trans (sceneReadOp_eq _ v)
  refine lands_scene hon hz fun y ho hy => ?_
  obtain ⟨hor, hbr, hk⟩ := stageRow_shows (taking (s.slice sl)) (fld v 11 0)
  have hdone : ∀ ks, (kTIM, 0x430) ∈ ks → RegsBut _ (sceneDone (stageRow (taking (s.slice sl)) (fld v 11 0)) v (regBit (taking (s.slice sl)) kTIM 0x430 30)) ks :=
    fun ks => regsBut_sceneDone _ v _
  have hx : RegsBut (s.slice sl) (taking (s.slice sl)) stagedKeys := regsBut_of_eq (RegsBut.refl _ _) rfl rfl
  refine ⟨?_, fun k h6 => ?_, (hy.regBit_eq (by norm_num) (by decide) _).trans (regBit_sceneDone_ended ..),
    hx.trans (hbr.trans ((hdone _ (by simp)).trans (hy.mono (by simp))))⟩
  · obtain ⟨r, e⟩ := (hor.trans (regsOnly_sceneDone ..)).trans ho
    rw [e]
    rfl
  · have h1 := hy kTIM (0x410 + 4 * k) (by omega) (by simp; omega)
    have h2 := hdone [(kTIM, 0x430)] (List.mem_singleton_self _) kTIM (0x410 + 4 * k) (by omega) (by simp; omega)
    exact h1.trans (h2.trans (hk k h6))

end

end Sys2Proof.Machine
end

section
/-! Proofs. The slots of a scene are read ahead of its time (R384). -/

namespace Sys2Proof.Machine

/-! ### Reads of DRAM with no error -/

/-- What tells an error of DRAM is the same in both slices. -/
structure SameErrors (x y : Slice) : Prop where
  poison : y.poison = x.poison
  rebuilds : y.rebuilds = x.rebuilds
  lostChans : y.lostChans = x.lostChans
  written : y.written = x.written
  regs : ∀ c < 64, regGet y kDRC (0x1000 + 4 * c) = regGet x kDRC (0x1000 + 4 * c)

theorem blockLoc_lt (w : Nat) : (blockLoc w).1 < 64 := (Nat.mod_lt _ (by norm_num)).trans (by norm_num)

theorem SameErrors.poisoned {x y : Slice} (h : SameErrors x y) (o n : Nat) : poisoned y o n = poisoned x o n := by
  have hw : ∀ w, wordGone y w = wordGone x w := fun w => by
    have hr := h.regs _ (blockLoc_lt (w / 8))
    have hs : pcmState y (blockLoc (w / 8)).1 = pcmState x (blockLoc (w / 8)).1 := by rw [pcmState, regFld, hr, pcmState, regFld]
    have hf : regFld y kDRC (0x1000 + 4 * (blockLoc (w / 8)).1) 21 0 = regFld x kDRC (0x1000 + 4 * (blockLoc (w / 8)).1) 21 0 := by
      rw [regFld, hr, regFld]
    unfold wordGone
    dsimp only
    rw [hs, hf, h.written]
  have hf : wordGone y = wordGone x := funext hw
  simp only [Machine.poisoned, h.poison, h.rebuilds, h.lostChans, hf]

theorem readOff_unmirrored {x : Slice} {o n : Nat} (h : Unmirrored x o n) (hn : 0 < n) : readOff x o = o := by
  have hu : inUpper x o = false := by
    rw [inUpper]
    rcases h with h | h | h
    · rw [h]
      rfl
    · rw [decide_eq_false (show ¬coreOff x + 2 ^ 30 ≤ o by omega), Bool.and_false, Bool.false_and]
    · rw [decide_eq_false (show ¬o < coreOff x + 2 ^ 31 by omega), Bool.and_false]
  rw [readOff, hu, if_neg Bool.false_ne_true]

/-- A read that meets no error moves the port's count and the ranks it wakes, and nothing else. -/
theorem dramRead_plain {x : Slice} {o n p : Nat} (hp : p < 8) (hn : 0 < n) (h : PlainDram x (dramBase + o) n) :
    dramRead x (dramBase + o) n p = (some (dramGet x o n), portMoved x false p (dramBase + o) n) := by
  obtain ⟨hm, hu, hpo⟩ := h
  rw [Nat.add_sub_cancel_left] at hu hpo
  obtain ⟨hf, hr⟩ := portMoved_frame x false p (dramBase + o) n hp
  have hsame : SameErrors x (portMoved x false p (dramBase + o) n) := by
    refine ⟨?_, ?_, ?_, ?_, fun c hc => hr _ _ (by omega) ?_⟩
    · rw [hf]
    · rw [hf]
    · rw [hf]
    · rw [hf]
    · simp [portKeys, pairKeys]
      omega
  have hd : dramGet (portMoved x false p (dramBase + o) n) o n = dramGet x o n := by rw [dramGet, hf, dramGet]
  simp only [dramRead, hm, Bool.not_true, Bool.false_eq_true, if_false, Nat.add_sub_cancel_left, readOff_unmirrored hu hn,
    hsame.poisoned, hpo, hd]

theorem dramRead_unmapped {x : Slice} {a n p : Nat} (h : mapped a n = false) : dramRead x a n p = (none, x) := by
  rw [dramRead, h]
  rfl

/-! ### Runs of scenes -/

theorem scene_of_find {l : List SceneRun} {k : Nat} {q : SceneRun} (h : l.find? (·.scene = k) = some q) : q.scene = k := by
  simpa using List.find?_some h

theorem runOf_scene (x : Slice) (n : Nat) : (runOf x n).scene = n := by
  rw [runOf]
  cases h : x.scenes.find? (·.scene = n) with
  | none => rfl
  | some r => exact scene_of_find h

theorem find_replaced (l : List SceneRun) (r : SceneRun) (k : Nat) :
    (l.map fun q => if q.scene = r.scene then r else q).find? (·.scene = k)
      = (l.find? (·.scene = k)).map fun q => if q.scene = r.scene then r else q := by
  rw [List.find?_map]
  congr 1
  refine List.find?_congr fun q _ => ?_
  by_cases h : q.scene = r.scene
  · simp [h]
  · simp [h]

theorem runOf_setRun_self (x : Slice) (r : SceneRun) : runOf (setRun x r) r.scene = r := by
  by_cases h : x.scenes.any (·.scene = r.scene) = true
  · obtain ⟨q, hq, he⟩ := List.any_eq_true.1 h
    obtain ⟨q', hq'⟩ := Option.isSome_iff_exists.1
      ((List.find?_isSome (p := fun q : SceneRun => decide (q.scene = r.scene))).2 ⟨q, hq, he⟩)
    have hs : q'.scene = r.scene := scene_of_find hq'
    rw [setRun, if_pos h, runOf, find_replaced, hq', Option.map_some, Option.getD_some, if_pos hs]
  · have hn : x.scenes.find? (·.scene = r.scene) = none := by
      refine List.find?_eq_none.2 fun q hq he => h (List.any_eq_true.2 ⟨q, hq, by simpa using he⟩)
    rw [setRun, if_neg h, runOf, List.find?_append, hn]
    simp

theorem runOf_setRun_ne (x : Slice) (r : SceneRun) {k : Nat} (hk : k ≠ r.scene) : runOf (setRun x r) k = runOf x k := by
  by_cases h : x.scenes.any (·.scene = r.scene) = true
  · rw [setRun, if_pos h, runOf, find_replaced, runOf]
    cases hq : x.scenes.find? (·.scene = k) with
    | none => rfl
    | some q =>
      have hs : q.scene = k := scene_of_find hq
      rw [Option.map_some, if_neg (hs ▸ hk)]
  · rw [setRun, if_neg h, runOf, List.find?_append, runOf]
    have hr : [r].find? (·.scene = k) = none := List.find?_eq_none.2 fun q hq he =>
      hk ((of_decide_eq_true he).symm.trans (congrArg SceneRun.scene (List.mem_singleton.1 hq)))
    rw [hr, Option.or_none]

theorem setRun_frame (x : Slice) (r : SceneRun) : ∃ l, setRun x r = { x with scenes := l } := by
  rw [setRun]
  split
  · exact ⟨_, rfl⟩
  · exact ⟨_, rfl⟩

/-! ### Slots are fetched -/

section
variable {s : State} {sl : SliceId} (hal : (s.slice sl).alive = true) {e : BitVec 12}

theorem exec_sceneFetch (sl : SliceId) (e : BitVec 12) (s : State) : exec (.sceneFetch sl e) s = execSceneFetch sl e s := rfl

end

/-- A scene whose slots are read. -/
def sceneFetching (x : Slice) (n : Nat) : Prop := awake x = true ∧ ((sceneState x n = scArmed ∧ fetchDue x n = true)
  ∨ sceneState x n = scFetching ∨ sceneState x n = scReleasing)

theorem sceneFetching_iff (x : Slice) (n : Nat) : (awake x && (decide (sceneState x n = scArmed) && fetchDue x n || decide (sceneState x n = scFetching)
    || decide (sceneState x n = scReleasing))) = true ↔ sceneFetching x n := by
  simp only [sceneFetching, Bool.and_eq_true, Bool.or_eq_true, decide_eq_true_eq, or_assoc]

theorem plainDram_tabs {x : Slice} {T : Sparse Word} {a n : Nat} (h : PlainDram x a n) : PlainDram { x with tabs := T } a n := h

theorem toNat_lt_24 (e : BitVec 12) : e.toNat < 2 ^ 24 := e.isLt.trans (by norm_num)

/-- A slice whose scene table alone has changed: STATE of scene `n` is `st`. -/
structure StateSet (x w : Slice) (n st : Nat) : Prop where
  frame : ∃ T, w = { x with tabs := T }
  state : sceneState w n = st
  tabs : TabsBut x w [(tScene, n, 0)]
  count : sceneCount w n = sceneCount x n
  word : sceneW w n 0 = setFld (sceneW x n 0) 30 28 st

theorem stateSet_setScene (x : Slice) {n st : Nat} (hn : n < 2 ^ 24) (hs : st < 8) : StateSet x (setScene x n st) n st where
  frame := ⟨_, rfl⟩
  state := sceneState_setScene x hs
  tabs := tabsBut_setScene hn x
  count := by rw [sceneCount, sceneW_setScene_zero, fld_setFld_ne _ _ _ _ _ _ (by norm_num) (by norm_num) (by norm_num), sceneCount]
  word := sceneW_setScene_zero x

section
variable {x w : Slice} {n st : Nat} (h : StateSet x w n st)
include h

theorem StateSet.runOf (k : Nat) : runOf w k = runOf x k := by
  obtain ⟨T, rfl⟩ := h.frame
  rfl

theorem StateSet.scenes : w.scenes = x.scenes := by
  obtain ⟨T, rfl⟩ := h.frame
  rfl

theorem StateSet.region (b o : Nat) : region w b o = region x b o := by
  obtain ⟨T, rfl⟩ := h.frame
  rfl

theorem StateSet.plainDram {a k : Nat} (hp : PlainDram x a k) : PlainDram w a k := by
  obtain ⟨T, rfl⟩ := h.frame
  exact plainDram_tabs hp

theorem StateSet.dramGet (a k : Nat) : dramGet w a k = dramGet x a k := by
  obtain ⟨T, rfl⟩ := h.frame
  rfl

theorem StateSet.sceneW (hn : n < 2 ^ 24) {k : Nat} (hk : k < 64) (h0 : k ≠ 0) : sceneW w n k = sceneW x n k :=
  h.tabs tScene n k hn hk (by simpa using h0)

end

/-- Where the next slot of a scene is read. -/
def slotAt (x : Slice) (n : Nat) : Nat := region x kTIM 0x400 + 256 * (fld (sceneW x n 5) 19 0 + (runOf x n).slots.length)

/-- A scene's run as one more slot has been read. -/
structure SlotRead (x y : Slice) (n : Nat) (d : Option Bytes) : Prop where
  state : sceneState y n = scFetching
  tabs : TabsBut x y [(tScene, n, 0)]
  run : runOf y n = { runOf x n with slots := (runOf x n).slots ++ [d] }
  others : ∀ k, k ≠ n → runOf y k = runOf x k

/-- One slot of a scene fetched. -/
def fetchOne (n : Nat) (x : Slice) : Slice :=
  let d := readSlot x (fld (sceneW x n 5) 19 0 + (runOf x n).slots.length)
  setRun d.2 { runOf x n with slots := (runOf x n).slots ++ [d.1] }

/-- Fetching slots is fetching one, over and over; compared as recursors, since the kernel would otherwise run the reads. -/
theorem fetchSlots_iterate (n k : Nat) : fetchSlots n k = (fetchOne n)^[k] := by
  delta fetchSlots Nat.iterate
  with_unfolding_all rfl

section
variable {x w : Slice} {n : Nat} (h : StateSet x w n scFetching)
include h

theorem fetchSlots_one {d : Option Bytes} {z : Slice} (hn : n < 2 ^ 24) (hd : dramRead w (dramBase + slotAt x n) 256 portMnt = (d, z)) :
    fetchSlots n 1 w = setRun z { runOf x n with slots := (runOf x n).slots ++ [d] } := by
  have hs : readSlot w (fld (sceneW x n 5) 19 0 + (runOf x n).slots.length) = (d, z) := by
    rw [readSlot, ← hd, slotAt, h.region, Nat.add_assoc]
  rw [fetchSlots_iterate, Function.iterate_one, fetchOne, h.sceneW hn (k := 5) (by norm_num) (by norm_num), h.runOf, hs]

/-- What a slot that has been read leaves, once the read itself has. -/
theorem slotRead_setRun {d : Option Bytes} {z : Slice} (ht : z.tabs = w.tabs) (hs : z.scenes = x.scenes) :
    SlotRead x (setRun z { runOf x n with slots := (runOf x n).slots ++ [d] }) n d := by
  have hrun : ∀ k, runOf z k = runOf x k := fun k => by rw [runOf, hs, runOf]
  have hsc : ({ runOf x n with slots := (runOf x n).slots ++ [d] } : SceneRun).scene = n := runOf_scene x n
  generalize hr : ({ runOf x n with slots := (runOf x n).slots ++ [d] } : SceneRun) = r at hsc
  obtain ⟨l, hl⟩ := setRun_frame z r
  have htabs : (setRun z r).tabs = w.tabs := by
    rw [hl]
    exact ht
  clear hl
  refine ⟨?_, h.tabs.congr htabs, ?_, fun k hk => ?_⟩
  · rw [sceneState, sceneW_congr htabs, ← sceneState, h.state]
  · rw [hr, ← hsc]
    exact runOf_setRun_self z r
  · rw [runOf_setRun_ne z r fun e => hk (e.trans hsc), hrun]

end

section
variable {s : State} {sl : SliceId} (hal : (s.slice sl).alive = true) {e : BitVec 12}
include hal

theorem runsOn_sceneFetch_idle (h : ¬sceneFetching (s.slice sl) e.toNat) : RunsOn (.sceneFetch sl e) s sl fun y => y = s.slice sl := by
  refine runsOn_onAlive (exec_sceneFetch ..) hal ?_
  exact if_neg fun hc => h ((sceneFetching_iff ..).1 hc)

variable (h : sceneFetching (s.slice sl) e.toNat) (ha : sceneState (s.slice sl) e.toNat = scArmed)
include h ha

theorem runsOn_sceneFetch_armed {P : Slice → Prop} (hp : ∀ w, StateSet (s.slice sl) w e.toNat scFetching →
      P (fetchSlots e.toNat (sceneCount (s.slice sl) e.toNat - (runOf (s.slice sl) e.toNat).slots.length) w)) :
    RunsOn (.sceneFetch sl e) s sl P := by
  have hset : StateSet (s.slice sl) (setScene (s.slice sl) e.toNat scFetching) e.toNat scFetching := stateSet_setScene _ (toNat_lt_24 e) (by decide)
  have hw := hp _ hset
  rw [← hset.count, ← hset.runOf] at hw
  refine runsOn_onAlive (exec_sceneFetch ..) hal ?_
  simp only [if_pos ((sceneFetching_iff ..).2 h), if_pos ha]
  exact hw

theorem runsOn_sceneFetch_none (hc : sceneCount (s.slice sl) e.toNat ≤ (runOf (s.slice sl) e.toNat).slots.length) :
    RunsOn (.sceneFetch sl e) s sl fun y => y = { s.slice sl with tabs := y.tabs } ∧ sceneState y e.toNat = scFetching
      ∧ TabsBut (s.slice sl) y [(tScene, e.toNat, 0)] := by
  refine runsOn_sceneFetch_armed hal h ha fun w hw => ?_
  rw [Nat.sub_eq_zero_of_le hc, fetchSlots_iterate, Function.iterate_zero, id]
  refine ⟨?_, hw.state, hw.tabs⟩
  obtain ⟨T, rfl⟩ := hw.frame
  rfl

variable (hc : sceneCount (s.slice sl) e.toNat = (runOf (s.slice sl) e.toNat).slots.length + 1)
include hc

theorem runsOn_sceneFetch_unmapped (hm : mapped (dramBase + slotAt (s.slice sl) e.toNat) 256 = false) :
    RunsOn (.sceneFetch sl e) s sl fun y => y = { s.slice sl with tabs := y.tabs, scenes := y.scenes }
      ∧ SlotRead (s.slice sl) y e.toNat none := by
  refine runsOn_sceneFetch_armed hal h ha fun w hw => ?_
  rw [hc, Nat.add_sub_cancel_left, fetchSlots_one hw (toNat_lt_24 e) (dramRead_unmapped hm)]
  refine ⟨?_, slotRead_setRun hw rfl hw.scenes⟩
  obtain ⟨l, hl⟩ := setRun_frame w { runOf (s.slice sl) e.toNat with slots := (runOf (s.slice sl) e.toNat).slots ++ [none] }
  obtain ⟨T, rfl⟩ := hw.frame
  rw [hl]

theorem runsOn_sceneFetch_read (hm : PlainDram (s.slice sl) (dramBase + slotAt (s.slice sl) e.toNat) 256) :
    RunsOn (.sceneFetch sl e) s sl fun y =>
      y = { s.slice sl with regs := y.regs, tabs := y.tabs, scenes := y.scenes, drcPart := y.drcPart, rankDown := y.rankDown }
      ∧ SlotRead (s.slice sl) y e.toNat (some (dramGet (s.slice sl) (slotAt (s.slice sl) e.toNat) 256))
      ∧ RegsBut (s.slice sl) y (portKeys false portMnt) := by
  refine runsOn_sceneFetch_armed hal h ha fun w hw => ?_
  have hread := dramRead_plain (p := portMnt) (by decide) (by norm_num) (hw.plainDram hm)
  obtain ⟨hf, hr⟩ := portMoved_frame w false portMnt (dramBase + slotAt (s.slice sl) e.toNat) 256 (by decide)
  rw [hc, Nat.add_sub_cancel_left, fetchSlots_one hw (toNat_lt_24 e) hread, hw.dramGet]
  generalize portMoved _ _ _ _ _ = z at hf hr
  generalize dramGet (s.slice sl) (slotAt (s.slice sl) e.toNat) 256 = d
  have hslot := slotRead_setRun (z := z) hw (d := some d) (by rw [hf]) (by rw [hf, hw.scenes])
  obtain ⟨l, hl⟩ := setRun_frame z { runOf (s.slice sl) e.toNat with slots := (runOf (s.slice sl) e.toNat).slots ++ [some d] }
  rw [hl] at hslot ⊢
  obtain ⟨T, rfl⟩ := hw.frame
  obtain ⟨r, dp, rd, rfl⟩ : ∃ r dp rd, z = { s.slice sl with tabs := T, regs := r, drcPart := dp, rankDown := rd } := ⟨_, _, _, hf⟩
  exact ⟨rfl, hslot, ((regsBut_of_eq (RegsBut.refl _ _) rfl rfl).trans hr).trans (regsBut_of_eq (RegsBut.refl _ _) rfl rfl)⟩

end

end Sys2Proof.Machine
end

section
/-! Proofs. Cells of owner 19 for the slots of a scene (R331, R384). -/

namespace Sys2Proof.Machine

/-! ### The clock of the cell slots (R331) -/

theorem getLsbD_four (k : Fin 4) : (4 : BitVec 4).getLsbD k.val = decide (k = 2) := by
  revert k
  decide

theorem slotRequest_scene {x : Slice} (h : wantsCell x 2 = none) : slotRequest x 2 = sceneCell x := by
  rw [slotRequest, h]
  rfl

theorem cellClock_two {x : Slice} (h : wantsCell x 2 = none) :
    cellClock x 4 = sceneCell { x with cellClk := max (x.cellClk + 1) (2 * x.clk) } := by
  have hw : wantsCell { x with cellClk := max (x.cellClk + 1) (2 * x.clk) } 2 = none := h
  have hstep : ∀ (y : Slice) (c i : Nat), (if (4 : BitVec 4).getLsbD ((c + i) % 4) then slotRequest y ⟨(c + i) % 4, Nat.mod_lt _ (by decide)⟩ else y)
      = if (c + i) % 4 = 2 then slotRequest y 2 else y := fun y c i => by
    have hg := getLsbD_four ⟨(c + i) % 4, Nat.mod_lt _ (by decide)⟩
    by_cases hi : (c + i) % 4 = 2
    · have hk : (⟨(c + i) % 4, Nat.mod_lt _ (by decide)⟩ : Fin 4) = 2 := Fin.ext hi
      rw [hg, hk, if_pos hi]
      rfl
    · have hk : (⟨(c + i) % 4, Nat.mod_lt _ (by decide)⟩ : Fin 4) ≠ 2 := fun e => hi (congrArg Fin.val e)
      rw [hg, decide_eq_false hk, if_neg Bool.false_ne_true, if_neg hi]
  simp only [cellClock, hstep, show List.range 4 = [0, 1, 2, 3] from rfl, List.foldl_cons, List.foldl_nil, Nat.add_zero]
  generalize hc : max (x.cellClk + 1) (2 * x.clk) = c at hw ⊢
  rw [← slotRequest_scene hw]
  have h4 : c % 4 = 0 ∨ c % 4 = 1 ∨ c % 4 = 2 ∨ c % 4 = 3 := by omega
  rcases h4 with h | h | h | h
  · rw [if_neg (by omega), if_pos (by omega), if_neg (by omega), if_neg (by omega)]
  · rw [if_neg (by omega), if_neg (by omega), if_pos (by omega), if_neg (by omega)]
  · rw [if_neg (by omega), if_neg (by omega), if_neg (by omega), if_pos (by omega)]
  · rw [if_pos (by omega), if_neg (by omega), if_neg (by omega), if_neg (by omega)]

/-! ### A scene's cell -/

theorem grantCell_none {x : Slice} (hl : limC x 19 = 0) (hm : minC x 19 = 0) : grantCell x 19 = (none, bufRefused x) := by
  rw [grantCell, if_neg (by omega), if_neg (by omega)]

theorem grantCell_min {x : Slice} (hu : usedC x 19 < minC x 19) (hf : 0 < freeC x) :
    grantCell x 19 = (some (lowestCell x), (takeCell x 19).2) := by
  rw [grantCell, if_pos ⟨hu, hf⟩, takeCell]

theorem policyWait_bufRefused (x : Slice) : policyWait (bufRefused x) 19 = policyWait x 19 := by
  have h : RegsBut x (bufRefused x) ((kBUF, 0x110) :: raiseKeys kBUF 0) :=
    regsBut_flagRaise (RegsBut.refl x _) _ _ _ _ (by norm_num) (by decide) (List.mem_cons_self ..) (List.subset_cons_self ..)
  rw [policyWait, h.regBit_eq (by norm_num) (by simp [raiseKeys, kBUF, kICN]), policyWait]

section
variable {x : Slice} {r : SceneRun} {p : Nat} (hs : x.scenes = [r]) (hp : (liveSlots r)[r.cells.length]? = some p)
include hs

theorem setRun_one {q : SceneRun} (hq : q.scene = r.scene) : setRun x q = { x with scenes := [q] } := by
  rw [setRun, hs]
  simp [hq]

include hp

theorem sceneCell_find : (x.scenes.findSome? fun r => (cellWanted r).map fun i => (r, i)) = some (r, p) := by
  rw [hs, List.findSome?_cons, cellWanted, hp]
  rfl

theorem sceneCell_some {c : Nat} {y : Slice} (hg : grantCell x 19 = (some c, y)) (hy : y.scenes = x.scenes) :
    sceneCell x = { y with scenes := [{ r with cells := r.cells ++ [c] }] } := by
  simp only [sceneCell, sceneCell_find hs hp, hg]
  exact setRun_one (hy.trans hs) rfl

theorem sceneCell_waits {y : Slice} (hg : grantCell x 19 = (none, y)) (hw : policyWait y 19 = true) : sceneCell x = count y kBUF 0x2008 1 := by
  simp only [sceneCell, sceneCell_find hs hp, hg, if_pos hw]

theorem sceneCell_refused {y : Slice} (hg : grantCell x 19 = (none, y)) (hy : y.scenes = x.scenes) (hw : policyWait y 19 = false) :
    sceneCell x = count { y with scenes := [{ r with slots := setNth r.slots p none }] } kBUF 0x2000 1 := by
  have hn : ¬policyWait y 19 = true := by
    rw [hw]
    exact Bool.false_ne_true
  have hset : setRun y { r with slots := setNth r.slots p none } = { y with scenes := [{ r with slots := setNth r.slots p none }] } :=
    setRun_one (hy.trans hs) rfl
  simp only [sceneCell, sceneCell_find hs hp, hg, if_neg hn, hset]

end

/-! ### What a scene's cell changes -/

/-- The register of BUF that counts the cells of owner 19. -/
abbrev usedKey : Nat × Nat := (kBUF, 0x1400 + 8 * 19)

section
variable {x : Slice} {r : SceneRun} {p : Nat}

theorem takeCell_shows (hu : usedC x 19 < minC x 19) : ∃ rg su,
    (takeCell x 19).2 = { x with regs := rg, cellsOut := sIns x.cellsOut (lowestCell x) 19, suspects := su }
    ∧ usedC (takeCell x 19).2 19 = usedC x 19 + 1 ∧ RegsBut x (takeCell x 19).2 [usedKey] := by
  have hm : minC x 19 < 2 ^ 18 := regFld_lt x kBUF (0x1004 + 16 * 19) 17 0
  have hput : ∀ y, y.regs = x.regs → y.id = x.id → RegsBut x (regPut y kBUF (0x1400 + 8 * 19) 17 0 (usedC x 19 + 1)) [usedKey] := fun y hr hi =>
    regsBut_regPut (regsBut_of_eq (RegsBut.refl x _) hr hi) _ _ _ _ _ (by norm_num) (List.mem_singleton_self _)
  refine ⟨_, x.suspects.filter (· ≠ (false, lowestCell x)), rfl, ?_, hput _ rfl rfl⟩
  rw [takeCell, usedC, regFld_regPut_self _ _ _ _ _ _ (by norm_num) (by norm_num)]
  exact Nat.mod_eq_of_lt (by omega)

theorem bufRefused_shows (x : Slice) : RegsOnly x (bufRefused x) ∧ RegsBut x (bufRefused x) ((kBUF, 0x110) :: raiseKeys kBUF 0) :=
  ⟨regsOnly_flagRaise .., regsBut_flagRaise (RegsBut.refl x _) _ _ _ _ (by norm_num) (by decide) (List.mem_cons_self ..) (List.subset_cons_self ..)⟩

/-- A count of refused cells. -/
theorem counted_refused {y : Slice} {o : Nat} (ho : o = 0x2000 ∨ o = 0x2008) (hr : y.regs = (bufRefused x).regs) (hi : y.id = x.id) :
    Counted x (count y kBUF o 1) kBUF o 1 := by
  obtain ⟨hf, hb⟩ := bufRefused_shows x
  have hy : RegsBut x y ((kBUF, 0x110) :: raiseKeys kBUF 0) := regsBut_of_eq hb hr (hi.trans hf.id_eq.symm)
  have hn : ∀ o, o ≠ 0x110 → (kBUF, o) ∉ (kBUF, 0x110) :: raiseKeys kBUF 0 := fun o ho => by simp [raiseKeys, kBUF, kICN, ho]
  rw [Counted, pairGet_count, hy.pairGet_eq (by omega) (hn _ (by omega)) (hn _ (by omega))]

end

/-! ### The request (R331) -/

theorem exec_cellRequest (sl : SliceId) (slots : BitVec 4) (s : State) : exec (.cellRequest sl slots) s = execCellRequest sl slots s := rfl

theorem quiet_congr {x y : Slice} (h : Quiet x) (hwin : y.win = x.win) (hf : y.fifo = x.fifo) : Quiet y := ⟨hwin.trans h.1, hf.trans h.2⟩

/-- What a request of a scene's cell leaves of the slice. -/
theorem scene_cell_cases {x : Slice} {r : SceneRun} {p : Nat} (hs : x.scenes = [r]) (hp : (liveSlots r)[r.cells.length]? = some p) :
    (usedC x 19 < minC x 19 → 0 < freeC x →
      (∃ rg su, sceneCell x = { x with regs := rg, cellsOut := sIns x.cellsOut (lowestCell x) 19, suspects := su,
                                       scenes := [{ r with cells := r.cells ++ [lowestCell x] }] })
      ∧ usedC (sceneCell x) 19 = usedC x 19 + 1 ∧ RegsBut x (sceneCell x) [usedKey])
    ∧ (limC x 19 = 0 → minC x 19 = 0 → policyWait x 19 = true → (∃ rg, sceneCell x = { x with regs := rg }) ∧ Counted x (sceneCell x) kBUF 0x2008 1)
    ∧ (limC x 19 = 0 → minC x 19 = 0 → policyWait x 19 = false →
      (∃ rg, sceneCell x = { x with regs := rg, scenes := [{ r with slots := setNth r.slots p none }] })
      ∧ Counted x (sceneCell x) kBUF 0x2000 1) := by
  refine ⟨fun hu hf => ?_, fun hl hm hw => ?_, fun hl hm hw => ?_⟩
  · obtain ⟨rg, su, e, hused, hbut⟩ := takeCell_shows hu
    rw [sceneCell_some hs hp (grantCell_min hu hf) (by rw [e])]
    rw [e] at hused hbut ⊢
    exact ⟨⟨rg, su, rfl⟩, hused, regsBut_of_eq hbut rfl rfl⟩
  · obtain ⟨rg, e⟩ := (bufRefused_shows x).1.trans (regsOnly_count (bufRefused x) kBUF 0x2008 1)
    have hc := counted_refused (x := x) (y := bufRefused x) (Or.inr rfl) rfl (bufRefused_shows x).1.id_eq
    rw [sceneCell_waits hs hp (grantCell_none hl hm) ((policyWait_bufRefused _).trans hw)]
    rw [e] at hc ⊢
    exact ⟨⟨rg, rfl⟩, hc⟩
  · have hc := counted_refused (x := x) (y := { bufRefused x with scenes := [{ r with slots := setNth r.slots p none }] }) (Or.inl rfl) rfl
      (bufRefused_shows x).1.id_eq
    obtain ⟨rg', e'⟩ := (bufRefused_shows x).1
    rw [sceneCell_refused hs hp (grantCell_none hl hm) (bufRefused_shows x).1.scenes_eq ((policyWait_bufRefused _).trans hw)]
    rw [e'] at hc ⊢
    obtain ⟨rg, e⟩ := regsOnly_count { x.setRegs rg' with scenes := [{ r with slots := setNth r.slots p none }] } kBUF 0x2000 1
    rw [e] at hc ⊢
    exact ⟨⟨rg, rfl⟩, hc⟩

section
variable {s : State} {sl : SliceId} {r : SceneRun} {p : Nat} (hal : (s.slice sl).alive = true) (hq : Quiet (s.slice sl))
  (hserve : serves (s.slice sl) kBUF = true) (hw : wantsCell (s.slice sl) 2 = none)
include hal hserve hw

theorem runsOn_cellRequest {P : Slice → Prop} (hquiet : ∀ c, Quiet (sceneCell { s.slice sl with cellClk := c }))
    (hP : ∀ c, P (sceneCell { s.slice sl with cellClk := c })) : RunsOn (.cellRequest sl 4) s sl P := by
  refine runsOn_onAlive (exec_cellRequest ..) hal ?_
  rw [if_pos hserve, cellClock_two hw, pump_quiet (hquiet _)]
  exact hP _

include hq
variable (hs : (s.slice sl).scenes = [r]) (hp : (liveSlots r)[r.cells.length]? = some p)
include hs hp

theorem runsOn_cellRequest_granted (hu : usedC (s.slice sl) 19 < minC (s.slice sl) 19) (hf : 0 < freeC (s.slice sl)) :
    RunsOn (.cellRequest sl 4) s sl fun y =>
      y = { s.slice sl with regs := y.regs, cellsOut := sIns (s.slice sl).cellsOut (lowestCell (s.slice sl)) 19,
                            cellClk := y.cellClk, suspects := y.suspects, scenes := [{ r with cells := r.cells ++ [lowestCell (s.slice sl)] }] }
      ∧ usedC y 19 = usedC (s.slice sl) 19 + 1 ∧ RegsBut (s.slice sl) y [usedKey] := by
  have hcell := fun c => (scene_cell_cases (x := { s.slice sl with cellClk := c }) hs hp).1 hu hf
  refine runsOn_cellRequest hal hserve hw (fun c => ?_) fun c => ?_
  · obtain ⟨⟨rg, su, e⟩, -, -⟩ := hcell c
    rw [e]
    exact quiet_congr hq rfl rfl
  · obtain ⟨⟨rg, su, e⟩, hused, hbut⟩ := hcell c
    rw [e] at hused hbut ⊢
    exact ⟨rfl, hused, (regsBut_of_eq (RegsBut.refl _ _) rfl rfl).trans hbut⟩

theorem runsOn_cellRequest_waits (hl : limC (s.slice sl) 19 = 0) (hm : minC (s.slice sl) 19 = 0) (hpw : policyWait (s.slice sl) 19 = true) :
    RunsOn (.cellRequest sl 4) s sl fun y => y = { s.slice sl with regs := y.regs, cellClk := y.cellClk }
      ∧ Counted (s.slice sl) y kBUF 0x2008 1 := by
  have hcell := fun c => (scene_cell_cases (x := { s.slice sl with cellClk := c }) hs hp).2.1 hl hm hpw
  refine runsOn_cellRequest hal hserve hw (fun c => ?_) fun c => ?_
  · obtain ⟨⟨rg, e⟩, -⟩ := hcell c
    rw [e]
    exact quiet_congr hq rfl rfl
  · obtain ⟨⟨rg, e⟩, hc⟩ := hcell c
    rw [e] at hc ⊢
    exact ⟨rfl, hc⟩

theorem runsOn_cellRequest_refused (hl : limC (s.slice sl) 19 = 0) (hm : minC (s.slice sl) 19 = 0) (hpw : policyWait (s.slice sl) 19 = false) :
    RunsOn (.cellRequest sl 4) s sl fun y =>
      y = { s.slice sl with regs := y.regs, cellClk := y.cellClk, scenes := [{ r with slots := setNth r.slots p none }] }
      ∧ Counted (s.slice sl) y kBUF 0x2000 1 := by
  have hcell := fun c => (scene_cell_cases (x := { s.slice sl with cellClk := c }) hs hp).2.2 hl hm hpw
  refine runsOn_cellRequest hal hserve hw (fun c => ?_) fun c => ?_
  · obtain ⟨⟨rg, e⟩, -⟩ := hcell c
    rw [e]
    exact quiet_congr hq rfl rfl
  · obtain ⟨⟨rg, e⟩, hc⟩ := hcell c
    rw [e] at hc ⊢
    exact ⟨rfl, hc⟩

end

end Sys2Proof.Machine
end

section
/-! Proofs. Frames of a scene in its port's queue (R386). -/

namespace Sys2Proof.Machine

/-! ### A slice whose scene is RELEASING -/

theorem beAt_two_lt (bs : Bytes) (o : Nat) : beAt bs o 2 < 2 ^ 24 := by
  have hlen : (slab bs o 2).length = 2 := by
    rw [slab, List.length_append, List.length_replicate]
    have h := List.length_take_le 2 (bs.drop o)
    omega
  obtain ⟨a, b, e⟩ := List.length_eq_two.1 hlen
  have ha := a.isLt
  have hb := b.isLt
  rw [beAt, e]
  show (0 * 256 + a.toNat) * 256 + b.toNat < 2 ^ 24
  omega

section
variable {x w : Slice} {n st : Nat} (h : StateSet x w n st)
include h

theorem StateSet.fld_word {hi lo : Nat} (hd : hi < 28) : fld (Machine.sceneW w n 0) hi lo = fld (Machine.sceneW x n 0) hi lo := by
  rw [h.word, fld_setFld_ne _ _ _ _ _ _ (by norm_num) (by norm_num) (Or.inl hd)]

theorem StateSet.baseNow (b : Nat) : baseNow w b = baseNow x b := by
  obtain ⟨T, rfl⟩ := h.frame
  rfl

theorem StateSet.sceneBase : sceneBase w n = sceneBase x n := h.fld_word (by norm_num)

variable (hn : n < 2 ^ 24)
include hn

theorem StateSet.sceneT : sceneT w n = sceneT x n := by
  rw [Machine.sceneT, h.fld_word (by norm_num), h.sceneW hn (k := 1) (by norm_num) (by norm_num),
    h.sceneW hn (k := 2) (by norm_num) (by norm_num), Machine.sceneT]

theorem StateSet.sceneInstant (k : Nat) : sceneInstant w n k = sceneInstant x n k := by
  rw [Machine.sceneInstant, h.sceneT hn, h.sceneW hn (k := 3) (by norm_num) (by norm_num), Machine.sceneInstant]

theorem StateSet.frameLate : frameLate w n = frameLate x n := by
  rw [Machine.frameLate, h.runOf, h.sceneInstant hn, h.baseNow, h.sceneBase, Machine.frameLate]

omit hn in
theorem StateSet.handleW {i k : Nat} (hi : i < 2 ^ 24) (hk : k < 64) : handleW w i k = handleW x i k := by
  unfold Machine.handleW
  split
  · rfl
  · exact h.tabs tHandle i k hi hk (by simp [tHandle, tScene])

omit hn in
theorem StateSet.scenePorts {i : Nat} (hi : i < 2 ^ 24) : scenePorts w i = scenePorts x i := by
  have hw := h.handleW hi (k := 0) (by norm_num)
  obtain ⟨T, rfl⟩ := h.frame
  unfold Machine.scenePorts
  rw [hw]
  rfl

end

/-! ### A scene goes on to its next frame (R386) -/

/-- A run whose next frame has been placed or skipped. -/
def advance (r : SceneRun) (late : Bool) : SceneRun := { r with next := r.next + 1, late := r.late || late, overdue := false }

section
variable {w : Slice} {n : Nat}

theorem sceneCount_setRun (r : SceneRun) : sceneCount (setRun w r) n = sceneCount w n := by
  obtain ⟨l, hl⟩ := setRun_frame w r
  rw [hl]
  rfl

theorem sceneNext_goes (late : Bool) (h : (runOf w n).next + 1 < sceneCount w n) : sceneNext w n late = setRun w (advance (runOf w n) late) := by
  have hc : (advance (runOf w n) late).next < sceneCount (setRun w (advance (runOf w n) late)) n := by
    rw [sceneCount_setRun]
    exact h
  exact if_pos hc

theorem sceneNext_ends (late : Bool) (h : sceneCount w n ≤ (runOf w n).next + 1) : sceneNext w n late
    = raise (endRun (setScene (setRun w (advance (runOf w n) late)) n (if (runOf w n).late || late then scLate else scDone)) n) kTIM 5 := by
  have hc : ¬(advance (runOf w n) late).next < sceneCount (setRun w (advance (runOf w n) late)) n := by
    rw [sceneCount_setRun]
    exact not_lt.2 h
  exact if_neg hc

end

/-- The scene goes on: its next frame is awaited. -/
structure Onward (x y : Slice) (n : Nat) : Prop where
  state : sceneState y n = scReleasing
  next : (runOf y n).next = (runOf x n).next + 1
  overdue : (runOf y n).overdue = false
  tabs : TabsBut x y [(tScene, n, 0)]

/-- A run advanced on a slice that tells as much of the scene as `w` does. -/
theorem onward_setRun {x w z : Slice} {n : Nat} {late : Bool} {r : SceneRun} (hw : StateSet x w n scReleasing) (ht : z.tabs = w.tabs)
    (hr : r.next = (runOf x n).next) (hsc : r.scene = n) :
    Onward x (setRun z (advance r late)) n ∧ runOf (setRun z (advance r late)) n = advance r late := by
  have hrun : runOf (setRun z (advance r late)) n = advance r late := by
    have h := runOf_setRun_self z (advance r late)
    rw [show (advance r late).scene = n from hsc] at h
    exact h
  obtain ⟨l, hl⟩ := setRun_frame z (advance r late)
  have htabs : (setRun z (advance r late)).tabs = w.tabs := by
    rw [hl]
    exact ht
  refine ⟨⟨?_, ?_, ?_, hw.tabs.congr htabs⟩, hrun⟩
  · rw [sceneState, sceneW_congr htabs, ← sceneState, hw.state]
  · rw [hrun, advance, hr]
  · rw [hrun, advance]

/-! ### When a frame may be placed -/

/-- The next frame's instant has come, and the units it passes take it. -/
def scenePlacing (x : Slice) (n : Nat) : Prop := awake x = true ∧ sceneInstant x n (runOf x n).next ≤ baseNow x (sceneBase x n)
  ∧ (sceneState x n = scFetching ∨ sceneState x n = scReleasing) ∧ accepts x kSWC = true ∧ accepts x kBUF = true ∧ accepts x kTMG = true

theorem mayPlace_iff (x : Slice) (n : Nat) : mayPlace x n = true ↔ scenePlacing x n := by
  simp only [mayPlace, scenePlacing, frameDue, Bool.and_eq_true, Bool.or_eq_true, decide_eq_true_eq]
  tauto

theorem exec_sceneFramePlace (sl : SliceId) (e : BitVec 12) (s : State) : exec (.sceneFramePlace sl e) s = execSceneFramePlace sl e s := rfl

section
variable {s : State} {sl : SliceId} (hal : (s.slice sl).alive = true) {e : BitVec 12}
include hal

theorem runsOn_sceneFramePlace_idle (h : ¬scenePlacing (s.slice sl) e.toNat) : RunsOn (.sceneFramePlace sl e) s sl fun y => y = s.slice sl := by
  have hm : mayPlace (s.slice sl) e.toNat = false := Bool.eq_false_iff.2 fun hc => h ((mayPlace_iff ..).1 hc)
  refine runsOn_onAlive (exec_sceneFramePlace ..) hal ?_
  exact if_pos (by rw [hm]; rfl)

variable (h : scenePlacing (s.slice sl) e.toNat)
include h

/-- A slot whose read failed, or whose cell was refused, is passed over. -/
theorem runsOn_sceneFramePlace_empty (hslot : (runOf (s.slice sl) e.toNat).slots[(runOf (s.slice sl) e.toNat).next]? = some none)
    {P : Slice → Prop} (hP : ∀ w, StateSet (s.slice sl) w e.toNat scReleasing → P (sceneNext w e.toNat false)) :
    RunsOn (.sceneFramePlace sl e) s sl P := by
  have hm := (mayPlace_iff ..).2 h
  refine runsOn_onAlive (exec_sceneFramePlace ..) hal ?_
  have hw := hP _ (stateSet_setScene (s.slice sl) (toNat_lt_24 e) (st := scReleasing) (by decide))
  simp only [hm, Bool.not_true, Bool.false_eq_true, if_false, hslot]
  exact hw

variable {slot : Bytes} {cell : Nat} {cells : List Nat}
  (hslot : (runOf (s.slice sl) e.toNat).slots[(runOf (s.slice sl) e.toNat).next]? = some (some slot))
  (hcells : (runOf (s.slice sl) e.toNat).cells = cell :: cells)
include hslot hcells

/-- A frame whose handle names no port is skipped. -/
theorem runsOn_sceneFramePlace_skip (hports : scenePorts (s.slice sl) (beAt slot 2 2) = none) {P : Slice → Prop}
    (hP : ∀ w, StateSet (s.slice sl) w e.toNat scReleasing → P (sceneNext (sceneSkip w) e.toNat false)) : RunsOn (.sceneFramePlace sl e) s sl P := by
  have hm := (mayPlace_iff ..).2 h
  have hset := stateSet_setScene (s.slice sl) (toNat_lt_24 e) (st := scReleasing) (by decide)
  have hw := hP _ hset
  have hp := (hset.scenePorts (beAt_two_lt slot 2)).trans hports
  refine runsOn_onAlive (exec_sceneFramePlace ..) hal ?_
  simp only [hm, Bool.not_true, Bool.false_eq_true, if_false, hslot, hcells, hp]
  exact hw

end

/-! ### A run of one cell ends (R385) -/

theorem setRun_filter (x : Slice) (r : SceneRun) : (setRun x r).scenes.filter (·.scene ≠ r.scene) = x.scenes.filter (·.scene ≠ r.scene) := by
  rw [setRun]
  split
  · show (x.scenes.map _).filter _ = _
    induction x.scenes with
    | nil => rfl
    | cons q l ih =>
      by_cases h : q.scene = r.scene
      · simp only [List.map_cons, List.filter_cons, h, ih]
        simp
      · simp only [List.map_cons, if_neg h, List.filter_cons, ih]
  · show (x.scenes ++ [r]).filter _ = _
    simp

theorem endRun_one {x : Slice} {n cell : Nat} (hc : (runOf x n).cells = [cell]) (ho : sFind x.cellsOut cell = some 19) :
    (∃ rg su, endRun x n = { x with regs := rg, suspects := su, cellsOut := sDel x.cellsOut cell, scenes := x.scenes.filter (·.scene ≠ n) })
    ∧ RegsBut x (endRun x n) [usedKey] ∧ usedC (endRun x n) 19 = usedC x 19 - 1 := by
  have hlt : usedC x 19 < 2 ^ 18 := regFld_lt x kBUF (0x1400 + 8 * 19) 17 0
  have hfree : freeCells x [cell] = regPut { cleared x false cell with cellsOut := sDel x.cellsOut cell } kBUF (0x1400 + 8 * 19) 17 0 (usedC x 19 - 1) :=
    freeCell_some ho
  have hbut : RegsBut x (freeCells x [cell]) [usedKey] := by
    rw [hfree]
    exact regsBut_regPut (regsBut_of_eq (RegsBut.refl x _) rfl rfl) _ _ _ _ _ (by norm_num) (List.mem_singleton_self _)
  have hused : usedC (freeCells x [cell]) 19 = usedC x 19 - 1 := by
    rw [hfree, usedC, regFld_regPut_self _ _ _ _ _ _ (by norm_num) (by norm_num)]
    exact Nat.mod_eq_of_lt (by omega)
  obtain ⟨rg, e⟩ := regsOnly_regPut { cleared x false cell with cellsOut := sDel x.cellsOut cell } kBUF (0x1400 + 8 * 19) 17 0 (usedC x 19 - 1)
  rw [hfree, e] at hbut hused
  rw [endRun, hc, hfree, e]
  exact ⟨⟨rg, _, rfl⟩, (hbut.trans (regsBut_of_eq (RegsBut.refl _ _) rfl rfl)), hused⟩

/-- What the end of a scene's run leaves of the slice. -/
theorem ended_shows {x : Slice} {n st cell : Nat} (hn : n < 2 ^ 24) (hs : st < 8) (hc : (runOf x n).cells = [cell])
    (ho : sFind x.cellsOut cell = some 19) : ∃ T rg su,
    raise (endRun (setScene x n st) n) kTIM 5
      = { x with tabs := T, regs := rg, suspects := su, cellsOut := sDel x.cellsOut cell, scenes := x.scenes.filter (·.scene ≠ n) }
    ∧ RegsBut x (raise (endRun (setScene x n st) n) kTIM 5) (usedKey :: raiseKeys kTIM 5)
    ∧ usedC (raise (endRun (setScene x n st) n) kTIM 5) 19 = usedC x 19 - 1
    ∧ sceneState (raise (endRun (setScene x n st) n) kTIM 5) n = st ∧ TabsBut x (raise (endRun (setScene x n st) n) kTIM 5) [(tScene, n, 0)] := by
  have hset := stateSet_setScene x hn hs
  have hrun := hset.runOf n
  obtain ⟨hf, hst, htabs, -, -⟩ := hset
  generalize setScene x n st = w at hf hst htabs hrun ⊢
  obtain ⟨T, rfl⟩ := hf
  obtain ⟨⟨rg, su, e⟩, hbut, hused⟩ := endRun_one (x := { x with tabs := T }) (n := n) hc ho
  have hraise : RegsBut (endRun { x with tabs := T } n) (raise (endRun { x with tabs := T } n) kTIM 5) (raiseKeys kTIM 5) :=
    regsBut_raise (RegsBut.refl _ _) _ _ (by decide) (List.Subset.refl _)
  have hu : usedC (raise (endRun { x with tabs := T } n) kTIM 5) 19 = usedC (endRun { x with tabs := T } n) 19 :=
    hraise.regFld_eq (by norm_num) (raiseKeys_rif (by decide)) _ _
  obtain ⟨rg', e'⟩ := regsOnly_raise (endRun { x with tabs := T } n) kTIM 5
  rw [e'] at hraise hu ⊢
  rw [e] at hbut hused hraise hu ⊢
  refine ⟨T, rg', su, rfl, ?_, hu.trans hused, hst, htabs⟩
  exact (regsBut_of_eq (RegsBut.refl x _) rfl rfl).trans ((hbut.mono (by simp)).trans (hraise.mono (List.subset_cons_self ..)))

/-! ### Frames passed over and skipped (R386) -/

section
variable {s : State} {sl : SliceId} (hal : (s.slice sl).alive = true) {e : BitVec 12} (h : scenePlacing (s.slice sl) e.toNat)
include hal h

theorem runsOn_sceneFramePlace_passed (hslot : (runOf (s.slice sl) e.toNat).slots[(runOf (s.slice sl) e.toNat).next]? = some none)
    (hc : (runOf (s.slice sl) e.toNat).next + 1 < sceneCount (s.slice sl) e.toNat) : RunsOn (.sceneFramePlace sl e) s sl fun y =>
    y = { s.slice sl with tabs := y.tabs, scenes := y.scenes } ∧ Onward (s.slice sl) y e.toNat := by
  refine runsOn_sceneFramePlace_empty hal h hslot fun w hw => ?_
  rw [sceneNext_goes _ (by rw [hw.runOf, hw.count]; exact hc), hw.runOf]
  refine ⟨?_, (onward_setRun hw rfl rfl (runOf_scene ..)).1⟩
  obtain ⟨l, hl⟩ := setRun_frame w (advance (runOf (s.slice sl) e.toNat) false)
  obtain ⟨T, rfl⟩ := hw.frame
  rw [hl]

omit hal h in
/-- A frame skipped is counted, and raises cause 7. -/
theorem sceneSkip_shows (x : Slice) : RegsOnly x (sceneSkip x) ∧ RegsBut x (sceneSkip x) (pairKeys kTIM 0x2018 ++ raiseKeys kTIM 7)
    ∧ Counted x (sceneSkip x) kTIM 0x2018 1 := by
  have hcount : RegsBut x (count x kTIM 0x2018 1) (pairKeys kTIM 0x2018 ++ raiseKeys kTIM 7) :=
    regsBut_count (RegsBut.refl x _) _ _ _ (by norm_num) (by simp [pairKeys]) (by simp [pairKeys])
  have hraise : RegsBut (count x kTIM 0x2018 1) (sceneSkip x) (raiseKeys kTIM 7) :=
    regsBut_raise (RegsBut.refl _ _) _ _ (by decide) (List.Subset.refl _)
  refine ⟨(regsOnly_count ..).trans (regsOnly_raise ..), hcount.trans (hraise.mono (List.subset_append_right ..)), ?_⟩
  rw [Counted, hraise.pairGet_eq (by norm_num) (raiseKeys_rif (by decide)) (raiseKeys_rif (by decide)), pairGet_count]

variable {slot : Bytes} {cell : Nat} {cells : List Nat}
  (hslot : (runOf (s.slice sl) e.toNat).slots[(runOf (s.slice sl) e.toNat).next]? = some (some slot))
  (hcells : (runOf (s.slice sl) e.toNat).cells = cell :: cells) (hno : wbit (handleW (s.slice sl) (beAt slot 2 2) 0) 31 = false)
include hslot hcells hno

omit hal h hslot hcells in
theorem scenePorts_invalid : scenePorts (s.slice sl) (beAt slot 2 2) = none := by
  rw [scenePorts, hno]
  rfl

theorem runsOn_sceneFramePlace_skipped (hc : (runOf (s.slice sl) e.toNat).next + 1 < sceneCount (s.slice sl) e.toNat) :
    RunsOn (.sceneFramePlace sl e) s sl fun y =>
    y = { s.slice sl with regs := y.regs, tabs := y.tabs, scenes := y.scenes } ∧ Onward (s.slice sl) y e.toNat
    ∧ Counted (s.slice sl) y kTIM 0x2018 1 ∧ RegsBut (s.slice sl) y (pairKeys kTIM 0x2018 ++ raiseKeys kTIM 7) := by
  refine runsOn_sceneFramePlace_skip hal h hslot hcells (scenePorts_invalid hno) fun w hw => ?_
  obtain ⟨ho, hbut, hcount⟩ := sceneSkip_shows w
  obtain ⟨rg, eq⟩ := ho
  rw [eq] at hbut hcount ⊢
  have hrun : runOf (w.setRegs rg) e.toNat = runOf (s.slice sl) e.toNat := hw.runOf _
  rw [sceneNext_goes _ (by rw [hrun]; exact hw.count.symm ▸ hc), hrun]
  have hon := (onward_setRun (late := false) (z := w.setRegs rg) hw rfl rfl (runOf_scene (s.slice sl) e.toNat)).1
  obtain ⟨l, hl⟩ := setRun_frame (w.setRegs rg) (advance (runOf (s.slice sl) e.toNat) false)
  rw [hl] at hon ⊢
  obtain ⟨T, rfl⟩ := hw.frame
  exact ⟨rfl, hon, hcount, (regsBut_of_eq (RegsBut.refl _ _) rfl rfl).trans (hbut.trans (regsBut_of_eq (RegsBut.refl _ _) rfl rfl))⟩

/-- The last frame of a scene ends its run, and its cell goes back. -/
theorem runsOn_sceneFramePlace_last (hc : (runOf (s.slice sl) e.toNat).next + 1 = sceneCount (s.slice sl) e.toNat) (hone : cells = [])
    (hown : sFind (s.slice sl).cellsOut cell = some 19) : RunsOn (.sceneFramePlace sl e) s sl fun y =>
    y = { s.slice sl with regs := y.regs, tabs := y.tabs, scenes := (s.slice sl).scenes.filter (·.scene ≠ e.toNat),
                          cellsOut := sDel (s.slice sl).cellsOut cell, suspects := y.suspects }
    ∧ Counted (s.slice sl) y kTIM 0x2018 1 ∧ usedC y 19 = usedC (s.slice sl) 19 - 1 ∧ TabsBut (s.slice sl) y [(tScene, e.toNat, 0)]
    ∧ sceneState y e.toNat = (if (runOf (s.slice sl) e.toNat).late then scLate else scDone)
    ∧ RegsBut (s.slice sl) y (usedKey :: (pairKeys kTIM 0x2018 ++ raiseKeys kTIM 7 ++ raiseKeys kTIM 5)) := by
  refine runsOn_sceneFramePlace_skip hal h hslot hcells (scenePorts_invalid hno) fun w hw => ?_
  obtain ⟨ho, hbut, hcount⟩ := sceneSkip_shows w
  obtain ⟨rg, eq⟩ := ho
  rw [eq] at hbut hcount ⊢
  have hrun : runOf (w.setRegs rg) e.toNat = runOf (s.slice sl) e.toNat := hw.runOf _
  rw [sceneNext_ends _ (by rw [hrun]; exact (hc.trans hw.count.symm).ge), hrun, Bool.or_false]
  have hscene : (advance (runOf (s.slice sl) e.toNat) false).scene = e.toNat := runOf_scene ..
  have hfilter := setRun_filter (w.setRegs rg) (advance (runOf (s.slice sl) e.toNat) false)
  have hself := runOf_setRun_self (w.setRegs rg) (advance (runOf (s.slice sl) e.toNat) false)
  rw [hscene] at hfilter hself
  have hframe := setRun_frame (w.setRegs rg) (advance (runOf (s.slice sl) e.toNat) false)
  generalize setRun (w.setRegs rg) (advance (runOf (s.slice sl) e.toNat) false) = a at hfilter hself hframe ⊢
  have hcell : (runOf a e.toNat).cells = [cell] := by
    rw [hself]
    exact hcells.trans (by rw [hone])
  have hst8 : (if (runOf (s.slice sl) e.toNat).late then scLate else scDone) < 8 := by
    split
    · decide
    · decide
  have hout : a.cellsOut = (s.slice sl).cellsOut := by
    obtain ⟨l, rfl⟩ := hframe
    obtain ⟨T, rfl⟩ := hw.frame
    rfl
  obtain ⟨T', rg', su, eq, hbut', hused, hst, htabs'⟩ := ended_shows (toNat_lt_24 e) hst8 hcell (hout ▸ hown)
  have htabs := hw.tabs
  obtain ⟨l, rfl⟩ := hframe
  obtain ⟨T, rfl⟩ := hw.frame
  rw [hfilter] at eq
  rw [eq] at hbut' hused hst htabs' ⊢
  have hcounted : pairGet _ kTIM 0x2018 = _ := hbut'.pairGet_eq (by norm_num) (by simp [raiseKeys, kTIM, kBUF, kICN]) (by simp [raiseKeys, kTIM, kBUF, kICN])
  refine ⟨rfl, hcounted.trans hcount, ?_, htabs.trans htabs', hst, ?_⟩
  · refine hused.trans (congrArg (· - 1) (hbut.regFld_eq (by norm_num) ?_ 17 0))
    simp [pairKeys, raiseKeys, kTIM, kBUF, kICN]
  · refine (regsBut_of_eq (RegsBut.refl _ _) rfl rfl).trans ((hbut.mono ?_).trans (RegsBut.trans (regsBut_of_eq (RegsBut.refl _ _) rfl rfl) (hbut'.mono ?_)))
    · intro k hk
      simp only [List.mem_cons, List.mem_append] at hk ⊢
      tauto
    · intro k hk
      simp only [List.mem_cons, List.mem_append] at hk ⊢
      tauto

end

end Sys2Proof.Machine
end

section
/-! Proofs. A frame of a scene enters the scene queue of its port (R339, R386). -/

namespace Sys2Proof.Machine

/-! ### A copy at the end of its queue -/

theorem queueOf_q (x : Slice) (q : QId) : (queueOf x q).q = q := by
  rw [queueOf]
  cases h : x.queues.find? (·.q = q) with
  | none => rfl
  | some v => simpa using List.find?_some h

theorem putQueue_frame (x : Slice) (v : Queue) : ∃ qs, putQueue x v = { x with queues := qs } := by
  unfold putQueue
  split
  · exact ⟨_, rfl⟩
  · split
    · exact ⟨_, rfl⟩
    · exact ⟨_, rfl⟩

theorem queueOf_putQueue {x : Slice} {v : Queue} (hv : v.all ≠ []) : queueOf (putQueue x v) v.q = v := by
  have hne : ¬v.all.isEmpty = true := fun h => hv (List.isEmpty_iff.1 h)
  rw [putQueue, if_neg hne]
  split
  · next ha =>
    obtain ⟨w, hw, hq⟩ := List.any_eq_true.1 ha
    obtain ⟨w', hw'⟩ := Option.isSome_iff_exists.1 ((List.find?_isSome (p := fun w : Queue => decide (w.q = v.q))).2 ⟨w, hw, hq⟩)
    have hfind : (x.queues.map fun w => if w.q = v.q then v else w).find? (·.q = v.q) = some v := by
      rw [List.find?_map, show ((fun w : Queue => decide (w.q = v.q)) ∘ fun w => if w.q = v.q then v else w) = fun w : Queue => decide (w.q = v.q) by
        funext w
        by_cases h : w.q = v.q <;> simp [h], hw', Option.map_some, if_pos (by simpa using List.find?_some hw')]
    rw [queueOf, hfind, Option.getD_some]
  · next ha =>
    have hn : x.queues.find? (·.q = v.q) = none := List.find?_eq_none.2 fun w hw hq => ha (List.any_eq_true.2 ⟨w, hw, by simpa using hq⟩)
    rw [queueOf, List.find?_append, hn]
    simp

/-- A copy that a queue takes stands at its end, and nothing else changes. -/
theorem enqueue_shows (x : Slice) (c : Copy) : (∃ qs, enqueue x c = { x with queues := qs })
    ∧ (queueOf (enqueue x c) c.q).all = (queueOf x c.q).all ++ [c] := by
  have hput : ∀ v : Queue, v.q = c.q → v.all = (queueOf x c.q).all ++ [c] → (∃ qs, putQueue x v = { x with queues := qs })
      ∧ (queueOf (putQueue x v) c.q).all = (queueOf x c.q).all ++ [c] := fun v hq hall => by
    refine ⟨putQueue_frame x v, ?_⟩
    rw [← hq, queueOf_putQueue (by rw [hall]; simp), hall, hq]
  rw [show enqueue x c = if (queueOf x c.q).s ≠ [] ∨ (spillAt x c.q ≠ 0 ∧ spillAt x c.q ≤ segCells (queueOf x c.q).h)
    then putQueue x { queueOf x c.q with s := (queueOf x c.q).s ++ [c] } else putQueue x { queueOf x c.q with h := (queueOf x c.q).h ++ [c] } from rfl]
  split
  · exact hput { queueOf x c.q with s := (queueOf x c.q).s ++ [c] } (queueOf_q x c.q) (by simp [Queue.all])
  · next h =>
    have hs : (queueOf x c.q).s = [] := by
      by_contra hs
      exact h (Or.inl hs)
    exact hput { queueOf x c.q with h := (queueOf x c.q).h ++ [c] } (queueOf_q x c.q) (by simp [Queue.all, hs])

theorem mem_allCopies_of_queue {x : Slice} {q : QId} {c : Copy} (h : c ∈ (queueOf x q).all) : c ∈ allCopies x := by
  have hmem : ∃ v ∈ x.queues, c ∈ v.all := by
    rw [queueOf] at h
    cases hf : x.queues.find? (·.q = q) with
    | none =>
      rw [hf] at h
      exact absurd h List.not_mem_nil
    | some v =>
      rw [hf] at h
      exact ⟨v, List.mem_of_find?_eq_some hf, h⟩
  obtain ⟨v, hv, hc⟩ := hmem
  exact List.mem_append_left _ (List.mem_append_left _ (List.mem_flatMap.2 ⟨v, hv, hc⟩))

/-- A frame one of whose copies waits is not released. -/
theorem releaseFrame_kept {x : Slice} {id : Nat} (h : ∃ c ∈ allCopies x, c.frm = id) : releaseFrame x id = x := by
  have ha : (allCopies x).any (·.frm = id) = true := List.any_eq_true.2 (by simpa using h)
  rw [releaseFrame]
  split
  · rfl
  · rw [ha, Bool.true_or, Bool.true_or, if_pos rfl]

/-! ### A frame is placed at one port -/

/-- The copy a scene's frame leaves at a port. -/
def sceneCopy (x : Slice) (f : Frame) (h p : Nat) : Copy :=
  { (mkCopy x f.id f.bytes.length (laneOf p) (.scene (laneOf p))).1 with vid := handleVid x h, dmac := handleDmac x h }

theorem admission_scene {x : Slice} {c : Copy} {p : Nat} (hcq : c.q = .scene (laneOf p)) (hlane : c.lane = laneOf p) (hp : p < 16)
    (hup : portUp x p = true) (hsel : unselected x p = false) (hq : queueLen x (.scene (laneOf p)) < 256) (hd : descFree x = true) :
    admission x c true = none := by
  have hl : (laneOf p).val = p := Nat.mod_eq_of_lt hp
  simp only [admission, hcq, hlane, hl, hup, hsel, hd, queueLim, Bool.not_true, Bool.or_false, Bool.false_eq_true, if_false, if_true,
    decide_eq_false (not_le.2 hq)]

theorem placeCopy_scene {x : Slice} {c : Copy} {l : Lane} (h : c.q = .scene l) : ∃ b, placeCopy x c = enqueue x { c with cut := b } := by
  unfold placeCopy
  split
  · next hp => exact absurd (h.symm.trans hp) QId.noConfusion
  · split
    · exact ⟨_, rfl⟩
    · exact ⟨c.cut, rfl⟩

theorem placeScene_single {x : Slice} {f : Frame} {h p : Nat} (hadm : admission { x with nextFrm := x.nextFrm + 1 } (sceneCopy x f h p) true = none) :
    placeScene x f h false [p] = releaseFrame (placeCopy { x with nextFrm := x.nextFrm + 1 } (sceneCopy x f h p)) f.id := by
  have hadm' : admission (mkCopy x f.id f.bytes.length (laneOf p) (.scene (laneOf p))).2
      { (mkCopy x f.id f.bytes.length (laneOf p) (.scene (laneOf p))).1 with vid := handleVid x h, dmac := handleDmac x h } true = none := hadm
  simp only [placeScene, List.foldl_cons, List.foldl_nil, hadm', Bool.not_false, if_true]
  rfl

theorem placeScene_one {x : Slice} {f : Frame} {h p : Nat} (hp : p < 16) (hup : portUp x p = true) (hsel : unselected x p = false)
    (hq : queueLen x (.scene (laneOf p)) < 256) (hd : descFree x = true) :
    ∃ qs c, placeScene x f h false [p] = { x with nextFrm := x.nextFrm + 1, queues := qs }
      ∧ (queueOf (placeScene x f h false [p]) (.scene (laneOf p))).all = (queueOf x (.scene (laneOf p))).all ++ [c]
      ∧ c.frm = f.id ∧ c.lane = laneOf p ∧ c.vid = handleVid x h ∧ c.dmac = handleDmac x h ∧ c.len = f.bytes.length := by
  have hadm : admission { x with nextFrm := x.nextFrm + 1 } (sceneCopy x f h p) true = none :=
    admission_scene (x := { x with nextFrm := x.nextFrm + 1 }) rfl rfl hp hup hsel hq hd
  obtain ⟨b, hb⟩ := placeCopy_scene (x := { x with nextFrm := x.nextFrm + 1 }) (c := sceneCopy x f h p) (l := laneOf p) rfl
  obtain ⟨⟨qs, he⟩, hall⟩ := enqueue_shows { x with nextFrm := x.nextFrm + 1 } { sceneCopy x f h p with cut := b }
  have hrel : releaseFrame (enqueue { x with nextFrm := x.nextFrm + 1 } { sceneCopy x f h p with cut := b }) f.id
      = enqueue { x with nextFrm := x.nextFrm + 1 } { sceneCopy x f h p with cut := b } :=
    releaseFrame_kept ⟨{ sceneCopy x f h p with cut := b }, mem_allCopies_of_queue (hall ▸ List.mem_append_right _ (List.mem_singleton_self _)), rfl⟩
  have hplace : placeScene x f h false [p] = enqueue { x with nextFrm := x.nextFrm + 1 } { sceneCopy x f h p with cut := b } := by
    rw [placeScene_single hadm, hb, hrel]
  rw [hplace]
  exact ⟨qs, { sceneCopy x f h p with cut := b }, he, hall, rfl, rfl, rfl, rfl, rfl⟩

/-! ### A scene's frame (R386) -/

theorem handleW_with_scenes (x : Slice) (l : List SceneRun) (i k : Nat) : handleW { x with scenes := l } i k = handleW x i k := rfl

/-- The frame a slot of a scene holds, in the cell it was given. -/
def sceneFrm (x : Slice) (n : Nat) (slot : Bytes) (cell k : Nat) : Frame :=
  { draftFrame (sceneFrame slot (sceneT x n + (sceneW x n 4).toNat * nsUnits)) 19 2 none none (curEpoch x) with
    id := k, cells := [cell], need := 0 }

/-- The slice as a scene's frame is placed at port `p`, before its run goes on. -/
def scenePut (x : Slice) (n : Nat) (r : SceneRun) (slot : Bytes) (cell p : Nat) : Slice :=
  placeScene (newFrame (setRun x r) (sceneFrm x n slot cell 0)) (sceneFrm x n slot cell (setRun x r).nextFrm) (beAt slot 2 2) false [p]

section
variable {x : Slice} {n : Nat} {r : SceneRun} {slot : Bytes} {cell p : Nat}

/-- What a scene's frame leaves at its port. -/
structure ScenePut (x y : Slice) (n : Nat) (r : SceneRun) (slot : Bytes) (cell p : Nat) : Prop where
  frame : ∃ fs k qs l, y = { x with frames := fs, nextFrm := k, queues := qs, scenes := l }
  frames : y.frames = x.frames ++ [sceneFrm x n slot cell x.nextFrm]
  scenes : y.scenes = (setRun x r).scenes
  copy : ∃ c, (queueOf y (.scene (laneOf p))).all = (queueOf x (.scene (laneOf p))).all ++ [c] ∧ c.frm = x.nextFrm ∧ c.lane = laneOf p
    ∧ c.vid = handleVid x (beAt slot 2 2) ∧ c.dmac = handleDmac x (beAt slot 2 2) ∧ c.len = (sceneFrm x n slot cell x.nextFrm).bytes.length

theorem scenePut_shows (hp : p < 16) (hup : portUp x p = true) (hsel : unselected x p = false)
    (hq : queueLen x (.scene (laneOf p)) < 256) (hd : descFree x = true) : ScenePut x (scenePut x n r slot cell p) n r slot cell p := by
  obtain ⟨l, hl⟩ := setRun_frame x r
  unfold scenePut
  have hnew : newFrame (setRun x r) (sceneFrm x n slot cell 0)
      = { x with scenes := l, frames := x.frames ++ [sceneFrm x n slot cell x.nextFrm], nextFrm := x.nextFrm + 1 } := by
    rw [hl, newFrame]
    rfl
  have hid : (setRun x r).nextFrm = x.nextFrm := by rw [hl]
  generalize hf : sceneFrm x n slot cell x.nextFrm = f at hnew
  obtain ⟨qs, c, he, hall, h1, h2, h3, h4, h5⟩ := placeScene_one (f := f) (h := beAt slot 2 2)
    (x := { x with scenes := l, frames := x.frames ++ [f], nextFrm := x.nextFrm + 1 }) hp hup hsel hq hd
  rw [hnew, hid, hf]
  refine ⟨⟨_, _, _, _, he⟩, ?_, ?_, c, ?_⟩
  · rw [he, hf]
  · rw [he, hl]
  · rw [hf]
    exact ⟨hall, by rw [h1, ← hf]; rfl, h2, h3, h4, h5⟩

end

section
variable {s : State} {sl : SliceId} (hal : (s.slice sl).alive = true) {e : BitVec 12} (h : scenePlacing (s.slice sl) e.toNat)
  {slot : Bytes} {cell : Nat} {cells : List Nat} {p : Nat}
  (hslot : (runOf (s.slice sl) e.toNat).slots[(runOf (s.slice sl) e.toNat).next]? = some (some slot))
  (hcells : (runOf (s.slice sl) e.toNat).cells = cell :: cells)
  (hports : scenePorts (s.slice sl) (beAt slot 2 2) = some [p]) (hone : fld (handleW (s.slice sl) (beAt slot 2 2) 0) 30 28 = 0)
  (hq : queueLen (s.slice sl) (.scene (laneOf p)) < 256) (hd : descFree (s.slice sl) = true)
include hal h hslot hcells hports hone hq hd

theorem runsOn_sceneFramePlace_put {P : Slice → Prop} (hP : ∀ w, StateSet (s.slice sl) w e.toNat scReleasing →
      P (sceneNext (if frameLate w e.toNat then sceneLate (scenePut w e.toNat { runOf (s.slice sl) e.toNat with cells := cells } slot cell p)
        else scenePut w e.toNat { runOf (s.slice sl) e.toNat with cells := cells } slot cell p) e.toNat (frameLate w e.toNat))) :
    RunsOn (.sceneFramePlace sl e) s sl P := by
  have hm := (mayPlace_iff ..).2 h
  have hset := stateSet_setScene (s.slice sl) (toNat_lt_24 e) (st := scReleasing) (by decide)
  have hw := hP _ hset
  have hps := (hset.scenePorts (beAt_two_lt slot 2)).trans hports
  have hwaits : sceneWaits (setScene (s.slice sl) e.toNat scReleasing) [p] = false := by
    obtain ⟨T, hT⟩ := hset.frame
    rw [hT]
    have h1 : queueLen { s.slice sl with tabs := T } (.scene (laneOf p)) = queueLen (s.slice sl) (.scene (laneOf p)) := rfl
    have h2 : descFree { s.slice sl with tabs := T } = true := hd
    simp [sceneWaits, h1, h2, hq]
  have hmulti : decide (fld (handleW (setRun (setScene (s.slice sl) e.toNat scReleasing) { runOf (s.slice sl) e.toNat with cells := cells })
      (beAt slot 2 2) 0) 30 28 = 1) = false := by
    obtain ⟨l, hl⟩ := setRun_frame (setScene (s.slice sl) e.toNat scReleasing) { runOf (s.slice sl) e.toNat with cells := cells }
    have h0 : handleW { setScene (s.slice sl) e.toNat scReleasing with scenes := l } (beAt slot 2 2) 0 = handleW (s.slice sl) (beAt slot 2 2) 0 :=
      (handleW_with_scenes ..).trans (hset.handleW (beAt_two_lt slot 2) (by norm_num))
    rw [hl, h0, hone]
    rfl
  refine runsOn_onAlive (exec_sceneFramePlace ..) hal ?_
  simp only [hm, Bool.not_true, Bool.false_eq_true, if_false, hslot, hcells, hps, hwaits, hmulti]
  exact hw

end

/-! ### A late frame (R386) -/

theorem sceneLate_shows (x : Slice) : RegsOnly x (sceneLate x) ∧ Counted x (sceneLate x) kTIM 0x2010 1 ∧ regBit (sceneLate x) kTIM 0x100 1 = true := by
  have hflag : RegsBut (count x kTIM 0x2010 1) (sceneLate x) ((kTIM, 0x100) :: raiseKeys kTIM 6) :=
    regsBut_flagRaise (RegsBut.refl _ _) _ _ _ _ (by norm_num) (by decide) (List.mem_cons_self ..) (List.subset_cons_self ..)
  refine ⟨(regsOnly_count ..).trans (regsOnly_flagRaise ..), ?_, ?_⟩
  · rw [Counted, hflag.pairGet_eq (by norm_num) (by simp [raiseKeys, kTIM, kICN]) (by simp [raiseKeys, kTIM, kICN]), pairGet_count]
  · rw [sceneLate, flagRaise]
    split
    · next hb => exact hb
    · rw [regBit, regGet_raise _ _ _ _ _ (by decide) (by norm_num) (by decide), ← regBit, regBit_regPut_self _ _ _ _ _ (by norm_num)]
      rfl

/-- A frame counted as late where it is. -/
theorem lateIf_shows (x : Slice) (b : Bool) : RegsOnly x (if b then sceneLate x else x)
    ∧ (b = true → Counted x (if b then sceneLate x else x) kTIM 0x2010 1 ∧ regBit (if b then sceneLate x else x) kTIM 0x100 1 = true)
    ∧ (b = false → (if b then sceneLate x else x).regs = x.regs) := by
  obtain ⟨ho, hc, hb⟩ := sceneLate_shows x
  cases b with
  | true =>
    rw [if_pos rfl]
    exact ⟨ho, fun _ => ⟨hc, hb⟩, nofun⟩
  | false =>
    rw [if_neg Bool.false_ne_true]
    exact ⟨RegsOnly.refl x, nofun, fun _ => rfl⟩

/-- What a scene's frame leaves, told of the slice before its scene was RELEASING. -/
structure ScenePlaced (x w y : Slice) (n : Nat) (r : SceneRun) (slot : Bytes) (cell p : Nat) : Prop where
  frame : ∃ fs k qs l, y = { w with frames := fs, nextFrm := k, queues := qs, scenes := l }
  frames : y.frames = x.frames ++ [sceneFrm x n slot cell x.nextFrm]
  scenes : y.scenes = (setRun w r).scenes
  copy : ∃ c, (queueOf y (.scene (laneOf p))).all = (queueOf x (.scene (laneOf p))).all ++ [c] ∧ c.frm = x.nextFrm ∧ c.lane = laneOf p
    ∧ c.vid = handleVid x (beAt slot 2 2) ∧ c.dmac = handleDmac x (beAt slot 2 2) ∧ c.len = (sceneFrm x n slot cell x.nextFrm).bytes.length

theorem scenePut_set {x w : Slice} {n cell p : Nat} {r : SceneRun} {slot : Bytes} (hw : StateSet x w n scReleasing) (hn : n < 2 ^ 24) (hp : p < 16)
    (hup : portUp x p = true) (hsel : unselected x p = false) (hq : queueLen x (.scene (laneOf p)) < 256) (hd : descFree x = true) :
    ScenePlaced x w (scenePut w n r slot cell p) n r slot cell p := by
  have hh := beAt_two_lt slot 2
  have hvid : handleVid w (beAt slot 2 2) = handleVid x (beAt slot 2 2) := by rw [handleVid, hw.handleW hh (by norm_num), handleVid]
  have hmac : handleDmac w (beAt slot 2 2) = handleDmac x (beAt slot 2 2) := by
    rw [handleDmac, hw.handleW hh (by norm_num), hw.handleW hh (by norm_num), hw.handleW hh (by norm_num), handleDmac]
  have hfrm : sceneFrm w n slot cell w.nextFrm = sceneFrm x n slot cell x.nextFrm := by
    have hep : curEpoch w = curEpoch x := by
      obtain ⟨T, rfl⟩ := hw.frame
      rfl
    have hnext : w.nextFrm = x.nextFrm := by
      obtain ⟨T, rfl⟩ := hw.frame
      rfl
    rw [sceneFrm, hw.sceneT hn, hw.sceneW hn (k := 4) (by norm_num) (by norm_num), hep, hnext, sceneFrm]
  obtain ⟨T, rfl⟩ := hw.frame
  obtain ⟨hf, hfs, hsc, c, hc⟩ := scenePut_shows (x := { x with tabs := T }) (n := n) (r := r) (slot := slot) (cell := cell) hp hup hsel hq hd
  rw [hfrm] at hfs hc
  rw [hvid, hmac] at hc
  exact ⟨hf, hfs, hsc, c, hc⟩

section
variable {s : State} {sl : SliceId} (hal : (s.slice sl).alive = true) {e : BitVec 12} (h : scenePlacing (s.slice sl) e.toNat)
  {slot : Bytes} {cell : Nat} {cells : List Nat} {p : Nat}
  (hslot : (runOf (s.slice sl) e.toNat).slots[(runOf (s.slice sl) e.toNat).next]? = some (some slot))
  (hcells : (runOf (s.slice sl) e.toNat).cells = cell :: cells)
include hal h hslot hcells

theorem runsOn_sceneFramePlace_one (hp : p < 16) (hports : scenePorts (s.slice sl) (beAt slot 2 2) = some [p])
    (hone : fld (handleW (s.slice sl) (beAt slot 2 2) 0) 30 28 = 0) (hup : portUp (s.slice sl) p = true) (hsel : unselected (s.slice sl) p = false)
    (hq : queueLen (s.slice sl) (.scene (laneOf p)) < 256) (hd : descFree (s.slice sl) = true)
    (hc : (runOf (s.slice sl) e.toNat).next + 1 < sceneCount (s.slice sl) e.toNat) : RunsOn (.sceneFramePlace sl e) s sl fun y =>
    Onward (s.slice sl) y e.toNat ∧ (runOf y e.toNat).cells = cells
    ∧ (runOf y e.toNat).late = ((runOf (s.slice sl) e.toNat).late || frameLate (s.slice sl) e.toNat)
    ∧ (∃ c, (queueOf y (.scene (laneOf p))).all = (queueOf (s.slice sl) (.scene (laneOf p))).all ++ [c] ∧ c.frm = (s.slice sl).nextFrm
      ∧ c.lane = laneOf p ∧ c.vid = handleVid (s.slice sl) (beAt slot 2 2) ∧ c.dmac = handleDmac (s.slice sl) (beAt slot 2 2)
      ∧ c.len = (sceneFrm (s.slice sl) e.toNat slot cell (s.slice sl).nextFrm).bytes.length)
    ∧ y.frames = (s.slice sl).frames ++ [sceneFrm (s.slice sl) e.toNat slot cell (s.slice sl).nextFrm]
    ∧ y.cellsOut = (s.slice sl).cellsOut ∧ y.sending = (s.slice sl).sending ∧ y.dram = (s.slice sl).dram
    ∧ (frameLate (s.slice sl) e.toNat = true → Counted (s.slice sl) y kTIM 0x2010 1 ∧ regBit y kTIM 0x100 1 = true)
    ∧ (frameLate (s.slice sl) e.toNat = false → y.regs = (s.slice sl).regs) := by
  refine runsOn_sceneFramePlace_put hal h hslot hcells hports hone hq hd fun w hw => ?_
  have hput := scenePut_set (r := { runOf (s.slice sl) e.toNat with cells := cells }) (cell := cell) (slot := slot) hw (toNat_lt_24 e) hp hup hsel hq hd
  rw [hw.frameLate (toNat_lt_24 e)]
  generalize scenePut w e.toNat { runOf (s.slice sl) e.toNat with cells := cells } slot cell p = z at hput
  obtain ⟨ho, hlate, hsame⟩ := lateIf_shows z (frameLate (s.slice sl) e.toNat)
  generalize (if frameLate (s.slice sl) e.toNat then sceneLate z else z) = u at ho hlate hsame ⊢
  generalize frameLate (s.slice sl) e.toNat = late at hlate hsame ⊢
  have hscene : ({ runOf (s.slice sl) e.toNat with cells := cells } : SceneRun).scene = e.toNat := runOf_scene ..
  have hnext : ({ runOf (s.slice sl) e.toNat with cells := cells } : SceneRun).next = (runOf (s.slice sl) e.toNat).next := rfl
  have hl : ({ runOf (s.slice sl) e.toNat with cells := cells } : SceneRun).late = (runOf (s.slice sl) e.toNat).late := rfl
  have hcl : ({ runOf (s.slice sl) e.toNat with cells := cells } : SceneRun).cells = cells := rfl
  generalize ({ runOf (s.slice sl) e.toNat with cells := cells } : SceneRun) = r at hput hscene hnext hl hcl
  obtain ⟨⟨fs, k, qs, l, hf⟩, hfs, hsc, hcopy⟩ := hput
  have hrun : runOf u e.toNat = r := by
    have hself := runOf_setRun_self w r
    rw [hscene] at hself
    rw [← hself, runOf, ho.scenes_eq, hsc, runOf]
  have htabs : u.tabs = w.tabs := ho.tabs_eq.trans (by rw [hf])
  have hcount : sceneCount u e.toNat = sceneCount w e.toNat := by rw [sceneCount, sceneW_congr htabs, sceneCount]
  rw [sceneNext_goes _ (by rw [hrun, hcount, hw.count, hnext]; exact hc), hrun]
  obtain ⟨hon, hadv⟩ := onward_setRun (late := late) hw htabs hnext hscene
  obtain ⟨T, rfl⟩ := hw.frame
  obtain ⟨l', hl'⟩ := setRun_frame u (advance r late)
  rw [hl'] at hon hadv ⊢
  refine ⟨hon, by rw [hadv, advance, hcl], by rw [hadv, advance, hl], ?_⟩
  obtain ⟨rg, rfl⟩ := ho
  subst hf
  exact ⟨hcopy, hfs, rfl, rfl, rfl, fun h => hlate h, fun h => hsame h⟩

end

end Sys2Proof.Machine
end

section
/-! Proofs. Scenes: the obligation (R106, R331, R383 to R387). -/

namespace Sys2Proof.Machine

/-- The commands of scenes, each with what it takes to be posted. -/
theorem scenePosts_shows {s : State} {sl : SliceId} {v : Word} (hon : (s.slice sl).on = true) (hv : wbit v 31 = true) :
    ∀ c ∈ [(Instr.sceneArm sl v, decide (fld v 29 28 = 1) && regBit (s.slice sl) kTIM 0x410 31),
      (.sceneCancel sl v, decide (fld v 29 28 = 1) && !regBit (s.slice sl) kTIM 0x410 31), (.sceneRead sl v, decide (fld v 29 28 = 2))],
    (c.2 = true → pendBusy (s.slice sl) kTIM = false → RunsOn c.1 s sl fun y =>
      y = { s.slice sl with regs := y.regs, posted := (s.slice sl).posted ++ [(kTIM, 0x430, v)], bus := .done }
      ∧ pendBusy y kTIM = true ∧ RegsBut (s.slice sl) y [(kTIM, 0x10)])
    ∧ (c.2 = true → pendBusy (s.slice sl) kTIM = true → RunsOn c.1 s sl fun y => y = { s.slice sl with regs := y.regs, bus := .done }
      ∧ regBit y kTIM 0x10 30 = true ∧ RegsBut (s.slice sl) y ((kTIM, 0x10) :: raiseKeys kTIM 15))
    ∧ (c.2 = false → RunsOn c.1 s sl fun y => y = s.slice sl) := by
  have harm : exec (.sceneArm sl v) s = sceneCommand sl v 1 sceneStagedValid s := rfl
  have hcancel : exec (.sceneCancel sl v) s = sceneCommand sl v 1 (fun x => !sceneStagedValid x) s := rfl
  have hread : exec (.sceneRead sl v) s = sceneCommand sl v 2 (fun _ => true) s := rfl
  intro c hc
  simp only [List.mem_cons, List.not_mem_nil, or_false] at hc
  rcases hc with rfl | rfl | rfl
  · exact runsOn_sceneCommand harm hon hv rfl
  · exact runsOn_sceneCommand hcancel hon hv rfl
  · exact runsOn_sceneCommand hread hon hv (Bool.and_true _).symm

/-- Settles O51: scene commands as they are posted and as they land, then slots read, cells granted and frames placed. -/
theorem scenes : Obligations.Scenes := by
  unfold Obligations.Scenes
  intro s sl e v slot cell p cells hal x n m wd runs early fits rowKeys staged r at' act h due fetching inst late placing rest lands onward
  have hon := alive_on hal
  have hfetching : fetching → sceneFetching x m := fun hf => by simpa [sceneFetching, fetchDue] using hf
  refine ⟨scenePosts_shows hon, fun h1 hs => ⟨fun hr he hf hv => (lands_sceneArm hon hv h1 hs hr he hf).imp ?_, fun hr hv => lands_sceneArm_refused hon hv h1 hs hr⟩,
    fun h1 hs => ⟨fun hr hv => (lands_sceneCancel hon hv h1 hs hr).imp ?_, fun hr hv => (lands_sceneCancel_idle hon hv h1 hs hr).imp ?_⟩,
    fun h2 hv => lands_sceneRead hon hv h2, fun hf => ?_, fun hf ha => ⟨fun hc hm => ?_, fun hc hm => ?_, fun hc => ?_⟩,
    fun hq hserve hw hs hsc hp => ⟨fun hu hf => ?_, fun hl hm hpw => ?_, fun hl hm hpw => ?_⟩, fun hp => ?_, fun hp hslot hc => ?_,
    fun hp hslot hcells => ⟨fun hno hc => ?_, fun hno hc hone hown => ?_, fun h16 hports hone hup hsel hq hd hc => ?_⟩⟩
  · rintro y ⟨hy, h0, hrow, hreg, hbut⟩
    obtain ⟨⟨h1, h2, h3, h4, h5⟩, htabs⟩ := hrow
    exact ⟨hy, h0, ⟨h1, h2, h3, h4, h5, htabs⟩, hreg, hbut⟩
  · rintro y ⟨⟨rg, su, co, T, rfl⟩, h0, hrow, hgone, hkept⟩
    obtain ⟨⟨h1, h2, h3, h4, h5⟩, htabs⟩ := hrow
    exact ⟨rfl, h0, ⟨h1, h2, h3, h4, h5, htabs⟩, rfl, hgone, hkept⟩
  · rintro y ⟨hy, hst, h31, hrow, hreg, hbut⟩
    obtain ⟨⟨h1, h2, h3, h4, h5⟩, htabs⟩ := hrow
    exact ⟨hy, hst, h31, ⟨h1, h2, h3, h4, h5, htabs⟩, hreg, hbut⟩
  · exact runsOn_sceneFetch_idle hal fun h => hf (by simpa [sceneFetching, fetchDue] using h)
  · obtain ⟨y, hy, hframe, hread, hbut⟩ := runsOn_sceneFetch_read hal (hfetching hf) ha hc hm
    obtain ⟨hst, htabs, hrun, hothers⟩ := hread
    exact ⟨y, hy, hframe, ⟨hst, htabs, hrun, hothers⟩, hbut⟩
  · obtain ⟨y, hy, hframe, hread⟩ := runsOn_sceneFetch_unmapped hal (hfetching hf) ha hc hm
    obtain ⟨hst, htabs, hrun, hothers⟩ := hread
    exact ⟨y, hy, hframe, hst, htabs, hrun, hothers⟩
  · exact runsOn_sceneFetch_none hal (hfetching hf) ha hc
  · exact runsOn_cellRequest_granted hal hq hserve hw hs hp hu hf
  · exact runsOn_cellRequest_waits hal hq hserve hw hs hp hl hm hpw
  · exact runsOn_cellRequest_refused hal hq hserve hw hs hp hl hm hpw
  · exact runsOn_sceneFramePlace_idle hal hp
  · obtain ⟨y, hy, hframe, hst, hnext, hov, htabs⟩ := runsOn_sceneFramePlace_passed hal hp hslot hc
    exact ⟨y, hy, hframe, hst, hnext, hov, htabs⟩
  · obtain ⟨y, hy, hframe, hon, hcount, hbut⟩ := runsOn_sceneFramePlace_skipped hal hp hslot hcells hno hc
    obtain ⟨hst, hnext, hov, htabs⟩ := hon
    exact ⟨y, hy, hframe, ⟨hst, hnext, hov, htabs⟩, hcount, hbut⟩
  · exact runsOn_sceneFramePlace_last hal hp hslot hcells hno hc hone hown
  · obtain ⟨y, hy, hon, hcl, hlate, ⟨c, hall, hfrm, hlane, hvid, hmac, hlen⟩, hfs, hout, hsend, hdram, hl, hnl⟩ :=
      runsOn_sceneFramePlace_one hal hp hslot hcells h16 hports hone hup hsel hq (decide_eq_true hd) hc
    obtain ⟨hst, hnext, hov, htabs⟩ := hon
    exact ⟨y, hy, ⟨hst, hnext, hov, htabs⟩, hcl, hlate, ⟨c, _, hall, hfrm, hlane, hvid, hmac, hfs, rfl, rfl, hlen, rfl, rfl, rfl⟩, hout, hsend,
      hdram, hl, hnl⟩

end Sys2Proof.Machine
end
